-- ==== Sys2Proof/Word.lean ====
section
/-! DEFINITION. The machine's words (R7: little-endian, bit 0 least significant) and the sparse table, the one
container in which every numbered collection of State is held: rising keys, no entry equal to its default. -/

namespace Sys2Proof

abbrev Byte := BitVec 8
abbrev Word := BitVec 32
abbrev DWord := BitVec 64

/-- A numbered collection: pairs of a key and a value, keys strictly rising. -/
abbrev Sparse (α : Type) := List (Nat × α)

/-- The value at key `k`; `d` where nothing is listed. -/
def Sparse.get {α : Type} (d : α) : Sparse α → Nat → α
  | [], _ => d
  | (j, v) :: m, k => if j = k then v else Sparse.get d m k

/-- Take the entry at key `k` away. -/
def Sparse.erase {α : Type} : Sparse α → Nat → Sparse α
  | [], _ => []
  | (j, v) :: m, k => if j = k then Sparse.erase m k else (j, v) :: Sparse.erase m k

/-- List `v` at key `k`, keeping the keys rising. -/
def Sparse.insert {α : Type} : Sparse α → Nat → α → Sparse α
  | [], k, v => [(k, v)]
  | (j, w) :: m, k, v =>
    if j = k then (k, v) :: m else if k < j then (k, v) :: (j, w) :: m else (j, w) :: Sparse.insert m k v

/-- Write `v` at key `k`; writing the default takes the entry away, so that equal tables are equal lists. -/
def Sparse.set {α : Type} [DecidableEq α] (d : α) (m : Sparse α) (k : Nat) (v : α) : Sparse α :=
  if v = d then Sparse.erase m k else Sparse.insert m k v

/-- Apply `f` to the value at key `k`. -/
def Sparse.upd {α : Type} [DecidableEq α] (d : α) (m : Sparse α) (k : Nat) (f : α → α) : Sparse α :=
  Sparse.set d m k (f (Sparse.get d m k))

/-- The canonical form: keys strictly rising and no entry equal to the default. -/
def Sparse.wf {α : Type} [DecidableEq α] (d : α) : Sparse α → Bool
  | [] => true
  | [(_, v)] => !decide (v = d)
  | (j, v) :: (k, w) :: m => decide (j < k) && !decide (v = d) && Sparse.wf d ((k, w) :: m)

end Sys2Proof
end

