-- ==== Sys2Proof/Syntax.lean ====
section
/-! DEFINITION. The steps of the machine: one constructor for each row of the opcode table. The first 203 are
instruction words (R247 to R262), their arguments the fields of the word under the table's letters: e run end, k mask,
d a b registers, i immediate, o offset, s scope or scalar register, c condition or code. The others are the steps that
are no words: what engines, controllers, the front end, the host, peers and firmware do, with what the outside world or
firmware chooses in each as arguments. -/

namespace Sys2Proof

inductive Instr where
  | fadd (e : Bool) (k : BitVec 3) (d : BitVec 7) (a : BitVec 7) (b : BitVec 7)
  | fsub (e : Bool) (k : BitVec 3) (d : BitVec 7) (a : BitVec 7) (b : BitVec 7)
  | fmul (e : Bool) (k : BitVec 3) (d : BitVec 7) (a : BitVec 7) (b : BitVec 7)
  | ffma (e : Bool) (k : BitVec 3) (d : BitVec 7) (a : BitVec 7) (b : BitVec 7)
  | fmin (e : Bool) (k : BitVec 3) (d : BitVec 7) (a : BitVec 7) (b : BitVec 7)
  | fmax (e : Bool) (k : BitVec 3) (d : BitVec 7) (a : BitVec 7) (b : BitVec 7)
  | fcmp (e : Bool) (k : BitVec 3) (m : BitVec 3) (c : BitVec 4) (a : BitVec 7) (b : BitVec 7)
  | fneg (e : Bool) (k : BitVec 3) (d : BitVec 7) (a : BitVec 7)
  | fabs (e : Bool) (k : BitVec 3) (d : BitVec 7) (a : BitVec 7)
  | fsqrt (e : Bool) (k : BitVec 3) (d : BitVec 7) (a : BitVec 7)
  | frcp (e : Bool) (k : BitVec 3) (d : BitVec 7) (a : BitVec 7)
  | frsqrt (e : Bool) (k : BitVec 3) (d : BitVec 7) (a : BitVec 7)
  | fexp2 (e : Bool) (k : BitVec 3) (d : BitVec 7) (a : BitVec 7)
  | flog2 (e : Bool) (k : BitVec 3) (d : BitVec 7) (a : BitVec 7)
  | fsin (e : Bool) (k : BitVec 3) (d : BitVec 7) (a : BitVec 7)
  | fcos (e : Bool) (k : BitVec 3) (d : BitVec 7) (a : BitVec 7)
  | frint (e : Bool) (k : BitVec 3) (d : BitVec 7) (a : BitVec 7)
  | ffloor (e : Bool) (k : BitVec 3) (d : BitVec 7) (a : BitVec 7)
  | fceil (e : Bool) (k : BitVec 3) (d : BitVec 7) (a : BitVec 7)
  | ftrunc (e : Bool) (k : BitVec 3) (d : BitVec 7) (a : BitVec 7)
  | fclass (e : Bool) (k : BitVec 3) (d : BitVec 7) (a : BitVec 7)
  | sel (e : Bool) (k : BitVec 3) (d : BitVec 7) (a : BitVec 7) (b : BitVec 7)
  | hfma2 (e : Bool) (k : BitVec 3) (d : BitVec 7) (a : BitVec 7) (b : BitVec 7)
  | bfma2 (e : Bool) (k : BitVec 3) (d : BitVec 7) (a : BitVec 7) (b : BitVec 7)
  | ldAcq (e : Bool) (k : BitVec 3) (d : BitVec 7) (a : BitVec 7) (z : BitVec 3) (s : BitVec 3)
  | stRel (e : Bool) (k : BitVec 3) (d : BitVec 7) (a : BitVec 7) (z : BitVec 3) (s : BitVec 3)
  | pfx (e : Bool) (k : BitVec 3) (a : BitVec 7) (b : BitVec 4) (l : BitVec 3)
  | iadd (e : Bool) (k : BitVec 3) (d : BitVec 7) (a : BitVec 7) (b : BitVec 7)
  | isub (e : Bool) (k : BitVec 3) (d : BitVec 7) (a : BitVec 7) (b : BitVec 7)
  | imul (e : Bool) (k : BitVec 3) (d : BitVec 7) (a : BitVec 7) (b : BitVec 7)
  | imulh (e : Bool) (k : BitVec 3) (d : BitVec 7) (a : BitVec 7) (b : BitVec 7)
  | umulh (e : Bool) (k : BitVec 3) (d : BitVec 7) (a : BitVec 7) (b : BitVec 7)
  | imad (e : Bool) (k : BitVec 3) (d : BitVec 7) (a : BitVec 7) (b : BitVec 7)
  | andLane (e : Bool) (k : BitVec 3) (d : BitVec 7) (a : BitVec 7) (b : BitVec 7)
  | orLane (e : Bool) (k : BitVec 3) (d : BitVec 7) (a : BitVec 7) (b : BitVec 7)
  | xorLane (e : Bool) (k : BitVec 3) (d : BitVec 7) (a : BitVec 7) (b : BitVec 7)
  | shlLane (e : Bool) (k : BitVec 3) (d : BitVec 7) (a : BitVec 7) (b : BitVec 7)
  | shrLane (e : Bool) (k : BitVec 3) (d : BitVec 7) (a : BitVec 7) (b : BitVec 7)
  | sraLane (e : Bool) (k : BitVec 3) (d : BitVec 7) (a : BitVec 7) (b : BitVec 7)
  | imin (e : Bool) (k : BitVec 3) (d : BitVec 7) (a : BitVec 7) (b : BitVec 7)
  | imax (e : Bool) (k : BitVec 3) (d : BitVec 7) (a : BitVec 7) (b : BitVec 7)
  | umin (e : Bool) (k : BitVec 3) (d : BitVec 7) (a : BitVec 7) (b : BitVec 7)
  | umax (e : Bool) (k : BitVec 3) (d : BitVec 7) (a : BitVec 7) (b : BitVec 7)
  | icmp (e : Bool) (k : BitVec 3) (m : BitVec 3) (c : BitVec 4) (a : BitVec 7) (b : BitVec 7)
  | ineg (e : Bool) (k : BitVec 3) (d : BitVec 7) (a : BitVec 7)
  | iabs (e : Bool) (k : BitVec 3) (d : BitVec 7) (a : BitVec 7)
  | notLane (e : Bool) (k : BitVec 3) (d : BitVec 7) (a : BitVec 7)
  | popcLane (e : Bool) (k : BitVec 3) (d : BitVec 7) (a : BitVec 7)
  | clzLane (e : Bool) (k : BitVec 3) (d : BitVec 7) (a : BitVec 7)
  | ctzLane (e : Bool) (k : BitVec 3) (d : BitVec 7) (a : BitVec 7)
  | brev (e : Bool) (k : BitVec 3) (d : BitVec 7) (a : BitVec 7)
  | bswap (e : Bool) (k : BitVec 3) (d : BitVec 7) (a : BitVec 7)
  | sext8 (e : Bool) (k : BitVec 3) (d : BitVec 7) (a : BitVec 7)
  | sext16 (e : Bool) (k : BitVec 3) (d : BitVec 7) (a : BitVec 7)
  | zext8 (e : Bool) (k : BitVec 3) (d : BitVec 7) (a : BitVec 7)
  | zext16 (e : Bool) (k : BitVec 3) (d : BitVec 7) (a : BitVec 7)
  | laneid (e : Bool) (k : BitVec 3) (d : BitVec 7)
  | bfx (e : Bool) (k : BitVec 3) (d : BitVec 7) (a : BitVec 7) (b : BitVec 7)
  | bfi (e : Bool) (k : BitVec 3) (d : BitVec 7) (a : BitVec 7) (b : BitVec 7)
  | iaddi (e : Bool) (k : BitVec 3) (d : BitVec 7) (a : BitVec 7) (i : BitVec 7)
  | imuli (e : Bool) (k : BitVec 3) (d : BitVec 7) (a : BitVec 7) (i : BitVec 7)
  | andiLane (e : Bool) (k : BitVec 3) (d : BitVec 7) (a : BitVec 7) (i : BitVec 7)
  | oriLane (e : Bool) (k : BitVec 3) (d : BitVec 7) (a : BitVec 7) (i : BitVec 7)
  | xoriLane (e : Bool) (k : BitVec 3) (d : BitVec 7) (a : BitVec 7) (i : BitVec 7)
  | shliLane (e : Bool) (k : BitVec 3) (d : BitVec 7) (a : BitVec 7) (i : BitVec 5)
  | shriLane (e : Bool) (k : BitVec 3) (d : BitVec 7) (a : BitVec 7) (i : BitVec 5)
  | sraiLane (e : Bool) (k : BitVec 3) (d : BitVec 7) (a : BitVec 7) (i : BitVec 5)
  | srni (e : Bool) (k : BitVec 3) (d : BitVec 7) (a : BitVec 7) (i : BitVec 5)
  | add2s (e : Bool) (k : BitVec 3) (d : BitVec 7) (a : BitVec 7) (b : BitVec 7)
  | sub2s (e : Bool) (k : BitVec 3) (d : BitVec 7) (a : BitVec 7) (b : BitVec 7)
  | dot2S (e : Bool) (k : BitVec 3) (d : BitVec 7) (a : BitVec 7) (b : BitVec 6)
  | dot2U (e : Bool) (k : BitVec 3) (d : BitVec 7) (a : BitVec 7) (b : BitVec 6)
  | dot4S (e : Bool) (k : BitVec 3) (d : BitVec 7) (a : BitVec 7) (b : BitVec 6)
  | dot4U (e : Bool) (k : BitVec 3) (d : BitVec 7) (a : BitVec 7) (b : BitVec 6)
  | dot8S (e : Bool) (k : BitVec 3) (d : BitVec 7) (a : BitVec 7) (b : BitVec 6)
  | dot8U (e : Bool) (k : BitVec 3) (d : BitVec 7) (a : BitVec 7) (b : BitVec 6)
  | fdot4E4m3 (e : Bool) (k : BitVec 3) (d : BitVec 7) (a : BitVec 7) (b : BitVec 6)
  | fdot4E5m2 (e : Bool) (k : BitVec 3) (d : BitVec 7) (a : BitVec 7) (b : BitVec 6)
  | fdot8 (e : Bool) (k : BitVec 3) (d : BitVec 7) (a : BitVec 7) (b : BitVec 6)
  | cvt (e : Bool) (k : BitVec 3) (d : BitVec 7) (a : BitVec 7) (c : BitVec 5) (r : BitVec 2)
  | slide (e : Bool) (k : BitVec 3) (d : BitVec 7) (a : BitVec 7) (f : BitVec 2) (g : BitVec 1) (n : BitVec 4)
  | shfl (e : Bool) (k : BitVec 3) (d : BitVec 7) (a : BitVec 7) (b : BitVec 7)
  | tosLane (e : Bool) (s : BitVec 6) (a : BitVec 7) (n : BitVec 5)
  | tosReduce (e : Bool) (k : BitVec 3) (s : BitVec 6) (a : BitVec 7) (f : BitVec 7)
  | tov (e : Bool) (k : BitVec 3) (d : BitVec 7) (s : BitVec 6)
  | scan (e : Bool) (k : BitVec 3) (d : BitVec 7) (a : BitVec 7) (f : BitVec 7)
  | ld (e : Bool) (k : BitVec 3) (d : BitVec 7) (a : BitVec 7) (b : BitVec 4) (z : BitVec 3)
  | st (e : Bool) (k : BitVec 3) (d : BitVec 7) (a : BitVec 7) (b : BitVec 4) (z : BitVec 3)
  | atom (e : Bool) (k : BitVec 3) (d : BitVec 7) (a : BitVec 7) (o : BitVec 4) (s : BitVec 3)
  | red (e : Bool) (k : BitVec 3) (d : BitVec 7) (a : BitVec 7) (o : BitVec 4) (s : BitVec 3)
  | mma (e : Bool) (k : BitVec 3) (a : BitVec 7) (x : BitVec 6) (f : BitVec 3) (r : BitVec 1) (l : BitVec 1) (z : BitVec 1) (c : BitVec 2)
  | accxRd (e : Bool) (k : BitVec 3) (a : BitVec 7) (x : BitVec 6) (w : BitVec 2)
  | accxWr (e : Bool) (k : BitVec 3) (a : BitVec 7) (x : BitVec 6) (w : BitVec 2)
  | accxRdz (e : Bool) (k : BitVec 3) (a : BitVec 7) (x : BitVec 6) (w : BitVec 2)
  | nop
  | addScalar (e : Bool) (d : BitVec 6) (a : BitVec 6) (b : BitVec 6)
  | subScalar (e : Bool) (d : BitVec 6) (a : BitVec 6) (b : BitVec 6)
  | mulScalar (e : Bool) (d : BitVec 6) (a : BitVec 6) (b : BitVec 6)
  | mulh (e : Bool) (d : BitVec 6) (a : BitVec 6) (b : BitVec 6)
  | mulhu (e : Bool) (d : BitVec 6) (a : BitVec 6) (b : BitVec 6)
  | andScalar (e : Bool) (d : BitVec 6) (a : BitVec 6) (b : BitVec 6)
  | orScalar (e : Bool) (d : BitVec 6) (a : BitVec 6) (b : BitVec 6)
  | xorScalar (e : Bool) (d : BitVec 6) (a : BitVec 6) (b : BitVec 6)
  | shlScalar (e : Bool) (d : BitVec 6) (a : BitVec 6) (b : BitVec 6)
  | shrScalar (e : Bool) (d : BitVec 6) (a : BitVec 6) (b : BitVec 6)
  | sraScalar (e : Bool) (d : BitVec 6) (a : BitVec 6) (b : BitVec 6)
  | minScalar (e : Bool) (d : BitVec 6) (a : BitVec 6) (b : BitVec 6)
  | maxScalar (e : Bool) (d : BitVec 6) (a : BitVec 6) (b : BitVec 6)
  | minu (e : Bool) (d : BitVec 6) (a : BitVec 6) (b : BitVec 6)
  | maxu (e : Bool) (d : BitVec 6) (a : BitVec 6) (b : BitVec 6)
  | div (e : Bool) (d : BitVec 6) (a : BitVec 6) (b : BitVec 6)
  | divu (e : Bool) (d : BitVec 6) (a : BitVec 6) (b : BitVec 6)
  | rem (e : Bool) (d : BitVec 6) (a : BitVec 6) (b : BitVec 6)
  | remu (e : Bool) (d : BitVec 6) (a : BitVec 6) (b : BitVec 6)
  | popcScalar (e : Bool) (d : BitVec 6) (a : BitVec 6)
  | clzScalar (e : Bool) (d : BitVec 6) (a : BitVec 6)
  | ctzScalar (e : Bool) (d : BitVec 6) (a : BitVec 6)
  | cmp (e : Bool) (c : BitVec 4) (n : BitVec 2) (a : BitVec 6) (b : BitVec 6)
  | addi (e : Bool) (d : BitVec 6) (a : BitVec 6) (i : BitVec 12)
  | andiScalar (e : Bool) (d : BitVec 6) (a : BitVec 6) (i : BitVec 12)
  | oriScalar (e : Bool) (d : BitVec 6) (a : BitVec 6) (i : BitVec 12)
  | xoriScalar (e : Bool) (d : BitVec 6) (a : BitVec 6) (i : BitVec 12)
  | shliScalar (e : Bool) (d : BitVec 6) (a : BitVec 6) (i : BitVec 5)
  | shriScalar (e : Bool) (d : BitVec 6) (a : BitVec 6) (i : BitVec 5)
  | sraiScalar (e : Bool) (d : BitVec 6) (a : BitVec 6) (i : BitVec 5)
  | cmpi (e : Bool) (c : BitVec 4) (n : BitVec 2) (a : BitVec 6) (i : BitVec 12)
  | li (e : Bool) (d : BitVec 6) (i : BitVec 18)
  | lui (e : Bool) (d : BitVec 6) (i : BitVec 14)
  | mand (e : Bool) (d : BitVec 3) (a : BitVec 3) (b : BitVec 3)
  | mor (e : Bool) (d : BitVec 3) (a : BitVec 3) (b : BitVec 3)
  | mxor (e : Bool) (d : BitVec 3) (a : BitVec 3) (b : BitVec 3)
  | mandn (e : Bool) (d : BitVec 3) (a : BitVec 3) (b : BitVec 3)
  | mnot (e : Bool) (d : BitVec 3) (a : BitVec 3)
  | mset (e : Bool) (d : BitVec 3) (a : BitVec 6)
  | mget (e : Bool) (d : BitVec 6) (a : BitVec 3)
  | mpopc (e : Bool) (d : BitVec 6) (a : BitVec 3)
  | mfirst (e : Bool) (d : BitVec 6) (a : BitVec 3)
  | b (e : Bool) (o : BitVec 20)
  | bc (e : Bool) (c : BitVec 4) (o : BitVec 20)
  | bm (e : Bool) (z : BitVec 1) (m : BitVec 3) (o : BitVec 19)
  | bmG (e : Bool) (z : BitVec 1) (m : BitVec 3) (o : BitVec 19)
  | bxPreq (e : Bool) (p : BitVec 1) (o : BitVec 15)
  | bxD (e : Bool) (p : BitVec 1) (n : BitVec 3) (f : BitVec 2) (o : BitVec 15)
  | call (e : Bool) (o : BitVec 20)
  | jr (e : Bool) (a : BitVec 6)
  | couple (e : Bool)
  | exit (e : Bool)
  | wait (e : Bool) (l : BitVec 6) (s : BitVec 6) (c : BitVec 6) (t : BitVec 6)
  | waitr (e : Bool) (a : BitVec 6) (c : BitVec 2)
  | fence (e : Bool) (s : BitVec 3) (q : BitVec 2)
  | xbegin (e : Bool) (s : BitVec 3) (o : BitVec 20)
  | xbeginNoTarget (e : Bool) (s : BitVec 3)
  | xelse (e : Bool) (o : BitVec 20)
  | xend (e : Bool)
  | xretry (e : Bool)
  | xabort (e : Bool) (c : BitVec 8)
  | xstat (e : Bool) (d : BitVec 6)
  | barInit (e : Bool) (a : BitVec 6) (i : BitVec 6)
  | barArrive (e : Bool) (d : BitVec 6) (i : BitVec 6)
  | barWait (e : Bool) (a : BitVec 6) (i : BitVec 6)
  | barSync (e : Bool) (d : BitVec 6) (i : BitVec 6)
  | barRead (e : Bool) (d : BitVec 6) (i : BitVec 6)
  | bufArm (e : Bool) (a : BitVec 6) (h : BitVec 6)
  | bufArrive (e : Bool) (a : BitVec 6) (h : BitVec 6)
  | bufArriveCl (e : Bool) (d : BitVec 6) (a : BitVec 6) (h : BitVec 6)
  | bufWait (e : Bool) (a : BitVec 6) (h : BitVec 6)
  | bufRel (e : Bool) (h : BitVec 6)
  | bufRgn (e : Bool) (a : BitVec 6) (h : BitVec 6)
  | bufStat (e : Bool) (d : BitVec 6) (h : BitVec 6)
  | bufCount (e : Bool) (d : BitVec 6) (h : BitVec 6)
  | cpy (e : Bool) (d : BitVec 6) (a : BitVec 6)
  | tidSet (e : Bool) (d : BitVec 6) (a : BitVec 6) (t : BitVec 6)
  | tidRd (e : Bool) (d : BitVec 6) (k : BitVec 3) (t : BitVec 6)
  | tidInv (e : Bool) (t : BitVec 6)
  | strBind (e : Bool) (n : BitVec 6) (t : BitVec 6)
  | strBindE (e : Bool) (n : BitVec 6) (t : BitVec 6)
  | strUnbind (e : Bool) (n : BitVec 6)
  | strPeek (e : Bool) (d : BitVec 6) (n : BitVec 6)
  | strSeek (e : Bool) (n : BitVec 6) (a : BitVec 6)
  | resLoad (e : Bool) (d : BitVec 6) (a : BitVec 6) (b : BitVec 6)
  | resPin (e : Bool) (d : BitVec 6) (a : BitVec 6)
  | resUnpin (e : Bool) (d : BitVec 6) (a : BitVec 6)
  | resRevoke (e : Bool) (d : BitVec 6) (a : BitVec 6)
  | resStat (e : Bool) (d : BitVec 6) (a : BitVec 6)
  | resUse (e : Bool) (d : BitVec 6)
  | accAlloc (e : Bool) (d : BitVec 6) (a : BitVec 6)
  | accFree (e : Bool) (a : BitVec 6)
  | accZero (e : Bool) (a : BitVec 6)
  | collPost (e : Bool) (d : BitVec 6) (a : BitVec 6)
  | collCancel (e : Bool) (d : BitVec 6) (a : BitVec 6)
  | collStat (e : Bool) (d : BitVec 6) (a : BitVec 6)
  | trig (e : Bool)
  | ldsB32 (e : Bool) (d : BitVec 6) (a : BitVec 6) (i : BitVec 12)
  | ldsB64 (e : Bool) (d : BitVec 6) (a : BitVec 6) (i : BitVec 12)
  | stsB32 (e : Bool) (d : BitVec 6) (a : BitVec 6) (i : BitVec 12)
  | stsB64 (e : Bool) (d : BitVec 6) (a : BitVec 6) (i : BitVec 12)
  | satom (e : Bool) (d : BitVec 6) (a : BitVec 6) (b : BitVec 6) (o : BitVec 3) (p : BitVec 3)
  | sysrd (e : Bool) (d : BitVec 6) (i : BitVec 12)
  | syswr (e : Bool) (a : BitVec 6) (i : BitVec 12)
  | trap (e : Bool) (i : BitVec 18)
  | brk (e : Bool) (t : BitVec 16)
  | rte (e : Bool)
  | yield (e : Bool)
  /-- R87: A syswr to MEMLOCQH performs a placement query into MEMLOCR. -/
  | memlocQuery (e : Bool) (a : BitVec 6)
  /-- R234: A syswr to FMODE changes the rounding mode for later instructions. -/
  | fmodeWrite (e : Bool) (a : BitVec 6)
  /-- R245: A syswr to SATF clears flags in issue order. -/
  | satfClear (e : Bool) (a : BitVec 6)
  /-- R409: A trap-level write to RQDATA edits or drops a replay entry. -/
  | rqdataWrite (e : Bool) (a : BitVec 6)
  /-- R400: At a run boundary a quarter chooses a ready group and issues a path set. -/
  | groupSelect (site : Nat)
  /-- R37: A queued walk is granted an engine and walks the tables. -/
  | walkEngineGrant (die : Nat)
  /-- R40: A host translation completion, for 2^log2 bytes at the host address that it grants, or none, is entered in the L2 TLB. -/
  | atsTranslationCompletion (fn asid : Nat) (ioPage : Nat) (log2 : Nat) (grant : Option Nat) (r w : Bool)
  /-- R40: A host invalidate request is completed under the invalidation rule. -/
  | atsInvalidateRequest (fn : Nat) (base len : Nat)
  /-- R40: A host page response releases the replay of a kind-2 fault. -/
  | pageResponse (fn : Nat) (ioPage : Nat) (ok : Bool)
  /-- R169: Data or acknowledgement of a lane or scalar access returns and the lane finishes or faults. -/
  | memoryAccessCompletion (uid grp : Nat)
  /-- R47: A stalled replayable record is posted once the free count exceeds two. -/
  | stalledRecordPost (part : Nat)
  /-- R46: A host write to TQHEAD is taken only within the ring bounds. -/
  | tqheadWrite (part : Nat) (v : Word)
  /-- R47: A TQCTL write; clearing EN fails every stalled producer. -/
  | tqctlWrite (part : Nat) (v : Word)
  /-- R213: A commit's write lock is granted; validation and writes follow. -/
  | commitLockGrant (uid grp : Nat)
  /-- R220: An overflowed sleeper is woken 4 µs after sleeping. -/
  | overflowWake (uid grp : Nat)
  /-- R133: A read request is served at home or proxy, filling from the stripe on a miss. -/
  | homeSliceRead (die dpa vdev cls : Nat)
  /-- R65: A store or writeback is merged at home, proxies invalidated and stripe kept consistent. -/
  | homeSliceWrite (die dpa vdev cls n : Nat) (v : DWord)
  /-- R77: An atomic or reduction is performed at the admitting home slice. -/
  | homeSliceAtomic (die dpa vdev : Nat) (op : BitVec 4) (x y : DWord)
  /-- R76: A MOVED reply updates the cadastre cache and replays the request at the new home. -/
  | moved (die parcel : Nat)
  /-- R68: A write of an element descriptor drops that element. -/
  | rsdrop (v : Word)
  /-- R72: The engine writes a target layout and enters COPYING, or refuses it. -/
  | resurveyTakeParcel (die frame : Nat)
  /-- R73: One line is copied to the moved position and CURSOR advances. -/
  | resurveyLineCopy (die : Nat)
  /-- R75: Step 1: the old home stops admitting and waits for admitted commits. -/
  | parcelSwitch (die : Nat)
  /-- R75: After commits drain, steps 2 to 5 complete the switch. -/
  | switchDrainComplete (die : Nat)
  /-- R112: Firmware requests the move of one parcel to retire a frame. -/
  | singleParcelMove (parcel pos : Nat)
  /-- R94: A read packet is served by the base die. -/
  | baseDieRead (stack : Nat) (hdr : DWord)
  /-- R94: A write packet stores a column with fresh CHK. -/
  | baseDieWrite (stack : Nat) (hdr : DWord) (data : BitVec 256)
  /-- R95: A masked write performs a read-modify-write returning prior bytes. -/
  | baseDieMaskedWrite (stack : Nat) (hdr : DWord) (be : Word) (data : BitVec 256)
  /-- R96: Refresh-control OP 0 sets the refresh multiplier. -/
  | refreshRate (stack : Nat) (hdr : DWord)
  /-- R96: Refresh-control OP 1 requests self-refresh entry. -/
  | selfRefreshEntryRequest (stack : Nat) (hdr : DWord)
  /-- R96: Refresh-control OP 2 requests self-refresh exit. -/
  | selfRefreshExitRequest (stack : Nat) (hdr : DWord)
  /-- R96: Refresh-control OP 3 refreshes the two adjacent rows. -/
  | neighbourRefresh (stack : Nat) (hdr : DWord)
  /-- R91: A reply packet frees its tag and delivers a column to the home slice. -/
  | baseDieReply (stack idx : Nat)
  /-- R97: A tag outstanding 20 µs is timed out and its pseudo-channel dropped. -/
  | tagTimeout (stack die p tag : Nat)
  /-- R99: Every 10 ns each bucket is refilled up to DEPTH. -/
  | tokenRefill
  /-- R98: A due refresh is issued ahead of requests. -/
  | refreshDue (stack p : Nat)
  /-- R102: The 32 ms window ends and activation counts clear. -/
  | hotRowWindowEnd (stack : Nat)
  /-- R105: The idle timer expires and self-refresh entry is issued. -/
  | selfRefreshTimerExpiry (stack p : Nat)
  /-- R105: Entry completes after 20 ns and the channel is in SELFREF. -/
  | selfRefreshEntryComplete (stack p : Nat)
  /-- R105: After 250 ns held requests are served. -/
  | selfRefreshExitComplete (stack p : Nat)
  /-- R107: The perambulator reads and decodes the next line. -/
  | perambulatorLineRead (die : Nat)
  /-- R111: Row-log entries older than the window are discarded. -/
  | rowLogExpiry (stack : Nat)
  /-- R118: Mailbox command 0x01 trains the stack. -/
  | mbxTrain (stack : Nat) (fail : Word) (linkErr : Bool)
  /-- R112: Mailbox command 0x02 performs a post-package row repair. -/
  | mbxRowRepair (stack : Nat)
  /-- R116: Mailbox command 0x03 sets the refresh multiplier. -/
  | mbxSetRefresh (stack : Nat)
  /-- R116: Mailbox command 0x04 returns a row-log entry. -/
  | mbxReadRowLog (stack : Nat)
  /-- R116: Mailbox command 0x05 returns repair rows left. -/
  | mbxRepairRowsLeft (stack : Nat)
  /-- R110: A firmware write clears a corrected-error counter. -/
  | cecntWrite (index : Nat)
  /-- R140: An arrival on the cluster network updates a buffer entry. -/
  | bufferArrival (cluster : Nat)
  /-- R350: A ring command issues when its locks and source handle allow. -/
  | copyIssue (uid : Nat)
  /-- R352: The last arrival is sent, the slot frees and cp falls. -/
  | copyComplete (uid slot : Nat)
  /-- R361: Every cell of a fill is written and the slot becomes RESIDENT. -/
  | residencyFillComplete (eng slot : Nat)
  /-- R398: The free engine grants one eligible reservation entry and checks its handle. -/
  | engineGrant (eng : Nat)
  /-- R153: The scrub finishes and CSCRUB.DONE is set. -/
  | scrubComplete (core : Nat)
  /-- R381: A host notify write announces ring commands. -/
  | notify (fn q : Nat) (v : Word)
  /-- R382: A QCTL write; EN 0 to 1 resets the queue. -/
  | qctlWrite (fn q : Nat) (v : Word)
  /-- R385: Command NOP completes at once. -/
  | nopCommand (fn q : Nat)
  /-- R390: Reads and checks a launch graph and starts its root nodes. -/
  | launch (fn q : Nat)
  /-- R385: Runs a buffer of commands as if in the ring. -/
  | indirect (fn q : Nat)
  /-- R385: Writes a value as a pod-scope release. -/
  | signal (fn q : Nat)
  /-- R385: Waits until a word equals a value. -/
  | waiteq (fn q : Nat)
  /-- R386: Completes after every earlier command and discards prefetch. -/
  | qfence (fn q : Nat)
  /-- R38: Invalidates stage-1 translations by ASID and range. -/
  | invalStage1 (fn q : Nat)
  /-- R38: Invalidates stage-2 translations by PPA range. -/
  | invalStage2 (fn q : Nat)
  /-- R38: Invalidates all translations of a partition. -/
  | invalPartition (fn q : Nat)
  /-- R50: Releases held entries, fetches and transfers with SEQ up to N. -/
  | replayRetry (fn q : Nat)
  /-- R50: Delivers PROT to held entries with SEQ up to N. -/
  | replayFail (fn q : Nat)
  /-- R394: Installs a partition descriptor and creates its key. -/
  | partcfg (fn q : Nat)
  /-- R385: Aborts every team of a partition and scrubs its cores. -/
  | partrst (fn q : Nat)
  /-- R389: A team is admitted, its arguments written and its groups started. -/
  | teamAdmission (launch core : Nat)
  /-- R395: A quantum ends and a world switch raises PREQ. -/
  | worldSwitchQuantumExpiry (part : Nat)
  /-- R477: A plug-in run over 20 µs disables it. -/
  | pluginTimeout (part : Nat)
  /-- R417: LEFT reaches zero and unstopped groups take PSAVE. -/
  | psaveDeadlineExpiry (uid : Nat)
  /-- R418: A stopped team's context is saved to the shadow store. -/
  | contextSave (uid : Nat) (evict : List Nat)
  /-- R487: A saved team is restored on a core with room. -/
  | contextRestore (uid core : Nat)
  /-- R396: Every 100 µs the border controller measures SHARE. -/
  | shareMeasurement
  /-- R427: A host read through BAR4 is translated and served. -/
  | hostBar4Read (fn off n : Nat)
  /-- R427: A host posted write through BAR4: its bytes, and whether it carries the Relaxed Ordering attribute (R188). -/
  | hostBar4Write (fn off n : Nat) (v : BitVec 4096 × Bool)
  /-- R186: A host AtomicOp performed at the home slice. -/
  | hostAtomicop (fn off n : Nat) (op : BitVec 4) (x y : DWord)
  /-- R426: FLR disables a virtual function's queues or resets the device. -/
  | functionLevelReset (fn : Nat)
  /-- R432: An inbound peer read is checked and served. -/
  | ualinkInboundRead (src tag off n : Nat)
  /-- R190: An inbound peer write is applied once and completed. -/
  | ualinkInboundWrite (src tag off n : Nat) (v : BitVec 2048)
  /-- R191: An inbound peer atomic is applied once and completed. -/
  | ualinkInboundAtomic (src tag off n : Nat) (op : BitVec 4) (x y : DWord)
  /-- R41: A Cavik peer queries a stage-2 translation. -/
  | peerTranslationQuery (src off : Nat)
  /-- R191: A cached reply expires after 1 ms, freeing a waiting request. -/
  | replayReplyCacheExpiry (src : Nat)
  /-- R433: A completion of an outbound peer request arrives. -/
  | ualinkCompletion (dest tag : Nat) (ok : Bool) (v : BitVec 2048)
  /-- R433: An outbound request reaches 1 ms and the peer becomes DOWN. -/
  | peerRequestTimeout (dest : Nat)
  /-- R438: A member's ASSIGN is numbered by the primary. -/
  | assignNum (die comm : Nat) (src : BitVec 12) (term tag : Word)
  /-- R440: A member learns the number of a pair. `frm` is the source of a message, and its term. -/
  | numbered (die comm : Nat) (frm : BitVec 12 × Word) (tag n : Word)
  /-- R441: The primary decides CANCELLED or RUNNING. -/
  | cancel (die comm : Nat) (src : BitVec 12) (term tag : Word)
  /-- R441: The cancelling member completes coll.cancel. -/
  | reply (die comm : Nat) (frm : BitVec 12 × Word) (tag : Word) (status : Nat)
  /-- R441: A member marks a number a hole. -/
  | hole (die comm : Nat) (frm : BitVec 12 × Word) (tag : Option Word) (n : Word)
  /-- R440: The primary records a member ready for a number. -/
  | ready (die comm : Nat) (src : BitVec 12) (term n : Word)
  /-- R440: A member begins data movement of a number. -/
  | go (die comm : Nat) (frm : BitVec 12 × Word) (n : Word)
  /-- R438: The primary retires a number when all members report it. -/
  | done (die comm : Nat) (src : BitVec 12) (term n : Word)
  /-- R442: A member adopts the new term and reports its state. -/
  | collect (die comm : Nat) (frm : BitVec 12 × Word)
  /-- R442: The standby merges reports and becomes primary. -/
  | report (die comm : Nat) (src : BitVec 12) (term next : Word) (known : List (Word × Word)) (sent gone posted : List Word)
  /-- R442: A member asks the standby for failover. -/
  | failoverRequest (die comm : Nat) (frm : BitVec 12 × Word)
  /-- R442: An unanswered sequencer message or COLLECT reaches 1 ms. -/
  | sequencerTimeout (die comm : Nat)
  /-- R378: All local bytes written; DBUF gets its arrival. -/
  | collectiveLocalCompletion (die comm : Nat)
  /-- R465: Firmware runs a test kernel on an idle core: its image, or the results of the one that runs there. -/
  | iftRun (core : Nat) (given : List Byte)
  /-- R469: Writing a non-zero ACTION arms the link injector. -/
  | linkInjectorArm (port : Nat) (v : Word)
  /-- R469: The armed injector acts on its target flit and clears. -/
  | linkInjection (port : Nat)
  /-- R472: Each sample period a quarter writes a stall-sample record. -/
  | stallSample (site : Nat)
  /-- R470: A TRHEAD write is taken within ring bounds. -/
  | trheadWrite (part : Nat) (v : Word)
  /-- R473: A GO write raises BRK at each named group's next instruction. -/
  | dbgstop (part : Nat) (v : Word)
  /-- R475: Claims a free counter bank. -/
  | ctrClaim (fn part bank : Nat)
  /-- R475: Releases and zeroes an owned counter bank. -/
  | ctrRelease (fn part bank : Nat)
  /-- R475: Selects a counter's event and recomputes the digest. -/
  | ctrselWrite (fn part bank k : Nat) (v : Word)
  /-- R476: Selects a capture source and empties the unit. -/
  | capselWrite (fn part bank : Nat) (v : Word)
  /-- R477: Firmware command 0x01 verifies and loads a plug-in. -/
  | fwLoadPlugin
  /-- R478: Firmware command 0x02 unloads a plug-in. -/
  | fwUnloadPlugin
  /-- R478: Firmware command 0x03 installs a communicator entry. -/
  | fwInstallCommunicator
  /-- R478: Firmware command 0x04 removes a communicator entry. -/
  | fwRemoveCommunicator
  /-- R478: Firmware command 0x05 writes a peer access entry. -/
  | fwWritePeerAccess
  /-- R433: Firmware command 0x06 re-admits a DOWN peer. -/
  | fwReadmitPeer
  /-- R442: Firmware command 0x07 orders sequencer failover. -/
  | fwOrderFailover
  /-- R480: Firmware command 0x08 writes a signed attestation report. -/
  | fwAttestationReport
  /-- R479: Writes the package of a quiescent partition and resets it. -/
  | exportPart
  /-- R479: Installs a package into an installed partition. -/
  | importPart
  /-- R479: Saves and holds all teams of a partition. -/
  | hold
  /-- R479: Ends a hold and re-admits saved teams. -/
  | release
  /-- R430: Firmware command 0x0D stores the accelerator identifier. -/
  | fwStoreAccid
  /-- R481: Reset starts the five start-up steps. -/
  | startUp (failed : Word) (romFault : Bool)
  /-- R482: Each 1 ms the power averages and peaks update. -/
  | pwrmonUpdate (i avg : Nat)
  /-- R482: A write clears PEAK. -/
  | pwrmonWrite (i : Nat)
  /-- R483: A die at its junction limit inserts idle slots; a stack is dropped. -/
  | thermalLimit (isStack : Bool) (i : Nat)
  /-- R9: A write to a register with no row of its own, under its access codes. -/
  | registerWrite (port : Nat) (bar : Nat) (off : Nat) (v : Word)
  /-- R429: A UALink port's link goes down, and outbound requests stop being spread over that port. -/
  | ualinkLinkDown (port : Nat)
  /-- R429: A UALink port's link comes out of training, and the port joins the set over which outbound requests are spread. -/
  | ualinkLinkUp (port : Nat)
  /-- R113: The base-die link or the management core of a stack fails in operation, which is the cause for dropping the whole stack. -/
  | baseDieLinkFailure (stack : Nat)
deriving DecidableEq, Repr

end Sys2Proof
end

