-- ==== Sys2Proof/WellFormed.lean ====
section
/-! DEFINITION. Which words of a known opcode are instructions (R265): reserved values, pairs, multiples, and the lane
registers a word names, which decode holds against the role's budget (R197, R266). -/

namespace Sys2Proof

/-- R250: a pair is named by its even register. -/
def evenReg {w : Nat} (r : BitVec w) : Bool := r.toNat % 2 == 0
/-- R162: scope codes 5 to 7 are reserved. -/
def scopeOk (s : BitVec 3) : Bool := decide (s.toNat < 5)
/-- R330: size codes of a load and of a store. -/
def loadSizeOk (z : BitVec 3) : Bool := z != 7
def storeSizeOk (z : BitVec 3) : Bool := z == 0 || z == 2 || z == 4 || z == 5 || z == 6
/-- R330: lane registers that the data of a size takes. -/
def sizeRegs (z : BitVec 3) : Nat := if z = 5 then 2 else if z = 6 then 4 else 1
/-- R330: vd even for 8 bytes and a multiple of 4 for 16. -/
def sizeReg (z : BitVec 3) (d : BitVec 7) : Bool := d.toNat % sizeRegs z == 0
/-- R336: lane registers that the operands of an atomic take. -/
def atomRegs (o : BitVec 4) : Nat := if o = 1 ∨ o = 10 ∨ o = 11 then 2 else if o = 12 then 4 else 1
def atomReg (o : BitVec 4) (d : BitVec 7) : Bool := d.toNat % atomRegs o == 0
/-- R336: the operations that have a reduction. -/
def redOk (o : BitVec 4) : Bool := decide (o.toNat < 9) || o == 13 || o == 14
/-- R369: lane registers of an A row, and one more where A scales are named. -/
def mmaRow (f : BitVec 3) : Nat := if f = 2 ∨ f = 4 then 8 else if f = 5 ∨ f = 6 then 32 else 16
def mmaRegs (f : BitVec 3) (c : BitVec 2) : Nat := mmaRow f + (if c = 0 then 0 else 1)
/-- R367: columns, and so lane registers, of an `accx` width. -/
def accxRegs (w : BitVec 2) : Nat := if w = 0 then 8 else if w = 1 then 16 else 32
/-- R346, R376: a command block starts at s8, s16, s24, s32 or s40. -/
def blockReg (a : BitVec 6) : Bool := a == 8 || a == 16 || a == 24 || a == 32 || a == 40
/-- R358: the stream registers. -/
def streamReg (n : BitVec 6) : Bool := decide (48 ≤ n.toNat ∧ n.toNat ≤ 55)
/-- R263: the assigned system register numbers; 0x023 and 0x026 to 0x02F are the replay window's unassigned numbers. -/
def sysRegAssigned (i : BitVec 12) : Bool :=
  decide (i.toNat ≤ 0x004 ∨ (0x008 ≤ i.toNat ∧ i.toNat ≤ 0x00D) ∨ (0x010 ≤ i.toNat ∧ i.toNat ≤ 0x012)
    ∨ (0x018 ≤ i.toNat ∧ i.toNat ≤ 0x01B) ∨ (0x020 ≤ i.toNat ∧ i.toNat ≤ 0x02F) ∨ (0x040 ≤ i.toNat ∧ i.toNat ≤ 0x042)
    ∨ (0x044 ≤ i.toNat ∧ i.toNat ≤ 0x049) ∨ i.toNat = 0x080)
def max3 (a b c : Nat) : Nat := max a (max b c) + 1

/-- R265: the word of this instruction is no reserved word. A step that is no word has nothing to check. -/
def wellFormed : Instr → Bool
  | .fadd .. => true
  | .fsub .. => true
  | .fmul .. => true
  | .ffma .. => true
  | .fmin .. => true
  | .fmax .. => true
  | .fcmp _ _ m c _ _ => m != 0 && c.toNat < 8
  | .fneg .. => true
  | .fabs .. => true
  | .fsqrt .. => true
  | .frcp .. => true
  | .frsqrt .. => true
  | .fexp2 .. => true
  | .flog2 .. => true
  | .fsin .. => true
  | .fcos .. => true
  | .frint .. => true
  | .ffloor .. => true
  | .fceil .. => true
  | .ftrunc .. => true
  | .fclass .. => true
  | .sel .. => true
  | .hfma2 .. => true
  | .bfma2 .. => true
  | .ldAcq _ _ d a z s => evenReg a && scopeOk s && loadSizeOk z && decide (z.toNat < 6) && sizeReg z d
  | .stRel _ _ d a z s => evenReg a && scopeOk s && storeSizeOk z && decide (z.toNat < 6) && sizeReg z d
  | .pfx _ _ _ _ l => decide (l.toNat < 2)
  | .iadd .. => true
  | .isub .. => true
  | .imul .. => true
  | .imulh .. => true
  | .umulh .. => true
  | .imad .. => true
  | .andLane .. => true
  | .orLane .. => true
  | .xorLane .. => true
  | .shlLane .. => true
  | .shrLane .. => true
  | .sraLane .. => true
  | .imin .. => true
  | .imax .. => true
  | .umin .. => true
  | .umax .. => true
  | .icmp _ _ m c _ _ => m != 0 && c.toNat < 11
  | .ineg .. => true
  | .iabs .. => true
  | .notLane .. => true
  | .popcLane .. => true
  | .clzLane .. => true
  | .ctzLane .. => true
  | .brev .. => true
  | .bswap .. => true
  | .sext8 .. => true
  | .sext16 .. => true
  | .zext8 .. => true
  | .zext16 .. => true
  | .laneid .. => true
  | .bfx .. => true
  | .bfi .. => true
  | .iaddi .. => true
  | .imuli .. => true
  | .andiLane .. => true
  | .oriLane .. => true
  | .xoriLane .. => true
  | .shliLane .. => true
  | .shriLane .. => true
  | .sraiLane .. => true
  | .srni .. => true
  | .add2s .. => true
  | .sub2s .. => true
  | .dot2S .. => true
  | .dot2U .. => true
  | .dot4S .. => true
  | .dot4U .. => true
  | .dot8S .. => true
  | .dot8U .. => true
  | .fdot4E4m3 .. => true
  | .fdot4E5m2 .. => true
  | .fdot8 .. => true
  | .cvt _ _ _ _ c r => decide (c.toNat < 28) && r != 3
  | .slide _ _ _ _ f _ _ => f != 3
  | .shfl .. => true
  | .tosLane .. => true
  | .tosReduce _ _ _ _ f => decide (0x20 ≤ f.toNat ∧ f.toNat ≤ 0x29)
  | .tov .. => true
  | .scan _ _ _ _ f => decide (f.toNat < 9)
  | .ld _ _ d _ _ z => loadSizeOk z && sizeReg z d
  | .st _ _ d _ _ z => storeSizeOk z && sizeReg z d
  | .atom _ _ d a o s => evenReg a && scopeOk s && o != 15 && atomReg o d
  | .red _ _ d a o s => evenReg a && scopeOk s && redOk o && atomReg o d
  | .mma _ _ a _ f _ _ _ c => f != 7 && c != 3 && (c == 0 || decide (f.toNat < 3)) && decide (a.toNat + mmaRegs f c ≤ 128)
  | .accxRd _ _ a _ w => w != 3 && decide (a.toNat + accxRegs w ≤ 128)
  | .accxWr _ _ a _ w => w != 3 && decide (a.toNat + accxRegs w ≤ 128)
  | .accxRdz _ _ a _ w => w != 3 && decide (a.toNat + accxRegs w ≤ 128)
  | .nop .. => true
  | .addScalar .. => true
  | .subScalar .. => true
  | .mulScalar .. => true
  | .mulh .. => true
  | .mulhu .. => true
  | .andScalar .. => true
  | .orScalar .. => true
  | .xorScalar .. => true
  | .shlScalar .. => true
  | .shrScalar .. => true
  | .sraScalar .. => true
  | .minScalar .. => true
  | .maxScalar .. => true
  | .minu .. => true
  | .maxu .. => true
  | .div .. => true
  | .divu .. => true
  | .rem .. => true
  | .remu .. => true
  | .popcScalar .. => true
  | .clzScalar .. => true
  | .ctzScalar .. => true
  | .cmp _ c _ _ _ => decide (c.toNat < 11)
  | .addi .. => true
  | .andiScalar .. => true
  | .oriScalar .. => true
  | .xoriScalar .. => true
  | .shliScalar .. => true
  | .shriScalar .. => true
  | .sraiScalar .. => true
  | .cmpi _ c _ _ _ => decide (c.toNat < 11)
  | .li .. => true
  | .lui .. => true
  | .mand _ d _ _ => d != 0
  | .mor _ d _ _ => d != 0
  | .mxor _ d _ _ => d != 0
  | .mandn _ d _ _ => d != 0
  | .mnot _ d _ => d != 0
  | .mset _ d _ => d != 0
  | .mget .. => true
  | .mpopc .. => true
  | .mfirst .. => true
  | .b .. => true
  | .bc _ c _ => decide (c.toNat < 8)
  | .bm .. => true
  | .bmG .. => true
  | .bxPreq .. => true
  | .bxD .. => true
  | .call .. => true
  | .jr _ a => evenReg a
  | .couple .. => true
  | .exit .. => true
  | .wait .. => true
  | .waitr .. => true
  | .fence _ s _ => scopeOk s
  | .xbegin _ s _ => scopeOk s
  | .xbeginNoTarget _ s => scopeOk s
  | .xelse .. => true
  | .xend .. => true
  | .xretry .. => true
  | .xabort .. => true
  | .xstat .. => true
  | .barInit _ _ i => decide (i.toNat < 5)
  | .barArrive _ _ i => decide (i.toNat < 5)
  | .barWait _ _ i => decide (i.toNat < 5)
  | .barSync _ _ i => decide (i.toNat < 5)
  | .barRead _ _ i => decide (i.toNat < 5)
  | .bufArm .. => true
  | .bufArrive .. => true
  | .bufArriveCl .. => true
  | .bufWait .. => true
  | .bufRel .. => true
  | .bufRgn .. => true
  | .bufStat .. => true
  | .bufCount .. => true
  | .cpy _ _ a => blockReg a
  | .tidSet _ _ a _ => a == 16 || a == 32
  | .tidRd _ d _ _ => evenReg d
  | .tidInv .. => true
  | .strBind _ n _ => streamReg n
  | .strBindE _ n _ => streamReg n
  | .strUnbind _ n => streamReg n
  | .strPeek _ _ n => streamReg n
  | .strSeek _ n _ => streamReg n
  | .resLoad _ _ _ b => evenReg b
  | .resPin .. => true
  | .resUnpin .. => true
  | .resRevoke .. => true
  | .resStat .. => true
  | .resUse .. => true
  | .accAlloc .. => true
  | .accFree .. => true
  | .accZero .. => true
  | .collPost _ _ a => blockReg a
  | .collCancel _ _ a => evenReg a
  | .collStat _ _ a => evenReg a
  | .trig .. => true
  | .ldsB32 _ _ a _ => evenReg a
  | .ldsB64 _ d a _ => evenReg a && evenReg d
  | .stsB32 _ _ a _ => evenReg a
  | .stsB64 _ d a _ => evenReg a && evenReg d
  | .satom _ _ a b o p => evenReg a && scopeOk p && (o != 2 || evenReg b)
  | .sysrd _ _ i => sysRegAssigned i
  | .syswr _ _ i => sysRegAssigned i
  | .trap .. => true
  | .brk .. => true
  | .rte .. => true
  | .yield .. => true
  | .memlocQuery .. => true
  | .fmodeWrite .. => true
  | .satfClear .. => true
  | .rqdataWrite .. => true
  | .groupSelect .. => true
  | .walkEngineGrant .. => true
  | .atsTranslationCompletion .. => true
  | .atsInvalidateRequest .. => true
  | .pageResponse .. => true
  | .memoryAccessCompletion .. => true
  | .stalledRecordPost .. => true
  | .tqheadWrite .. => true
  | .tqctlWrite .. => true
  | .commitLockGrant .. => true
  | .overflowWake .. => true
  | .homeSliceRead .. => true
  | .homeSliceWrite .. => true
  | .homeSliceAtomic .. => true
  | .moved .. => true
  | .rsdrop .. => true
  | .resurveyTakeParcel .. => true
  | .resurveyLineCopy .. => true
  | .parcelSwitch .. => true
  | .switchDrainComplete .. => true
  | .singleParcelMove .. => true
  | .baseDieRead .. => true
  | .baseDieWrite .. => true
  | .baseDieMaskedWrite .. => true
  | .refreshRate .. => true
  | .selfRefreshEntryRequest .. => true
  | .selfRefreshExitRequest .. => true
  | .neighbourRefresh .. => true
  | .baseDieReply .. => true
  | .tagTimeout .. => true
  | .tokenRefill .. => true
  | .refreshDue .. => true
  | .hotRowWindowEnd .. => true
  | .selfRefreshTimerExpiry .. => true
  | .selfRefreshEntryComplete .. => true
  | .selfRefreshExitComplete .. => true
  | .perambulatorLineRead .. => true
  | .rowLogExpiry .. => true
  | .mbxTrain .. => true
  | .mbxRowRepair .. => true
  | .mbxSetRefresh .. => true
  | .mbxReadRowLog .. => true
  | .mbxRepairRowsLeft .. => true
  | .cecntWrite .. => true
  | .bufferArrival .. => true
  | .copyIssue .. => true
  | .copyComplete .. => true
  | .residencyFillComplete .. => true
  | .engineGrant .. => true
  | .scrubComplete .. => true
  | .notify .. => true
  | .qctlWrite .. => true
  | .nopCommand .. => true
  | .launch .. => true
  | .indirect .. => true
  | .signal .. => true
  | .waiteq .. => true
  | .qfence .. => true
  | .invalStage1 .. => true
  | .invalStage2 .. => true
  | .invalPartition .. => true
  | .replayRetry .. => true
  | .replayFail .. => true
  | .partcfg .. => true
  | .partrst .. => true
  | .teamAdmission .. => true
  | .worldSwitchQuantumExpiry .. => true
  | .pluginTimeout .. => true
  | .psaveDeadlineExpiry .. => true
  | .contextSave .. => true
  | .contextRestore .. => true
  | .shareMeasurement .. => true
  | .hostBar4Read .. => true
  | .hostBar4Write .. => true
  | .hostAtomicop .. => true
  | .functionLevelReset .. => true
  | .ualinkInboundRead .. => true
  | .ualinkInboundWrite .. => true
  | .ualinkInboundAtomic .. => true
  | .peerTranslationQuery .. => true
  | .replayReplyCacheExpiry .. => true
  | .ualinkCompletion .. => true
  | .peerRequestTimeout .. => true
  | .assignNum .. => true
  | .numbered .. => true
  | .cancel .. => true
  | .reply .. => true
  | .hole .. => true
  | .ready .. => true
  | .go .. => true
  | .done .. => true
  | .collect .. => true
  | .report .. => true
  | .failoverRequest .. => true
  | .sequencerTimeout .. => true
  | .collectiveLocalCompletion .. => true
  | .iftRun .. => true
  | .linkInjectorArm .. => true
  | .linkInjection .. => true
  | .stallSample .. => true
  | .trheadWrite .. => true
  | .dbgstop .. => true
  | .ctrClaim .. => true
  | .ctrRelease .. => true
  | .ctrselWrite .. => true
  | .capselWrite .. => true
  | .fwLoadPlugin .. => true
  | .fwUnloadPlugin .. => true
  | .fwInstallCommunicator .. => true
  | .fwRemoveCommunicator .. => true
  | .fwWritePeerAccess .. => true
  | .fwReadmitPeer .. => true
  | .fwOrderFailover .. => true
  | .fwAttestationReport .. => true
  | .exportPart .. => true
  | .importPart .. => true
  | .hold .. => true
  | .release .. => true
  | .fwStoreAccid .. => true
  | .startUp .. => true
  | .pwrmonUpdate .. => true
  | .pwrmonWrite .. => true
  | .thermalLimit .. => true
  | .registerWrite .. => true
  | .ualinkLinkDown .. => true
  | .ualinkLinkUp .. => true
  | .baseDieLinkFailure .. => true

/-- R197: one more than the highest lane register the instruction names; 0 where it names none. -/
def laneRegsOf : Instr → Nat
  | .fadd _ _ d a b => max3 d.toNat a.toNat b.toNat
  | .fsub _ _ d a b => max3 d.toNat a.toNat b.toNat
  | .fmul _ _ d a b => max3 d.toNat a.toNat b.toNat
  | .ffma _ _ d a b => max3 d.toNat a.toNat b.toNat
  | .fmin _ _ d a b => max3 d.toNat a.toNat b.toNat
  | .fmax _ _ d a b => max3 d.toNat a.toNat b.toNat
  | .fcmp _ _ _ _ a b => max3 a.toNat b.toNat 0
  | .fneg _ _ d a => max3 d.toNat a.toNat 0
  | .fabs _ _ d a => max3 d.toNat a.toNat 0
  | .fsqrt _ _ d a => max3 d.toNat a.toNat 0
  | .frcp _ _ d a => max3 d.toNat a.toNat 0
  | .frsqrt _ _ d a => max3 d.toNat a.toNat 0
  | .fexp2 _ _ d a => max3 d.toNat a.toNat 0
  | .flog2 _ _ d a => max3 d.toNat a.toNat 0
  | .fsin _ _ d a => max3 d.toNat a.toNat 0
  | .fcos _ _ d a => max3 d.toNat a.toNat 0
  | .frint _ _ d a => max3 d.toNat a.toNat 0
  | .ffloor _ _ d a => max3 d.toNat a.toNat 0
  | .fceil _ _ d a => max3 d.toNat a.toNat 0
  | .ftrunc _ _ d a => max3 d.toNat a.toNat 0
  | .fclass _ _ d a => max3 d.toNat a.toNat 0
  | .sel _ _ d a b => max3 d.toNat a.toNat b.toNat
  | .hfma2 _ _ d a b => max3 d.toNat a.toNat b.toNat
  | .bfma2 _ _ d a b => max3 d.toNat a.toNat b.toNat
  | .ldAcq _ _ d a z _ => max3 (d.toNat + sizeRegs z - 1) (a.toNat + 1) 0
  | .stRel _ _ d a z _ => max3 (d.toNat + sizeRegs z - 1) (a.toNat + 1) 0
  | .pfx _ _ a _ _ => max3 a.toNat 0 0
  | .iadd _ _ d a b => max3 d.toNat a.toNat b.toNat
  | .isub _ _ d a b => max3 d.toNat a.toNat b.toNat
  | .imul _ _ d a b => max3 d.toNat a.toNat b.toNat
  | .imulh _ _ d a b => max3 d.toNat a.toNat b.toNat
  | .umulh _ _ d a b => max3 d.toNat a.toNat b.toNat
  | .imad _ _ d a b => max3 d.toNat a.toNat b.toNat
  | .andLane _ _ d a b => max3 d.toNat a.toNat b.toNat
  | .orLane _ _ d a b => max3 d.toNat a.toNat b.toNat
  | .xorLane _ _ d a b => max3 d.toNat a.toNat b.toNat
  | .shlLane _ _ d a b => max3 d.toNat a.toNat b.toNat
  | .shrLane _ _ d a b => max3 d.toNat a.toNat b.toNat
  | .sraLane _ _ d a b => max3 d.toNat a.toNat b.toNat
  | .imin _ _ d a b => max3 d.toNat a.toNat b.toNat
  | .imax _ _ d a b => max3 d.toNat a.toNat b.toNat
  | .umin _ _ d a b => max3 d.toNat a.toNat b.toNat
  | .umax _ _ d a b => max3 d.toNat a.toNat b.toNat
  | .icmp _ _ _ _ a b => max3 a.toNat b.toNat 0
  | .ineg _ _ d a => max3 d.toNat a.toNat 0
  | .iabs _ _ d a => max3 d.toNat a.toNat 0
  | .notLane _ _ d a => max3 d.toNat a.toNat 0
  | .popcLane _ _ d a => max3 d.toNat a.toNat 0
  | .clzLane _ _ d a => max3 d.toNat a.toNat 0
  | .ctzLane _ _ d a => max3 d.toNat a.toNat 0
  | .brev _ _ d a => max3 d.toNat a.toNat 0
  | .bswap _ _ d a => max3 d.toNat a.toNat 0
  | .sext8 _ _ d a => max3 d.toNat a.toNat 0
  | .sext16 _ _ d a => max3 d.toNat a.toNat 0
  | .zext8 _ _ d a => max3 d.toNat a.toNat 0
  | .zext16 _ _ d a => max3 d.toNat a.toNat 0
  | .laneid _ _ d => max3 d.toNat 0 0
  | .bfx _ _ d a b => max3 d.toNat a.toNat b.toNat
  | .bfi _ _ d a b => max3 d.toNat a.toNat b.toNat
  | .iaddi _ _ d a _ => max3 d.toNat a.toNat 0
  | .imuli _ _ d a _ => max3 d.toNat a.toNat 0
  | .andiLane _ _ d a _ => max3 d.toNat a.toNat 0
  | .oriLane _ _ d a _ => max3 d.toNat a.toNat 0
  | .xoriLane _ _ d a _ => max3 d.toNat a.toNat 0
  | .shliLane _ _ d a _ => max3 d.toNat a.toNat 0
  | .shriLane _ _ d a _ => max3 d.toNat a.toNat 0
  | .sraiLane _ _ d a _ => max3 d.toNat a.toNat 0
  | .srni _ _ d a _ => max3 d.toNat a.toNat 0
  | .add2s _ _ d a b => max3 d.toNat a.toNat b.toNat
  | .sub2s _ _ d a b => max3 d.toNat a.toNat b.toNat
  | .dot2S _ _ d a b => max3 d.toNat a.toNat b.toNat
  | .dot2U _ _ d a b => max3 d.toNat a.toNat b.toNat
  | .dot4S _ _ d a b => max3 d.toNat a.toNat b.toNat
  | .dot4U _ _ d a b => max3 d.toNat a.toNat b.toNat
  | .dot8S _ _ d a b => max3 d.toNat a.toNat b.toNat
  | .dot8U _ _ d a b => max3 d.toNat a.toNat b.toNat
  | .fdot4E4m3 _ _ d a b => max3 d.toNat a.toNat b.toNat
  | .fdot4E5m2 _ _ d a b => max3 d.toNat a.toNat b.toNat
  | .fdot8 _ _ d a b => max3 d.toNat a.toNat b.toNat
  | .cvt _ _ d a _ _ => max3 d.toNat a.toNat 0
  | .slide _ _ d a _ _ _ => max3 d.toNat a.toNat 0
  | .shfl _ _ d a b => max3 d.toNat a.toNat b.toNat
  | .tosLane _ _ a _ => max3 a.toNat 0 0
  | .tosReduce _ _ _ a _ => max3 a.toNat 0 0
  | .tov _ _ d _ => max3 d.toNat 0 0
  | .scan _ _ d a _ => max3 d.toNat a.toNat 0
  | .ld _ _ d a _ z => max3 (d.toNat + sizeRegs z - 1) a.toNat 0
  | .st _ _ d a _ z => max3 (d.toNat + sizeRegs z - 1) a.toNat 0
  | .atom _ _ d a o _ => max3 (d.toNat + atomRegs o - 1) (a.toNat + 1) 0
  | .red _ _ d a o _ => max3 (d.toNat + atomRegs o - 1) (a.toNat + 1) 0
  | .mma _ _ a _ f _ _ _ c => a.toNat + mmaRegs f c
  | .accxRd _ _ a _ w => a.toNat + accxRegs w
  | .accxWr _ _ a _ w => a.toNat + accxRegs w
  | .accxRdz _ _ a _ w => a.toNat + accxRegs w
  | .nop .. => 0
  | .addScalar .. => 0
  | .subScalar .. => 0
  | .mulScalar .. => 0
  | .mulh .. => 0
  | .mulhu .. => 0
  | .andScalar .. => 0
  | .orScalar .. => 0
  | .xorScalar .. => 0
  | .shlScalar .. => 0
  | .shrScalar .. => 0
  | .sraScalar .. => 0
  | .minScalar .. => 0
  | .maxScalar .. => 0
  | .minu .. => 0
  | .maxu .. => 0
  | .div .. => 0
  | .divu .. => 0
  | .rem .. => 0
  | .remu .. => 0
  | .popcScalar .. => 0
  | .clzScalar .. => 0
  | .ctzScalar .. => 0
  | .cmp .. => 0
  | .addi .. => 0
  | .andiScalar .. => 0
  | .oriScalar .. => 0
  | .xoriScalar .. => 0
  | .shliScalar .. => 0
  | .shriScalar .. => 0
  | .sraiScalar .. => 0
  | .cmpi .. => 0
  | .li .. => 0
  | .lui .. => 0
  | .mand .. => 0
  | .mor .. => 0
  | .mxor .. => 0
  | .mandn .. => 0
  | .mnot .. => 0
  | .mset .. => 0
  | .mget .. => 0
  | .mpopc .. => 0
  | .mfirst .. => 0
  | .b .. => 0
  | .bc .. => 0
  | .bm .. => 0
  | .bmG .. => 0
  | .bxPreq .. => 0
  | .bxD .. => 0
  | .call .. => 0
  | .jr .. => 0
  | .couple .. => 0
  | .exit .. => 0
  | .wait .. => 0
  | .waitr .. => 0
  | .fence .. => 0
  | .xbegin .. => 0
  | .xbeginNoTarget .. => 0
  | .xelse .. => 0
  | .xend .. => 0
  | .xretry .. => 0
  | .xabort .. => 0
  | .xstat .. => 0
  | .barInit .. => 0
  | .barArrive .. => 0
  | .barWait .. => 0
  | .barSync .. => 0
  | .barRead .. => 0
  | .bufArm .. => 0
  | .bufArrive .. => 0
  | .bufArriveCl .. => 0
  | .bufWait .. => 0
  | .bufRel .. => 0
  | .bufRgn .. => 0
  | .bufStat .. => 0
  | .bufCount .. => 0
  | .cpy .. => 0
  | .tidSet .. => 0
  | .tidRd .. => 0
  | .tidInv .. => 0
  | .strBind .. => 0
  | .strBindE .. => 0
  | .strUnbind .. => 0
  | .strPeek .. => 0
  | .strSeek .. => 0
  | .resLoad .. => 0
  | .resPin .. => 0
  | .resUnpin .. => 0
  | .resRevoke .. => 0
  | .resStat .. => 0
  | .resUse .. => 0
  | .accAlloc .. => 0
  | .accFree .. => 0
  | .accZero .. => 0
  | .collPost .. => 0
  | .collCancel .. => 0
  | .collStat .. => 0
  | .trig .. => 0
  | .ldsB32 .. => 0
  | .ldsB64 .. => 0
  | .stsB32 .. => 0
  | .stsB64 .. => 0
  | .satom .. => 0
  | .sysrd .. => 0
  | .syswr .. => 0
  | .trap .. => 0
  | .brk .. => 0
  | .rte .. => 0
  | .yield .. => 0
  | .memlocQuery .. => 0
  | .fmodeWrite .. => 0
  | .satfClear .. => 0
  | .rqdataWrite .. => 0
  | .groupSelect .. => 0
  | .walkEngineGrant .. => 0
  | .atsTranslationCompletion .. => 0
  | .atsInvalidateRequest .. => 0
  | .pageResponse .. => 0
  | .memoryAccessCompletion .. => 0
  | .stalledRecordPost .. => 0
  | .tqheadWrite .. => 0
  | .tqctlWrite .. => 0
  | .commitLockGrant .. => 0
  | .overflowWake .. => 0
  | .homeSliceRead .. => 0
  | .homeSliceWrite .. => 0
  | .homeSliceAtomic .. => 0
  | .moved .. => 0
  | .rsdrop .. => 0
  | .resurveyTakeParcel .. => 0
  | .resurveyLineCopy .. => 0
  | .parcelSwitch .. => 0
  | .switchDrainComplete .. => 0
  | .singleParcelMove .. => 0
  | .baseDieRead .. => 0
  | .baseDieWrite .. => 0
  | .baseDieMaskedWrite .. => 0
  | .refreshRate .. => 0
  | .selfRefreshEntryRequest .. => 0
  | .selfRefreshExitRequest .. => 0
  | .neighbourRefresh .. => 0
  | .baseDieReply .. => 0
  | .tagTimeout .. => 0
  | .tokenRefill .. => 0
  | .refreshDue .. => 0
  | .hotRowWindowEnd .. => 0
  | .selfRefreshTimerExpiry .. => 0
  | .selfRefreshEntryComplete .. => 0
  | .selfRefreshExitComplete .. => 0
  | .perambulatorLineRead .. => 0
  | .rowLogExpiry .. => 0
  | .mbxTrain .. => 0
  | .mbxRowRepair .. => 0
  | .mbxSetRefresh .. => 0
  | .mbxReadRowLog .. => 0
  | .mbxRepairRowsLeft .. => 0
  | .cecntWrite .. => 0
  | .bufferArrival .. => 0
  | .copyIssue .. => 0
  | .copyComplete .. => 0
  | .residencyFillComplete .. => 0
  | .engineGrant .. => 0
  | .scrubComplete .. => 0
  | .notify .. => 0
  | .qctlWrite .. => 0
  | .nopCommand .. => 0
  | .launch .. => 0
  | .indirect .. => 0
  | .signal .. => 0
  | .waiteq .. => 0
  | .qfence .. => 0
  | .invalStage1 .. => 0
  | .invalStage2 .. => 0
  | .invalPartition .. => 0
  | .replayRetry .. => 0
  | .replayFail .. => 0
  | .partcfg .. => 0
  | .partrst .. => 0
  | .teamAdmission .. => 0
  | .worldSwitchQuantumExpiry .. => 0
  | .pluginTimeout .. => 0
  | .psaveDeadlineExpiry .. => 0
  | .contextSave .. => 0
  | .contextRestore .. => 0
  | .shareMeasurement .. => 0
  | .hostBar4Read .. => 0
  | .hostBar4Write .. => 0
  | .hostAtomicop .. => 0
  | .functionLevelReset .. => 0
  | .ualinkInboundRead .. => 0
  | .ualinkInboundWrite .. => 0
  | .ualinkInboundAtomic .. => 0
  | .peerTranslationQuery .. => 0
  | .replayReplyCacheExpiry .. => 0
  | .ualinkCompletion .. => 0
  | .peerRequestTimeout .. => 0
  | .assignNum .. => 0
  | .numbered .. => 0
  | .cancel .. => 0
  | .reply .. => 0
  | .hole .. => 0
  | .ready .. => 0
  | .go .. => 0
  | .done .. => 0
  | .collect .. => 0
  | .report .. => 0
  | .failoverRequest .. => 0
  | .sequencerTimeout .. => 0
  | .collectiveLocalCompletion .. => 0
  | .iftRun .. => 0
  | .linkInjectorArm .. => 0
  | .linkInjection .. => 0
  | .stallSample .. => 0
  | .trheadWrite .. => 0
  | .dbgstop .. => 0
  | .ctrClaim .. => 0
  | .ctrRelease .. => 0
  | .ctrselWrite .. => 0
  | .capselWrite .. => 0
  | .fwLoadPlugin .. => 0
  | .fwUnloadPlugin .. => 0
  | .fwInstallCommunicator .. => 0
  | .fwRemoveCommunicator .. => 0
  | .fwWritePeerAccess .. => 0
  | .fwReadmitPeer .. => 0
  | .fwOrderFailover .. => 0
  | .fwAttestationReport .. => 0
  | .exportPart .. => 0
  | .importPart .. => 0
  | .hold .. => 0
  | .release .. => 0
  | .fwStoreAccid .. => 0
  | .startUp .. => 0
  | .pwrmonUpdate .. => 0
  | .pwrmonWrite .. => 0
  | .thermalLimit .. => 0
  | .registerWrite .. => 0
  | .ualinkLinkDown .. => 0
  | .ualinkLinkUp .. => 0
  | .baseDieLinkFailure .. => 0

end Sys2Proof
end

