-- ==== Sys2Proof/Decode.lean ====
section
/-! DEFINITION. From words to instructions and back (R247 to R267). Numbers are used for the bits of a word, so that a
field is a quotient and a remainder; bytes are little-endian (R7, R249). -/

namespace Sys2Proof

/-- Why a word is not an instruction. Every one of them raises `ILL` (R265). -/
inductive Reject where
  /-- Fewer than four bytes stand where a word is wanted. -/
  | tooShort
  /-- R253, R255: no instruction has this SET and OP. -/
  | reservedOpcode
  /-- R265: a field that must be zero is not, or a function code is reserved. -/
  | reservedField
  /-- R265: a value, pair or destination that the instruction's own rule refuses. -/
  | reservedValue
deriving DecidableEq, Repr

/-- The number held in `w` bits of `n` from bit `lo` on. -/
def fld (n lo w : Nat) : Nat := n / 2 ^ lo % 2 ^ w
/-- The same field as bits. -/
def bits (n lo w : Nat) : BitVec w := BitVec.ofNat w (n / 2 ^ lo)
/-- R247: bit 30, E. -/
def runEnd (n : Nat) : Bool := fld n 30 1 == 1

/-- R253: the opcodes of the lane set. -/
def opcodeLane (op : Nat) : Bool := op != 0 && op != 0x0F
/-- R255: the opcodes of the scalar set. -/
def opcodeScalar (op : Nat) : Bool := decide (op ≤ 0x33) && op != 0x28

/-- R252, R253: the lane set. -/
def decodeLane (n : Nat) : Option Instr :=
  match fld n 24 6 with
  | 0x01 => some (.fadd (runEnd n) (bits n 21 3) (bits n 14 7) (bits n 7 7) (bits n 0 7))
  | 0x02 => some (.fsub (runEnd n) (bits n 21 3) (bits n 14 7) (bits n 7 7) (bits n 0 7))
  | 0x03 => some (.fmul (runEnd n) (bits n 21 3) (bits n 14 7) (bits n 7 7) (bits n 0 7))
  | 0x04 => some (.ffma (runEnd n) (bits n 21 3) (bits n 14 7) (bits n 7 7) (bits n 0 7))
  | 0x05 => some (.fmin (runEnd n) (bits n 21 3) (bits n 14 7) (bits n 7 7) (bits n 0 7))
  | 0x06 => some (.fmax (runEnd n) (bits n 21 3) (bits n 14 7) (bits n 7 7) (bits n 0 7))
  | 0x07 => some (.fcmp (runEnd n) (bits n 21 3) (bits n 18 3) (bits n 14 4) (bits n 7 7) (bits n 0 7))
  | 0x08 => if fld n 0 7 = 0 then some (.fneg (runEnd n) (bits n 21 3) (bits n 14 7) (bits n 7 7))
    else if fld n 0 7 = 1 then some (.fabs (runEnd n) (bits n 21 3) (bits n 14 7) (bits n 7 7))
    else if fld n 0 7 = 2 then some (.fsqrt (runEnd n) (bits n 21 3) (bits n 14 7) (bits n 7 7))
    else if fld n 0 7 = 3 then some (.frcp (runEnd n) (bits n 21 3) (bits n 14 7) (bits n 7 7))
    else if fld n 0 7 = 4 then some (.frsqrt (runEnd n) (bits n 21 3) (bits n 14 7) (bits n 7 7))
    else if fld n 0 7 = 5 then some (.fexp2 (runEnd n) (bits n 21 3) (bits n 14 7) (bits n 7 7))
    else if fld n 0 7 = 6 then some (.flog2 (runEnd n) (bits n 21 3) (bits n 14 7) (bits n 7 7))
    else if fld n 0 7 = 7 then some (.fsin (runEnd n) (bits n 21 3) (bits n 14 7) (bits n 7 7))
    else if fld n 0 7 = 8 then some (.fcos (runEnd n) (bits n 21 3) (bits n 14 7) (bits n 7 7))
    else if fld n 0 7 = 9 then some (.frint (runEnd n) (bits n 21 3) (bits n 14 7) (bits n 7 7))
    else if fld n 0 7 = 10 then some (.ffloor (runEnd n) (bits n 21 3) (bits n 14 7) (bits n 7 7))
    else if fld n 0 7 = 11 then some (.fceil (runEnd n) (bits n 21 3) (bits n 14 7) (bits n 7 7))
    else if fld n 0 7 = 12 then some (.ftrunc (runEnd n) (bits n 21 3) (bits n 14 7) (bits n 7 7))
    else if fld n 0 7 = 13 then some (.fclass (runEnd n) (bits n 21 3) (bits n 14 7) (bits n 7 7))
    else none
  | 0x09 => some (.sel (runEnd n) (bits n 21 3) (bits n 14 7) (bits n 7 7) (bits n 0 7))
  | 0x0A => some (.hfma2 (runEnd n) (bits n 21 3) (bits n 14 7) (bits n 7 7) (bits n 0 7))
  | 0x0B => some (.bfma2 (runEnd n) (bits n 21 3) (bits n 14 7) (bits n 7 7) (bits n 0 7))
  | 0x0C => if fld n 6 1 = 0 then some (.ldAcq (runEnd n) (bits n 21 3) (bits n 14 7) (bits n 7 7) (bits n 3 3) (bits n 0 3))
    else none
  | 0x0D => if fld n 6 1 = 0 then some (.stRel (runEnd n) (bits n 21 3) (bits n 14 7) (bits n 7 7) (bits n 3 3) (bits n 0 3))
    else none
  | 0x0E => if fld n 14 7 = 0 then some (.pfx (runEnd n) (bits n 21 3) (bits n 7 7) (bits n 3 4) (bits n 0 3))
    else none
  | 0x10 => some (.iadd (runEnd n) (bits n 21 3) (bits n 14 7) (bits n 7 7) (bits n 0 7))
  | 0x11 => some (.isub (runEnd n) (bits n 21 3) (bits n 14 7) (bits n 7 7) (bits n 0 7))
  | 0x12 => some (.imul (runEnd n) (bits n 21 3) (bits n 14 7) (bits n 7 7) (bits n 0 7))
  | 0x13 => some (.imulh (runEnd n) (bits n 21 3) (bits n 14 7) (bits n 7 7) (bits n 0 7))
  | 0x14 => some (.umulh (runEnd n) (bits n 21 3) (bits n 14 7) (bits n 7 7) (bits n 0 7))
  | 0x15 => some (.imad (runEnd n) (bits n 21 3) (bits n 14 7) (bits n 7 7) (bits n 0 7))
  | 0x16 => some (.andLane (runEnd n) (bits n 21 3) (bits n 14 7) (bits n 7 7) (bits n 0 7))
  | 0x17 => some (.orLane (runEnd n) (bits n 21 3) (bits n 14 7) (bits n 7 7) (bits n 0 7))
  | 0x18 => some (.xorLane (runEnd n) (bits n 21 3) (bits n 14 7) (bits n 7 7) (bits n 0 7))
  | 0x19 => some (.shlLane (runEnd n) (bits n 21 3) (bits n 14 7) (bits n 7 7) (bits n 0 7))
  | 0x1A => some (.shrLane (runEnd n) (bits n 21 3) (bits n 14 7) (bits n 7 7) (bits n 0 7))
  | 0x1B => some (.sraLane (runEnd n) (bits n 21 3) (bits n 14 7) (bits n 7 7) (bits n 0 7))
  | 0x1C => some (.imin (runEnd n) (bits n 21 3) (bits n 14 7) (bits n 7 7) (bits n 0 7))
  | 0x1D => some (.imax (runEnd n) (bits n 21 3) (bits n 14 7) (bits n 7 7) (bits n 0 7))
  | 0x1E => some (.umin (runEnd n) (bits n 21 3) (bits n 14 7) (bits n 7 7) (bits n 0 7))
  | 0x1F => some (.umax (runEnd n) (bits n 21 3) (bits n 14 7) (bits n 7 7) (bits n 0 7))
  | 0x20 => some (.icmp (runEnd n) (bits n 21 3) (bits n 18 3) (bits n 14 4) (bits n 7 7) (bits n 0 7))
  | 0x21 => if fld n 0 14 = 12 then some (.laneid (runEnd n) (bits n 21 3) (bits n 14 7))
    else if fld n 0 7 = 0 then some (.ineg (runEnd n) (bits n 21 3) (bits n 14 7) (bits n 7 7))
    else if fld n 0 7 = 1 then some (.iabs (runEnd n) (bits n 21 3) (bits n 14 7) (bits n 7 7))
    else if fld n 0 7 = 2 then some (.notLane (runEnd n) (bits n 21 3) (bits n 14 7) (bits n 7 7))
    else if fld n 0 7 = 3 then some (.popcLane (runEnd n) (bits n 21 3) (bits n 14 7) (bits n 7 7))
    else if fld n 0 7 = 4 then some (.clzLane (runEnd n) (bits n 21 3) (bits n 14 7) (bits n 7 7))
    else if fld n 0 7 = 5 then some (.ctzLane (runEnd n) (bits n 21 3) (bits n 14 7) (bits n 7 7))
    else if fld n 0 7 = 6 then some (.brev (runEnd n) (bits n 21 3) (bits n 14 7) (bits n 7 7))
    else if fld n 0 7 = 7 then some (.bswap (runEnd n) (bits n 21 3) (bits n 14 7) (bits n 7 7))
    else if fld n 0 7 = 8 then some (.sext8 (runEnd n) (bits n 21 3) (bits n 14 7) (bits n 7 7))
    else if fld n 0 7 = 9 then some (.sext16 (runEnd n) (bits n 21 3) (bits n 14 7) (bits n 7 7))
    else if fld n 0 7 = 10 then some (.zext8 (runEnd n) (bits n 21 3) (bits n 14 7) (bits n 7 7))
    else if fld n 0 7 = 11 then some (.zext16 (runEnd n) (bits n 21 3) (bits n 14 7) (bits n 7 7))
    else none
  | 0x22 => some (.bfx (runEnd n) (bits n 21 3) (bits n 14 7) (bits n 7 7) (bits n 0 7))
  | 0x23 => some (.bfi (runEnd n) (bits n 21 3) (bits n 14 7) (bits n 7 7) (bits n 0 7))
  | 0x24 => some (.iaddi (runEnd n) (bits n 21 3) (bits n 14 7) (bits n 7 7) (bits n 0 7))
  | 0x25 => some (.imuli (runEnd n) (bits n 21 3) (bits n 14 7) (bits n 7 7) (bits n 0 7))
  | 0x26 => some (.andiLane (runEnd n) (bits n 21 3) (bits n 14 7) (bits n 7 7) (bits n 0 7))
  | 0x27 => some (.oriLane (runEnd n) (bits n 21 3) (bits n 14 7) (bits n 7 7) (bits n 0 7))
  | 0x28 => some (.xoriLane (runEnd n) (bits n 21 3) (bits n 14 7) (bits n 7 7) (bits n 0 7))
  | 0x29 => if fld n 5 2 = 0 then some (.shliLane (runEnd n) (bits n 21 3) (bits n 14 7) (bits n 7 7) (bits n 0 5))
    else none
  | 0x2A => if fld n 5 2 = 0 then some (.shriLane (runEnd n) (bits n 21 3) (bits n 14 7) (bits n 7 7) (bits n 0 5))
    else none
  | 0x2B => if fld n 5 2 = 0 then some (.sraiLane (runEnd n) (bits n 21 3) (bits n 14 7) (bits n 7 7) (bits n 0 5))
    else none
  | 0x2C => if fld n 5 2 = 0 then some (.srni (runEnd n) (bits n 21 3) (bits n 14 7) (bits n 7 7) (bits n 0 5))
    else none
  | 0x2D => some (.add2s (runEnd n) (bits n 21 3) (bits n 14 7) (bits n 7 7) (bits n 0 7))
  | 0x2E => some (.sub2s (runEnd n) (bits n 21 3) (bits n 14 7) (bits n 7 7) (bits n 0 7))
  | 0x2F => if fld n 6 1 = 0 then some (.dot2S (runEnd n) (bits n 21 3) (bits n 14 7) (bits n 7 7) (bits n 0 6))
    else if fld n 6 1 = 1 then some (.dot2U (runEnd n) (bits n 21 3) (bits n 14 7) (bits n 7 7) (bits n 0 6))
    else none
  | 0x30 => if fld n 6 1 = 0 then some (.dot4S (runEnd n) (bits n 21 3) (bits n 14 7) (bits n 7 7) (bits n 0 6))
    else if fld n 6 1 = 1 then some (.dot4U (runEnd n) (bits n 21 3) (bits n 14 7) (bits n 7 7) (bits n 0 6))
    else none
  | 0x31 => if fld n 6 1 = 0 then some (.dot8S (runEnd n) (bits n 21 3) (bits n 14 7) (bits n 7 7) (bits n 0 6))
    else if fld n 6 1 = 1 then some (.dot8U (runEnd n) (bits n 21 3) (bits n 14 7) (bits n 7 7) (bits n 0 6))
    else none
  | 0x32 => if fld n 6 1 = 0 then some (.fdot4E4m3 (runEnd n) (bits n 21 3) (bits n 14 7) (bits n 7 7) (bits n 0 6))
    else if fld n 6 1 = 1 then some (.fdot4E5m2 (runEnd n) (bits n 21 3) (bits n 14 7) (bits n 7 7) (bits n 0 6))
    else none
  | 0x33 => if fld n 6 1 = 0 then some (.fdot8 (runEnd n) (bits n 21 3) (bits n 14 7) (bits n 7 7) (bits n 0 6))
    else none
  | 0x34 => some (.cvt (runEnd n) (bits n 21 3) (bits n 14 7) (bits n 7 7) (bits n 2 5) (bits n 0 2))
  | 0x35 => some (.slide (runEnd n) (bits n 21 3) (bits n 14 7) (bits n 7 7) (bits n 5 2) (bits n 4 1) (bits n 0 4))
  | 0x36 => some (.shfl (runEnd n) (bits n 21 3) (bits n 14 7) (bits n 7 7) (bits n 0 7))
  | 0x37 => if fld n 20 4 = 0 ∧ fld n 5 2 = 0 then some (.tosLane (runEnd n) (bits n 14 6) (bits n 7 7) (bits n 0 5))
    else if fld n 20 1 = 0 then some (.tosReduce (runEnd n) (bits n 21 3) (bits n 14 6) (bits n 7 7) (bits n 0 7))
    else none
  | 0x38 => if fld n 13 1 = 0 ∧ fld n 0 7 = 0 then some (.tov (runEnd n) (bits n 21 3) (bits n 14 7) (bits n 7 6))
    else none
  | 0x39 => some (.scan (runEnd n) (bits n 21 3) (bits n 14 7) (bits n 7 7) (bits n 0 7))
  | 0x3A => some (.ld (runEnd n) (bits n 21 3) (bits n 14 7) (bits n 7 7) (bits n 3 4) (bits n 0 3))
  | 0x3B => some (.st (runEnd n) (bits n 21 3) (bits n 14 7) (bits n 7 7) (bits n 3 4) (bits n 0 3))
  | 0x3C => some (.atom (runEnd n) (bits n 21 3) (bits n 14 7) (bits n 7 7) (bits n 3 4) (bits n 0 3))
  | 0x3D => some (.red (runEnd n) (bits n 21 3) (bits n 14 7) (bits n 7 7) (bits n 3 4) (bits n 0 3))
  | 0x3E => some (.mma (runEnd n) (bits n 21 3) (bits n 14 7) (bits n 8 6) (bits n 5 3) (bits n 4 1) (bits n 3 1) (bits n 2 1) (bits n 0 2))
  | 0x3F => if fld n 2 6 = 0 then some (.accxRd (runEnd n) (bits n 21 3) (bits n 14 7) (bits n 8 6) (bits n 0 2))
    else if fld n 2 6 = 8 then some (.accxWr (runEnd n) (bits n 21 3) (bits n 14 7) (bits n 8 6) (bits n 0 2))
    else if fld n 2 6 = 16 then some (.accxRdz (runEnd n) (bits n 21 3) (bits n 14 7) (bits n 8 6) (bits n 0 2))
    else none
  | _ => none

/-- R254, R255: the scalar set. -/
def decodeScalar (n : Nat) : Option Instr :=
  match fld n 24 6 with
  | 0 => if n = 0x80000000 then some .nop else none
  | 0x01 => if fld n 0 12 = 19 then some (.popcScalar (runEnd n) (bits n 18 6) (bits n 12 6))
    else if fld n 0 12 = 20 then some (.clzScalar (runEnd n) (bits n 18 6) (bits n 12 6))
    else if fld n 0 12 = 21 then some (.ctzScalar (runEnd n) (bits n 18 6) (bits n 12 6))
    else if fld n 0 6 = 0 then some (.addScalar (runEnd n) (bits n 18 6) (bits n 12 6) (bits n 6 6))
    else if fld n 0 6 = 1 then some (.subScalar (runEnd n) (bits n 18 6) (bits n 12 6) (bits n 6 6))
    else if fld n 0 6 = 2 then some (.mulScalar (runEnd n) (bits n 18 6) (bits n 12 6) (bits n 6 6))
    else if fld n 0 6 = 3 then some (.mulh (runEnd n) (bits n 18 6) (bits n 12 6) (bits n 6 6))
    else if fld n 0 6 = 4 then some (.mulhu (runEnd n) (bits n 18 6) (bits n 12 6) (bits n 6 6))
    else if fld n 0 6 = 5 then some (.andScalar (runEnd n) (bits n 18 6) (bits n 12 6) (bits n 6 6))
    else if fld n 0 6 = 6 then some (.orScalar (runEnd n) (bits n 18 6) (bits n 12 6) (bits n 6 6))
    else if fld n 0 6 = 7 then some (.xorScalar (runEnd n) (bits n 18 6) (bits n 12 6) (bits n 6 6))
    else if fld n 0 6 = 8 then some (.shlScalar (runEnd n) (bits n 18 6) (bits n 12 6) (bits n 6 6))
    else if fld n 0 6 = 9 then some (.shrScalar (runEnd n) (bits n 18 6) (bits n 12 6) (bits n 6 6))
    else if fld n 0 6 = 10 then some (.sraScalar (runEnd n) (bits n 18 6) (bits n 12 6) (bits n 6 6))
    else if fld n 0 6 = 11 then some (.minScalar (runEnd n) (bits n 18 6) (bits n 12 6) (bits n 6 6))
    else if fld n 0 6 = 12 then some (.maxScalar (runEnd n) (bits n 18 6) (bits n 12 6) (bits n 6 6))
    else if fld n 0 6 = 13 then some (.minu (runEnd n) (bits n 18 6) (bits n 12 6) (bits n 6 6))
    else if fld n 0 6 = 14 then some (.maxu (runEnd n) (bits n 18 6) (bits n 12 6) (bits n 6 6))
    else if fld n 0 6 = 15 then some (.div (runEnd n) (bits n 18 6) (bits n 12 6) (bits n 6 6))
    else if fld n 0 6 = 16 then some (.divu (runEnd n) (bits n 18 6) (bits n 12 6) (bits n 6 6))
    else if fld n 0 6 = 17 then some (.rem (runEnd n) (bits n 18 6) (bits n 12 6) (bits n 6 6))
    else if fld n 0 6 = 18 then some (.remu (runEnd n) (bits n 18 6) (bits n 12 6) (bits n 6 6))
    else none
  | 0x02 => if fld n 0 6 = 0 then some (.cmp (runEnd n) (bits n 20 4) (bits n 18 2) (bits n 12 6) (bits n 6 6))
    else none
  | 0x03 => some (.addi (runEnd n) (bits n 18 6) (bits n 12 6) (bits n 0 12))
  | 0x04 => some (.andiScalar (runEnd n) (bits n 18 6) (bits n 12 6) (bits n 0 12))
  | 0x05 => some (.oriScalar (runEnd n) (bits n 18 6) (bits n 12 6) (bits n 0 12))
  | 0x06 => some (.xoriScalar (runEnd n) (bits n 18 6) (bits n 12 6) (bits n 0 12))
  | 0x07 => if fld n 5 7 = 0 then some (.shliScalar (runEnd n) (bits n 18 6) (bits n 12 6) (bits n 0 5))
    else none
  | 0x08 => if fld n 5 7 = 0 then some (.shriScalar (runEnd n) (bits n 18 6) (bits n 12 6) (bits n 0 5))
    else none
  | 0x09 => if fld n 5 7 = 0 then some (.sraiScalar (runEnd n) (bits n 18 6) (bits n 12 6) (bits n 0 5))
    else none
  | 0x0A => some (.cmpi (runEnd n) (bits n 20 4) (bits n 18 2) (bits n 12 6) (bits n 0 12))
  | 0x0B => some (.li (runEnd n) (bits n 18 6) (bits n 0 18))
  | 0x0C => if fld n 14 4 = 0 then some (.lui (runEnd n) (bits n 18 6) (bits n 0 14))
    else none
  | 0x0D => if fld n 21 3 = 0 ∧ fld n 15 3 = 0 ∧ fld n 0 12 = 4 then some (.mnot (runEnd n) (bits n 18 3) (bits n 12 3))
    else if fld n 21 3 = 0 ∧ fld n 15 3 = 0 ∧ fld n 9 3 = 0 ∧ fld n 0 6 = 0 then some (.mand (runEnd n) (bits n 18 3) (bits n 12 3) (bits n 6 3))
    else if fld n 21 3 = 0 ∧ fld n 15 3 = 0 ∧ fld n 9 3 = 0 ∧ fld n 0 6 = 1 then some (.mor (runEnd n) (bits n 18 3) (bits n 12 3) (bits n 6 3))
    else if fld n 21 3 = 0 ∧ fld n 15 3 = 0 ∧ fld n 9 3 = 0 ∧ fld n 0 6 = 2 then some (.mxor (runEnd n) (bits n 18 3) (bits n 12 3) (bits n 6 3))
    else if fld n 21 3 = 0 ∧ fld n 15 3 = 0 ∧ fld n 9 3 = 0 ∧ fld n 0 6 = 3 then some (.mandn (runEnd n) (bits n 18 3) (bits n 12 3) (bits n 6 3))
    else if fld n 21 3 = 0 ∧ fld n 0 12 = 5 then some (.mset (runEnd n) (bits n 18 3) (bits n 12 6))
    else if fld n 15 3 = 0 ∧ fld n 0 12 = 6 then some (.mget (runEnd n) (bits n 18 6) (bits n 12 3))
    else if fld n 15 3 = 0 ∧ fld n 0 12 = 7 then some (.mpopc (runEnd n) (bits n 18 6) (bits n 12 3))
    else if fld n 15 3 = 0 ∧ fld n 0 12 = 8 then some (.mfirst (runEnd n) (bits n 18 6) (bits n 12 3))
    else none
  | 0x0E => if fld n 20 4 = 0 then some (.b (runEnd n) (bits n 0 20))
    else none
  | 0x0F => some (.bc (runEnd n) (bits n 20 4) (bits n 0 20))
  | 0x10 => if fld n 19 1 = 0 then some (.bm (runEnd n) (bits n 23 1) (bits n 20 3) (bits n 0 19))
    else if fld n 19 1 = 1 then some (.bmG (runEnd n) (bits n 23 1) (bits n 20 3) (bits n 0 19))
    else none
  | 0x11 => if fld n 21 3 = 0 ∧ fld n 15 5 = 0 then some (.bxPreq (runEnd n) (bits n 20 1) (bits n 0 15))
    else if fld n 21 3 = 1 then some (.bxD (runEnd n) (bits n 20 1) (bits n 17 3) (bits n 15 2) (bits n 0 15))
    else none
  | 0x12 => if fld n 20 4 = 0 then some (.call (runEnd n) (bits n 0 20))
    else none
  | 0x13 => if fld n 18 6 = 0 ∧ fld n 0 12 = 0 then some (.jr (runEnd n) (bits n 12 6))
    else none
  | 0x14 => if fld n 0 24 = 0 then some (.couple (runEnd n))
    else none
  | 0x15 => if fld n 0 24 = 0 then some (.exit (runEnd n))
    else none
  | 0x16 => some (.wait (runEnd n) (bits n 18 6) (bits n 12 6) (bits n 6 6) (bits n 0 6))
  | 0x17 => if fld n 18 6 = 0 ∧ fld n 2 10 = 0 then some (.waitr (runEnd n) (bits n 12 6) (bits n 0 2))
    else none
  | 0x18 => if fld n 5 19 = 0 then some (.fence (runEnd n) (bits n 2 3) (bits n 0 2))
    else none
  | 0x19 => if fld n 23 1 = 0 ∧ fld n 0 20 = 0 then some (.xbeginNoTarget (runEnd n) (bits n 20 3))
    else if fld n 23 1 = 1 then some (.xbegin (runEnd n) (bits n 20 3) (bits n 0 20))
    else none
  | 0x1A => if fld n 20 4 = 0 then some (.xelse (runEnd n) (bits n 0 20))
    else none
  | 0x1B => if fld n 0 24 = 0 then some (.xend (runEnd n))
    else none
  | 0x1C => if fld n 0 24 = 0 then some (.xretry (runEnd n))
    else none
  | 0x1D => if fld n 8 16 = 0 then some (.xabort (runEnd n) (bits n 0 8))
    else none
  | 0x1E => if fld n 0 18 = 0 then some (.xstat (runEnd n) (bits n 18 6))
    else none
  | 0x1F => if fld n 18 6 = 0 ∧ fld n 0 6 = 0 then some (.barInit (runEnd n) (bits n 12 6) (bits n 6 6))
    else if fld n 12 6 = 0 ∧ fld n 0 6 = 1 then some (.barArrive (runEnd n) (bits n 18 6) (bits n 6 6))
    else if fld n 18 6 = 0 ∧ fld n 0 6 = 2 then some (.barWait (runEnd n) (bits n 12 6) (bits n 6 6))
    else if fld n 12 6 = 0 ∧ fld n 0 6 = 3 then some (.barSync (runEnd n) (bits n 18 6) (bits n 6 6))
    else if fld n 12 6 = 0 ∧ fld n 0 6 = 4 then some (.barRead (runEnd n) (bits n 18 6) (bits n 6 6))
    else none
  | 0x20 => if fld n 12 12 = 0 ∧ fld n 0 6 = 4 then some (.bufRel (runEnd n) (bits n 6 6))
    else if fld n 18 6 = 0 ∧ fld n 0 6 = 0 then some (.bufArm (runEnd n) (bits n 12 6) (bits n 6 6))
    else if fld n 18 6 = 0 ∧ fld n 0 6 = 1 then some (.bufArrive (runEnd n) (bits n 12 6) (bits n 6 6))
    else if fld n 18 6 = 0 ∧ fld n 0 6 = 3 then some (.bufWait (runEnd n) (bits n 12 6) (bits n 6 6))
    else if fld n 18 6 = 0 ∧ fld n 0 6 = 5 then some (.bufRgn (runEnd n) (bits n 12 6) (bits n 6 6))
    else if fld n 12 6 = 0 ∧ fld n 0 6 = 6 then some (.bufStat (runEnd n) (bits n 18 6) (bits n 6 6))
    else if fld n 12 6 = 0 ∧ fld n 0 6 = 7 then some (.bufCount (runEnd n) (bits n 18 6) (bits n 6 6))
    else if fld n 0 6 = 2 then some (.bufArriveCl (runEnd n) (bits n 18 6) (bits n 12 6) (bits n 6 6))
    else none
  | 0x21 => if fld n 0 12 = 0 then some (.cpy (runEnd n) (bits n 18 6) (bits n 12 6))
    else none
  | 0x22 => if fld n 12 12 = 0 ∧ fld n 0 6 = 2 then some (.tidInv (runEnd n) (bits n 6 6))
    else if fld n 15 3 = 0 ∧ fld n 0 6 = 1 then some (.tidRd (runEnd n) (bits n 18 6) (bits n 12 3) (bits n 6 6))
    else if fld n 0 6 = 0 then some (.tidSet (runEnd n) (bits n 18 6) (bits n 12 6) (bits n 6 6))
    else none
  | 0x23 => if fld n 0 18 = 2 then some (.strUnbind (runEnd n) (bits n 18 6))
    else if fld n 12 6 = 0 ∧ fld n 0 6 = 0 then some (.strBind (runEnd n) (bits n 18 6) (bits n 6 6))
    else if fld n 12 6 = 0 ∧ fld n 0 6 = 1 then some (.strBindE (runEnd n) (bits n 18 6) (bits n 6 6))
    else if fld n 0 12 = 3 then some (.strPeek (runEnd n) (bits n 18 6) (bits n 12 6))
    else if fld n 0 12 = 4 then some (.strSeek (runEnd n) (bits n 18 6) (bits n 12 6))
    else none
  | 0x24 => if fld n 0 18 = 5 then some (.resUse (runEnd n) (bits n 18 6))
    else if fld n 0 12 = 1 then some (.resPin (runEnd n) (bits n 18 6) (bits n 12 6))
    else if fld n 0 12 = 2 then some (.resUnpin (runEnd n) (bits n 18 6) (bits n 12 6))
    else if fld n 0 12 = 3 then some (.resRevoke (runEnd n) (bits n 18 6) (bits n 12 6))
    else if fld n 0 12 = 4 then some (.resStat (runEnd n) (bits n 18 6) (bits n 12 6))
    else if fld n 0 6 = 0 then some (.resLoad (runEnd n) (bits n 18 6) (bits n 12 6) (bits n 6 6))
    else none
  | 0x25 => if fld n 18 6 = 0 ∧ fld n 0 12 = 1 then some (.accFree (runEnd n) (bits n 12 6))
    else if fld n 18 6 = 0 ∧ fld n 0 12 = 2 then some (.accZero (runEnd n) (bits n 12 6))
    else if fld n 0 12 = 0 then some (.accAlloc (runEnd n) (bits n 18 6) (bits n 12 6))
    else none
  | 0x26 => if fld n 0 12 = 0 then some (.collPost (runEnd n) (bits n 18 6) (bits n 12 6))
    else if fld n 0 12 = 1 then some (.collCancel (runEnd n) (bits n 18 6) (bits n 12 6))
    else if fld n 0 12 = 2 then some (.collStat (runEnd n) (bits n 18 6) (bits n 12 6))
    else none
  | 0x27 => if fld n 0 24 = 0 then some (.trig (runEnd n))
    else none
  | 0x29 => some (.ldsB32 (runEnd n) (bits n 18 6) (bits n 12 6) (bits n 0 12))
  | 0x2A => some (.ldsB64 (runEnd n) (bits n 18 6) (bits n 12 6) (bits n 0 12))
  | 0x2B => some (.stsB32 (runEnd n) (bits n 18 6) (bits n 12 6) (bits n 0 12))
  | 0x2C => some (.stsB64 (runEnd n) (bits n 18 6) (bits n 12 6) (bits n 0 12))
  | 0x2D => some (.satom (runEnd n) (bits n 18 6) (bits n 12 6) (bits n 6 6) (bits n 3 3) (bits n 0 3))
  | 0x2E => if fld n 12 6 = 0 then some (.sysrd (runEnd n) (bits n 18 6) (bits n 0 12))
    else none
  | 0x2F => if fld n 18 6 = 0 then some (.syswr (runEnd n) (bits n 12 6) (bits n 0 12))
    else none
  | 0x30 => if fld n 18 6 = 0 then some (.trap (runEnd n) (bits n 0 18))
    else none
  | 0x31 => if fld n 16 8 = 0 then some (.brk (runEnd n) (bits n 0 16))
    else none
  | 0x32 => if fld n 0 24 = 0 then some (.rte (runEnd n))
    else none
  | 0x33 => if fld n 0 24 = 0 then some (.yield (runEnd n))
    else none
  | _ => none

/-- R267: the word's instruction before its reserved values are looked at. -/
def decodeRaw (n : Nat) : Option Instr := if fld n 31 1 = 0 then decodeLane n else decodeScalar n

/-- R267: decode a word. Legality beyond the role's budget is decided here, from the word alone (R266). -/
def decodeWord (w : Word) : Except Reject Instr :=
  match decodeRaw w.toNat with
  | some i => if wellFormed i then .ok i else .error .reservedValue
  | none =>
    let op := fld w.toNat 24 6
    if (if fld w.toNat 31 1 = 0 then opcodeLane op else opcodeScalar op) then .error .reservedField
    else .error .reservedOpcode

/-- R249: the word at the front of a list of bytes, little-endian, and the bytes after it. -/
def wordOfBytes : List Byte → Option (Word × List Byte)
  | b0 :: b1 :: b2 :: b3 :: rest => some (b3 ++ b2 ++ b1 ++ b0, rest)
  | _ => none

/-- Decode the instruction at the front of any bytes. -/
def decodeBytes (bs : List Byte) : Except Reject (Instr × List Byte) :=
  match wordOfBytes bs with
  | none => .error .tooShort
  | some (w, rest) => match decodeWord w with
    | .ok i => .ok (i, rest)
    | .error r => .error r

/-- R7: the four bytes of a word, lowest address first. -/
def bytesOfWord (w : Word) : List Byte :=
  [w.extractLsb' 0 8, w.extractLsb' 8 8, w.extractLsb' 16 8, w.extractLsb' 24 8]

def ende (e : Bool) : Nat := if e then 0x40000000 else 0

/-- The number of an instruction's word, from the layouts of R252 and R254; none for a step that is no word. -/
def encodeNat : Instr → Option Nat
  | .fadd e k d a b => some (0x01000000 + ende e + k.toNat * 2097152 + d.toNat * 16384 + a.toNat * 128 + b.toNat)
  | .fsub e k d a b => some (0x02000000 + ende e + k.toNat * 2097152 + d.toNat * 16384 + a.toNat * 128 + b.toNat)
  | .fmul e k d a b => some (0x03000000 + ende e + k.toNat * 2097152 + d.toNat * 16384 + a.toNat * 128 + b.toNat)
  | .ffma e k d a b => some (0x04000000 + ende e + k.toNat * 2097152 + d.toNat * 16384 + a.toNat * 128 + b.toNat)
  | .fmin e k d a b => some (0x05000000 + ende e + k.toNat * 2097152 + d.toNat * 16384 + a.toNat * 128 + b.toNat)
  | .fmax e k d a b => some (0x06000000 + ende e + k.toNat * 2097152 + d.toNat * 16384 + a.toNat * 128 + b.toNat)
  | .fcmp e k m c a b => some (0x07000000 + ende e + k.toNat * 2097152 + m.toNat * 262144 + c.toNat * 16384 + a.toNat * 128 + b.toNat)
  | .fneg e k d a => some (0x08000000 + ende e + k.toNat * 2097152 + d.toNat * 16384 + a.toNat * 128)
  | .fabs e k d a => some (0x08000001 + ende e + k.toNat * 2097152 + d.toNat * 16384 + a.toNat * 128)
  | .fsqrt e k d a => some (0x08000002 + ende e + k.toNat * 2097152 + d.toNat * 16384 + a.toNat * 128)
  | .frcp e k d a => some (0x08000003 + ende e + k.toNat * 2097152 + d.toNat * 16384 + a.toNat * 128)
  | .frsqrt e k d a => some (0x08000004 + ende e + k.toNat * 2097152 + d.toNat * 16384 + a.toNat * 128)
  | .fexp2 e k d a => some (0x08000005 + ende e + k.toNat * 2097152 + d.toNat * 16384 + a.toNat * 128)
  | .flog2 e k d a => some (0x08000006 + ende e + k.toNat * 2097152 + d.toNat * 16384 + a.toNat * 128)
  | .fsin e k d a => some (0x08000007 + ende e + k.toNat * 2097152 + d.toNat * 16384 + a.toNat * 128)
  | .fcos e k d a => some (0x08000008 + ende e + k.toNat * 2097152 + d.toNat * 16384 + a.toNat * 128)
  | .frint e k d a => some (0x08000009 + ende e + k.toNat * 2097152 + d.toNat * 16384 + a.toNat * 128)
  | .ffloor e k d a => some (0x0800000A + ende e + k.toNat * 2097152 + d.toNat * 16384 + a.toNat * 128)
  | .fceil e k d a => some (0x0800000B + ende e + k.toNat * 2097152 + d.toNat * 16384 + a.toNat * 128)
  | .ftrunc e k d a => some (0x0800000C + ende e + k.toNat * 2097152 + d.toNat * 16384 + a.toNat * 128)
  | .fclass e k d a => some (0x0800000D + ende e + k.toNat * 2097152 + d.toNat * 16384 + a.toNat * 128)
  | .sel e k d a b => some (0x09000000 + ende e + k.toNat * 2097152 + d.toNat * 16384 + a.toNat * 128 + b.toNat)
  | .hfma2 e k d a b => some (0x0A000000 + ende e + k.toNat * 2097152 + d.toNat * 16384 + a.toNat * 128 + b.toNat)
  | .bfma2 e k d a b => some (0x0B000000 + ende e + k.toNat * 2097152 + d.toNat * 16384 + a.toNat * 128 + b.toNat)
  | .ldAcq e k d a z s => some (0x0C000000 + ende e + k.toNat * 2097152 + d.toNat * 16384 + a.toNat * 128 + z.toNat * 8 + s.toNat)
  | .stRel e k d a z s => some (0x0D000000 + ende e + k.toNat * 2097152 + d.toNat * 16384 + a.toNat * 128 + z.toNat * 8 + s.toNat)
  | .pfx e k a b l => some (0x0E000000 + ende e + k.toNat * 2097152 + a.toNat * 128 + b.toNat * 8 + l.toNat)
  | .iadd e k d a b => some (0x10000000 + ende e + k.toNat * 2097152 + d.toNat * 16384 + a.toNat * 128 + b.toNat)
  | .isub e k d a b => some (0x11000000 + ende e + k.toNat * 2097152 + d.toNat * 16384 + a.toNat * 128 + b.toNat)
  | .imul e k d a b => some (0x12000000 + ende e + k.toNat * 2097152 + d.toNat * 16384 + a.toNat * 128 + b.toNat)
  | .imulh e k d a b => some (0x13000000 + ende e + k.toNat * 2097152 + d.toNat * 16384 + a.toNat * 128 + b.toNat)
  | .umulh e k d a b => some (0x14000000 + ende e + k.toNat * 2097152 + d.toNat * 16384 + a.toNat * 128 + b.toNat)
  | .imad e k d a b => some (0x15000000 + ende e + k.toNat * 2097152 + d.toNat * 16384 + a.toNat * 128 + b.toNat)
  | .andLane e k d a b => some (0x16000000 + ende e + k.toNat * 2097152 + d.toNat * 16384 + a.toNat * 128 + b.toNat)
  | .orLane e k d a b => some (0x17000000 + ende e + k.toNat * 2097152 + d.toNat * 16384 + a.toNat * 128 + b.toNat)
  | .xorLane e k d a b => some (0x18000000 + ende e + k.toNat * 2097152 + d.toNat * 16384 + a.toNat * 128 + b.toNat)
  | .shlLane e k d a b => some (0x19000000 + ende e + k.toNat * 2097152 + d.toNat * 16384 + a.toNat * 128 + b.toNat)
  | .shrLane e k d a b => some (0x1A000000 + ende e + k.toNat * 2097152 + d.toNat * 16384 + a.toNat * 128 + b.toNat)
  | .sraLane e k d a b => some (0x1B000000 + ende e + k.toNat * 2097152 + d.toNat * 16384 + a.toNat * 128 + b.toNat)
  | .imin e k d a b => some (0x1C000000 + ende e + k.toNat * 2097152 + d.toNat * 16384 + a.toNat * 128 + b.toNat)
  | .imax e k d a b => some (0x1D000000 + ende e + k.toNat * 2097152 + d.toNat * 16384 + a.toNat * 128 + b.toNat)
  | .umin e k d a b => some (0x1E000000 + ende e + k.toNat * 2097152 + d.toNat * 16384 + a.toNat * 128 + b.toNat)
  | .umax e k d a b => some (0x1F000000 + ende e + k.toNat * 2097152 + d.toNat * 16384 + a.toNat * 128 + b.toNat)
  | .icmp e k m c a b => some (0x20000000 + ende e + k.toNat * 2097152 + m.toNat * 262144 + c.toNat * 16384 + a.toNat * 128 + b.toNat)
  | .ineg e k d a => some (0x21000000 + ende e + k.toNat * 2097152 + d.toNat * 16384 + a.toNat * 128)
  | .iabs e k d a => some (0x21000001 + ende e + k.toNat * 2097152 + d.toNat * 16384 + a.toNat * 128)
  | .notLane e k d a => some (0x21000002 + ende e + k.toNat * 2097152 + d.toNat * 16384 + a.toNat * 128)
  | .popcLane e k d a => some (0x21000003 + ende e + k.toNat * 2097152 + d.toNat * 16384 + a.toNat * 128)
  | .clzLane e k d a => some (0x21000004 + ende e + k.toNat * 2097152 + d.toNat * 16384 + a.toNat * 128)
  | .ctzLane e k d a => some (0x21000005 + ende e + k.toNat * 2097152 + d.toNat * 16384 + a.toNat * 128)
  | .brev e k d a => some (0x21000006 + ende e + k.toNat * 2097152 + d.toNat * 16384 + a.toNat * 128)
  | .bswap e k d a => some (0x21000007 + ende e + k.toNat * 2097152 + d.toNat * 16384 + a.toNat * 128)
  | .sext8 e k d a => some (0x21000008 + ende e + k.toNat * 2097152 + d.toNat * 16384 + a.toNat * 128)
  | .sext16 e k d a => some (0x21000009 + ende e + k.toNat * 2097152 + d.toNat * 16384 + a.toNat * 128)
  | .zext8 e k d a => some (0x2100000A + ende e + k.toNat * 2097152 + d.toNat * 16384 + a.toNat * 128)
  | .zext16 e k d a => some (0x2100000B + ende e + k.toNat * 2097152 + d.toNat * 16384 + a.toNat * 128)
  | .laneid e k d => some (0x2100000C + ende e + k.toNat * 2097152 + d.toNat * 16384)
  | .bfx e k d a b => some (0x22000000 + ende e + k.toNat * 2097152 + d.toNat * 16384 + a.toNat * 128 + b.toNat)
  | .bfi e k d a b => some (0x23000000 + ende e + k.toNat * 2097152 + d.toNat * 16384 + a.toNat * 128 + b.toNat)
  | .iaddi e k d a i => some (0x24000000 + ende e + k.toNat * 2097152 + d.toNat * 16384 + a.toNat * 128 + i.toNat)
  | .imuli e k d a i => some (0x25000000 + ende e + k.toNat * 2097152 + d.toNat * 16384 + a.toNat * 128 + i.toNat)
  | .andiLane e k d a i => some (0x26000000 + ende e + k.toNat * 2097152 + d.toNat * 16384 + a.toNat * 128 + i.toNat)
  | .oriLane e k d a i => some (0x27000000 + ende e + k.toNat * 2097152 + d.toNat * 16384 + a.toNat * 128 + i.toNat)
  | .xoriLane e k d a i => some (0x28000000 + ende e + k.toNat * 2097152 + d.toNat * 16384 + a.toNat * 128 + i.toNat)
  | .shliLane e k d a i => some (0x29000000 + ende e + k.toNat * 2097152 + d.toNat * 16384 + a.toNat * 128 + i.toNat)
  | .shriLane e k d a i => some (0x2A000000 + ende e + k.toNat * 2097152 + d.toNat * 16384 + a.toNat * 128 + i.toNat)
  | .sraiLane e k d a i => some (0x2B000000 + ende e + k.toNat * 2097152 + d.toNat * 16384 + a.toNat * 128 + i.toNat)
  | .srni e k d a i => some (0x2C000000 + ende e + k.toNat * 2097152 + d.toNat * 16384 + a.toNat * 128 + i.toNat)
  | .add2s e k d a b => some (0x2D000000 + ende e + k.toNat * 2097152 + d.toNat * 16384 + a.toNat * 128 + b.toNat)
  | .sub2s e k d a b => some (0x2E000000 + ende e + k.toNat * 2097152 + d.toNat * 16384 + a.toNat * 128 + b.toNat)
  | .dot2S e k d a b => some (0x2F000000 + ende e + k.toNat * 2097152 + d.toNat * 16384 + a.toNat * 128 + b.toNat)
  | .dot2U e k d a b => some (0x2F000040 + ende e + k.toNat * 2097152 + d.toNat * 16384 + a.toNat * 128 + b.toNat)
  | .dot4S e k d a b => some (0x30000000 + ende e + k.toNat * 2097152 + d.toNat * 16384 + a.toNat * 128 + b.toNat)
  | .dot4U e k d a b => some (0x30000040 + ende e + k.toNat * 2097152 + d.toNat * 16384 + a.toNat * 128 + b.toNat)
  | .dot8S e k d a b => some (0x31000000 + ende e + k.toNat * 2097152 + d.toNat * 16384 + a.toNat * 128 + b.toNat)
  | .dot8U e k d a b => some (0x31000040 + ende e + k.toNat * 2097152 + d.toNat * 16384 + a.toNat * 128 + b.toNat)
  | .fdot4E4m3 e k d a b => some (0x32000000 + ende e + k.toNat * 2097152 + d.toNat * 16384 + a.toNat * 128 + b.toNat)
  | .fdot4E5m2 e k d a b => some (0x32000040 + ende e + k.toNat * 2097152 + d.toNat * 16384 + a.toNat * 128 + b.toNat)
  | .fdot8 e k d a b => some (0x33000000 + ende e + k.toNat * 2097152 + d.toNat * 16384 + a.toNat * 128 + b.toNat)
  | .cvt e k d a c r => some (0x34000000 + ende e + k.toNat * 2097152 + d.toNat * 16384 + a.toNat * 128 + c.toNat * 4 + r.toNat)
  | .slide e k d a f g n => some (0x35000000 + ende e + k.toNat * 2097152 + d.toNat * 16384 + a.toNat * 128 + f.toNat * 32 + g.toNat * 16 + n.toNat)
  | .shfl e k d a b => some (0x36000000 + ende e + k.toNat * 2097152 + d.toNat * 16384 + a.toNat * 128 + b.toNat)
  | .tosLane e s a n => some (0x37000000 + ende e + s.toNat * 16384 + a.toNat * 128 + n.toNat)
  | .tosReduce e k s a f => some (0x37000000 + ende e + k.toNat * 2097152 + s.toNat * 16384 + a.toNat * 128 + f.toNat)
  | .tov e k d s => some (0x38000000 + ende e + k.toNat * 2097152 + d.toNat * 16384 + s.toNat * 128)
  | .scan e k d a f => some (0x39000000 + ende e + k.toNat * 2097152 + d.toNat * 16384 + a.toNat * 128 + f.toNat)
  | .ld e k d a b z => some (0x3A000000 + ende e + k.toNat * 2097152 + d.toNat * 16384 + a.toNat * 128 + b.toNat * 8 + z.toNat)
  | .st e k d a b z => some (0x3B000000 + ende e + k.toNat * 2097152 + d.toNat * 16384 + a.toNat * 128 + b.toNat * 8 + z.toNat)
  | .atom e k d a o s => some (0x3C000000 + ende e + k.toNat * 2097152 + d.toNat * 16384 + a.toNat * 128 + o.toNat * 8 + s.toNat)
  | .red e k d a o s => some (0x3D000000 + ende e + k.toNat * 2097152 + d.toNat * 16384 + a.toNat * 128 + o.toNat * 8 + s.toNat)
  | .mma e k a x f r l z c => some (0x3E000000 + ende e + k.toNat * 2097152 + a.toNat * 16384 + x.toNat * 256 + f.toNat * 32 + r.toNat * 16 + l.toNat * 8 + z.toNat * 4 + c.toNat)
  | .accxRd e k a x w => some (0x3F000000 + ende e + k.toNat * 2097152 + a.toNat * 16384 + x.toNat * 256 + w.toNat)
  | .accxWr e k a x w => some (0x3F000020 + ende e + k.toNat * 2097152 + a.toNat * 16384 + x.toNat * 256 + w.toNat)
  | .accxRdz e k a x w => some (0x3F000040 + ende e + k.toNat * 2097152 + a.toNat * 16384 + x.toNat * 256 + w.toNat)
  | .nop => some 0x80000000
  | .addScalar e d a b => some (0x81000000 + ende e + d.toNat * 262144 + a.toNat * 4096 + b.toNat * 64)
  | .subScalar e d a b => some (0x81000001 + ende e + d.toNat * 262144 + a.toNat * 4096 + b.toNat * 64)
  | .mulScalar e d a b => some (0x81000002 + ende e + d.toNat * 262144 + a.toNat * 4096 + b.toNat * 64)
  | .mulh e d a b => some (0x81000003 + ende e + d.toNat * 262144 + a.toNat * 4096 + b.toNat * 64)
  | .mulhu e d a b => some (0x81000004 + ende e + d.toNat * 262144 + a.toNat * 4096 + b.toNat * 64)
  | .andScalar e d a b => some (0x81000005 + ende e + d.toNat * 262144 + a.toNat * 4096 + b.toNat * 64)
  | .orScalar e d a b => some (0x81000006 + ende e + d.toNat * 262144 + a.toNat * 4096 + b.toNat * 64)
  | .xorScalar e d a b => some (0x81000007 + ende e + d.toNat * 262144 + a.toNat * 4096 + b.toNat * 64)
  | .shlScalar e d a b => some (0x81000008 + ende e + d.toNat * 262144 + a.toNat * 4096 + b.toNat * 64)
  | .shrScalar e d a b => some (0x81000009 + ende e + d.toNat * 262144 + a.toNat * 4096 + b.toNat * 64)
  | .sraScalar e d a b => some (0x8100000A + ende e + d.toNat * 262144 + a.toNat * 4096 + b.toNat * 64)
  | .minScalar e d a b => some (0x8100000B + ende e + d.toNat * 262144 + a.toNat * 4096 + b.toNat * 64)
  | .maxScalar e d a b => some (0x8100000C + ende e + d.toNat * 262144 + a.toNat * 4096 + b.toNat * 64)
  | .minu e d a b => some (0x8100000D + ende e + d.toNat * 262144 + a.toNat * 4096 + b.toNat * 64)
  | .maxu e d a b => some (0x8100000E + ende e + d.toNat * 262144 + a.toNat * 4096 + b.toNat * 64)
  | .div e d a b => some (0x8100000F + ende e + d.toNat * 262144 + a.toNat * 4096 + b.toNat * 64)
  | .divu e d a b => some (0x81000010 + ende e + d.toNat * 262144 + a.toNat * 4096 + b.toNat * 64)
  | .rem e d a b => some (0x81000011 + ende e + d.toNat * 262144 + a.toNat * 4096 + b.toNat * 64)
  | .remu e d a b => some (0x81000012 + ende e + d.toNat * 262144 + a.toNat * 4096 + b.toNat * 64)
  | .popcScalar e d a => some (0x81000013 + ende e + d.toNat * 262144 + a.toNat * 4096)
  | .clzScalar e d a => some (0x81000014 + ende e + d.toNat * 262144 + a.toNat * 4096)
  | .ctzScalar e d a => some (0x81000015 + ende e + d.toNat * 262144 + a.toNat * 4096)
  | .cmp e c n a b => some (0x82000000 + ende e + c.toNat * 1048576 + n.toNat * 262144 + a.toNat * 4096 + b.toNat * 64)
  | .addi e d a i => some (0x83000000 + ende e + d.toNat * 262144 + a.toNat * 4096 + i.toNat)
  | .andiScalar e d a i => some (0x84000000 + ende e + d.toNat * 262144 + a.toNat * 4096 + i.toNat)
  | .oriScalar e d a i => some (0x85000000 + ende e + d.toNat * 262144 + a.toNat * 4096 + i.toNat)
  | .xoriScalar e d a i => some (0x86000000 + ende e + d.toNat * 262144 + a.toNat * 4096 + i.toNat)
  | .shliScalar e d a i => some (0x87000000 + ende e + d.toNat * 262144 + a.toNat * 4096 + i.toNat)
  | .shriScalar e d a i => some (0x88000000 + ende e + d.toNat * 262144 + a.toNat * 4096 + i.toNat)
  | .sraiScalar e d a i => some (0x89000000 + ende e + d.toNat * 262144 + a.toNat * 4096 + i.toNat)
  | .cmpi e c n a i => some (0x8A000000 + ende e + c.toNat * 1048576 + n.toNat * 262144 + a.toNat * 4096 + i.toNat)
  | .li e d i => some (0x8B000000 + ende e + d.toNat * 262144 + i.toNat)
  | .lui e d i => some (0x8C000000 + ende e + d.toNat * 262144 + i.toNat)
  | .mand e d a b => some (0x8D000000 + ende e + d.toNat * 262144 + a.toNat * 4096 + b.toNat * 64)
  | .mor e d a b => some (0x8D000001 + ende e + d.toNat * 262144 + a.toNat * 4096 + b.toNat * 64)
  | .mxor e d a b => some (0x8D000002 + ende e + d.toNat * 262144 + a.toNat * 4096 + b.toNat * 64)
  | .mandn e d a b => some (0x8D000003 + ende e + d.toNat * 262144 + a.toNat * 4096 + b.toNat * 64)
  | .mnot e d a => some (0x8D000004 + ende e + d.toNat * 262144 + a.toNat * 4096)
  | .mset e d a => some (0x8D000005 + ende e + d.toNat * 262144 + a.toNat * 4096)
  | .mget e d a => some (0x8D000006 + ende e + d.toNat * 262144 + a.toNat * 4096)
  | .mpopc e d a => some (0x8D000007 + ende e + d.toNat * 262144 + a.toNat * 4096)
  | .mfirst e d a => some (0x8D000008 + ende e + d.toNat * 262144 + a.toNat * 4096)
  | .b e o => some (0x8E000000 + ende e + o.toNat)
  | .bc e c o => some (0x8F000000 + ende e + c.toNat * 1048576 + o.toNat)
  | .bm e z m o => some (0x90000000 + ende e + z.toNat * 8388608 + m.toNat * 1048576 + o.toNat)
  | .bmG e z m o => some (0x90080000 + ende e + z.toNat * 8388608 + m.toNat * 1048576 + o.toNat)
  | .bxPreq e p o => some (0x91000000 + ende e + p.toNat * 1048576 + o.toNat)
  | .bxD e p n f o => some (0x91200000 + ende e + p.toNat * 1048576 + n.toNat * 131072 + f.toNat * 32768 + o.toNat)
  | .call e o => some (0x92000000 + ende e + o.toNat)
  | .jr e a => some (0x93000000 + ende e + a.toNat * 4096)
  | .couple e => some (0x94000000 + ende e)
  | .exit e => some (0x95000000 + ende e)
  | .wait e l s c t => some (0x96000000 + ende e + l.toNat * 262144 + s.toNat * 4096 + c.toNat * 64 + t.toNat)
  | .waitr e a c => some (0x97000000 + ende e + a.toNat * 4096 + c.toNat)
  | .fence e s q => some (0x98000000 + ende e + s.toNat * 4 + q.toNat)
  | .xbegin e s o => some (0x99800000 + ende e + s.toNat * 1048576 + o.toNat)
  | .xbeginNoTarget e s => some (0x99000000 + ende e + s.toNat * 1048576)
  | .xelse e o => some (0x9A000000 + ende e + o.toNat)
  | .xend e => some (0x9B000000 + ende e)
  | .xretry e => some (0x9C000000 + ende e)
  | .xabort e c => some (0x9D000000 + ende e + c.toNat)
  | .xstat e d => some (0x9E000000 + ende e + d.toNat * 262144)
  | .barInit e a i => some (0x9F000000 + ende e + a.toNat * 4096 + i.toNat * 64)
  | .barArrive e d i => some (0x9F000001 + ende e + d.toNat * 262144 + i.toNat * 64)
  | .barWait e a i => some (0x9F000002 + ende e + a.toNat * 4096 + i.toNat * 64)
  | .barSync e d i => some (0x9F000003 + ende e + d.toNat * 262144 + i.toNat * 64)
  | .barRead e d i => some (0x9F000004 + ende e + d.toNat * 262144 + i.toNat * 64)
  | .bufArm e a h => some (0xA0000000 + ende e + a.toNat * 4096 + h.toNat * 64)
  | .bufArrive e a h => some (0xA0000001 + ende e + a.toNat * 4096 + h.toNat * 64)
  | .bufArriveCl e d a h => some (0xA0000002 + ende e + d.toNat * 262144 + a.toNat * 4096 + h.toNat * 64)
  | .bufWait e a h => some (0xA0000003 + ende e + a.toNat * 4096 + h.toNat * 64)
  | .bufRel e h => some (0xA0000004 + ende e + h.toNat * 64)
  | .bufRgn e a h => some (0xA0000005 + ende e + a.toNat * 4096 + h.toNat * 64)
  | .bufStat e d h => some (0xA0000006 + ende e + d.toNat * 262144 + h.toNat * 64)
  | .bufCount e d h => some (0xA0000007 + ende e + d.toNat * 262144 + h.toNat * 64)
  | .cpy e d a => some (0xA1000000 + ende e + d.toNat * 262144 + a.toNat * 4096)
  | .tidSet e d a t => some (0xA2000000 + ende e + d.toNat * 262144 + a.toNat * 4096 + t.toNat * 64)
  | .tidRd e d k t => some (0xA2000001 + ende e + d.toNat * 262144 + k.toNat * 4096 + t.toNat * 64)
  | .tidInv e t => some (0xA2000002 + ende e + t.toNat * 64)
  | .strBind e n t => some (0xA3000000 + ende e + n.toNat * 262144 + t.toNat * 64)
  | .strBindE e n t => some (0xA3000001 + ende e + n.toNat * 262144 + t.toNat * 64)
  | .strUnbind e n => some (0xA3000002 + ende e + n.toNat * 262144)
  | .strPeek e d n => some (0xA3000003 + ende e + d.toNat * 262144 + n.toNat * 4096)
  | .strSeek e n a => some (0xA3000004 + ende e + n.toNat * 262144 + a.toNat * 4096)
  | .resLoad e d a b => some (0xA4000000 + ende e + d.toNat * 262144 + a.toNat * 4096 + b.toNat * 64)
  | .resPin e d a => some (0xA4000001 + ende e + d.toNat * 262144 + a.toNat * 4096)
  | .resUnpin e d a => some (0xA4000002 + ende e + d.toNat * 262144 + a.toNat * 4096)
  | .resRevoke e d a => some (0xA4000003 + ende e + d.toNat * 262144 + a.toNat * 4096)
  | .resStat e d a => some (0xA4000004 + ende e + d.toNat * 262144 + a.toNat * 4096)
  | .resUse e d => some (0xA4000005 + ende e + d.toNat * 262144)
  | .accAlloc e d a => some (0xA5000000 + ende e + d.toNat * 262144 + a.toNat * 4096)
  | .accFree e a => some (0xA5000001 + ende e + a.toNat * 4096)
  | .accZero e a => some (0xA5000002 + ende e + a.toNat * 4096)
  | .collPost e d a => some (0xA6000000 + ende e + d.toNat * 262144 + a.toNat * 4096)
  | .collCancel e d a => some (0xA6000001 + ende e + d.toNat * 262144 + a.toNat * 4096)
  | .collStat e d a => some (0xA6000002 + ende e + d.toNat * 262144 + a.toNat * 4096)
  | .trig e => some (0xA7000000 + ende e)
  | .ldsB32 e d a i => some (0xA9000000 + ende e + d.toNat * 262144 + a.toNat * 4096 + i.toNat)
  | .ldsB64 e d a i => some (0xAA000000 + ende e + d.toNat * 262144 + a.toNat * 4096 + i.toNat)
  | .stsB32 e d a i => some (0xAB000000 + ende e + d.toNat * 262144 + a.toNat * 4096 + i.toNat)
  | .stsB64 e d a i => some (0xAC000000 + ende e + d.toNat * 262144 + a.toNat * 4096 + i.toNat)
  | .satom e d a b o p => some (0xAD000000 + ende e + d.toNat * 262144 + a.toNat * 4096 + b.toNat * 64 + o.toNat * 8 + p.toNat)
  | .sysrd e d i => some (0xAE000000 + ende e + d.toNat * 262144 + i.toNat)
  | .syswr e a i => some (0xAF000000 + ende e + a.toNat * 4096 + i.toNat)
  | .trap e i => some (0xB0000000 + ende e + i.toNat)
  | .brk e t => some (0xB1000000 + ende e + t.toNat)
  | .rte e => some (0xB2000000 + ende e)
  | .yield e => some (0xB3000000 + ende e)
  | .memlocQuery .. => none
  | .fmodeWrite .. => none
  | .satfClear .. => none
  | .rqdataWrite .. => none
  | .groupSelect .. => none
  | .walkEngineGrant .. => none
  | .atsTranslationCompletion .. => none
  | .atsInvalidateRequest .. => none
  | .pageResponse .. => none
  | .memoryAccessCompletion .. => none
  | .stalledRecordPost .. => none
  | .tqheadWrite .. => none
  | .tqctlWrite .. => none
  | .commitLockGrant .. => none
  | .overflowWake .. => none
  | .homeSliceRead .. => none
  | .homeSliceWrite .. => none
  | .homeSliceAtomic .. => none
  | .moved .. => none
  | .rsdrop .. => none
  | .resurveyTakeParcel .. => none
  | .resurveyLineCopy .. => none
  | .parcelSwitch .. => none
  | .switchDrainComplete .. => none
  | .singleParcelMove .. => none
  | .baseDieRead .. => none
  | .baseDieWrite .. => none
  | .baseDieMaskedWrite .. => none
  | .refreshRate .. => none
  | .selfRefreshEntryRequest .. => none
  | .selfRefreshExitRequest .. => none
  | .neighbourRefresh .. => none
  | .baseDieReply .. => none
  | .tagTimeout .. => none
  | .tokenRefill .. => none
  | .refreshDue .. => none
  | .hotRowWindowEnd .. => none
  | .selfRefreshTimerExpiry .. => none
  | .selfRefreshEntryComplete .. => none
  | .selfRefreshExitComplete .. => none
  | .perambulatorLineRead .. => none
  | .rowLogExpiry .. => none
  | .mbxTrain .. => none
  | .mbxRowRepair .. => none
  | .mbxSetRefresh .. => none
  | .mbxReadRowLog .. => none
  | .mbxRepairRowsLeft .. => none
  | .cecntWrite .. => none
  | .bufferArrival .. => none
  | .copyIssue .. => none
  | .copyComplete .. => none
  | .residencyFillComplete .. => none
  | .engineGrant .. => none
  | .scrubComplete .. => none
  | .notify .. => none
  | .qctlWrite .. => none
  | .nopCommand .. => none
  | .launch .. => none
  | .indirect .. => none
  | .signal .. => none
  | .waiteq .. => none
  | .qfence .. => none
  | .invalStage1 .. => none
  | .invalStage2 .. => none
  | .invalPartition .. => none
  | .replayRetry .. => none
  | .replayFail .. => none
  | .partcfg .. => none
  | .partrst .. => none
  | .teamAdmission .. => none
  | .worldSwitchQuantumExpiry .. => none
  | .pluginTimeout .. => none
  | .psaveDeadlineExpiry .. => none
  | .contextSave .. => none
  | .contextRestore .. => none
  | .shareMeasurement .. => none
  | .hostBar4Read .. => none
  | .hostBar4Write .. => none
  | .hostAtomicop .. => none
  | .functionLevelReset .. => none
  | .ualinkInboundRead .. => none
  | .ualinkInboundWrite .. => none
  | .ualinkInboundAtomic .. => none
  | .peerTranslationQuery .. => none
  | .replayReplyCacheExpiry .. => none
  | .ualinkCompletion .. => none
  | .peerRequestTimeout .. => none
  | .assignNum .. => none
  | .numbered .. => none
  | .cancel .. => none
  | .reply .. => none
  | .hole .. => none
  | .ready .. => none
  | .go .. => none
  | .done .. => none
  | .collect .. => none
  | .report .. => none
  | .failoverRequest .. => none
  | .sequencerTimeout .. => none
  | .collectiveLocalCompletion .. => none
  | .iftRun .. => none
  | .linkInjectorArm .. => none
  | .linkInjection .. => none
  | .stallSample .. => none
  | .trheadWrite .. => none
  | .dbgstop .. => none
  | .ctrClaim .. => none
  | .ctrRelease .. => none
  | .ctrselWrite .. => none
  | .capselWrite .. => none
  | .fwLoadPlugin .. => none
  | .fwUnloadPlugin .. => none
  | .fwInstallCommunicator .. => none
  | .fwRemoveCommunicator .. => none
  | .fwWritePeerAccess .. => none
  | .fwReadmitPeer .. => none
  | .fwOrderFailover .. => none
  | .fwAttestationReport .. => none
  | .exportPart .. => none
  | .importPart .. => none
  | .hold .. => none
  | .release .. => none
  | .fwStoreAccid .. => none
  | .startUp .. => none
  | .pwrmonUpdate .. => none
  | .pwrmonWrite .. => none
  | .thermalLimit .. => none
  | .registerWrite .. => none
  | .ualinkLinkDown .. => none
  | .ualinkLinkUp .. => none
  | .baseDieLinkFailure .. => none

/-- The word of an instruction. -/
def encode (i : Instr) : Option Word := (encodeNat i).map (BitVec.ofNat 32)

/-- The table's numbering of a row's bits (all words are 32 bits): laid out as the hardware stores it and decoded. -/
def decodeTableWord (nbits w : Nat) : Option Instr :=
  if nbits ≤ 32 then
    match decodeBytes (bytesOfWord (BitVec.ofNat 32 (w % 2 ^ nbits))) with
    | .ok (i, _) => some i
    | .error _ => none
  else none

/-- R197, R266: decode under a role's budget of lane registers. -/
def decodeFor (budget : Nat) (w : Word) : Except Reject Instr :=
  match decodeWord w with
  | .ok i => if laneRegsOf i ≤ budget then .ok i else .error .reservedValue
  | .error r => .error r

end Sys2Proof
end

