-- ==== Sys2Proof/Config.lean ====
section
/-! DEFINITION. What the part fixes (R1: one configuration exists), and the free values: constants with no body, for the
points at which the spec allows several values or names no value. -/

namespace Sys2Proof.Config

/-! ## The module (R1, R2, R53, R54, R195) -/

def nDies : Nat := 3
def nCores : Nat := 192
def nEngines : Nat := 48
def nStacks : Nat := 12
def nSlices : Nat := 384
def nParcels : Nat := 286720
/-- R55: groups of five frames in the reserved area of 8,192 frames; two frames are left over. -/
def nReserved : Nat := 1638
def nFrames : Nat := 131072
/-- R33: local device memory ends at 560 GiB. -/
def localEnd : Nat := 0x8C00000000
/-- R127: bytes of one core's scratchpad array. -/
def spBytes : Nat := 327680
/-- R23: bytes of one die's chip scratchpad. -/
def csBytes : Nat := 33554432
/-- R403: replay entries for program level and for trap level. -/
def rqProgram : Nat := 16
def rqTrap : Nat := 2
/-- Cycles of the 2.0 GHz arithmetic clock in a nanosecond, a microsecond and a millisecond (R2, R264). -/
def cyclesPerNs : Nat := 2
def cyclesPerUs : Nat := 2000
def cyclesPerMs : Nat := 2000000

/-! ## Free values. No proof can see a value of one; the assumption log names each. -/

/-- R476: the latency of a miss at a home slice, in cycles, draw `n` (log entry 60). -/
opaque missLatency : Nat → Nat
/-- R477: the virtual function that a plug-in's SELECT returns, draw `n` (log entry 61). -/
opaque pluginSelect : Nat → Nat
/-- R157: which of the lanes that write one byte is performed last; a rank for draw `n` and lane `l` (log entry 3). -/
opaque laneRank : Nat → Nat → Nat
/-- R36 names no replacement rule: the victim's index of an L1 or L2 TLB fill, draw `n` (log entry 4). -/
opaque tlbVictim : Nat → Nat
/-- R40: the PASID to which the host maps a process: function, ASID (log entry 64). -/
opaque pasid : Nat → Nat → BitVec 20
/-- R421: the sealing key that the package system controller's random source gives at the `n`-th installation (log entry 5). -/
opaque sealKey : Nat → BitVec 256
/-- R421: the AES-256-GCM tag of an image under a key: key, nonce, authenticated header, a digest of the contents (log entry 5). -/
opaque gcmTag : BitVec 256 → BitVec 96 → Nat → Nat → BitVec 128
/-- R477: whether a ML-DSA-65 signature of a digest verifies under the key of a key slot: slot, the key's bytes in an owner
slot, digest, signature (log entry 6). -/
opaque mlDsaVerify : Nat → List Byte → BitVec 512 → List Byte → Bool
/-- R480: the ML-DSA-65 signature of a digest by the device key (log entry 6). -/
opaque mlDsaSign : BitVec 512 → List Byte
/-- R477, R480: SHAKE256 of the ROM images (log entry 6). -/
opaque romDigest : BitVec 512
/-- R378, R444: which of the remaining values a reduction combines next: draw, and step (log entry 7). -/
opaque reduceOrder : Nat → Nat → Nat
/-- R377: an element that a member on another module contributes to a collective: number, rank, index (log entry 7). -/
opaque peerElem : Nat → Nat → Nat → Nat
/-- R443: whether the part of a member on another module fails although its completion has come: number, rank (log entry 7). -/
opaque peerPartFails : Nat → Nat → Bool
/-- R429: the port over which the `n`-th request or message leaves, of those whose link is up (log entry 88). -/
opaque portOf : Nat → Nat
/-- Contents of host memory and peer memory that no event of this machine has supplied (log entry 8). -/
opaque hostByte : Nat → Byte
/-- R463: the unit identifier in the record of an engine's mismatch, which the spec does not number (log entry 62). -/
opaque engineUnit : Nat → Nat
/-- R386: whether a chunk of an INDIRECT buffer written in the open window is executed as it was (log entry 9). -/
opaque prefetchOld : Nat → Bool
/-- R214: whether a doomed transaction restarts at this run boundary (log entry 10). -/
opaque doomedRestart : Nat → Bool

/-- R483: the junction temperature of a die, in °C: the cycle, the die (log 48). -/
opaque dieTemp : Nat → Nat → BitVec 8

/-- The KIND of the record of a failed scrub, which R115 does not list (log 48). -/
opaque scrubFailKind : Nat → Nat

end Sys2Proof.Config
end

