-- ==== Sys2Proof/Machine/State.lean ====
section
/-! DEFINITION. Everything the spec gives the machine, as plain data. A numbered collection is a `Sparse` table whose
unlisted entries read as that entry's reset value, so that reset lists nothing. -/

namespace Sys2Proof.Machine

/-- Memory: bytes by address, in canonical form; an unlisted byte reads as zero (R118 step 4, R152). -/
abbrev Mem := List Host.Cell

/-! ## Names -/

/-- R219: what can be registered, watched or locked: a 128-byte line of local memory, of a chip scratchpad, of a core's
scratchpad array; the phase of a buffer entry (R142) or of a barrier entry (R290; from 32 on those of cluster launches). -/
inductive LineKey where
  | mem (line : Nat)
  | chip (die line : Nat)
  | core (core line : Nat)
  | buf (core entry : Nat)
  | bar (core entry : Nat)
deriving DecidableEq, Repr

/-- R49: the access kinds; `txWrite` is a write inside a transaction, which needs R and W (R30) and is reported as a write. -/
inductive Acc where
  | read | write | atomic | fetch | walk | ad | txWrite
deriving DecidableEq, Repr

/-- R401: the trap codes. -/
inductive Trap where
  | ill | priv | align | spb | rlk | pf | prot | sres | pipe | pois | peer | cabrt | brk | trap | psave
deriving DecidableEq, Repr

/-- R207: the four classes of a group's own operations. -/
inductive OpClass where
  | ld | st | cp | tl
deriving DecidableEq, Repr

/-! ## Groups, slices and lanes (R193) -/

/-- Why a path does not issue (R200, R405). -/
inductive Stop where
  | ready
  /-- R208: a `wait` until the counters are at or below these counts. -/
  | wait (l s c t : Nat)
  /-- R206. -/
  | couple
  /-- R488: a fetch held for the host under this tag. -/
  | fetch (tag : Nat)
  /-- R50: a fetch whose record was answered FAIL, with the record's address. -/
  | fetchFail (va : DWord)
  /-- R213: an outermost `xend` that waits for write locks. -/
  | commit
  /-- R211: a transaction has ended and the scan for its matching `xend` waits for a word. -/
  | scan
  /-- R302: stopped at `yield`, to be saved. -/
  | yielded
  /-- R291, R343: asleep on a barrier or buffer entry since this cycle while its PHASE is this; overflowed or not. -/
  | asleep (since : Nat) (key : LineKey) (want ovf : Bool)
deriving DecidableEq, Repr

/-- R156, R202: the slices that took the same way, their program counter, and why they do not issue. -/
structure Path where
  slices : BitVec 8
  pc     : DWord
  stop   : Stop := .ready
  /-- R473: the next instruction is exempt from a breakpoint match. -/
  exempt : Bool := false
  /-- R209: one more than the clock when the path became ready and was not issued; 0: not so. -/
  since  : Nat := 0
  /-- R405: its next instruction has raised a trap, which is taken once the group's other paths have come to their run boundary. -/
  due    : Bool := false
deriving DecidableEq, Repr

/-- R404, R409: one lane's record in a replay entry. -/
structure LaneRec where
  addr : DWord := 0
  d0   : Word := 0
  d1   : Word := 0
  d2   : Word := 0
  d3   : Word := 0
  /-- The lane's data has been read and is not read again. -/
  got  : Bool := false
  /-- R43: the lane's destination has been written. -/
  wrote : Bool := false
  code : Nat := 0
  kind : Nat := 0
  acc  : Nat := 0
  /-- R37: number of the walk that the lane waits for, or 0. -/
  walk : Nat := 0
  /-- R433: the lane's request has gone to a peer and its completion has not come. -/
  sent : Bool := false
  /-- R486: the lane has passed its checks, and waits at a line that is held. -/
  past : Bool := false
  /-- R49: the address and PPA a translation fault is recorded with. -/
  fva  : DWord := 0
  fppa : Nat := 0
  /-- R50: the host's answer was FAIL and its PROT is not yet delivered; TRAPADDR is then the record's address. -/
  failed : Bool := false
  /-- R407: the fault was recorded while the group was at trap level, and is to be delivered after `rte`. -/
  due : Bool := false
deriving DecidableEq, Repr

/-- R404, R409: a replay entry. `lanes` are the lanes still to be performed. -/
structure RqEntry where
  insn   : Word
  orig   : Word
  held   : Bool := false
  ref    : Bool := false
  slices : BitVec 8
  tag    : Nat := 0
  lanes  : Word
  act    : Word
  pc     : DWord
  rm     : BitVec 2 := 0
  lane   : Sparse LaneRec := []
  cls    : Option OpClass := none
  op     : Nat := 0
  /-- R412: an entry made by a checker. -/
  pipe   : Bool := false
  /-- R476: cycle of the issue. -/
  time   : Nat := 0
  /-- R370, R371: the A rows that an `mma` read at issue, register offset × 32 + lane, and whether the latch gave them. -/
  rowsA  : Sparse Word := []
  latched : Bool := false
  /-- R245: SATF bits cleared since the issue. -/
  satOff : Word := 0
  /-- R412: with an arithmetic instruction that a checker caught, the masks at its issue. -/
  masksAt : Sparse Word := []
deriving DecidableEq, Repr

/-- R207: operations in issue order with their completion. -/
structure Counters where
  ld : List (Nat × Bool) := []
  st : List (Nat × Bool) := []
  cp : List (Nat × Bool) := []
  tl : List (Nat × Bool) := []
deriving DecidableEq, Repr

/-- R203, R441: a scalar register of some slices that a `coll.cancel` issued at `pc`, at trap level or not, has still to
write. -/
structure Owed where
  slices : BitVec 8
  reg    : Nat
  pc     : DWord
  trap   : Bool
deriving DecidableEq, Repr

/-- R212: a buffered write: level, line, byte mask, bytes. -/
structure TxWrite where
  level : Nat
  key   : LineKey
  mask  : BitVec 128
  data  : BitVec 1024
deriving DecidableEq, Repr

/-- R210 to R218: a group's transaction and the fields of XSTAT. -/
structure Tx where
  depth  : Nat := 0
  scope  : Nat := 0
  /-- Address of the outermost `xbegin`. -/
  start  : DWord := 0
  /-- Live alternative of each level, level 1 first. -/
  alts   : List (Option DWord) := []
  /-- Level 1's alternative as the outermost `xbegin` set it (R214). -/
  alt1   : Option DWord := none
  reads  : List LineKey := []
  writes : List TxWrite := []
  /-- R213 step 1: lines still to be locked. -/
  locks  : List LineKey := []
  fails  : Nat := 0
  cause  : Nat := 0
  code   : Nat := 0
  slept  : Bool := false
  /-- R476: cycle in which the attempt began. -/
  since  : Nat := 0
deriving DecidableEq, Repr

/-- R219, R220: a sleeping group. -/
structure Sleep where
  since : Nat
  ovf  : Bool := false
deriving DecidableEq, Repr

/-- R148: the eight words of a tensor-identifier entry. -/
structure Tid where
  w0 : DWord := 0
  w1 : DWord := 0
  w2 : DWord := 0
  w3 : DWord := 0
  w4 : DWord := 0
  w5 : DWord := 0
  w6 : DWord := 0
  w7 : DWord := 0
deriving DecidableEq, Repr

/-- R356, R358: a bound stream. -/
structure Stream where
  bound : Bool := false
  tid   : Tid := {}
  elem  : Bool := false
  pos   : Nat := 0
  flags : BitVec 4 := 0
deriving DecidableEq, Repr

/-- R371: the reuse latch; data by register offset × 32 + lane. -/
structure Latch where
  full : Bool := false
  /-- Slices whose lanes it holds. -/
  slices : BitVec 8 := 0
  va   : BitVec 7 := 0
  fmt  : BitVec 3 := 0
  asc  : BitVec 2 := 0
  data : Sparse Word := []
deriving DecidableEq, Repr

/-- R408: the trap frame registers. -/
structure Frame where
  slices  : BitVec 8 := 0
  atIssue : Bool := false
  acc     : Nat := 0
  kind    : Nat := 0
  code    : Nat := 0
  lanes   : Word := 0
  addrL   : Word := 0
  addrH   : Word := 0
  deliv   : Nat := 0
  pc      : DWord := 0
  selEnt  : Nat := 0
  selWord : Nat := 0
  /-- What the trapping path was waiting for when it was stopped. -/
  stop    : Stop := .ready
deriving DecidableEq, Repr

/-- A group (R193). Scalar registers by slice × 64 + n, banked s56–s59 (R251) by slice × 4 + n − 56, condition flags by
slice × 4 + n, lane registers by n × 32 + lane, masks by number. -/
structure Group where
  live    : BitVec 8 := 0
  nslice  : Nat := 0
  role    : Bool := false
  budget  : Nat := 0
  quarter : Nat := 0
  /-- R194: lanes of the group below `.team`'s count. -/
  lanes   : Word := 0
  paths   : List Path := []
  sregs   : Sparse Word := []
  banks   : Sparse Word := []
  cflags  : Word := 0
  vregs   : Sparse Word := []
  masks   : Sparse Word := []
  fmode   : BitVec 2 := 0
  satf    : Word := 0
  cplmis  : Bool := false
  streams : Sparse Stream := []
  ctr     : Counters := {}
  /-- R406: the counters of trap level. -/
  tctr    : Counters := {}
  tx      : Tx := {}
  sleep   : Option Sleep := none
  atTrap  : Bool := false
  frame   : Frame := {}
  rq      : List RqEntry := []
  trq     : List RqEntry := []
  latch   : Latch := {}
  memlocQ : DWord := 0
  memlocR : DWord := 0
  /-- R264: the latched high half of CLOCK. -/
  clockLatch : Option Word := none
  /-- R184: slices that have executed `trig` or exited, and whether the group has contributed. -/
  trigged : BitVec 8 := 0
  contributed : Bool := false
  /-- R473: a debug stop waits for the next instruction. -/
  dbg     : Bool := false
  /-- R203, R441: registers that wait for the answer to a `coll.cancel`. -/
  owed    : List Owed := []
  /-- R400: cycle since which the group has been ready and not chosen. -/
  readyAt : Nat := 0
  /-- Next operation number of the group (model's own; R207 orders operations by it). -/
  nextOp  : Nat := 0
  /-- Next draw of a free value (model's own). -/
  draw    : Nat := 0
deriving DecidableEq, Repr

/-! ## Teams -/

/-- Where a team is. -/
inductive Place where
  | absent
  | resident
  /-- R395, R416: stopped and to be saved. -/
  | stopping
  /-- R419: in the shadow store of its core, or as a sealed image. -/
  | saved
  | done
  | aborted
deriving DecidableEq, Repr

/-- R346, R350 to R352: how far a copy command has come. -/
inductive CopyState where
  | posted
  /-- R350: locks taken, bytes being moved; stalled on the records of this replay tag, or 0. -/
  | issued (stall : Nat)
  /-- Every byte written; its arrivals are still to be sent. -/
  | moved (err : Bool)
deriving DecidableEq, Repr

/-- R348: bytes that an engine is to write: where, how many, their value, and whether the low nibble of the first byte or
the high nibble of the last is kept. -/
structure Piece where
  va  : Nat
  n   : Nat
  v   : Nat
  low : Bool := false
  high : Bool := false
deriving DecidableEq, Repr

/-- R346, R347, R355: a copy command, with the identifiers captured at the post. -/
structure Copy where
  w0 : Word := 0
  w1 : Word := 0
  w2 : Word := 0
  w3 : Word := 0
  w4 : Word := 0
  w5 : Word := 0
  w6 : Word := 0
  w7 : Word := 0
  grp    : Nat := 0
  slices : BitVec 8 := 0
  pc     : DWord := 0
  op     : Nat := 0
  src    : Tid := {}
  dst    : Tid := {}
  /-- R349: first address of the source and of the destination where it is no identifier, captured at the post. -/
  srcVa  : Nat := 0
  dstVa  : Nat := 0
  /-- R348: bytes its arrivals count. -/
  count  : Nat := 0
  state  : CopyState := .posted
  /-- Post order. -/
  post   : Nat := 0
  /-- R476: cycle of the post. -/
  time   : Nat := 0
  /-- R147, R179: what is still to be written, once the whole source has been read. -/
  todo   : Option (List Piece) := none
  /-- R351: its source could not be read to the end; destination pieces written; and ranks whose ERR is set. -/
  fault  : Bool := false
  moved  : Nat := 0
  errs   : BitVec 4 := 0
  /-- R414: the line, by its virtual address, of the last piece written. -/
  line   : Nat := 0
deriving DecidableEq, Repr

/-- R138: a buffer entry. -/
structure Buf where
  /-- 0 FREE, 1 FILLING, 2 FULL, 3 DRAINING. -/
  state : Nat := 0
  phase : Bool := false
  err   : Bool := false
  owner : Nat := 0
  exp   : Nat := 0
  arr   : Nat := 0
  off   : Nat := 0
  size  : Nat := 0
deriving DecidableEq, Repr

/-- R144: a range lock. -/
structure Lock where
  dest : Bool
  uid  : Nat
  op   : Nat
  base : Nat
  len  : Nat
deriving DecidableEq, Repr

/-- R290: a barrier entry. -/
structure Bar where
  phase : Bool := false
  exp   : Nat := 0
  arr   : Nat := 0
  wait  : Word := 0
deriving DecidableEq, Repr

/-- R421 to R423: the header of a sealed image. -/
structure Seal where
  nonce : BitVec 96
  tag   : BitVec 128
  part  : Nat
  vf    : Nat
  len   : Nat
deriving DecidableEq, Repr

/-- R420: the parts of a context image beyond the team and its groups. -/
structure Image where
  bars  : Sparse Bar := []
  cbar  : Bar := {}
  bufs  : Sparse Buf := []
  tids  : Sparse Tid := []
  locks : List Lock := []
  sp    : Mem := []
  /-- R420: collective completions received meanwhile: handle and count and error. -/
  colls : List (Nat × Nat × Bool) := []
  tiles : Sparse Word := []
  tileNos : List Nat := []
  sealed : Option Seal := none
deriving DecidableEq, Repr

/-- A team, from its admission to its end; the key in State is the number it got at first launch. -/
structure Team where
  place  : Place := .absent
  part   : Nat := 0
  vf     : Nat := 0
  asid   : Nat := 0
  prio   : Nat := 0
  launch : Nat := 0
  node   : Nat := 0
  x      : Nat := 0
  y      : Nat := 0
  z      : Nat := 0
  core   : Nat := 0
  slot   : Nat := 0
  lanes  : Nat := 0
  ngroup : Nat := 0
  entry  : DWord := 0
  cl     : Bool := false
  rank   : Nat := 0
  /-- Number of the team of rank 0 of its cluster launch. -/
  clHead : Nat := 0
  /-- R128, R418: of a cluster launch, ended, and its allocation is away in `image` with the launch. -/
  kept : Bool := false
  spBase : Nat := 0
  spSize : Nat := 0
  wincs  : Word := 0
  pslot  : Nat := 0
  lpSize : Nat := 0
  lpBase : DWord := 0
  bufBase : Nat := 0
  bufCnt : Nat := 0
  tidBase : Nat := 0
  tidCnt : Nat := 0
  regs0  : Nat := 0
  regs1  : Nat := 0
  g0     : Nat := 0
  req    : Bool := false
  why    : Nat := 0
  /-- R416: the cycle in which LEFT reaches 0. -/
  deadline : Nat := 0
  groups : Sparse Group := []
  ring   : Sparse Copy := []
  ringNext : Nat := 0
  posts  : Nat := 0
  image  : Image := {}
  /-- R221: a wake or a RELEASE has made the saved team ready. -/
  ready  : Bool := false
  /-- R51, R414: a fatal record or an abort has stopped the team. -/
  fatal  : Bool := false
deriving DecidableEq, Repr

/-- R200, R202: the run of a quarter: the group and the slices of its issue set. -/
structure Run where
  on     : Bool := false
  uid    : Nat := 0
  grp    : Nat := 0
  slices : BitVec 8 := 0
  count  : Nat := 0
deriving DecidableEq, Repr

/-! ## Cores, dies and engines -/

/-- R36: a combined translation, with the permissions of both stages and whether D is set. `va` is the number of the page,
its virtual address divided by its size 2^`log2`. With `st2` it is the stage-2 translation of a table address, and `va` the
number of a page of PPAs. -/
structure Tlb where
  part : Nat
  asid : Nat
  va   : Nat
  log2 : Nat
  dpa  : Nat
  r1 : Bool
  w1 : Bool
  x1 : Bool
  r2 : Bool
  w2 : Bool
  x2 : Bool
  d  : Bool
  st2 : Bool := false
  /-- R40: an answer of the host's ATS to a function, by the host address asked for. -/
  ats : Bool := false
  vf  : Nat := 127
  /-- R40: of a translation to host memory, the host address before ATS, at the page's base. -/
  io  : Nat := 0
deriving DecidableEq, Repr

/-- R120: an L1 line. -/
structure L1Line where
  on    : Bool := false
  line  : Nat := 0
  valid : BitVec 128 := 0
  dirty : BitVec 128 := 0
  data  : BitVec 1024 := 0
deriving DecidableEq, Repr

/-- R131, R132: an L2 line: home or proxy, two sectors. -/
structure L2Line where
  on    : Bool := false
  line  : Nat := 0
  home  : Bool := true
  valid : BitVec 2 := 0
  dirty : BitVec 2 := 0
  data  : BitVec 1024 := 0
  vdev  : Nat := 0
  prx   : BitVec 2 := 0
deriving DecidableEq, Repr

/-- A core (R120 to R155). Barriers by slot × 4 + id; at 32 + slot a cluster launch's word 1, and at rank 0 its word 0 (R290). -/
structure Core where
  sp    : Mem := []
  l1    : Sparse L1Line := []
  plru  : Sparse (BitVec 7) := []
  tlb   : List Tlb := []
  bufs  : Sparse Buf := []
  tids  : Sparse Tid := []
  locks : List Lock := []
  bars  : Sparse Bar := []
  /-- R143. -/
  stray : Word := 0
  /-- R154. -/
  scrubDone : Bool := false
  scrubFail : Bool := false
  scrubVdev : Nat := 127
  /-- R153: a scrub is in progress, and the virtual device that it is for. -/
  scrubbing : Bool := false
  scrubFor : Nat := 127
  /-- R463: quarantined quarters and the mismatch count. -/
  quar  : BitVec 4 := 0
  mism  : Nat := 0
  /-- R460: cycle of each unit's last mismatch plus one. -/
  lastMis : Sparse Nat := []
  /-- R465: withdrawn from scheduling. -/
  withdrawn : Bool := false
  /-- R465: a test team runs here. -/
  testing : Bool := false
  /-- R465: the digest that the results of the test kernel assigned to the core must have. -/
  testDigest : BitVec 512 := 0
  testFails : Nat := 0
  /-- R400: the round-robin pointer of each quarter, a group's number. -/
  rr    : Sparse Nat := []
  /-- R472: the group sampled last by each quarter. -/
  sample : Sparse Nat := []
deriving DecidableEq, Repr

/-- R359: the states of a residency slot. -/
inductive SlotState where
  | free | loading | resident | evicted | failed
deriving DecidableEq, Repr

/-- R359: a slot's record. -/
structure Slot where
  state : SlotState := .free
  stale : Bool := false
  pin   : Bool := false
  gen   : Nat := 1
  vdev  : Nat := 0
  part  : Nat := 0
  asid  : Nat := 0
  elem  : Nat := 0
  n     : Nat := 0
  tid   : Tid := {}
  o0 : Nat := 0
  o1 : Nat := 0
  o2 : Nat := 0
  o3 : Nat := 0
  /-- The upper half of a 16-bit residency. -/
  upper : Bool := false
  /-- The team, group and operation whose fill this is, its pc and slices. -/
  uid : Nat := 0
  grp : Nat := 0
  op  : Nat := 0
  pc  : DWord := 0
  slices : BitVec 8 := 0
  /-- The cp operation still to be counted down. -/
  counted : Bool := false
  /-- R361: replay tag of the record on which the fill stalls, or 0. -/
  stall : Nat := 0
deriving DecidableEq, Repr

/-- R397: a reservation entry. -/
structure Resv where
  uid  : Nat
  grp  : Nat
  op   : Nat
  tile : Nat
  prio : Nat
  time : Nat
  /-- R370: granted, and waiting for the reload that its pass has started. -/
  granted : Bool := false
deriving DecidableEq, Repr

/-- A matrix engine (R359, R366). Weights by slot × 32768 + k × 512 + n, scales by slot × 1024 + (k div 32) × 512 + n,
tiles by tile × 16384 + row × 512 + column; a tile's owner is its team's cluster head or itself, plus one. -/
structure Engine where
  slots   : Sparse Slot := []
  weights : Sparse Byte := []
  scales  : Sparse Byte := []
  tiles   : Sparse Word := []
  owner   : Sparse Nat := []
  resv    : List Resv := []
  /-- Virtual device that holds the engine; 128 none yet. -/
  vdev    : Nat := 128
  /-- R153: the core, plus one, whose scrub carries the engine's; 0 none. -/
  scrubBy : Nat := 0
  out     : Bool := false
  /-- R459, R460: cycle of the last mismatch of each 64-column block's checker, plus one. -/
  lastMis : Sparse Nat := []
deriving DecidableEq, Repr

/-- R37, R433: what waits for a walk or for the completion of an outbound request: a lane of a group's operation, with the further lanes of an
atomic that the request carries (R173, ascending); a copy or collective of a team, by its lock number; a fill; a fetch; a
walk; the trap queue and trace ring of a partition; a function's front end, or its requests at the host port; a peer's
requests; a collective, for the part of a rank; or nothing that still runs. -/
inductive Asker where
  | lane (uid grp op lane : Nat) (mates : List (Nat × Nat))
  | engine (uid op : Nat)
  | fill (eng slot : Nat)
  | fetch (uid grp : Nat)
  | walk (die part asid : Nat)
  | ring (part : Nat)
  | front (fn : Nat)
  | port (fn : Nat)
  | inbound (src : Nat)
  | part (die comm : Nat) (n : Word) (rank : Nat)
  | gone
deriving DecidableEq, Repr

/-- R37: how far a walk has come: queued; on an engine, at a line that is held (R75, R213); on an engine, waiting for an
answer of the host's ATS (R40). -/
inductive WalkState where
  | queued | engine | ats
deriving DecidableEq, Repr

/-- R37: a walk: its number on the die, the address and access it was started for, the core whose L1 TLB it fills, the misses
it serves, and the agents other than lanes among them. -/
structure Walk where
  id   : Nat := 1
  part : Nat
  asid : Nat
  vf   : Nat := 127
  va   : Nat
  acc  : Acc
  core : Option Nat := none
  merged : Nat := 1
  agents : List Asker := []
  state : WalkState := .queued
deriving DecidableEq, Repr

/-- R37: the fault of a walk on its way to an agent that waits for it. -/
structure XlFail where
  who  : Asker
  part : Nat
  asid : Nat
  page : Nat
  code : Trap
  kind : Nat
  acc  : Nat
  ppa  : Nat
deriving DecidableEq, Repr

/-- R36: a walk-cache entry: a valid non-leaf entry of a stage, by the level and the address at which it stands (a PPA in
stage 1, a DPA in stage 2). -/
structure Pde where
  part : Nat
  asid : Nat
  st2  : Bool
  lv   : Nat
  addr : Nat
  raw  : Nat
deriving DecidableEq, Repr

/-- R442: a member's answer to COLLECT: its NEXT, the pairs it knows numbered, the numbers for which it has sent READY or
received GO, its posted pairs with no number. -/
structure Report where
  src   : BitVec 12
  next  : Word
  known : List (Word × Word)
  ready : List Word
  gone  : List Word
  posted : List Word
deriving DecidableEq, Repr

/-- R441: a `coll.cancel` that awaits its REPLY: tag, group, the register owed to its slices, and when it was sent. -/
structure Cancel where
  tag  : Word
  uid  : Nat
  grp  : Nat
  owed : Owed
  time : Nat
deriving DecidableEq, Repr

/-- R436: a communicator entry, with this member's own progress (R440) and, at its sequencer, that of every member
(R438). -/
structure Comm where
  v    : Bool := false
  part : Nat := 0
  prim : BitVec 12 := 0
  stby : BitVec 12 := 0
  term : Word := 0
  next : Word := 0
  nm1  : Nat := 0
  rank : Nat := 0
  mlist : DWord := 0
  members : List (BitVec 12) := []
  /-- Pairs numbered here and not passed: number and tag; and holes, of which one that no report named has no tag (R442). -/
  known : List (Word × Word) := []
  holes : List (Word × Option Word) := []
  /-- Numbers for which READY was sent, with the cycle. -/
  readySent : List (Word × Nat) := []
  /-- Numbers for which GO was received, of the last 256 (R438, R442 step 3). -/
  goGot : List Word := []
  cancels : List Cancel := []
  /-- What this member has put into each number's exchange: whether its reading failed, and its elements. -/
  sent : List (Word × Bool × List Nat) := []
  /-- Primary: numbers not yet retired: number, tag, whether a hole. -/
  held  : List (Word × Option Word × Bool) := []
  nextN : Word := 0
  /-- Messages that wait for a number, in arrival order: source, tag, and whether it is a CANCEL. -/
  waitAssign : List (BitVec 12 × Word × Bool) := []
  readyFrom : List (Word × BitVec 12) := []
  goSent : List Word := []
  doneFrom : List (Word × BitVec 12) := []
  /-- Standby: cycle plus one since which it collects reports, or 0, and the reports. -/
  electAt : Nat := 0
  reports : List Report := []
  /-- R442: one more than the cycle in which this member last asked for failover from a primary that is DOWN. -/
  asked : Nat := 0
deriving DecidableEq, Repr

/-- R376, R377: a posted collective of a die. -/
structure Coll where
  comm : Nat
  tag  : Word
  uid  : Nat
  grp  : Nat
  slot : Nat
  op   : Nat
  /-- OPN, RED, ROOT and DBUF of the command. -/
  opn  : Nat
  red  : Nat
  root : Nat
  dbuf : Nat
  src  : Tid
  dst  : Tid
  running : Bool := false
  /-- R144: its range locks have been taken. -/
  locked : Bool := false
  /-- Cycle in which ASSIGN was sent. -/
  time : Nat := 0
  /-- Destination pieces already written. -/
  moved : Nat := 0
  /-- Where it was posted (R472). -/
  pc : DWord := 0
deriving DecidableEq, Repr

/-- R76: a request answered MOVED: its parcel and line, its group and operation there (none for a lock of a commit), whether
the MOVED has reached its die, and whether the replay is held at the new home. -/
structure Replay where
  parcel : Nat
  line : Nat
  uid : Nat
  grp : Nat
  op : Option Nat := none
  sent : Bool := false
  again : Bool := false
deriving DecidableEq, Repr

/-- R63: a column that a reply has brought: its line, its position, its bytes, its PSN; erased where it brought no data. -/
structure ColIn where
  line : Nat
  pos : Nat
deriving DecidableEq, Repr

/-- A compute die. -/
structure Die where
  /-- Chip scratchpad (R23). -/
  cs     : Mem := []
  l2tlb  : List Tlb := []
  /-- R36: the walk cache. -/
  wcache : List Pde := []
  walks  : List Walk := []
  /-- R37: faults that agents have still to take. -/
  xlFails : List XlFail := []
  /-- R37: number of the last walk (model's own), and one more than the partition to which an engine was granted last. -/
  lastWalk : Nat := 0
  walkRR : Nat := 0
  /-- R58: home and version that requests of this die are routed by, by parcel; unlisted: the cadastre's own. -/
  cadCache : Sparse (Nat × Nat) := []
  /-- R76: requests of this die's groups that were answered MOVED and whose replays have not been admitted, in the order first
  issued. -/
  replays : List Replay := []
  /-- R92: replies with STATUS 3 that this die has received. -/
  linkFaults : Nat := 0
  /-- R63: columns that replies to this die's read packets have brought, of lines not yet complete. -/
  colsIn : List ColIn := []
  /-- R83. -/
  rsBusy : Bool := false
  rsBadDesc : Bool := false
  rsRefused : Bool := false
  rsParcel : Nat := 0
  rsPos  : Nat := 0
  /-- R71: the parcel in progress is a single-parcel move. -/
  rsSingle : Bool := false
  /-- R75 step 1: the old home admits no more requests for the parcel. -/
  rsStop : Bool := false
  /-- R107, R109. -/
  pbPasses : Nat := 0
  pbParcel : Nat := 0
  pbLine : Nat := 0
  pbSkipped : List Nat := []
  comms  : Sparse Comm := []
  colls  : List Coll := []
  /-- R468. -/
  injX   : DWord := 0
  injTarget : Nat := 0
  injRate : Nat := 0
  injSeedL : Word := 0
  injSeedH : Word := 0
  thermSlots : Nat := 0
deriving DecidableEq, Repr

/-! ## Stacks and base dies (R90 to R119) -/

/-- R93: an outstanding packet. -/
structure Packet where
  hdr  : DWord
  data : BitVec 256 := 0
  be   : Word := 0
  time : Nat := 0
  /-- R97: timed out; its tag stays busy. -/
  dead : Bool := false
deriving DecidableEq, Repr

/-- R91: a reply on its way. -/
structure Reply where
  hdr  : DWord
  data : BitVec 256 := 0
deriving DecidableEq, Repr

/-- R102: a tracked row: activations, the activations of each virtual device, throttled, next permitted activation. -/
structure HotRow where
  row  : Nat
  count : Nat
  by_  : Sparse Nat := []
  throttled : Bool := false
  nextAct : Nat := 0
  /-- R103: the neighbour refresh of the crossing has been issued. -/
  crossed : Bool := false
deriving DecidableEq, Repr

/-- R105: the self-refresh states. -/
inductive SrState where
  | active | idle | entering | selfref | exiting
deriving DecidableEq, Repr

structure SelfRef where
  state   : SrState := .active
  timer   : Nat := 0
  pending : Bool := false
  mult    : Nat := 0
  refresh : Nat := 0
deriving DecidableEq, Repr

/-- R111: a row-log entry. -/
structure RowLog where
  p : Nat
  bank : Nat
  row : Nat
  count : Nat
  first : Nat
deriving DecidableEq, Repr

/-- A stack with its base die. -/
structure Stack where
  /-- Outstanding packets by die × 512 + p × 8 + tag. -/
  tags   : Sparse (Option Packet) := []
  /-- R94, R98, R105: requests accepted and not yet served, in the order accepted. -/
  waiting : List Packet := []
  replies : List Reply := []
  hot    : Sparse (List HotRow) := []
  openRow : Sparse (Option Nat) := []
  /-- R102: the 32 ms window in which the counts stand. -/
  hotWin : Nat := 0
  sr     : Sparse SelfRef := []
  /-- R99: hundredths of a token by virtual device. -/
  buckets : Sparse Nat := []
  rowLog : List RowLog := []
  /-- R112: rows that wait for firmware's repair: p, BANK, ROW. -/
  rowDue : List (Nat × Nat × Nat) := []
  repairs : Sparse Nat := []
  tagdup : Nat := 0
  refused : Nat := 0
  mbxArg0 : Word := 0
  mbxArg1 : Word := 0
  mbxCmd : Nat := 0
  mbxBusy : Bool := false
  mbxDropped : Bool := false
  mbxErr : Nat := 0
  trDone : Bool := false
  trLinkErr : Bool := false
  trFail : Word := 0
  hrcfg  : Word := 0x10003201
  srcfg  : Word := 0x04000001
  linkDown : Bool := false
deriving DecidableEq, Repr

/-- R56: a layout. -/
structure Layout where
  stk  : List Nat
  frm  : List Nat
  home : Nat
  seed : BitVec 30
deriving DecidableEq, Repr

/-- R56: a cadastre entry. `state`: 0 STABLE, 1 COPYING, 2 SWITCHING. -/
structure Cad where
  state   : Nat := 0
  version : Nat := 0
  cursor  : Nat := 0
  bankx   : Word := 0
  a       : Layout
  t       : Option Layout := none
deriving DecidableEq, Repr

/-- R67: a dropped or failed element. -/
structure Elem where
  level : Nat
  stack : Nat
  chan  : Nat := 0
  pch   : Nat := 0
  bank  : Nat := 0
deriving DecidableEq, Repr

/-- R115: a memory fault record. -/
structure FaultRec where
  elem : Word
  kind : Nat
  rowid : Nat := 0
  parcel : Nat := 0
  version : Nat := 0
  count : Nat := 0
  time : Nat := 0
deriving DecidableEq, Repr

/-! ## Registrations (R79, R177, R219) -/

/-- A read-set registration: whether a write has been performed since. -/
structure Reg where
  key : LineKey
  uid : Nat
  grp : Nat
  hit : Bool := false
deriving DecidableEq, Repr

/-- A wake entry. -/
structure Wake where
  key : LineKey
  uid : Nat
  grp : Nat
deriving DecidableEq, Repr

/-- R362: a watch on a line for the residency of a slot of a virtual device. -/
structure Watch where
  line : Nat
  eng  : Nat
  slot : Nat
  vdev : Nat
deriving DecidableEq, Repr

/-- R213: a write lock of a commit. -/
structure WLock where
  key : LineKey
  uid : Nat
  grp : Nat
deriving DecidableEq, Repr

/-! ## Partitions, functions, queues, launches -/

/-- R49: a trap-queue record. -/
structure TrapRec where
  fatal : Bool
  code  : Nat
  kind  : Nat
  acc   : Nat
  part  : Nat
  asid  : Nat := 0
  vf    : Nat := 127
  va    : DWord := 0
  ppa   : DWord := 0
  ident : Word := 0
  pc    : DWord := 0
  lanes : Word := 0
  seq   : Nat := 0
  time  : Nat := 0
  peer  : Nat := 0
  tag   : Nat := 0
  /-- R40: with kind 2, the 4 KiB page of the page request (model's own: no word of the record). -/
  io    : Nat := 0
deriving DecidableEq, Repr

/-- R474, R476: a counter bank. Owner: 0 none, 128 the physical function, else a virtual function plus one. -/
structure Bank where
  owner : Nat := 0
  sel   : Sparse Word := []
  val   : Sparse (BitVec 48) := []
  evset : Bool := false
  moved : Sparse Bool := []
  capSel : Word := 0
  capMin : Word := 0xFFFFFFFF
  capMax : Word := 0
  capCnt : Word := 0
  bins  : Sparse Word := []
  /-- R475: DIGEST as the last CTRSEL write has left it. -/
  digest : BitVec 256 := 0
deriving DecidableEq, Repr

/-- R477: a loaded plug-in. -/
structure Plugin where
  image : List Byte
  disabled : Bool := false
deriving DecidableEq, Repr

/-- R394 and the partition control page (R383). -/
structure Part where
  valid  : Bool := false
  /-- R394: reset by PARTRST since it was installed. -/
  rst    : Bool := false
  s2root : DWord := 0
  homecl : BitVec 48 := 0
  vfmask : BitVec 96 := 0
  grant  : Word := 0
  deadline : Word := 0
  quantum : Nat := 0
  lend   : Bool := false
  borrow : Bool := false
  target : Nat := 0
  pctx   : DWord := 0
  nasid  : Nat := 0
  descBytes : List Byte := []
  /-- R45 to R48; the reset values of TQBASE, TQTAIL and TQHEAD are the model's (log 1). -/
  tqBase : DWord := 0
  tqEn   : Bool := false
  tqLog2 : Nat := 6
  tqTail : Word := 0
  tqHead : Word := 0
  tqFovf : Bool := false
  tqBadHead : Bool := false
  tqRingf : Bool := false
  tqLost : Nat := 0
  tqStalled : List TrapRec := []
  /-- Records whose slot's line is held (R75, R213) or awaits the host's ATS, in their order. -/
  tqWait : List TrapRec := []
  /-- R50: replayable records posted and not answered. -/
  tqPosted : List TrapRec := []
  seq    : Nat := 0
  tag    : Nat := 0
  /-- R470. -/
  trBase : DWord := 0
  trCtl  : Word := 0x18000000
  trTail : Word := 0
  trHead : Word := 0
  trDrop : Nat := 0
  /-- Trace records, PH clear, whose slot's line is held or awaits the host's ATS. -/
  trWait : List Nat := []
  /-- R473. -/
  bpAddr : Sparse DWord := []
  bpEn   : BitVec 4 := 0
  banks  : Sparse Bank := []
  /-- R467: a test partition. -/
  test   : Bool := false
  /-- R479. -/
  hold   : Bool := false
  /-- R421, R422. -/
  key    : Option Nat := none
  nonce  : Sparse Nat := []
  latest : Sparse (BitVec 96) := []
  /-- R396: loaned clusters held, own clusters lent, last SHARE in quarters. -/
  borrowed : BitVec 48 := 0
  lent   : BitVec 48 := 0
  share  : Nat := 0
  shareAcc : Nat := 0
  plugin : Option Plugin := none
  measure : BitVec 512 := 0
  /-- R395: the function in its slice and the slice's end. -/
  cur    : Nat := 127
  sliceEnd : Nat := 0
deriving DecidableEq, Repr

/-- R384, R385: a command that has started and not completed. -/
inductive CmdWait where
  /-- R392: a LAUNCH of the ring (`ind` 0) or of an INDIRECT's buffer. -/
  | launch (id ind : Nat)
  /-- R385: an INDIRECT: its number, the place of the next command of its buffer, and the bytes still to run. -/
  | indirect (k addr left : Nat)
  /-- R385: a WAITEQ on the word at an address, and its sleep. -/
  | waiteq (addr : Nat) (v : Word) (ind : Nat) (sleep : Option Sleep)
deriving DecidableEq, Repr

/-- R381, R382: a queue. -/
structure Queue where
  nopf  : Bool := false
  tail  : Nat := 0
  base  : DWord := 0
  en    : Bool := false
  prio  : Nat := 0
  log2  : Nat := 4
  asid  : Nat := 0
  head  : Nat := 0
  halt  : Bool := false
  err   : Nat := 0
  cmpl  : Nat := 0
  busy  : List CmdWait := []
  /-- R386: chunks of an INDIRECT buffer read ahead: address and the 64 bytes as one number. -/
  ahead : List (Nat × Nat) := []
  /-- Number of the next INDIRECT (model's own). -/
  nextInd : Nat := 1
deriving DecidableEq, Repr

/-- R186, R187: a request of the host that waits at the port: read (0), write (1), AtomicOp (2), or a notify (3) of queue
`off`. `ro`: the Relaxed Ordering attribute of a write. -/
structure HostReq where
  kind : Nat
  off  : Nat
  n    : Nat := 0
  op   : Nat := 0
  x    : BitVec 4096 := 0
  y    : DWord := 0
  ro   : Bool := false
deriving DecidableEq, Repr

/-- R135, R136, R364, R100, R101, R104: the registers of a virtual device, and its queues and vectors. -/
structure Vdev where
  queues : Sparse Queue := []
  l2maskL : Word := 0xFFFFFFFF
  l2maskH : Word := 0xFFFFFFFF
  l2pol  : Word := 0
  resq   : Word := 0x00010000
  qbcfg  : Word := 0
  qbstat : Word := 0
  hrwait : Word := 0
  /-- R428: a masked vector that has fired waits as pending; masks. -/
  msix   : BitVec 2 := 0
  msixMask : BitVec 2 := 0
  /-- R186: requests of the host not yet performed, in arrival order. -/
  hostq  : List HostReq := []
  /-- R363: residency records kept while another device holds the engine: engine, slot, record. -/
  shadow : List (Nat × Nat × Slot) := []
  /-- R40: 4 KiB pages of the page requests outstanding. -/
  pri    : List Nat := []
  /-- R40: pages (ASID and 4 KiB page) answered as not translated, a page request issued. -/
  atsNo  : List (Nat × Nat) := []
  /-- R40: dies and pages (ASID and 4 KiB page) of the Translation Requests that are not answered. -/
  atsAsked : List (Nat × Nat × Nat) := []
  /-- R40: Invalidate Requests that are not completed: first byte and length. -/
  atsInv : List (Nat × Nat) := []
deriving DecidableEq, Repr

/-- R387, R388: a node of a launched graph with its kernel descriptor. -/
structure Node where
  entry : DWord := 0
  cl    : Bool := false
  lanes : Nat := 0
  g0    : Nat := 0
  regs0 : Nat := 0
  regs1 : Nat := 0
  scratch : Nat := 0
  bufs  : Nat := 0
  tensor : Nat := 0
  lpBase : DWord := 0
  lpSize : Nat := 0
  x  : Nat := 0
  y  : Nat := 0
  z  : Nat := 0
  argsAt : DWord := 0
  argLen : Nat := 0
  /-- The argument bytes read at the start, as one number. -/
  args  : Nat := 0
  succ  : List (Bool × Nat) := []
  /-- R391: the working counter. -/
  c     : Nat := 0
  started : Bool := false
  /-- R389: it has started, and its arguments are still being read. -/
  reading : Bool := false
  done  : Bool := false
  fired : Bool := false
  /-- Teams admitted, teams completed, groups that have contributed (R184). -/
  admitted : Nat := 0
  finished : Nat := 0
  contrib : Nat := 0
deriving DecidableEq, Repr

/-- R391, R392: a launch. -/
structure Launch where
  fn    : Nat
  q     : Nat
  part  : Nat
  asid  : Nat
  prio  : Nat
  nodes : List Node
  /-- Order in which nodes were started. -/
  order : List Nat := []
  abandoned : Bool := false
  argFault : Bool := false
deriving DecidableEq, Repr

/-! ## Peers (R429 to R435, R191) -/

/-- R191: a cached reply. -/
structure Cached where
  tag : Nat
  data : DWord
  ok : Bool
  time : Nat
deriving DecidableEq, Repr

/-- An inbound request that waits (R191, R434). -/
structure Inbound where
  tag : Nat
  off : Nat
  n : Nat
  op : Nat
  x : BitVec 2048 := 0
  y : DWord := 0
deriving DecidableEq, Repr

/-- R429: what an outbound request asks: read (0), write (1), an atomic (2 + its function), or a collective's part (64), at a
class-0b10 address, with its operands. -/
structure Ask where
  who  : Asker
  kind : Nat
  addr : Nat
  n    : Nat
  x    : List (BitVec 128) := []
deriving DecidableEq, Repr

/-- An outbound request (R433). -/
structure Outbound where
  tag  : Nat
  ask  : Ask
  time : Nat
deriving DecidableEq, Repr

/-- R433: a completion that its asker has still to take: data, or none with poison or an error. -/
structure Answer where
  ask : Ask
  v   : Option Nat
deriving DecidableEq, Repr

/-- R433, R435: a peer. `state`: 0 UNKNOWN, 1 UP, 2 DOWN. -/
structure Peer where
  state : Nat := 0
  timeouts : Nat := 0
  rej : Nat := 0
  cache : List Cached := []
  inq : List Inbound := []
  out : List Outbound := []
  nextTag : Nat := 0
  lastSent : Nat := 0
  /-- R41: translation queries answered: partition, first PPA and log2 of the size of the page. -/
  asked : List (Nat × Nat × Nat) := []
deriving DecidableEq, Repr

/-- R431: a peer access entry. -/
structure Pat where
  v : Bool := false
  part : Nat := 0
  rd : Bool := false
  wr : Bool := false
  at_ : Bool := false
  size : Nat := 0
  pbase : DWord := 0
deriving DecidableEq, Repr

/-- The steps of no instruction word that the machine brings about itself: internal completions, timers, queue and firmware
commands, and the sequencer's messages. Each is the step of the same name of the opcode table. -/
inductive Ev where
  | walkEngineGrant (die : Nat)
  | memoryAccessCompletion (uid grp : Nat)
  | stalledRecordPost (part : Nat)
  | commitLockGrant (uid grp : Nat)
  /-- R211: the scan for the matching `xend` of an ended transaction is tried again. -/
  | scanRetry (uid grp : Nat)
  | overflowWake (uid grp : Nat)
  | moved (die parcel : Nat)
  | rsdrop (v : Word)
  | singleParcelMove (parcel pos : Nat)
  /-- R112: firmware repairs a row whose logged count has reached MTCFG.ROWCE. -/
  | rowCe (stack p bank row : Nat)
  | resurveyTakeParcel (die frame : Nat)
  | resurveyLineCopy (die : Nat)
  | parcelSwitch (die : Nat)
  | switchDrainComplete (die : Nat)
  /-- R158, R179: `n` bytes from byte `lo` on of piece `k` of what a team's copy still has to write. -/
  | copyPart (uid k lo n : Nat)
  /-- R98: a pseudo-channel's scheduler serves a request. -/
  | bdServe (stack p : Nat)
  /-- R97: firmware resets the link of a stack. -/
  | linkReset (stack : Nat)
  /-- R484: the array of a column unit fails. -/
  | arrayFailure (unit : Nat)
  /-- R154: the scrub of a core fails. -/
  | scrubFail (core : Nat)
  | baseDieReply (stack idx : Nat)
  | tagTimeout (stack die p tag : Nat)
  | refreshDue (stack p : Nat)
  | hotRowWindowEnd (stack : Nat)
  | selfRefreshTimerExpiry (stack p : Nat)
  | selfRefreshEntryComplete (stack p : Nat)
  | selfRefreshExitComplete (stack p : Nat)
  | perambulatorLineRead (die : Nat)
  | rowLogExpiry (stack : Nat)
  | mbxRowRepair (stack : Nat)
  | mbxSetRefresh (stack : Nat)
  | mbxReadRowLog (stack : Nat)
  | mbxRepairRowsLeft (stack : Nat)
  | bufferArrival (cluster : Nat)
  | copyIssue (uid : Nat)
  | copyComplete (uid slot : Nat)
  | residencyFillComplete (eng slot : Nat)
  | engineGrant (eng : Nat)
  | scrubComplete (core : Nat)
  | nopCommand (fn q : Nat)
  | launch (fn q : Nat)
  | indirect (fn q : Nat)
  | signal (fn q : Nat)
  | waiteq (fn q : Nat)
  | qfence (fn q : Nat)
  | invalStage1 (fn q : Nat)
  | invalStage2 (fn q : Nat)
  | invalPartition (fn q : Nat)
  | replayRetry (fn q : Nat)
  | replayFail (fn q : Nat)
  | partcfg (fn q : Nat)
  | partrst (fn q : Nat)
  | teamAdmission (launch core : Nat)
  /-- R389, R391: a node whose argument line was held is tried again. -/
  | nodeRetry (launch : Nat)
  | worldSwitchQuantumExpiry (part : Nat)
  | psaveDeadlineExpiry (uid : Nat)
  | contextSave (uid : Nat) (evict : List Nat)
  | contextRestore (uid core : Nat)
  | shareMeasurement
  /-- R396: the border controller decides at the end of the last team resident on a cluster. -/
  | borderDecide (cluster : Nat)
  /-- R186: the oldest request of the host that waits at a function is performed. -/
  | hostRetry (fn : Nat)
  /-- R40: the Invalidate Requests of a function are completed. -/
  | atsInvalidateDone (fn : Nat)
  | replayReplyCacheExpiry (src : Nat)
  | peerRequestTimeout (dest : Nat)
  | assignNum (die comm : Nat) (src : BitVec 12) (term tag : Word)
  | numbered (die comm : Nat) (term tag n : Word)
  | cancel (die comm : Nat) (src : BitVec 12) (term tag : Word)
  | reply (die comm : Nat) (term tag : Word) (status : Nat)
  | hole (die comm : Nat) (term : Word) (tag : Option Word) (n : Word)
  | ready (die comm : Nat) (src : BitVec 12) (term n : Word)
  | go (die comm : Nat) (term n : Word)
  | done (die comm : Nat) (src : BitVec 12) (term n : Word)
  | collect (die comm : Nat) (term : Word)
  | report (die comm : Nat) (src : BitVec 12) (term next : Word) (known : List (Word × Word)) (sent gone posted : List Word)
  | failoverRequest (die comm : Nat) (term : Word)
  | sequencerTimeout (die comm : Nat)
  | collectiveLocalCompletion (die comm : Nat)
  | fwLoadPlugin
  | fwUnloadPlugin
  | fwInstallCommunicator
  | fwRemoveCommunicator
  | fwWritePeerAccess
  | fwReadmitPeer
  | fwOrderFailover
  | fwAttestationReport
  | exportPart
  | importPart
  | hold
  | release
  | fwStoreAccid
  | startUp (failed : Word) (romFault : Bool)
  | stallSample (site : Nat)
  | tokenRefill
  | pluginTimeout (part : Nat)
  | groupSelect (site : Nat)
deriving DecidableEq, Repr

/-- What the device sends outwards: replies to the host, replies and requests to peers, sequencer messages, plain and in
the order sent. -/
inductive Out where
  /-- R188: a zero-length read of host memory, which a pod-scope release issues. -/
  | zeroRead
  | hostRead (fn off : Nat) (ok : Bool) (v : BitVec 32768)
  | peerReply (src tag : Nat) (ok : Bool) (v : BitVec 2048)
  | peerReq (port dest tag op addr n : Nat) (v : List (BitVec 128))
  | seqMsg (port : Nat) (dest : BitVec 12) (e : Ev)
  | pageReq (fn page : Nat)
  /-- R40: a Translation Request, with the PASID of the process. -/
  | atsReq (fn asid page : Nat) (pasid : BitVec 20)
  /-- R40: an Invalidate Request is completed. -/
  | atsInvDone (fn base len : Nat)
  /-- R41, R38: an answered translation query is invalidated. -/
  | peerInval (dest part ppa log2 : Nat)
  | msix (fn vec : Nat)
deriving DecidableEq, Repr

/-- What comes next, as far as it has been laid down: an instruction of a quarter's run, or a step that is no word. -/
inductive Turn where
  /-- The quarter (core × 4 + quarter) issues. -/
  | issue (site : Nat)
  /-- R413: hardware re-injects what a checker has caught in a group. -/
  | redo (uid grp : Nat)
  /-- An input of the outside world, or any step laid down from outside. -/
  | event (i : Instr)
  /-- A step that the machine has laid down itself. -/
  | own (e : Ev)
  /-- R402, R417, R445: quarters that issue, and events that come, in one cycle. -/
  | meet (sites : List Nat) (ts : List (Instr ⊕ Ev))
deriving DecidableEq, Repr

/-! ## The machine -/

/-- Why the machine stops for good: for no reason. Every fault of the manual is a trap, a record or an answer that the machine
gives and goes on from; nobody raises one of these. -/
inductive Fault where
deriving DecidableEq, Repr

/-- Why a step has no meaning here. -/
inductive Refusal where
  /-- The meaning is not written yet. Raised by `exec` only; safe. -/
  | notModelled (mnemonic : String)
deriving DecidableEq, Repr

structure State where
  /-- R264: cycles since start-up. -/
  clock  : DWord := 0
  /-- The turns laid down for the machine: instructions of its quarters and inputs of the outside world (model's own). -/
  plan   : List Turn := []
  /-- The quarter whose run issues: core × 4 + quarter (model's own). -/
  site   : Nat := 0
  /-- Draw counter of the device's free values (model's own). -/
  draw   : Nat := 0
  /-- Runs of the 768 quarters. -/
  runs   : Sparse Run := []
  teams  : Sparse Team := []
  nextUid : Nat := 0
  launches : Sparse (Option Launch) := []
  nextLaunch : Nat := 0
  cores  : Sparse Core := []
  dies   : Sparse Die := []
  engines : Sparse Engine := []
  stks : Sparse Stack := []
  /-- Stored bytes of the twelve stacks, by stack × 2^36 + p × 2^30 + bank × 2^25 + row × 2^11 + unit × 32 + byte (R53). -/
  raw    : Mem := []
  /-- R62: units stored with PSN = 1. -/
  psn    : Sparse Bool := []
  /-- R62: stored CHK xor the CRC of the stored column; zero where the check holds. -/
  chk    : Sparse (BitVec 16) := []
  /-- R484: units whose array has failed, by stored address div 32. -/
  broken : Sparse Bool := []
  /-- R113: one more than the cycle of a unit's first read with STATUS 2. -/
  st2At : Sparse Nat := []
  cad    : Sparse (Option Cad) := []
  /-- R35: owner of each parcel, stored as partition plus one; unlisted reads as 31, unassigned. -/
  owner  : Sparse Nat := []
  drops  : List Elem := []
  /-- R71: single-parcel moves asked for: parcel and position. -/
  rsSingles : List (Nat × Nat) := []
  /-- R112: for a single-parcel move asked for after a row without a repair row: parcel, position, pseudo-channel and row. -/
  rsCause : List (Nat × Nat × Nat × Nat) := []
  /-- R57, R70: moves that a drop asked for and that are not retried: the drop's place in `drops`, and the parcel. -/
  rsSkip : List (Nat × Nat) := []
  /-- R112: frames recorded as unusable: stack and frame. -/
  unusable : List (Nat × Nat) := []
  nospare : Bool := false
  l2     : Sparse L2Line := []
  l2plru : Sparse (BitVec 15) := []
  cecnt  : Sparse Nat := []
  /-- R99: the 10 ns interval of the last refill. -/
  refillAt : Nat := 0
  mhpois : Nat := 0
  rsrate : Word := 0x00000258
  pbctl  : Word := 0x80000018
  mtcfg  : Word := 0x08520840
  pipecfg : Word := 0x00000014
  iftctl : Word := 0x80000018
  iftFail : Nat := 0
  iftAband : Nat := 0
  iftPass : Nat := 0
  faults : List FaultRec := []
  regs   : List Reg := []
  wakes  : List Wake := []
  watch  : List Watch := []
  /-- R79, R362: watches in the residency shadows, and the parcels whose overflow bit is set. -/
  shadowWatch : List Watch := []
  watchOvf : Sparse Bool := []
  wlocks : List WLock := []
  parts  : Sparse Part := []
  vdevs  : Sparse Vdev := []
  /-- R459: checked units that fail at their next check: core × 32 + quarter × 8 + unit; the
  64-column blocks of engines at 6144 + engine × 8 + block. -/
  misfire : List Nat := []
  /-- R140: arrivals on the cluster networks: cluster, team of the destination rank or 2^32 plus a core where there is none,
  handle, count, and whether ERR is set with it (R351). -/
  arrivals : List (Nat × Nat × Nat × Nat × Bool) := []
  /-- Host memory and peer memory as far as this machine knows them (class 0b01 and 0b10 addresses). -/
  host   : Sparse Byte := []
  peers  : Sparse Peer := []
  /-- R433: completions not yet taken. -/
  answers : List Answer := []
  pats   : Sparse Pat := []
  /-- R429, R430. -/
  accid  : Nat := 0
  accNone : Bool := true
  storedAcc : Option Nat := none
  links  : BitVec 13 := 0
  /-- R469: injectors of the 13 ports, and flits counted since arming. -/
  linj   : Sparse Word := []
  linjCnt : Sparse Nat := []
  injpart : BitVec 24 := 0
  /-- R478. -/
  fwArg  : Sparse Word := []
  fwCmd  : Nat := 0
  fwBusy : Bool := false
  fwDropped : Bool := false
  fwErr  : Nat := 0
  ownerKeys : Sparse (List Byte) := []
  /-- R481: a stack that the cadastre of start-up leaves out. -/
  bootGone : Option Nat := none
  bootStep : Nat := 0
  bootErr : Nat := 0
  bootDone : Bool := false
  /-- R482. -/
  pwrPeak : Sparse Nat := []
  pwrAvg : Sparse Nat := []
  out    : List Out := []
  /-- R421: keys created so far. -/
  nkeys  : Nat := 0
  shareAt : Nat := 0
deriving DecidableEq, Repr

/-- The machine right after reset: nothing listed, start-up not yet done. -/
def State.reset : State := {}

end Sys2Proof.Machine
end

