-- ==== Sys2Proof/Machine/Count.lean ====
section
/-! DEFINITION. The counter banks of the partitions: what an event does to a counter and to a capture unit (R474 to R476). -/

namespace Sys2Proof.Machine

def State.partOf (s : State) (p : Nat) : Part := Sparse.get {} s.parts p
def State.updPart (s : State) (p : Nat) (f : Part → Part) : State := { s with parts := Sparse.upd {} s.parts p f }

/-- R474: the events of the catalogue. -/
def eventListed (ev : Nat) : Bool :=
  [0x0000, 0x0001, 0x0002, 0x0003, 0x0010, 0x0011, 0x0012, 0x0013, 0x0014, 0x0020, 0x0021, 0x0022, 0x0030, 0x0031, 0x0040, 0x0050].contains ev

/-- The EVENT that counter `k` selects. -/
def Bank.event (b : Bank) (k : Nat) : Nat := (Sparse.get 0 b.sel k).toNat % 65536

/-- R474, R475: a counter reads 0 with INV = 1: its code is absent, or a move to this device has made it so. -/
def Bank.inv (b : Bank) (k : Nat) : Bool := !eventListed (b.event k) || Sparse.get false b.moved k

/-- R474: `n` events of a code: every enabled counter that selects it rises. -/
def Bank.counted (b : Bank) (ev n : Nat) : Bank :=
  { b with val := (List.range 8).foldl (fun m k =>
      if (Sparse.get 0 b.sel k).getLsbD 31 && b.event k == ev && ev != 0 && !b.inv k then Sparse.upd 0 m k fun v => v + BitVec.ofNat 48 n else m) b.val }

/-- R476: the bin of a value. -/
def capBin (shift v : Nat) : Nat :=
  if v < 2 ^ shift then 0
  else match (List.range 14).find? fun j => decide (v < 2 ^ (shift + j + 1)) with
    | some j => j + 1
    | none => 15

/-- A count that stays at its greatest value. -/
def satInc (w : Word) : Word := if w = 0xFFFFFFFF then w else w + 1

/-- R476: one value of a source. -/
def Bank.captured (b : Bank) (src v : Nat) : Bank :=
  if b.capSel.getLsbD 31 && b.capSel.toNat % 16 == src then
    let w := BitVec.ofNat 32 (min v 0xFFFFFFFF)
    { b with
      capMin := if w.toNat < b.capMin.toNat then w else b.capMin, capMax := if b.capMax.toNat < w.toNat then w else b.capMax
      capCnt := satInc b.capCnt, bins := Sparse.upd 0 b.bins (capBin (b.capSel.toNat / 256 % 32) v) satInc }
  else b

/-- `f` acts on every bank of a partition. -/
def State.onBanks (s : State) (part : Nat) (f : Bank → Bank) : State :=
  if (s.partOf part).banks.isEmpty then s
  else s.updPart part fun p => { p with banks := p.banks.map fun b => (b.1, f b.2) }

/-- R474: events of a partition's own agents. -/
def State.count (s : State) (part ev n : Nat) : State := s.onBanks part fun b => b.counted ev n

/-- R476: a value of a partition's capture source. -/
def State.capture (s : State) (part src v : Nat) : State := s.onBanks part fun b => b.captured src v

/-- R380: the partition of a virtual device. -/
def State.partOfVdev (s : State) (v : Nat) : Option Nat :=
  (s.parts.find? fun p => p.2.valid && decide (v < 96) && p.2.vfmask.getLsbD v).map fun p => p.1

/-- R474: an event of a virtual device's partition. -/
def State.countVdev (s : State) (v ev : Nat) : State :=
  match s.partOfVdev v with
  | some p => s.count p ev 1
  | none => s

/-- R474, R476: a look-up of a home slice: a hit, or a miss, whose latency the model leaves open (log 60). -/
def State.countHome (s : State) (v : Nat) (hit : Bool) : State :=
  match s.partOfVdev v with
  | none => s
  | some p =>
    if (s.partOf p).banks.isEmpty then s
    else if hit then s.count p 0x12 1
    else { ((s.count p 0x13 1).capture p 3 (Config.missLatency s.draw)) with draw := s.draw + 1 }

end Sys2Proof.Machine
end

