-- ==== Sys2Proof/Machine/Column.lean ====
section
/-! DEFINITION. Columns of the stacks and their base dies: bytes, the code, a column's check, tokens, hot rows,
self-refresh, and the packets with the scheduler that serves them (R53 to R62, R67, R90 to R106, R111, R115, R484). -/

namespace Sys2Proof.Machine

/-- The least of a list by a measure, the first of equals. -/
def leastBy {α : Type} (f : α → Nat) (xs : List α) : Option α :=
  xs.foldl (fun m x => match m with | some y => if f x < f y then some x else some y | none => some x) none

/-! ## Bytes in memory -/

def Mem.get (m : Mem) (a : Nat) : Byte := Sparse.get 0 m a

def Mem.set (m : Mem) (a : Nat) (v : Byte) : Mem := Sparse.set 0 m a v

/-- The canonical form: addresses strictly rising, no byte equal to what an unlisted address reads as. -/
def Mem.wf (m : Mem) : Bool := Sparse.wf 0 m

/-- `n` bytes from `a` up as one number, the lowest address least significant (R7). -/
def Mem.readNat (m : Mem) : Nat → Nat → Nat
  | _, 0 => 0
  | a, n + 1 => (Mem.get m a).toNat + 256 * Mem.readNat m (a + 1) n

/-- The low `n` bytes of `v` written from `a` up. -/
def Mem.writeNat (m : Mem) : Nat → Nat → Nat → Mem
  | _, 0, _ => m
  | a, n + 1, v => Mem.writeNat (Mem.set m a (BitVec.ofNat 8 v)) (a + 1) n (v / 256)

/-- Bytes `k` of `v` written at `a + k` where `mask` has bit `k`. -/
def Mem.writeMasked (m : Mem) (a : Nat) : Nat → Nat → Nat → Mem
  | 0, _, _ => m
  | n + 1, v, mask =>
    let m' := Mem.writeMasked m a n v mask
    if mask.testBit n then Mem.set m' (a + n) (BitVec.ofNat 8 (v >>> (8 * n))) else m'

/-- A byte mask as a bit mask over `n` bytes. -/
def spread : Nat → Nat → Nat
  | 0, _ => 0
  | n + 1, mask => spread n mask + (if mask.testBit n then 255 <<< (8 * n) else 0)

/-- The bytes of `new` where `mask` has their bit, else of `old`. -/
def mergeLine (old new : BitVec 1024) (mask : BitVec 128) : BitVec 1024 :=
  let m : BitVec 1024 := BitVec.ofNat 1024 (spread 128 mask.toNat)
  (old &&& ~~~m) ||| (new &&& m)

def mergeCol (old new : BitVec 256) (mask : Nat) : BitVec 256 :=
  let m : BitVec 256 := BitVec.ofNat 256 (spread 32 mask)
  (old &&& ~~~m) ||| (new &&& m)

/-- Keys of a range taken out of a table. -/
def Sparse.without {α : Type} (m : Sparse α) (lo n : Nat) : Sparse α := m.filter fun x => decide (x.1 < lo) || decide (lo + n ≤ x.1)

/-! ## The code (R61, R62) -/

/-- Every byte times α = 2 over polynomial 0x11D. -/
def colTimes2 (v : BitVec 256) : BitVec 256 :=
  let hi := v &&& 0x8080808080808080808080808080808080808080808080808080808080808080#256
  ((v ^^^ hi) <<< 1) ^^^ ((hi >>> 7) * 0x1D#256)

/-- Every byte divided by α. -/
def colOver2 (v : BitVec 256) : BitVec 256 :=
  let lo := v &&& 0x0101010101010101010101010101010101010101010101010101010101010101#256
  ((v ^^^ lo) >>> 1) ^^^ (lo * 0x8E#256)

def iter {α : Type} (f : α → α) : Nat → α → α
  | 0, x => x
  | n + 1, x => iter f n (f x)

/-- R59, R61: the power of α that weighs position `j` of line `i`: the check column has weight 1, Dk weight 2^(4−k). -/
def weightPow (i j : Nat) : Nat :=
  let k := (j + 9 - i % 5) % 5
  if k = 4 then 0 else 4 - k

/-- R59: data column of position `j` of line `i`; 4 is the check column. -/
def roleOf (i j : Nat) : Nat := (j + 9 - i % 5) % 5

/-- R59: position of data column `k` (4: the check column) of line `i`. -/
def posOf (i k : Nat) : Nat := if k = 4 then i % 5 else (i % 5 + 1 + k) % 5

def weigh (i j : Nat) (v : BitVec 256) : BitVec 256 := iter colTimes2 (weightPow i j) v

/-- R61: the check column of four data columns. -/
def checkCol (d : Nat → BitVec 256) : BitVec 256 :=
  iter colTimes2 4 (d 0) ^^^ iter colTimes2 3 (d 1) ^^^ iter colTimes2 2 (d 2) ^^^ colTimes2 (d 3)

/-- R61: the weighted sum of the five columns. -/
def syndrome (i : Nat) (c : Nat → BitVec 256) : BitVec 256 :=
  weigh i 0 (c 0) ^^^ weigh i 1 (c 1) ^^^ weigh i 2 (c 2) ^^^ weigh i 3 (c 3) ^^^ weigh i 4 (c 4)

/-- R61: the column of position `j` from the other four. -/
def rebuild (i j : Nat) (c : Nat → BitVec 256) : BitVec 256 :=
  iter colOver2 (weightPow i j) (syndrome i fun k => if k = j then 0 else c k)

def crcBit (r : Nat) (b : Bool) : Nat :=
  let top := Nat.testBit r 15 != b
  let r2 := r * 2 % 65536
  if top then r2 ^^^ 0x8BB7 else r2

/-- CRC-16 of one byte, most significant bit first. -/
def crcByte (r : Nat) (x : Nat) : Nat :=
  [7, 6, 5, 4, 3, 2, 1, 0].foldl (fun r k => crcBit r (x.testBit k)) r

/-- R62: the CRC of `n` bytes, lowest first. -/
def crcBytes : Nat → Nat → Nat → Nat
  | 0, _, r => r
  | n + 1, v, r => crcBytes n (v / 256) (crcByte r (v % 256))

/-! ## Places (R53, R54, R56, R60) -/

/-- A column unit of a stack. -/
structure Col where
  stack : Nat
  p     : Nat
  bank  : Nat
  row   : Nat
  unit  : Nat
deriving DecidableEq, Repr

/-- Number of the unit among all units. -/
def Col.index (c : Col) : Nat := (((c.stack * 64 + c.p) * 32 + c.bank) * 16384 + c.row) * 64 + c.unit

/-- R62: the location word. -/
def Col.word (c : Col) : Nat := ((c.p * 32 + c.bank) * 16384 + c.row) * 64 + c.unit

/-- R62: the check of a column at its place. -/
def Col.crc (c : Col) (v : BitVec 256) : Nat := crcBytes 4 c.word (crcBytes 32 v.toNat 0)

/-- R67: whether an element covers a column. -/
def Elem.covers (e : Elem) (c : Col) : Bool :=
  e.stack == c.stack && match e.level with
    | 0 => e.chan * 2 + e.pch == c.p && e.bank == c.bank
    | 1 => e.chan * 2 + e.pch == c.p
    | 2 => e.chan == c.p / 2
    | _ => true

/-- R67: the descriptor of an element. -/
def Elem.word (e : Elem) : Word :=
  BitVec.ofNat 32 (e.level * 2 ^ 29 + e.stack * 2 ^ 25 + e.chan * 2 ^ 20 + e.pch * 2 ^ 19 + e.bank * 2 ^ 14)

/-- R67: the element of a descriptor; none where the descriptor is ignored. -/
def Elem.ofWord (w : Word) : Option Elem :=
  let n := w.toNat
  let lv := n / 2 ^ 29
  let e : Elem := { level := lv, stack := n / 2 ^ 25 % 16, chan := n / 2 ^ 20 % 32, pch := n / 2 ^ 19 % 2, bank := n / 2 ^ 14 % 32 }
  let bad := decide (3 < lv) || decide (11 < e.stack) || n % 2 ^ 14 != 0 || (decide (1 ≤ lv) && e.bank != 0)
    || (decide (2 ≤ lv) && e.pch != 0) || (decide (3 ≤ lv) && e.chan != 0)
  if bad then none else some e

/-- The first number from `p` up, among `n`, that `f` takes; and how many it takes. -/
def firstFrom (f : Nat → Bool) : Nat → Nat → Option Nat
  | 0, _ => none
  | n + 1, p => if f p then some p else firstFrom f n (p + 1)

def countFrom (f : Nat → Bool) : Nat → Nat → Nat → Nat
  | 0, _, k => k
  | n + 1, p, k => countFrom f n (p + 1) (if f p then k + 1 else k)

/-- R115: the 32 bytes of a record, the lowest least significant. -/
def FaultRec.bytes (r : FaultRec) : Nat :=
  r.elem.toNat + r.kind % 256 * 2 ^ 32 + r.rowid % 2 ^ 16 * 2 ^ 48 + r.parcel % 2 ^ 19 * 2 ^ 64 + r.version % 2 ^ 16 * 2 ^ 96
    + r.count % 2 ^ 16 * 2 ^ 112 + r.time % 2 ^ 64 * 2 ^ 128

/-- R115: post a memory fault record. -/
def State.postFault (s : State) (r : FaultRec) : State := { s with faults := s.faults ++ [{ r with time := s.clock.toNat }] }

/-! ## Base dies: tables, tokens (R98 to R101) -/

def State.stackOf (s : State) (k : Nat) : Stack := Sparse.get {} s.stks k
def State.updStack (s : State) (k : Nat) (f : Stack → Stack) : State := { s with stks := Sparse.upd {} s.stks k f }
def State.vdevOf (s : State) (v : Nat) : Vdev := Sparse.get {} s.vdevs v
def State.updVdev (s : State) (v : Nat) (f : Vdev → Vdev) : State := { s with vdevs := Sparse.upd {} s.vdevs v f }

def qbRate (w : Word) : Nat := w.toNat % 2 ^ 20
def qbDepth (w : Word) : Nat := w.toNat / 2 ^ 20

/-- R99, R100: once in every 10 ns each bucket of every stack gains RATE / 100 tokens up to DEPTH. -/
def State.refill (s : State) : State :=
  let now := s.clock.toNat / 20
  if now ≤ s.refillAt then s
  else
    let vs := s.vdevs.filter fun x => qbRate x.2.qbcfg != 0 && (decide (x.1 < 96) || x.1 == 127)
    let fill := fun (b : Sparse Nat) => vs.foldl (fun b x => Sparse.upd 0 b x.1 fun n =>
      min (n + qbRate x.2.qbcfg * (now - s.refillAt)) (qbDepth x.2.qbcfg * 6400)) b
    { s with refillAt := now
             stks := if vs.isEmpty then s.stks
               else (List.range Config.nStacks).foldl (fun m k => Sparse.upd {} m k fun t => { t with buckets := fill t.buckets }) s.stks }

/-- R98, R99: a bucket holds the tokens of a request; the resurvey, the perambulator and virtual device 127 are always
covered. -/
def Stack.covers (t : Stack) (vdev cost : Nat) : Bool := decide (96 < vdev) || decide (100 * cost ≤ Sparse.get 0 t.buckets vdev)

/-- R99: spend tokens of a virtual device on a stack, or count a request served in class 5. -/
def State.spend (s : State) (stack vdev cost : Nat) : State :=
  let s1 := s.refill
  if 96 < vdev then s1
  else if (s1.stackOf stack).covers vdev cost then
    s1.updStack stack fun t => { t with buckets := Sparse.upd 0 t.buckets vdev fun n => n - 100 * cost }
  else s1.updVdev vdev fun v => { v with qbstat := v.qbstat + 1 }

/-- R99, R103: the activation of a throttled row is paid by its heater, whose bucket never falls below zero. -/
def State.heat (s : State) (stack heater : Nat) : State :=
  if 96 < heater then s else s.updStack stack fun t => { t with buckets := Sparse.upd 0 t.buckets heater fun n => n - 200 }

/-! ## Hot rows (R102, R103) -/

/-- R102: the virtual device with the most activations of a row, the lower number winning a tie. -/
def HotRow.heater (h : HotRow) : Nat :=
  (h.by_.foldl (fun (b : Nat × Nat) x => if b.2 < x.2 then x else b) (0, 0)).1

/-- R102: one more activation of a row by a virtual device; a full tracker replaces its lowest entry, the first of equals
(log 78). A row that is replaced is no longer throttled (log 87). -/
def hotBump (rows : List HotRow) (row vdev : Nat) : List HotRow :=
  if rows.any fun h => h.row == row then
    rows.map fun h => if h.row = row then { h with count := h.count + 1, by_ := Sparse.upd 0 h.by_ vdev (· + 1) } else h
  else if rows.length < 16 then rows ++ [{ row := row, count := 1, by_ := Sparse.set 0 [] vdev 1 }]
  else
    let low := rows.foldl (fun b h => min b h.count) (rows.headD { row := 0, count := 0 }).count
    let at_ := rows.findIdx fun h => h.count == low
    rows.set at_ { row := row, count := low + 1, by_ := Sparse.set 0 [] vdev 1 }

def hrThresh (w : Word) : Nat := w.toNat / 65536
def hrGap (w : Word) : Nat := w.toNat / 256 % 256

/-- R103: an activation of a row counted at `now`: throttling and the neighbour refresh at the crossing, and the wait of a
throttled row in 10 ns units with its heater. -/
def hotThrottle (cfg : Word) (now : Nat) (row : Nat) (rows : List HotRow) : List HotRow × Option (Nat × Nat) × Bool :=
  match rows.find? fun h => h.row == row with
  | none => (rows, none, false)
  | some h =>
    let start := Nat.max now h.nextAct
    let wait := if h.throttled then some (h.heater, (start - now) / 20) else none
    let past := decide (hrThresh cfg ≤ h.count)
    let h' := { h with
      throttled := h.throttled || (cfg.getLsbD 0 && past)
      crossed := h.crossed || past
      nextAct := if h.throttled || (cfg.getLsbD 0 && past) then start + hrGap cfg * 20 else h.nextAct }
    (rows.map fun x => if x.row = row then h' else x, wait, past && !h.crossed)

/-! ## Packets and replies (R90 to R93) -/

/-- R91: the header of a reply to a request's header, with STATUS, PSN and FWD. -/
def replyHdr (hdr : DWord) (status : Nat) (psn fwd : Bool) : DWord :=
  BitVec.ofNat 64 (hdr.toNat / 2 ^ 51 * 2 ^ 51 + status * 2 ^ 49 + (if psn then 2 ^ 48 else 0) + (if fwd then 2 ^ 47 else 0))

def hdrKind (h : DWord) : Nat := h.toNat / 2 ^ 62
def hdrDie (h : DWord) : Nat := h.toNat / 2 ^ 60 % 4
def hdrTag (h : DWord) : Nat := h.toNat / 2 ^ 57 % 8
def hdrP (h : DWord) : Nat := h.toNat / 2 ^ 51 % 64
def hdrOp (h : DWord) : Nat := h.toNat / 2 ^ 29 % 8

def hdrVdev (h : DWord) : Nat := h.toNat / 2 ^ 19 % 128
def hdrArg (h : DWord) : Nat := h.toNat / 2 ^ 26 % 8
def tagKey (h : DWord) : Nat := hdrDie h * 512 + hdrP h * 8 + hdrTag h

/-- The column of a packet. -/
def hdrCol (stack : Nat) (h : DWord) : Col :=
  { stack := stack, p := hdrP h, bank := h.toNat / 2 ^ 46 % 32, row := h.toNat / 2 ^ 32 % 16384, unit := h.toNat / 2 ^ 26 % 64 }

/-- R92: a packet that is refused. -/
def hdrBad (h : DWord) : Bool :=
  let kind := hdrKind h
  hdrDie h == 3 || h.toNat % 2 ^ 18 != 0 || (decide (96 ≤ hdrVdev h) && decide (hdrVdev h < 125))
    || (kind != 1 && h.getLsbD 18)
    || (kind == 3 && (decide (3 < hdrOp h) || (if hdrOp h = 0 then decide (2 < hdrArg h) else hdrArg h != 0)))

def Stack.reply (t : Stack) (r : Reply) : Stack := { t with replies := t.replies ++ [r] }

/-- R93: the lowest free tag of a die for a pseudo-channel. -/
def Stack.freeTag (t : Stack) (die p : Nat) : Option Nat :=
  (List.range 8).find? fun k => (Sparse.get none t.tags (die * 512 + p * 8 + k)).isNone

/-- R93: a request of a die for the column has to wait for a tag. -/
def State.tagsBusy (s : State) (die : Nat) (c : Col) : Bool := ((s.stackOf c.stack).freeTag die c.p).isNone

/-! ## Self-refresh (R105) and refresh (R98) -/

/-- R105: self-refresh is reached: every entry request of the pseudo-channel that has been taken is answered. -/
def Stack.entered (t : Stack) (p : Nat) : Stack :=
  let due := t.tags.filterMap fun x => match x.2 with
    | some k => if hdrKind k.hdr = 3 ∧ hdrOp k.hdr = 1 ∧ hdrP k.hdr = p ∧ !k.dead ∧ !t.waiting.contains k then some k else none
    | none => none
  let seen := fun (k : Packet) => t.replies.any fun r => r.hdr.toNat / 2 ^ 51 == k.hdr.toNat / 2 ^ 51
  { t with replies := t.replies ++ ((due.filter fun k => !seen k).map fun k => { hdr := replyHdr k.hdr 0 false false }) }

/-- R105: what a pseudo-channel does after a request has been served: while others wait it stays active; else a pending
entry is issued, or the timer starts. -/
def Stack.rest (t : Stack) (p now : Nat) : Stack :=
  let sr : SelfRef := Sparse.get {} t.sr p
  { t with sr := Sparse.set {} t.sr p (
      if t.waiting.any fun k => hdrP k.hdr == p then { sr with state := .active }
      else if sr.pending then { sr with state := .entering, timer := now, pending := false }
      else { sr with state := .idle, timer := now }) }

/-- R105: a request of the home slices ends the self-refresh of a pseudo-channel. -/
def Stack.awake (t : Stack) (p : Nat) : Stack :=
  let sr : SelfRef := Sparse.get {} t.sr p
  let t1 := if sr.state = .entering then t.entered p else t
  { t1 with sr := Sparse.set {} t1.sr p { sr with state := .active } }

/-- R98, R102: before a request: the window's end clears the counts, and a due refresh closes the banks. -/
def Stack.upkeep (t : Stack) (p now : Nat) : Stack :=
  let t1 := if t.hotWin < now / (32 * Config.cyclesPerMs) then { t with hot := [], hotWin := now / (32 * Config.cyclesPerMs) } else t
  let sr : SelfRef := Sparse.get {} t1.sr p
  if now < sr.refresh + 32 * Config.cyclesPerMs / 2 ^ sr.mult then t1
  else { t1 with openRow := t1.openRow.filter fun x => x.1 / 32 != p, sr := Sparse.set {} t1.sr p { sr with refresh := now } }

/-! ## Columns -/

/-- R91: the status of a reply: 0 OK, 1 the check failed, 2 the array returned no data. -/
def State.colStatus (s : State) (c : Col) : Nat :=
  if Sparse.get false s.broken c.index then 2 else if Sparse.get 0 s.chk c.index = 0 then 0 else 1

def State.colData (s : State) (c : Col) : BitVec 256 := BitVec.ofNat 256 (Mem.readNat s.raw (c.index * 32) 32)

def State.colPsn (s : State) (c : Col) : Bool := Sparse.get false s.psn c.index

/-- R62, R484: store a whole column with a fresh check; a failed array stores nothing. -/
def State.colStore (s : State) (c : Col) (v : BitVec 256) (psn : Bool) : State :=
  if Sparse.get false s.broken c.index then s
  else { s with
    raw := Mem.writeNat s.raw (c.index * 32) 32 v.toNat
    psn := Sparse.set false s.psn c.index psn
    chk := Sparse.set 0 s.chk c.index 0 }

/-- R111: how often a column's row has been logged. -/
def State.logged (s : State) (c : Col) : Nat :=
  (((s.stackOf c.stack).rowLog.find? fun r => r.p == c.p && r.bank == c.bank && r.row == c.row).map fun r => r.count).getD 0

/-- R115: a record of a column: its row, with its logged count. -/
def State.postCol (s : State) (c : Col) (kind parcel version : Nat) : State :=
  s.postFault { elem := Elem.word { level := 0, stack := c.stack, chan := c.p / 2, pch := c.p % 2, bank := c.bank },
                kind := kind, rowid := c.row, parcel := parcel, version := version, count := s.logged c }

/-- R113: a column that answers two reads, 1 ms apart, with STATUS 2 costs its bank. -/
def State.failedRead (s : State) (c : Col) : State :=
  let e : Elem := { level := 0, stack := c.stack, chan := c.p / 2, pch := c.p % 2, bank := c.bank }
  match Sparse.get 0 s.st2At c.index with
  | 0 => { s with st2At := Sparse.set 0 s.st2At c.index (s.clock.toNat + 1) }
  | t + 1 =>
    if s.clock.toNat < t + Config.cyclesPerMs || s.drops.contains e || s.plan.contains (.own (.rsdrop e.word)) then s
    else { s with plan := s.plan ++ [.own (.rsdrop e.word)] }

/-- R63, R113, R115: what the home slice does with a reply of status 1 or 2 to a read. -/
def State.colReport (s : State) (c : Col) (parcel version : Nat) : State :=
  match s.colStatus c with
  | 0 => s
  | 2 => (s.postCol c 2 parcel version).failedRead c
  | k => s.postCol c k parcel version

/-! ## What serving a request does beside its data (R98, R99, R102, R103) -/

/-- A request served at a column: a refresh that is due, the row's activation with the throttle (the neighbour refresh at
the crossing leaves the bank closed), and the tokens. -/
def State.colServe (s : State) (c : Col) (vdev cost : Nat) : State :=
  let t := (s.stackOf c.stack).upkeep c.p s.clock.toNat
  let bk := c.p * 32 + c.bank
  let hit := Sparse.get none t.openRow bk == some c.row
  if hit then ({ s with stks := Sparse.set {} s.stks c.stack t }).spend c.stack vdev cost
  else
    let h := hotThrottle t.hrcfg s.clock.toNat c.row (hotBump (Sparse.get [] t.hot bk) c.row vdev)
    let t2 := { t with
      openRow := Sparse.set none t.openRow bk (if h.2.2 then none else some c.row)
      hot := Sparse.set [] t.hot bk h.1 }
    let s1 : State := { s with stks := Sparse.set {} s.stks c.stack t2 }
    match h.2.1 with
    | none => s1.spend c.stack vdev (cost + 2)
    | some (v, w) => ((s1.spend c.stack vdev cost).heat c.stack v).updVdev v fun x => { x with hrwait := x.hrwait + BitVec.ofNat 32 w }

/-! ## A packet performed (R91, R94 to R96, R484) -/

/-- R94: the pending write of the same die to the unit of a packet, among those accepted before it: the last of them. -/
def Stack.pendingWrite (t : Stack) (k : Packet) : Option Packet :=
  ((t.waiting.takeWhile fun x => x != k).filter fun x =>
    hdrKind x.hdr == 1 && hdrDie x.hdr == hdrDie k.hdr && x.hdr.toNat / 2 ^ 26 % 2 ^ 31 == k.hdr.toNat / 2 ^ 26 % 2 ^ 31).getLast?

/-- A packet is performed, and its reply is on its way; `fwd` is the pending write that serves a read. An entry request is
answered on reaching SELFREF (R105). -/
def State.perform (s : State) (stack : Nat) (k : Packet) (fwd : Option Packet) : State :=
  let h := k.hdr
  let c := hdrCol stack h
  let v := hdrVdev h
  let ans := fun (s : State) (st : Nat) (psn : Bool) (d : BitVec 256) =>
    s.updStack stack fun t => t.reply { hdr := replyHdr h st psn fwd.isSome, data := d }
  match hdrKind h with
  | 0 =>
    let s1 := s.colServe c v 1
    match fwd with
    | some w => ans s1 0 (w.hdr.getLsbD 18) w.data
    | none =>
      let st := s1.colStatus c
      ans s1 st (st != 2 && s1.colPsn c) (if st = 2 then 0 else s1.colData c)
  | 1 =>
    let s1 := (s.colServe c v 1).colStore c k.data (h.getLsbD 18)
    ans s1 (if Sparse.get false s1.broken c.index then 2 else 0) false 0
  | 2 =>
    let s1 := s.colServe c v 2
    let st := s1.colStatus c
    let old := s1.colData c
    if st = 2 then ans s1 2 false 0
    else if st = 1 ∨ k.be = 0 then ans s1 st (s1.colPsn c) old
    else ans (s1.colStore c (mergeCol old k.data k.be.toNat) (s1.colPsn c)) 0 (s1.colPsn c) old
  | _ =>
    let p := c.p
    let upd := fun (f : SelfRef → SelfRef) => s.updStack stack fun t => { t with sr := Sparse.upd {} t.sr p f }
    match hdrOp h with
    | 0 => ans (upd fun x => { x with mult := hdrArg h }) 0 false 0
    | 1 => upd fun x => { x with pending := true }
    | 2 => ans s 0 false 0
    | _ => ans (s.updStack stack fun t => { t with openRow := Sparse.erase t.openRow (p * 32 + c.bank) }) 0 false 0

/-! ## The scheduler (R94, R98, R103) -/

/-- Tokens of a packet; one that needs its row activated costs two more, but for a throttled row (R99, R103). -/
def Stack.costOf (t : Stack) (k : Packet) (hot : Bool) : Nat :=
  let own := match hdrKind k.hdr with | 2 => 2 | 3 => 0 | _ => 1
  let c := hdrCol 0 k.hdr
  if hot || Sparse.get none t.openRow (c.p * 32 + c.bank) == some c.row then own else own + 2

/-- R103: the tracker entry of a packet's row, where it is throttled and would have to be activated. -/
def Stack.throttledRow (t : Stack) (k : Packet) : Option HotRow :=
  let c := hdrCol 0 k.hdr
  if hdrKind k.hdr = 3 ∨ Sparse.get none t.openRow (c.p * 32 + c.bank) = some c.row then none
  else (Sparse.get [] t.hot (c.p * 32 + c.bank)).find? fun h => h.row == c.row && h.throttled

/-- R103: a packet waits for the next permitted activation of its throttled row; clearing HRCFG.EN ends no throttle (log 87). -/
def Stack.throttles (t : Stack) (k : Packet) (now : Nat) : Bool :=
  match t.throttledRow k with | some h => decide (now < h.nextAct) | none => false

/-- R98: the class of a packet; refresh control of every OP is of class 1 (log 87). -/
def Stack.classOf (t : Stack) (k : Packet) : Nat :=
  if hdrKind k.hdr = 3 then 1
  else match hdrVdev k.hdr with
    | 126 => 2
    | 125 => 3
    | v => if t.covers v (t.costOf k (t.throttledRow k).isSome) then 4 else 5

/-- R94, R95, R98: a packet that may be served before those accepted earlier than it (`earlier`): it passes no request to
its own unit but, as a read, a whole write or a write of another die; and, as a row hit, none to another row of its bank
but one held by the throttle. -/
def Stack.mayServe (t : Stack) (k : Packet) (earlier : List Packet) (now : Nat) : Bool :=
  let c := hdrCol 0 k.hdr
  let hit := Sparse.get none t.openRow (c.p * 32 + c.bank) == some c.row
  hdrKind k.hdr == 3 || earlier.all fun x =>
    hdrKind x.hdr == 3 || (
      let y := hdrCol 0 x.hdr
      (y.index != c.index || (hdrKind k.hdr == 0 && (hdrKind x.hdr == 0 || hdrKind x.hdr == 1 || hdrDie x.hdr != hdrDie k.hdr)))
        && !(hit && y.p == c.p && y.bank == c.bank && y.row != c.row && !t.throttles x now))

/-- R98: the packet that a pseudo-channel serves next: the lowest class; in class 4 row hits first; the oldest; then the
lower virtual device. `all`: those held by the throttle too. -/
def Stack.next (t : Stack) (p now : Nat) (all : Bool) : Option Packet :=
  let mine := t.waiting.filter fun k => hdrP k.hdr == p
  let ok := mine.filter fun k => (all || !t.throttles k now) && t.mayServe k (mine.takeWhile fun x => x != k) now
  leastBy (fun k =>
    let c := hdrCol 0 k.hdr
    let cls := t.classOf k
    let hit := cls == 4 && Sparse.get none t.openRow (c.p * 32 + c.bank) == some c.row
    ((cls * 2 + (if hit then 0 else 1)) * 2 ^ 64 + k.time) * 128 + hdrVdev k.hdr) ok

/-- R98, R103: a pseudo-channel's scheduler serves its next request, after the refill of the cycle (R99); the time that one
waited for a throttled row is the heater's. A read of a unit whose array has failed is served by no pending write (R484). -/
def State.serveOne (s : State) (stack p : Nat) (all : Bool) : State :=
  let s0 := s.refill
  let t := (s0.stackOf stack).upkeep p s.clock.toNat
  match t.next p s.clock.toNat all with
  | none => s0
  | some k =>
    let fwd := if hdrKind k.hdr = 0 && !Sparse.get false s.broken (hdrCol stack k.hdr).index then t.pendingWrite k else none
    let s1 := s0.updStack stack fun u => { u with waiting := u.waiting.erase k }
    match t.throttledRow k with
    | some h =>
      let held := min s.clock.toNat h.nextAct - k.time
      (s1.updVdev h.heater fun x => { x with hrwait := x.hrwait + BitVec.ofNat 32 (held / 20) }).perform stack k fwd
    | none => s1.perform stack k fwd

/-- A home slice's request at a column, as the scheduler ranks it: it passes no request to its own unit. -/
def Col.request (c : Col) (vdev cost now : Nat) : Packet :=
  { hdr := BitVec.ofNat 64 ((if cost = 2 then 2 else 1) * 2 ^ 62 + 3 * 2 ^ 60 + c.p * 2 ^ 51 + c.bank * 2 ^ 46 + c.row * 2 ^ 32 + c.unit * 2 ^ 26 + vdev * 2 ^ 19)
    time := now }

/-- R98: the requests that a pseudo-channel's scheduler serves before a home slice's request `k` that has just come: at most
`n` of them. Where all wait for throttled rows, the next permitted activation comes first. -/
def State.serveBefore (s : State) (stack p : Nat) (k : Packet) : Nat → State
  | 0 => s
  | n + 1 =>
    let s0 := s.refill
    let t := (s0.stackOf stack).upkeep p s.clock.toNat
    let u := { t with waiting := t.waiting ++ [k] }
    match u.next p s.clock.toNat false with
    | some x => if x == k then s0 else State.serveBefore (s0.serveOne stack p false) stack p k n
    | none => match u.next p s.clock.toNat true with
      | some x => if x == k then s0 else State.serveBefore (s0.serveOne stack p true) stack p k n
      | none => s0

/-- A home slice's request at a column: self-refresh ends (R105), what the scheduler puts before it is served, and it is
served itself. -/
def State.colTouch (s : State) (c : Col) (vdev cost : Nat) : State :=
  let s0 := s.updStack c.stack fun t => t.awake c.p
  let n := ((s0.stackOf c.stack).waiting.filter fun k => hdrP k.hdr == c.p).length
  let s1 := if n = 0 then s0 else s0.serveBefore c.stack c.p (c.request vdev cost s.clock.toNat) (n + 1)
  (s1.colServe c vdev cost).updStack c.stack fun t => t.rest c.p s.clock.toNat

/-- R68: a column lies on a dropped element. -/
def State.dropped (s : State) (c : Col) : Bool := s.drops.any fun e => e.covers c

/-- R65, R68, R115: a whole column written by the home slice: never on a dropped element; a write that fails is recorded. -/
def State.colWrite (s : State) (c : Col) (v : BitVec 256) (psn : Bool) (vdev parcel version : Nat) : State :=
  if s.dropped c then s
  else
    let s1 := (s.colTouch c vdev 1).colStore c v psn
    if Sparse.get false s1.broken c.index then s1.postCol c 2 parcel version else s1

end Sys2Proof.Machine
end

