-- ==== Sys2Proof/Machine/Stripe.lean ====
section
/-! DEFINITION. Stripes and the cadastre: where a line lies, how a stripe is read and written, the reserved area, and what
the replies to read packets bring of a line (R55 to R70, R74, R89). -/

namespace Sys2Proof.Machine

/-! ## The cadastre (R55 to R60) -/

/-- The layout of start-up (log 11) over `m` stacks, twelve or, with one left out, eleven: position number `n` of the
module takes the n mod m-th of them and its n div m-th frame, turned so that the five banks of a parcel differ. -/
def frameAt (m n : Nat) : Nat := n / m / 32 * 32 + (n / m + 5 * (n % m)) % 32
def numberAt (m k frame : Nat) : Nat := (frame / 32 * 32 + (frame + 128 - 5 * k) % 32) * m + k

def stacksFor (gone : Option Nat) : List Nat := (List.range Config.nStacks).filter fun k => gone != some k

/-- R55: the layout that firmware gives a parcel at start-up: five positions to a parcel; the home slice is in the stack
of position 0. -/
def Layout.initial (gone : Option Nat) (parcel : Nat) : Layout :=
  let ks := stacksFor gone
  let n := fun j => 5 * parcel + j
  let stack := fun j => ks.getD (n j % ks.length) 0
  { stk := [0, 1, 2, 3, 4].map stack
    frm := [0, 1, 2, 3, 4].map fun j => frameAt ks.length (n j)
    home := stack 0 * 32 + parcel % 32
    seed := 0 }

/-- The position number that the layout of start-up gives a frame, if it uses the stack. -/
def State.numberOf (s : State) (stack frame : Nat) : Option Nat :=
  let ks := stacksFor s.bootGone
  if ks.contains stack then some (numberAt ks.length (ks.findIdx fun k => k == stack) frame) else none

/-- R56: the cadastre's entry of a parcel. -/
def State.cadOf (s : State) (parcel : Nat) : Cad :=
  (Sparse.get none s.cad parcel).getD { a := Layout.initial s.bootGone parcel }

def State.setCad (s : State) (parcel : Nat) (c : Cad) : State :=
  { s with cad := Sparse.set none s.cad parcel (some c) }

/-- R60: where position `j` of line `i` lies in a layout. -/
def Layout.col (l : Layout) (j i : Nat) : Col :=
  let key := l.seed.toNat / 2 ^ (6 * j) % 64
  let f := l.frm.getD j 0
  let q := i / 64
  { stack := l.stk.getD j 0, p := (i % 64) ^^^ key, bank := f % 32, row := 4 * (f / 32) + q / 64, unit := q % 64 }

/-- R35, R59: parcel and line of a local DPA. -/
def parcelOf (dpa : Nat) : Nat := dpa / 2 ^ 21
def lineIn (dpa : Nat) : Nat := dpa / 128 % 16384

/-- R69: the position of a layout that the drop of an element has moved. -/
def Elem.hits (e : Elem) (l : Layout) : Option Nat :=
  [0, 1, 2, 3, 4].find? fun j => l.stk.getD j 12 == e.stack && (decide (1 ≤ e.level) || l.frm.getD j 0 % 32 == e.bank)

/-- R69: a stack is retired from placement by every drop above bank level. -/
def State.retired (s : State) (stack : Nat) : Bool := s.drops.any fun e => decide (1 ≤ e.level) && e.stack == stack

/-- R55: a parcel number of the reserved area, which is striped and coded as the parcels are and is numbered after them
(log 16). -/
def reserved (parcel : Nat) : Bool := decide (Config.nParcels ≤ parcel)

/-- R71: the first drop, by its place, for which a parcel is still to be moved, with the position. -/
def State.dueDrop (s : State) (parcel : Nat) : Option (Nat × Elem × Nat) :=
  let a := (s.cadOf parcel).a
  s.drops.zipIdx.findSome? fun x =>
    if s.rsSkip.contains (x.2, parcel) then none else (x.1.hits a).map fun j => (x.2, x.1, j)

/-! ## The reserved area (R35, R55, R56, R115, R431; its places are the model's, log 16) -/

/-- R56: words 2 to 4, or 5 to 7, of an entry. -/
def Layout.words (l : Layout) : List Nat :=
  let k := fun j => l.stk.getD j 0
  let f := fun j => l.frm.getD j 0
  [k 0 * 2 ^ 60 + k 1 * 2 ^ 56 + k 2 * 2 ^ 52 + k 3 * 2 ^ 48 + k 4 * 2 ^ 44 + l.home * 2 ^ 32 + l.seed.toNat,
    f 0 * 2 ^ 34 + f 1 * 2 ^ 17 + f 2, f 3 * 2 ^ 17 + f 4]

/-- R56: the eight words of an entry; an entry without a target holds zeros for it. -/
def Cad.words (c : Cad) : List Nat :=
  [c.state * 2 ^ 62 + c.version * 2 ^ 32 + c.cursor, c.bankx.toNat] ++ c.a.words ++ (match c.t with | some t => t.words | none => [0, 0, 0])

/-- Words as one number, the first least significant (R7). -/
def joinWords (bits : Nat) (ws : List Nat) : Nat := ws.foldr (fun w n => w + 2 ^ bits * n) 0

/-- The DPAs in the reserved area of the cadastre, the parcel owner map, the peer access table and the fault records. -/
def cadBase : Nat := Config.localEnd
def ownBase : Nat := Config.localEnd + 9 * 2 ^ 21
def patBase : Nat := Config.localEnd + 10 * 2 ^ 21
def faultBase : Nat := Config.localEnd + 11 * 2 ^ 21
def shadowBase : Nat := Config.localEnd + 75 * 2 ^ 21

/-- R431: bits of an entry of the peer access table. -/
def Pat.bits (p : Pat) : Nat :=
  (if p.v then 2 ^ 63 else 0) + p.part * 2 ^ 58 + (if p.rd then 2 ^ 57 else 0) + (if p.wr then 2 ^ 56 else 0) + (if p.at_ then 2 ^ 55 else 0)
    + p.size + 2 ^ 64 * p.pbase.toNat

/-- What a line of the reserved area holds while it is readable. -/
def State.resLine (s : State) (line : Nat) : BitVec 1024 :=
  let a := line * 128
  BitVec.ofNat 1024 (
    if a < ownBase then joinWords 512 ((List.range 2).map fun k => joinWords 64 (s.cadOf ((a - cadBase) / 64 + k)).words)
    else if a < patBase then joinWords 8 ((List.range 128).map fun k => match Sparse.get 0 s.owner (a - ownBase + k) with | 0 => 31 | n + 1 => n)
    else if a < faultBase then joinWords 128 ((List.range 8).map fun k => (Sparse.get {} s.pats ((a - patBase) / 16 + k)).bits)
    else if a < shadowBase then joinWords 256 ((List.range 4).map fun k => match s.faults[(a - faultBase) / 32 + k]? with | some r => r.bytes | none => 0)
    else 0)

/-! ## Stripes (R63 to R66, R74) -/

/-- What a line holds: poison, or its 128 bytes. -/
inductive LineVal where
  | poison
  | data (v : BitVec 1024)
deriving DecidableEq, Repr

/-- R60: the columns of line `i` under A. -/
def Cad.cols (c : Cad) (i : Nat) : List Col := [0, 1, 2, 3, 4].map fun j => c.a.col j i

/-- R57: the position in which T differs from A. -/
def Cad.moved (c : Cad) : Nat :=
  match c.t with
  | none => 5
  | some t => ([0, 1, 2, 3, 4].find? fun j => t.stk.getD j 0 != c.a.stk.getD j 0 || t.frm.getD j 0 != c.a.frm.getD j 0).getD 5

/-- R73: whether a write to line `i` goes to T's moved column too. -/
def Cad.both (c : Cad) (i : Nat) : Bool := (c.state == 1 && decide (i < c.cursor)) || c.state == 2

/-- R74: the five columns of line `i` where those for which `bad` holds are lost: with two lost under A, T's moved column
stands in for A's where it is kept up. -/
def Cad.pick (cd : Cad) (i : Nat) (bad : Col → Bool) : List Col :=
  let cs := cd.cols i
  match cd.t with
  | some t => if decide (2 ≤ (cs.filter bad).length) && cd.both i then cs.set cd.moved (t.col cd.moved i) else cs
  | none => cs

/-- R63: a column that a decode does not take. -/
def State.erased (s : State) (c : Col) : Bool := s.dropped c || s.colStatus c != 0

/-- R66: a column to which nothing can be written. -/
def State.lost (s : State) (c : Col) : Bool := s.dropped c || Sparse.get false s.broken c.index

/-- R66: the stripe of a line would keep two erased positions whatever is written. -/
def State.unwritable (s : State) (line : Nat) : Bool :=
  decide (2 ≤ (((s.cadOf (line / 16384)).pick (line % 16384) s.lost).filter s.lost).length)

def nullCol : Col := { stack := 0, p := 0, bank := 0, row := 0, unit := 0 }

/-- The line of four data columns. -/
def lineOfCols (i : Nat) (c : Nat → BitVec 256) : BitVec 1024 :=
  c (posOf i 3) ++ c (posOf i 2) ++ c (posOf i 1) ++ c (posOf i 0)

/-- Data column `k` of a line. -/
def lineCol (v : BitVec 1024) (k : Nat) : BitVec 256 := v.extractLsb' (256 * k) 256

/-- The column of position `j` of line `i`. -/
def colOfLine (i : Nat) (v : BitVec 1024) (j : Nat) : BitVec 256 :=
  if roleOf i j = 4 then checkCol (lineCol v) else lineCol v (roleOf i j)

/-- R63: a line of five columns, of which `er` are erased: its value, and the position that was corrected. -/
def decodeCols (i : Nat) (at_ : Nat → Col) (raw : Nat → BitVec 256) (psn er : Nat → Bool) : LineVal × Option Nat :=
  if [0, 1, 2, 3, 4].any fun j => !er j && psn j then (.poison, none)
  else
    let fixed := fun (j : Nat) => lineOfCols i fun k => if k = j then rebuild i j raw else raw k
    match [0, 1, 2, 3, 4].filter er with
    | [] =>
      if syndrome i raw = 0 then (.data (lineOfCols i raw), none)
      else match [0, 1, 2, 3, 4].filter fun j => (at_ j).crc (rebuild i j raw) == (at_ j).crc (raw j) with
        | [j] => (.data (fixed j), some j)
        | _ => (.poison, none)
    | [j] => (.data (fixed j), some j)
    | _ => (.poison, none)

/-- R63, R74: the decode of a line as its columns stand: its value, and the column corrected outside the dropped elements.
A line of the reserved area holds what its table does (log 16). -/
def State.decode (s : State) (line : Nat) : LineVal × Option Nat :=
  let i := line % 16384
  let cs := (s.cadOf (line / 16384)).pick i s.erased
  let at_ := fun j => cs.getD j nullCol
  let raw := fun j => if reserved (line / 16384) then colOfLine i (s.resLine line) j else s.colData (at_ j)
  let r := decodeCols i at_ raw (fun j => s.colPsn (at_ j)) fun j => s.erased (at_ j)
  (r.1, r.2.filter fun j => !s.dropped (at_ j))

/-- R4, R66: a line of the reserved area is lost: stored poisoned, or with two erased positions. -/
def State.resLost (s : State) (dpa : Nat) : Bool :=
  !(s.drops.isEmpty && s.broken.isEmpty && s.chk.isEmpty && s.psn.isEmpty) && (s.decode (dpa / 128)).1 == .poison

/-- R65, R66, R73: write the data columns of a line that `ks` names, and its check column, whole: those of A that are live,
and T's moved column where it is due and changes; none for which `skip` holds. -/
def State.stripePut (s : State) (line : Nat) (ks : List Nat) (v : BitVec 1024) (psn : Bool) (vdev : Nat) (skip : Col → Bool) : State :=
  let cd := s.cadOf (line / 16384)
  let i := line % 16384
  let js := [0, 1, 2, 3, 4].filter fun j => roleOf i j == 4 || ks.contains (roleOf i j)
  let put := fun (s : State) (c : Col) (j : Nat) =>
    if skip c then s else s.colWrite c (if psn then 0 else colOfLine i v j) psn vdev (line / 16384) cd.version
  let s1 := js.foldl (fun s j => put s (cd.a.col j i) j) s
  match cd.t with
  | some t => if cd.both i && js.contains cd.moved then put s1 (t.col cd.moved i) cd.moved else s1
  | none => s1

def State.stripeStore (s : State) (line : Nat) (ks : List Nat) (v : BitVec 1024) (psn : Bool) (vdev : Nat) : State :=
  s.stripePut line ks v psn vdev fun _ => false

/-- R111: log a corrected column's row. -/
def rowLogAdd (log : List RowLog) (c : Col) (now : Nat) : List RowLog :=
  if log.any fun r => r.p == c.p && r.bank == c.bank && r.row == c.row then
    log.map fun r => if r.p = c.p ∧ r.bank = c.bank ∧ r.row = c.row then { r with count := r.count + 1 } else r
  else
    let old := log.foldl (fun b r => min b r.first) now
    let keep := if log.length < 256 then log else log.eraseIdx (log.findIdx fun r => r.first == old)
    keep ++ [{ p := c.p, bank := c.bank, row := c.row, count := 1, first := now }]

/-- R468 targets 1 and 2: the injector of the home's die draws at a stripe read of a parcel of a test partition. -/
def xorshift (x : DWord) : DWord :=
  let a := x ^^^ (x <<< 13)
  let b := a ^^^ (a >>> 7)
  b ^^^ (b <<< 17)

def State.dieOf (s : State) (d : Nat) : Die := Sparse.get {} s.dies d
def State.updDie (s : State) (d : Nat) (f : Die → Die) : State := { s with dies := Sparse.upd {} s.dies d f }

/-- R35: owner of a parcel; 31 unassigned. -/
def State.ownerOf (s : State) (parcel : Nat) : Nat :=
  match Sparse.get 0 s.owner parcel with
  | 0 => 31
  | k + 1 => k

/-- R468: one draw of a die's injector for an event of the given target: the new state and whether it injects; a seed of
zero stops injection. -/
def State.injDraw (s : State) (d : Nat) (target : Nat) : State × Bool :=
  let di := s.dieOf d
  if di.injTarget = target && di.injX != 0 then
    let x := xorshift di.injX
    (s.updDie d fun y => { y with injX := x }, decide (x.toNat % 2 ^ 32 < di.injRate))
  else (s, false)

/-- Flip byte 0 of a stored column without its check. -/
def State.colCorrupt (s : State) (c : Col) : State :=
  { s with
    raw := Mem.set s.raw (c.index * 32) (~~~ Mem.get s.raw (c.index * 32))
    chk := Sparse.upd 0 s.chk c.index fun x => x ^^^ BitVec.ofNat 16 (c.crc (s.colData c) ^^^ c.crc (s.colData c ^^^ 0xFF#256)) }

def State.injectStripe (s : State) (cd : Cad) (parcel i : Nat) : State :=
  let o := s.ownerOf parcel
  if o < 24 && (s.partOf o).test then
    let d := cd.a.home / 128
    let r1 := s.injDraw d 1
    let r2 := r1.1.injDraw d 2
    let j := (r2.1.dieOf d).injX.toNat / 2 ^ 32 % 8 % 5
    let s1 := if r1.2 then r2.1.colCorrupt (cd.a.col j i) else r2.1
    if r2.2 then (s1.colCorrupt (cd.a.col j i)).colCorrupt (cd.a.col ((j + 1) % 5) i) else s1
  else s

/-- R64, R110 to R112, R115: a column corrected outside the dropped elements: written back, counted, logged and recorded;
with its row's count at ROWCE, firmware is to repair the row. -/
def State.corrected (s : State) (line : Nat) (c : Col) (v : BitVec 256) (vdev : Nat) : State :=
  let version := (s.cadOf (line / 16384)).version
  let s1 := s.colWrite c v false vdev (line / 16384) version
  let s2 := { s1 with cecnt := Sparse.upd 0 s1.cecnt (c.stack * 64 + c.p) fun n => min (n + 1) 0xFFFF }
  let s3 := (s2.updStack c.stack fun t => { t with rowLog := rowLogAdd t.rowLog c s.clock.toNat }).postCol c 0 (line / 16384) version
  if s3.logged c < s.mtcfg.toNat / 2 ^ 24 || (s3.stackOf c.stack).rowDue.contains (c.p, c.bank, c.row) then s3
  else s3.updStack c.stack fun t => { t with rowDue := t.rowDue ++ [(c.p, c.bank, c.row)] }

/-- R64, R66, R85: a line found poisoned: unless every live column already has PSN = 1, it is written so, recorded and
counted. The COUNT of its record is 1 (log 87). -/
def State.turnPoisoned (s : State) (line vdev : Nat) : State :=
  let cd := s.cadOf (line / 16384)
  if (cd.cols (line % 16384)).all fun c => s.lost c || s.colPsn c then s
  else
    let s1 := (s.stripeStore line [0, 1, 2, 3] 0 true vdev).postFault
      { elem := Elem.word { level := 3, stack := cd.a.home / 32 }, kind := 3, rowid := line % 16384, parcel := line / 16384, version := cd.version, count := 1 }
    { s1 with mhpois := min (s1.mhpois + 1) (2 ^ 32 - 1) }

/-- R63, R64: what follows from the decode of a line. -/
def State.decoded (s : State) (line vdev : Nat) (r : LineVal × Option Nat) : State × LineVal :=
  match r with
  | (.data v, none) => (s, .data v)
  | (.data v, some j) =>
    let c := ((s.cadOf (line / 16384)).pick (line % 16384) s.erased).getD j nullCol
    (s.corrected line c (colOfLine (line % 16384) v j) vdev, .data v)
  | (.poison, _) => (s.turnPoisoned line vdev, .poison)

/-- R63, R64: read and decode a line at its home under the line lock. -/
def State.stripeRead (s : State) (dpa vdev : Nat) : State × LineVal :=
  let line := dpa / 128
  let cd := s.cadOf (line / 16384)
  let i := line % 16384
  let s0 := s.injectStripe cd (line / 16384) i
  let live := (cd.pick i s0.erased).filter fun c => !s0.dropped c
  let s1 := live.foldl (fun s c => s.colTouch c vdev 1) s0
  let s2 := live.foldl (fun s c => s.colReport c (line / 16384) cd.version) s1
  s2.decoded line vdev (s2.decode line)

/-- R65, R66: write a line that is wholly present: the data columns `ks` and P. A write of all 128 bytes clears a poison;
one of fewer bytes leaves it, and so does any where two positions would stay erased. -/
def State.stripeWriteLine (s : State) (dpa : Nat) (ks : List Nat) (v : BitVec 1024) (vdev : Nat) : State :=
  let line := dpa / 128
  let stored := ((s.cadOf (line / 16384)).cols (line % 16384)).any fun c => !s.erased c && s.colPsn c
  if s.unwritable line || (stored && ks != [0, 1, 2, 3]) then s else s.stripeStore line ks v false vdev

/-- The data columns that a byte mask touches. -/
def columnsOf (mask : BitVec 128) : List Nat := [0, 1, 2, 3].filter fun k => mask.toNat / 2 ^ (32 * k) % 2 ^ 32 != 0

/-- R65, R95: the masked writes of the data columns `hit` of a line, each served before it reads its column, with P and T's
moved column written whole after them. -/
def State.stripeMasked (s : State) (line : Nat) (hit : List Nat) (mask : BitVec 128) (v : BitVec 1024) (vdev : Nat) : State :=
  let cd := s.cadOf (line / 16384)
  let i := line % 16384
  let pcol := cd.a.col (posOf i 4) i
  let s1 := hit.foldl (fun s k =>
    let c := cd.a.col (posOf i k) i
    let old := s.colData c
    let new := mergeCol old (lineCol v k) (mask.toNat / 2 ^ (32 * k) % 2 ^ 32)
    let s' := s.colStore c new (s.colPsn c)
    let p := s'.colData pcol ^^^ iter colTimes2 (4 - k) (old ^^^ new)
    s'.colStore pcol (if s'.colPsn pcol then 0 else p) (s'.colPsn pcol)) s
  match cd.t with
  | some t =>
    let a := cd.a.col cd.moved i
    if cd.both i && (roleOf i cd.moved == 4 || hit.contains (roleOf i cd.moved)) then
      s1.colWrite (t.col cd.moved i) (s1.colData a) (s1.colPsn a) vdev (line / 16384) cd.version
    else s1
  | none => s1

/-- R65, R95, R484: write some bytes of a line. Without an erased position each affected column takes a masked write and P
follows from the prior bytes, and T's moved column follows where it is one of them; otherwise, or where a masked write finds
its column failing, the stripe is read whole, merged and every live column written but one whose array has failed. A poisoned
line stays poisoned (R66). -/
def State.stripeWritePart (s : State) (dpa : Nat) (mask : BitVec 128) (v : BitVec 1024) (vdev : Nat) : State :=
  let line := dpa / 128
  let cd := s.cadOf (line / 16384)
  let i := line % 16384
  let hit := columnsOf mask
  let cs := hit.map fun k => cd.a.col (posOf i k) i
  let pcol := cd.a.col (posOf i 4) i
  let whole := fun (s : State) => match s.stripeRead dpa vdev with
    | (s1, .poison) => s1
    | (s1, .data old) => s1.stripePut line [0, 1, 2, 3] (mergeLine old v mask) false vdev fun c => Sparse.get false s1.broken c.index
  if (cd.cols i).any fun c => s.dropped c then whole s
  else
    let s1 := (cs.foldl (fun s c => s.colTouch c vdev 2) s).colTouch pcol vdev 1
    if (pcol :: cs).all fun c => s1.colStatus c == 0 then s1.stripeMasked line hit mask v vdev else whole s1

/-! ## What replies bring (R63, R97) -/

/-- The parcel and position whose frame a stack's frame is. -/
def State.frameOwner (s : State) (stack frame : Nat) : Option (Nat × Nat) :=
  let at_ := fun (p : Nat) => ([0, 1, 2, 3, 4].find? fun j => (s.cadOf p).a.stk.getD j 12 == stack && (s.cadOf p).a.frm.getD j 0 == frame).map
    fun j => (p, j)
  match s.cad.findSome? fun x => at_ x.1 with
  | some x => some x
  | none => match s.numberOf stack frame with
    | some n => if n < 5 * (Config.nParcels + Config.nReserved) then at_ (n / 5) else none
    | none => none

/-- R60: the line and position whose column under A lies at a place. -/
def State.lineAtCol (s : State) (c : Col) : Option (Nat × Nat) :=
  (s.frameOwner c.stack (c.row / 4 * 32 + c.bank)).map fun x =>
    let key := (s.cadOf x.1).a.seed.toNat / 2 ^ (6 * x.2) % 64
    (x.1 * 16384 + ((c.row % 4 * 64 + c.unit) * 64 + (c.p ^^^ key)), x.2)

/-- R63, R97: a read packet of a die is completed, by its reply or as an erased column: with its line's five columns in, the
line is decoded as it stands (log 54). -/
def State.columnIn (s : State) (die : Nat) (c : Col) (vdev : Nat) : State :=
  match s.lineAtCol c with
  | none => s
  | some (line, j) =>
    let rest := (s.dieOf die).colsIn.filter fun y => y.line != line
    let mine : List ColIn := { line := line, pos := j } :: (s.dieOf die).colsIn.filter fun y => y.line == line && y.pos != j
    if mine.length < 5 then s.updDie die fun d => { d with colsIn := rest ++ mine }
    else ((s.updDie die fun d => { d with colsIn := rest }).decoded line vdev (s.decode line)).1

/-- R115, R484: what a reply of status 1 or 2 makes of the column of its request: a record, and for a read that has failed a
count towards the drop of its bank (R113). -/
def State.replyReport (s : State) (c : Col) (read : Bool) (status : Nat) : State :=
  let line := ((s.lineAtCol c).map fun x => x.1).getD 0
  let version := (s.cadOf (line / 16384)).version
  if status = 0 then s
  else
    let s1 := s.postCol c status (line / 16384) version
    if read && status == 2 then s1.failedRead c else s1

end Sys2Proof.Machine
end

