-- ==== Sys2Proof/Machine/Cache.lean ====
section
/-! DEFINITION. Home slices, proxies and the L1 (R120 to R136), and what every write performed at a home or a
controller does to registrations, sleepers and residency watches (R79, R177, R219, R220, R362). -/

namespace Sys2Proof.Machine

/-! ## Cores, teams, groups: lookups -/

def State.coreOf (s : State) (c : Nat) : Core := Sparse.get {} s.cores c
def State.updCore (s : State) (c : Nat) (f : Core → Core) : State := { s with cores := Sparse.upd {} s.cores c f }
def State.teamOf (s : State) (u : Nat) : Team := Sparse.get {} s.teams u
def State.updTeam (s : State) (u : Nat) (f : Team → Team) : State := { s with teams := Sparse.upd {} s.teams u f }
def Team.group (t : Team) (g : Nat) : Group := Sparse.get {} t.groups g
def Team.updGroup (t : Team) (g : Nat) (f : Group → Group) : Team := { t with groups := Sparse.upd {} t.groups g f }
def State.groupOf (s : State) (u g : Nat) : Group := (s.teamOf u).group g
def State.updGroup (s : State) (u g : Nat) (f : Group → Group) : State := s.updTeam u fun t => t.updGroup g f
def State.engineOf (s : State) (e : Nat) : Engine := Sparse.get {} s.engines e
def State.updEngine (s : State) (e : Nat) (f : Engine → Engine) : State := { s with engines := Sparse.upd {} s.engines e f }

/-! ## Wakes (R214, R219 to R222) -/

/-- R214: the transaction starts again at the word after the outermost `xbegin`, with depth 1, empty sets and level 1's
alternative as that `xbegin` set it. -/
def Tx.again (t : Tx) (slept : Bool) : Tx :=
  { t with depth := 1, alts := [t.alt1], reads := [], writes := [], locks := [], slept := slept }

/-- R214: the paths of a group at one address, joined. -/
def Group.joinAt (g : Group) (pc : DWord) : List Path := [{ slices := g.live, pc := pc }]

/-- R214, R220: restart of a group's transaction. -/
def Group.restart (g : Group) (slept : Bool) : Group :=
  { g with tx := g.tx.again slept, sleep := none, paths := g.joinAt (g.tx.start + 4) }

/-- R476: an attempt of a group's transaction ends, by a commit or a restart; another may begin. -/
def State.txAttempt (s : State) (u g : Nat) : State :=
  (s.capture (s.teamOf u).part 1 (s.clock.toNat - (s.groupOf u g).tx.since)).updGroup u g fun x =>
    { x with tx := { x.tx with since := s.clock.toNat } }

/-- A team that stands on its core. -/
def Team.onCore (t : Team) : Bool := t.place == .resident || t.place == .stopping

/-- R290: the barrier entry whose word 1 on the team's own core tells of its groups. -/
def Team.waitKey (t : Team) (k : Nat) : Nat := if 32 ≤ k then 32 + t.slot else k

/-- R290: an entry with a group's WAIT bit cleared. -/
def Bar.awake (b : Bar) (g : Nat) : Bar := { b with wait := b.wait &&& ~~~(1#32 <<< g) }

/-- R291: a group's WAIT bits are cleared on every entry of its team; those of a saved team lie in its image. -/
def State.clearWaits (s : State) (u g : Nat) : State :=
  let t := s.teamOf u
  let mine := fun (k : Nat) => k / 4 == t.slot || k == 32 + t.slot
  if t.place = .saved then s.updTeam u fun t => { t with image := { t.image with
    bars := t.image.bars.map fun b => (b.1, b.2.awake g), cbar := t.image.cbar.awake g } }
  else if t.onCore && (s.coreOf t.core).bars.any fun b => mine b.1 && b.2.wait.getLsbD g then
    s.updCore t.core fun x => { x with bars := x.bars.map fun b => if mine b.1 then (b.1, b.2.awake g) else b }
  else s

/-- Withdraw a group's wake entries and clear its WAIT bits (R220, R291). -/
def State.dropWakes (s : State) (u g : Nat) : State :=
  ({ s with wakes := s.wakes.filter fun w => !(w.uid == u && w.grp == g) } : State).clearWaits u g

/-- R219: withdraw a group's read-set registrations. -/
def State.dropRegs (s : State) (u g : Nat) : State :=
  { s with regs := s.regs.filter fun r => !(r.uid == u && r.grp == g) }

/-- R220: the table that holds the wake entries of a location, with its capacity (R219). -/
def State.wakeTable (s : State) (key : LineKey) : Nat × Nat :=
  match key with
  | .mem l => ((s.cadOf (parcelOf (l * 128))).a.home, 4096)
  | .chip d _ => (1000 + d, 1024)
  | .core c _ => (2000 + c, 256)
  | .buf c _ => (2000 + c, 256)
  | .bar c _ => (2000 + c, 256)

/-- R219, R220: store a wake entry; false where its table is full. -/
def State.addWake (s : State) (key : LineKey) (u g : Nat) : State × Bool :=
  let w : Wake := { key := key, uid := u, grp := g }
  if s.wakes.contains w then (s, true)
  else
    let t := s.wakeTable key
    if (s.wakes.filter fun x => (s.wakeTable x.key).1 == t.1).length < t.2 then ({ s with wakes := s.wakes ++ [w] }, true)
    else (s, false)

/-- R290: set a group's WAIT bit on a barrier entry. -/
def State.setWait (s : State) (key : LineKey) (u g : Nat) : State :=
  match key with
  | .bar c k =>
    s.updCore (if 32 ≤ k then (s.teamOf u).core else c) fun x =>
      { x with bars := Sparse.upd {} x.bars ((s.teamOf u).waitKey k) fun b => { b with wait := b.wait ||| (1#32 <<< g) } }
  | _ => s

/-- The PHASE of a barrier or buffer entry. -/
def State.phaseOf (s : State) (key : LineKey) : Bool :=
  match key with
  | .bar c k => (Sparse.get {} (s.coreOf c).bars k).phase
  | .buf c k => (Sparse.get {} (s.coreOf c).bufs k).phase
  | _ => false

/-- R123: acquire at cluster scope or wider: every sector of the core sets VALID := DIRTY. -/
def State.acquireCore (s : State) (core : Nat) : State :=
  if (s.coreOf core).l1.isEmpty then s
  else s.updCore core fun c =>
    { c with l1 := (c.l1.filter fun x => x.2.dirty != 0).map fun x => (x.1, { x.2 with valid := x.2.dirty }) }

/-- R179, R293: the acquire of a successful wait: cluster scope but for a team's own barrier. -/
def State.waitAcquire (s : State) (key : LineKey) (core : Nat) : State :=
  match key with
  | .bar _ k => if k < 32 then s else s.acquireCore core
  | _ => s.acquireCore core

/-- R219, R291: a path goes to sleep on an entry while its PHASE is `want`. -/
def State.pathSleep (s : State) (u g : Nat) (sl : BitVec 8) (key : LineKey) (want : Bool) : State :=
  let r := s.addWake key u g
  (r.1.setWait key u g).updGroup u g fun x =>
    { x with paths := x.paths.map fun p =>
        if p.slices &&& sl != 0 then { p with stop := .asleep s.clock.toNat key want (!r.2) } else p }

/-- R217, R220: the attempt that follows the wake of a one-line level has SLEPT set. -/
def Group.slept (g : Group) : Group :=
  if g.paths.any fun p => match p.stop with | .asleep .. => true | _ => false then { g with tx := { g.tx with slept := true } } else g

/-- R220, R221: a sleeping group is woken and its other entries are withdrawn. A transaction restarts with SLEPT set; a
path asleep on an entry reads its PHASE again, and sleeps again where it is unchanged; a swapped-out team is marked
ready. -/
def State.wakeGroup (s : State) (u g : Nat) : State :=
  let s1 := ((s.dropWakes u g).dropRegs u g).updGroup u g Group.slept
  let x := s1.groupOf u g
  let s2 := match x.sleep with
    | none => s1
    | some _ => (s1.txAttempt u g).updTeam u fun t =>
        { t.updGroup g (fun x => x.restart true) with ready := t.ready || t.place == .saved }
  if (s2.teamOf u).place == .saved then s2.updTeam u fun t => { t with ready := true }
  else (x.paths.filter fun p => match p.stop with | .asleep .. => true | _ => false).foldl (fun s p =>
    match p.stop with
    | .asleep _ key want _ =>
      if s.phaseOf key != want then
        (s.updGroup u g fun x => { x with paths := x.paths.map fun q => if q.slices = p.slices then { q with stop := .ready } else q }).waitAcquire
          key (s.teamOf u).core
      else s.pathSleep u g p.slices key want
    | _ => s) s2

/-- The number under which the queues of a function hold wake entries. -/
def queueAgent (fn : Nat) : Nat := 2 ^ 33 + fn

/-- R220, R385: a WAITEQ that sleeps is woken: it reads its word again. -/
def State.wakeQueue (s : State) (fn q : Nat) : State :=
  let s1 : State := { s with wakes := s.wakes.filter fun w => !(w.uid == queueAgent fn && w.grp == q) }
  s1.updVdev fn fun v => { v with
    queues := v.queues.map fun (x : Nat × Queue) => if x.1 = q then
      (x.1, { x.2 with busy := x.2.busy.map fun b => match b with | .waiteq a w k _ => .waiteq a w k none | b => b }) else x }

/-- R220: the sleeper of a wake entry is woken. -/
def State.wakeOne (s : State) (w : Wake) : State :=
  if 2 ^ 33 ≤ w.uid then s.wakeQueue (w.uid - 2 ^ 33) w.grp else s.wakeGroup w.uid w.grp

/-- R177, R220: a write is performed at the home or controller of `key`: registrations of others are hit, and every
sleeper with a wake entry for it is woken. -/
def State.noteKey (s : State) (key : LineKey) (u g : Nat) : State :=
  let s1 : State := { s with regs := s.regs.map fun r => if r.key = key ∧ ¬(r.uid = u ∧ r.grp = g) then { r with hit := true } else r }
  (s1.wakes.filter fun w => w.key == key).foldl State.wakeOne s1

/-- R79, R362, R363: residencies that watch the line become stale, in their slots or in the residency shadows; the shadow
list is looked at where the parcel's overflow bit is set. -/
def State.noteWatch (s : State) (line : Nat) : State :=
  (s.watch ++ if Sparse.get false s.watchOvf (parcelOf (line * 128)) then s.shadowWatch else []).foldl (fun s w =>
    if w.line = line then
      let x : Slot := Sparse.get {} (s.engineOf w.eng).slots w.slot
      if x.state != .free && x.vdev == w.vdev then
        s.updEngine w.eng fun e => { e with slots := Sparse.upd {} e.slots w.slot fun x => { x with stale := true } }
      else s.updVdev w.vdev fun v => { v with
        shadow := v.shadow.map fun y => if y.1 = w.eng ∧ y.2.1 = w.slot then (y.1, y.2.1, { y.2.2 with stale := true }) else y }
    else s) s

/-- A write performed at the home of a line of local memory, by group `g` of team `u` or, with `u` no team's number, by
another agent. -/
def State.noteWrite (s : State) (line u g : Nat) : State := (s.noteKey (.mem line) u g).noteWatch line

/-- The number under which an agent that is no group writes. -/
def noTeam : Nat := 2 ^ 32

/-! ## L2 (R131 to R136) -/

/-- A tree of pseudo-LRU bits: the bit of a node is 1 where the older half is the upper one. `plruTouch` makes a way the
most recent, `plruDemote` the least recent; `plruPick` follows the older halves among the allowed ways. -/
def plruSet (levels : Nat) (bits way : Nat) (older : Bool) : Nat :=
  (List.range levels).foldl (fun b k =>
    let node := 2 ^ k + way / 2 ^ (levels - k)
    let upper := (way / 2 ^ (levels - 1 - k)) % 2 == 1
    let v := upper == older
    if b.testBit (node - 1) == v then b else b ^^^ 2 ^ (node - 1)) bits

def plruTouch (levels bits way : Nat) : Nat := plruSet levels bits way false
def plruDemote (levels bits way : Nat) : Nat := plruSet levels bits way true

def plruPickFrom (bits mask : Nat) : Nat → Nat → Nat → Nat
  | 0, _, base => base
  | k + 1, node, base =>
    let half := 2 ^ k
    let hi := bits.testBit (node - 1)
    let some_ := fun b => mask / 2 ^ b % 2 ^ half != 0
    let up := if hi then some_ (base + half) else !some_ base
    plruPickFrom bits mask k (2 * node + (if up then 1 else 0)) (base + (if up then half else 0))

def plruPick (levels bits mask : Nat) : Nat := plruPickFrom bits mask levels 1 0

def l2Key (h line way : Nat) : Nat := h * 8192 + line % 512 * 16 + way
def State.l2Line (s : State) (h line way : Nat) : L2Line := Sparse.get {} s.l2 (l2Key h line way)
def State.setL2 (s : State) (h line way : Nat) (l : L2Line) : State :=
  { s with l2 := Sparse.set {} s.l2 (l2Key h line way) l }

/-- The way of a slice that holds a line. -/
def State.l2Find (s : State) (h line : Nat) : Option Nat :=
  (List.range 16).find? fun w => let l := s.l2Line h line w; l.on && l.line == line

def State.l2Touch (s : State) (h line way : Nat) (recent : Bool) : State :=
  { s with l2plru := Sparse.upd 0 s.l2plru (h * 512 + line % 512) fun b =>
      BitVec.ofNat 15 ((if recent then plruTouch else plruDemote) 4 b.toNat way) }

/-- R135, R136: the ways and the policy of a request: class, and kind 0 read, 1 write, 2 atomic. A mask of zero acts as
policy 2. -/
def State.l2Ways (s : State) (vdev cls kind : Nat) : Nat × Nat :=
  let v := s.vdevOf vdev
  let m := (if cls < 2 then v.l2maskL else v.l2maskH).toNat / 2 ^ (16 * (cls % 2)) % 65536
  let p := v.l2pol.toNat / 2 ^ (2 * kind) % 4
  (m, if m = 0 then 2 else p)

/-- R132: the proxy slice of a line homed at `h` for die `d`, and the PRX bit that names it. -/
def proxyOf (h d : Nat) : Nat := d * 128 + h % 128
def prxBit (h d : Nat) : Nat :=
  let o := [0, 1, 2].filter fun x => x != h / 128
  if o.headD 0 = d then 0 else 1

/-- R133: invalidate every proxy copy of a line. -/
def State.dropProxies (s : State) (h line : Nat) : State :=
  [0, 1, 2].foldl (fun s d =>
    if d = h / 128 then s
    else match s.l2Find (proxyOf h d) line with
      | some w => if (s.l2Line (proxyOf h d) line w).home then s else s.setL2 (proxyOf h d) line w {}
      | none => s) s

/-- Bytes of dirty sectors. -/
def sectorMask (m : BitVec 2) : BitVec 128 :=
  BitVec.ofNat 128 ((if m.getLsbD 0 then 2 ^ 64 - 1 else 0) + (if m.getLsbD 1 then (2 ^ 64 - 1) * 2 ^ 64 else 0))

/-- R65: write a line's dirty sectors to its stripe, charged to its last writer (R99): whole columns where the slice holds
the whole line. -/
def State.l2Writeback (s : State) (h line way : Nat) : State :=
  let l := s.l2Line h line way
  if l.on && l.home && l.dirty != 0 then
    let m := sectorMask l.dirty
    let s1 := if l.valid = 3 then s.stripeWriteLine (line * 128) (columnsOf m) l.data l.vdev
      else s.stripeWritePart (line * 128) m l.data l.vdev
    s1.setL2 h line way { l with dirty := 0 }
  else s

/-- Take a line out of a slice: proxies first (R133), then its dirty sectors written. -/
def State.l2Evict (s : State) (h line way : Nat) : State :=
  let l := s.l2Line h line way
  if l.on then
    let s1 := if l.home && l.prx != 0 then s.dropProxies h l.line else s
    let s2 := s1.l2Writeback h l.line way
    s2.setL2 h line way {}
  else s

/-- R134: place a line in a slice among the allowed ways: an unoccupied one before the pseudo-LRU way (log 83). -/
def State.l2Place (s : State) (h line mask : Nat) (recent : Bool) (l : L2Line) : State :=
  let free := (List.range 16).find? fun w => mask.testBit w && !(s.l2Line h line w).on
  let way := free.getD (plruPick 4 (Sparse.get 0 s.l2plru (h * 512 + line % 512)).toNat mask)
  ((s.l2Evict h line way).setL2 h line way l).l2Touch h line way recent

/-- R56, R57: the home slice of a line. -/
def State.homeOf (s : State) (line : Nat) : Nat := (s.cadOf (parcelOf (line * 128))).a.home

/-- R133: the line as its home holds it: from the slice where its sectors are there, else from the stripe, kept
under the policy of R134. -/
def State.homeFill (s : State) (line vdev cls kind : Nat) : State × LineVal :=
  let h := s.homeOf line
  match s.l2Find h line with
  | some w =>
    let l := s.l2Line h line w
    if l.valid = 3 then (s.l2Touch h line w true, .data l.data)
    else match s.stripeRead (line * 128) vdev with
      | (s1, .poison) => (s1, .poison)
      | (s1, .data v) =>
        let m := mergeLine v l.data (sectorMask l.valid)
        ((s1.setL2 h line w { l with valid := 3, data := m }).l2Touch h line w true, .data m)
  | none =>
    match s.stripeRead (line * 128) vdev with
    | (s1, .poison) => (s1, .poison)
    | (s1, .data v) =>
      let wp := s.l2Ways vdev cls kind
      if wp.2 = 2 then (s1, .data v)
      else (s1.l2Place h line wp.1 (wp.2 == 0) { on := true, line := line, valid := 3, data := v, vdev := vdev }, .data v)

/-- R133, R474: a line served by its home. -/
def State.homeServe (s : State) (line vdev cls kind : Nat) : State × LineVal :=
  let h := s.homeOf line
  (s.countHome vdev (match s.l2Find h line with | some w => (s.l2Line h line w).valid == 3 | none => false)).homeFill line vdev cls kind

/-- R132, R133: a read from die `d`: at home on the home's own die, else from the proxy slice or through it. A line that
the policy or the home does not keep leaves no copy at the proxy (log 84). -/
def State.readLine (s : State) (d line vdev cls : Nat) : State × LineVal :=
  let h := s.homeOf line
  if h / 128 = d then s.homeServe line vdev cls 0
  else
    let x := proxyOf h d
    match s.l2Find x line with
    | some w => (s.l2Touch x line w true, .data (s.l2Line x line w).data)
    | none =>
      match s.homeServe line vdev cls 0 with
      | (s1, .poison) => (s1, .poison)
      | (s1, .data v) =>
        let wp := s1.l2Ways vdev cls 0
        match s1.l2Find h line with
        | some w =>
          if wp.2 = 2 then (s1, .data v)
          else
            let l := s1.l2Line h line w
            let s2 := s1.setL2 h line w { l with prx := l.prx ||| (1#2 <<< prxBit h d) }
            (s2.l2Place x line wp.1 (wp.2 == 0) { on := true, line := line, home := false, valid := 3, data := v, vdev := vdev }, .data v)
        | none => (s1, .data v)

/-- Sectors that a byte mask touches, and sectors that it covers whole. -/
def sectorsOf (m : BitVec 128) : BitVec 2 :=
  BitVec.ofNat 2 ((if m.toNat % 2 ^ 64 != 0 then 1 else 0) + (if m.toNat / 2 ^ 64 != 0 then 2 else 0))
def sectorsFull (m : BitVec 128) : BitVec 2 :=
  BitVec.ofNat 2 ((if m.toNat % 2 ^ 64 == 2 ^ 64 - 1 then 1 else 0) + (if m.toNat / 2 ^ 64 == 2 ^ 64 - 1 then 2 else 0))

/-- The home slice holds no sector of a line, or not all. -/
def State.homeLacks (s : State) (line : Nat) : Bool :=
  match s.l2Find (s.homeOf line) line with
  | some w => (s.l2Line (s.homeOf line) line w).valid != 3
  | none => true

/-- R65, R133, R134: some bytes of a line are written at its home: proxies first, then merged in the slice or written to
the stripe; the write is noted (R177, R220, R79). A write of a whole line that the slice does not hold whole is discarded where
two positions of its stripe stay erased (R66). `kind`: 1 write, 2 atomic, whose read at the home has counted it and placed
the line. -/
def State.homeWrite (s : State) (line : Nat) (mask : BitVec 128) (v : BitVec 1024) (vdev cls kind u g : Nat) : State :=
  let h := s.homeOf line
  let s0 := (((if kind = 2 then s else s.countHome vdev (s.l2Find h line).isSome).dropProxies h line)).noteWrite line u g
  let whole := mask = BitVec.allOnes 128
  let merge := fun (s : State) (w : Nat) =>
    let l := s.l2Line h line w
    let s1 := s.setL2 h line w { l with
      data := mergeLine l.data v mask, valid := l.valid ||| sectorsFull mask,
      dirty := l.dirty ||| sectorsOf mask, vdev := vdev, prx := 0 }
    if kind = 2 then s1 else s1.l2Touch h line w true
  if whole && s.homeLacks line && s.unwritable line then s
  else match s0.l2Find h line with
  | some w =>
    let l := s0.l2Line h line w
    if sectorsOf mask &&& ~~~(l.valid ||| sectorsFull mask) = 0 then merge s0 w
    else match s0.homeFill line vdev cls kind with
      | (s1, .poison) => s1
      | (s1, .data _) => merge s1 w
  | none =>
    let wp := s0.l2Ways vdev cls kind
    if wp.2 = 2 then
      if whole then s0.stripeWriteLine (line * 128) [0, 1, 2, 3] v vdev else s0.stripeWritePart (line * 128) mask v vdev
    else if whole then
      s0.l2Place h line wp.1 (wp.2 == 0) { on := true, line := line, valid := 3, dirty := 3, data := v, vdev := vdev }
    else if (s0.decode line).1 = .poison then
      (s0.stripeRead (line * 128) vdev).1
    else if sectorsOf mask &&& ~~~(sectorsFull mask) = 0 then
      s0.l2Place h line wp.1 (wp.2 == 0)
        { on := true, line := line, valid := sectorsFull mask, dirty := sectorsFull mask, data := mergeLine 0 v mask, vdev := vdev }
    else match s0.stripeRead (line * 128) vdev with
      | (s1, .poison) => s1
      | (s1, .data old) =>
        s1.l2Place h line wp.1 (wp.2 == 0)
          { on := true, line := line, valid := 3, dirty := sectorsOf mask, data := mergeLine old v mask, vdev := vdev }

/-- Byte mask of `n` bytes at offset `o` of a line. -/
def maskAt (o n : Nat) : BitVec 128 := BitVec.ofNat 128 ((2 ^ n - 1) * 2 ^ o)

/-- A value placed at offset `o` of a line. -/
def lineAt (o v : Nat) : BitVec 1024 := BitVec.ofNat 1024 (v * 2 ^ (8 * o))

/-- `n` bytes at offset `o` of a line. -/
def bytesAt (l : BitVec 1024) (o n : Nat) : Nat := l.toNat / 2 ^ (8 * o) % 2 ^ (8 * n)

/-- `n` bytes of one line at DPA `a`, read by die `d`. -/
def State.readDpa (s : State) (d a n vdev cls : Nat) : State × Option Nat :=
  match s.readLine d (a / 128) vdev cls with
  | (s1, .poison) => (s1, none)
  | (s1, .data v) => (s1, some (bytesAt v (a % 128) n))

/-- The same at the home slice itself. -/
def State.readHome (s : State) (a n vdev cls kind : Nat) : State × Option Nat :=
  match s.homeServe (a / 128) vdev cls kind with
  | (s1, .poison) => (s1, none)
  | (s1, .data v) => (s1, some (bytesAt v (a % 128) n))

/-- `n` bytes of one line at DPA `a` written at home. -/
def State.writeHome (s : State) (a n v vdev cls kind u g : Nat) : State :=
  s.homeWrite (a / 128) (maskAt (a % 128) n) (lineAt (a % 128) v) vdev cls kind u g

/-- A line as it stands at its home, changing nothing: what every read there would return. -/
def State.homeView (s : State) (line : Nat) : LineVal :=
  let st := (s.decode line).1
  match s.l2Find (s.homeOf line) line with
  | some w =>
    let l := s.l2Line (s.homeOf line) line w
    if l.valid = 3 then .data l.data
    else match st with
      | .poison => .poison
      | .data v => .data (mergeLine v l.data (sectorMask l.valid))
  | none => st

/-- R75, R78: the commit of a group holds a lock on a line of the parcel. -/
def State.locksIn (s : State) (parcel u g : Nat) : Bool :=
  s.wlocks.any fun w => w.uid == u && w.grp == g && (match w.key with | .mem l => parcelOf (l * 128) == parcel | _ => false)

/-- R75 step 1: the home of the parcel has ceased to admit requests. -/
def State.stopped (s : State) (parcel : Nat) : Bool :=
  (s.cadOf parcel).state == 2 && (s.dieOf ((s.cadOf parcel).a.home / 128)).rsStop

/-- R93: a column of the line waits for a tag of its home's die, or that of a dirty line whose place at home it may take
(log 54). -/
def State.tagless (s : State) (line : Nat) : Bool :=
  s.stks.any (fun t => decide (8 ≤ t.2.tags.length)) &&
    (line :: ((List.range 16).map fun w => s.l2Line (s.homeOf line) line w).filterMap fun l => if l.on && l.dirty != 0 then some l.line else none).any fun x =>
      let cd := s.cadOf (parcelOf (x * 128))
      (cd.cols (lineIn (x * 128))).any fun c => !s.dropped c && s.tagsBusy (cd.a.home / 128) c

/-- R119: the line is not whole at its home, and a stack of a column of it has not been trained. -/
def State.untrained (s : State) (line : Nat) : Bool :=
  s.homeLacks line && ((s.cadOf (parcelOf (line * 128))).cols (lineIn (line * 128))).any fun c => !s.dropped c && !(s.stackOf c.stack).trDone

/-- R93, R119: the stripe of a line cannot be read or written yet. -/
def State.unready (s : State) (line : Nat) : Bool := s.tagless line || s.untrained line

/-- R58, R76: a die that requests for the parcel come from routes them still by the entry of another home: one that is no
group's is answered MOVED, and is sent again once the changed entry has come to that die. -/
def State.rerouted (s : State) (parcel : Nat) : Bool :=
  s.dies.any fun d => d.2.cadCache.any fun x => x.1 == parcel && x.2.1 != (s.cadOf parcel).a.home

/-- R213, R75, R76, R93, R119: a request for the line has to wait: another commit holds its write lock, its parcel is being
switched and no longer admits requests but those of a commit admitted before, a column of it finds no tag, or a stack of it is
not trained. -/
def State.blocked (s : State) (line u g : Nat) : Bool :=
  let parcel := parcelOf (line * 128)
  s.wlocks.any (fun w => w.key == .mem line && !(w.uid == u && w.grp == g))
    || (s.stopped parcel && !s.locksIn parcel u g) || (u == noTeam && s.rerouted parcel) || s.unready line

/-! ## L1 (R120 to R125) -/

def l1Key (line way : Nat) : Nat := line % 128 * 8 + way
def Core.l1Line (c : Core) (line way : Nat) : L1Line := Sparse.get {} c.l1 (l1Key line way)
def Core.setL1 (c : Core) (line way : Nat) (l : L1Line) : Core := { c with l1 := Sparse.set {} c.l1 (l1Key line way) l }
def Core.l1Find (c : Core) (line : Nat) : Option Nat :=
  (List.range 8).find? fun w => let l := c.l1Line line w; l.on && l.line == line
def Core.l1Touch (c : Core) (line way : Nat) : Core :=
  { c with plru := Sparse.upd 0 c.plru (line % 128) fun b => BitVec.ofNat 7 (plruTouch 3 b.toNat way) }

/-- R124: write a line's dirty bytes back to its home. -/
def State.l1WriteLine (s : State) (core : Nat) (l : L1Line) (vdev : Nat) : State :=
  if l.dirty = 0 then s else s.homeWrite l.line l.dirty l.data vdev 0 1 noTeam core

/-- R120: the way that a new line of a core's L1 will take, an unoccupied one first (log 83). -/
def Core.l1Pick (c : Core) (line : Nat) : Nat :=
  ((List.range 8).find? fun w => !(c.l1Line line w).on).getD (plruPick 3 (Sparse.get 0 c.plru (line % 128)).toNat 255)

/-- R124: make room for a line; the line then stands empty in the way returned. -/
def State.l1Alloc (s : State) (core line vdev : Nat) : State × Nat :=
  match (s.coreOf core).l1Find line with
  | some w => (s.updCore core fun c => c.l1Touch line w, w)
  | none =>
    let w := (s.coreOf core).l1Pick line
    let s1 := s.l1WriteLine core ((s.coreOf core).l1Line line w) vdev
    (s1.updCore core fun c => (c.setL1 line w { on := true, line := line }).l1Touch line w, w)

/-- Whether making room would write a line back that has to wait. -/
def State.l1Stuck (s : State) (core line : Nat) : Bool :=
  match (s.coreOf core).l1Find line with
  | some _ => false
  | none =>
    let l := (s.coreOf core).l1Line line ((s.coreOf core).l1Pick line)
    l.on && l.dirty != 0 && s.blocked l.line noTeam 0

/-- Byte mask of the sectors that a byte mask touches. -/
def widen (m : BitVec 128) : BitVec 128 := sectorMask (sectorsOf m)

/-- R122: a load or prefetch: bytes not yet valid are fetched by sector and merged where DIRTY is clear. None where the
line is poisoned. -/
def State.l1Load (s : State) (core line : Nat) (mask : BitVec 128) (vdev : Nat) : State × Option (BitVec 1024) :=
  let r := s.l1Alloc core line vdev
  let l := (r.1.coreOf core).l1Line line r.2
  if mask &&& ~~~l.valid = 0 then (r.1, some l.data)
  else match r.1.readLine (core / 64) line vdev 0 with
    | (s1, .poison) => (s1, none)
    | (s1, .data v) =>
      let m := widen mask &&& ~~~l.dirty
      let l' := { l with data := mergeLine l.data v m, valid := l.valid ||| widen mask }
      (s1.updCore core fun c => c.setL1 line r.2 l', some l'.data)

/-- R122: a store: bytes become VALID and DIRTY, with no fetch. -/
def State.l1Store (s : State) (core line : Nat) (mask : BitVec 128) (v : BitVec 1024) (vdev : Nat) : State :=
  let r := s.l1Alloc core line vdev
  r.1.updCore core fun c =>
    let l := c.l1Line line r.2
    c.setL1 line r.2 { l with data := mergeLine l.data v mask, valid := l.valid ||| mask, dirty := l.dirty ||| mask }

/-- R122: before a cluster-scope access at home: dirty bytes of the touched sectors are written back; with `drop`, the
sectors are then invalidated. -/
def State.l1Flush (s : State) (core line : Nat) (mask : BitVec 128) (drop : Bool) (vdev : Nat) : State :=
  match (s.coreOf core).l1Find line with
  | none => s
  | some w =>
    let l := (s.coreOf core).l1Line line w
    let m := widen mask
    let s1 := s.l1WriteLine core { l with dirty := l.dirty &&& m } vdev
    let l' := { l with dirty := l.dirty &&& ~~~m, valid := if drop then l.valid &&& ~~~m else l.valid }
    s1.updCore core fun c => c.setL1 line w (if l'.valid = 0 then {} else l')

/-- R334: a write-through store: bytes that L1 already holds VALID are updated without DIRTY. -/
def State.l1Through (s : State) (core line : Nat) (mask : BitVec 128) (v : BitVec 1024) : State :=
  match (s.coreOf core).l1Find line with
  | none => s
  | some w => s.updCore core fun c =>
      let l := c.l1Line line w
      c.setL1 line w { l with data := mergeLine l.data v (mask &&& l.valid), dirty := l.dirty &&& ~~~mask }

/-- Virtual device that a core's writebacks are charged to (R124): the one the core was last scrubbed for. -/
def State.coreVdev (s : State) (core : Nat) : Nat := (s.coreOf core).scrubVdev

/-- R123: release at cluster scope or wider: every dirty byte of the core is written back. -/
def State.releaseCore (s : State) (core : Nat) : State :=
  let ls := (s.coreOf core).l1.filter fun x => x.2.dirty != 0
  let s1 := ls.foldl (fun s x => s.l1WriteLine core x.2 (s.coreVdev core)) s
  if ls.isEmpty then s1
  else s1.updCore core fun c => { c with l1 := c.l1.map fun x => (x.1, { x.2 with dirty := 0 }) }

/-- Whether the release of a core would have to wait for a lock or a switch. -/
def State.releaseStuck (s : State) (core : Nat) : Bool :=
  (s.coreOf core).l1.any fun x => x.2.dirty != 0 && s.blocked x.2.line noTeam 0

/-- R125, R152: write back and invalidate every line of a core that `p` selects. -/
def State.l1Invalidate (s : State) (core : Nat) (p : Nat → Bool) : State :=
  let ls := (s.coreOf core).l1.filter fun x => p x.2.line
  let s1 := ls.foldl (fun s x => s.l1WriteLine core x.2 (s.coreVdev core)) s
  if ls.isEmpty then s1
  else s1.updCore core fun c => { c with l1 := c.l1.filter fun x => !p x.2.line }

end Sys2Proof.Machine
end

