-- ==== Sys2Proof/Machine/Float.lean ====
section
/-! DEFINITION. Number formats and their arithmetic: R224 to R243, and the exact functions of R310. -/

namespace Sys2Proof.Machine

/-- R224: the floating-point formats. -/
inductive Fmt where
  | f32 | f16 | bf16 | e4m3 | e5m2 | e2m1
deriving DecidableEq, Repr

def Fmt.ebits : Fmt → Nat
  | .f32 => 8 | .f16 => 5 | .bf16 => 8 | .e4m3 => 4 | .e5m2 => 5 | .e2m1 => 2

def Fmt.mbits : Fmt → Nat
  | .f32 => 23 | .f16 => 10 | .bf16 => 7 | .e4m3 => 3 | .e5m2 => 2 | .e2m1 => 1

def Fmt.bias : Fmt → Nat
  | .f32 => 127 | .f16 => 15 | .bf16 => 127 | .e4m3 => 7 | .e5m2 => 15 | .e2m1 => 1

/-- Place of the sign bit. -/
def Fmt.signAt (f : Fmt) : Nat := f.ebits + f.mbits

/-- R226: the largest finite magnitude's code. -/
def Fmt.maxCode : Fmt → Nat
  | .f32 => 0x7F7FFFFF | .f16 => 0x7BFF | .bf16 => 0x7F7F | .e4m3 => 0x7E | .e5m2 => 0x7B | .e2m1 => 7

/-- R226: the canonical NaN; E2M1 has none, and a NaN becomes +0 there (R237). -/
def Fmt.nan : Fmt → Nat
  | .f32 => 0x7FC00000 | .f16 => 0x7E00 | .bf16 => 0x7FC0 | .e4m3 => 0x7F | .e5m2 => 0x7E | .e2m1 => 0

/-- R226: whether the format has infinities; its code is the one above the largest finite. -/
def Fmt.hasInf : Fmt → Bool
  | .e4m3 => false | .e2m1 => false | _ => true

/-- A decoded value: `fin neg m e` is ±m·2^e. -/
inductive Fp where
  | nan
  | inf (neg : Bool)
  | fin (neg : Bool) (m : Nat) (e : Int)
deriving DecidableEq, Repr

/-- R225, R226: the value of an encoding. -/
def Fmt.decode (f : Fmt) (code : Nat) : Fp :=
  let neg := code.testBit f.signAt
  let mag := code % 2 ^ f.signAt
  let m := mag % 2 ^ f.mbits
  let ex := mag / 2 ^ f.mbits
  if f.maxCode < mag then (if f.hasInf && m == 0 then .inf neg else .nan)
  else if ex = 0 then .fin neg m (1 - f.bias - f.mbits)
  else .fin neg (2 ^ f.mbits + m) ((ex : Int) - f.bias - f.mbits)

/-- R232: the integer quotient of `m / 2^k` rounded in mode `rm` for a value of sign `neg`. -/
def roundShift (rm : Nat) (neg : Bool) (m k : Nat) : Nat :=
  let n := m / 2 ^ k
  let r := m % 2 ^ k
  if r = 0 then n
  else
    let up := match rm with
      | 0 => decide (2 ^ k < 2 * r) || (decide (2 * r = 2 ^ k) && n % 2 == 1)
      | 1 => false
      | 2 => neg
      | _ => !neg
    if up then n + 1 else n

/-- R232: the code of the magnitude `m·2^e` rounded to the format, the exponent unbounded above and the subnormal
spacing below. -/
def Fmt.roundMag (f : Fmt) (rm : Nat) (neg : Bool) (m : Nat) (e : Int) : Nat :=
  if m = 0 then 0
  else
    let emin : Int := 1 - f.bias - f.mbits
    let q : Int := max ((Nat.log2 m : Int) + e - f.mbits) emin
    let n := if q ≤ e then m * 2 ^ (e - q).toNat else roundShift rm neg m (q - e).toNat
    (q - emin).toNat * 2 ^ f.mbits + n

def Fmt.withSign (f : Fmt) (neg : Bool) (mag : Nat) : Nat := if neg then 2 ^ f.signAt + mag else mag

/-- An infinite result: the format's infinity, E4M3's NaN, E2M1's largest (R236, R237). -/
def Fmt.infCode (f : Fmt) (neg : Bool) : Nat :=
  if f.hasInf then f.withSign neg (f.maxCode + 1) else if f = .e2m1 then f.withSign neg f.maxCode else f.nan

/-- R236: an overflow resolved in mode `rm`, saturating if `sat`. -/
def Fmt.overflow (f : Fmt) (rm : Nat) (sat neg : Bool) : Nat :=
  let toMax := sat || (f == .e2m1) || (match rm with | 0 => false | 1 => true | 2 => !neg | _ => neg)
  if toMax then f.withSign neg f.maxCode else f.infCode neg

/-- R231, R236, R237: a value narrowed to a format. -/
def Fmt.encode (f : Fmt) (rm : Nat) (sat : Bool) : Fp → Nat
  | .nan => f.nan
  | .inf neg => if sat then f.withSign neg f.maxCode else f.infCode neg
  | .fin neg m e =>
    let mag := f.roundMag rm neg m e
    if f.maxCode < mag then f.overflow rm sat neg else f.withSign neg mag

/-- Exact product; 0 × ∞ is NaN. -/
def Fp.mul : Fp → Fp → Fp
  | .nan, _ => .nan
  | _, .nan => .nan
  | .inf s, .inf t => .inf (s != t)
  | .inf s, .fin t m _ => if m = 0 then .nan else .inf (s != t)
  | .fin s m _, .inf t => if m = 0 then .nan else .inf (s != t)
  | .fin s m e, .fin t n d => .fin (s != t) (m * n) (e + d)

/-- The signed integer of `±m·2^e` at the unit `2^q`, `q ≤ e`. -/
def scaledInt (neg : Bool) (m : Nat) (e q : Int) : Int :=
  let v : Int := (m * 2 ^ (e - q).toNat : Nat)
  if neg then -v else v

/-- Exact sum, with the sign of an exact zero as IEEE 754-2019 has it in mode `rm` (R231). -/
def Fp.add (rm : Nat) : Fp → Fp → Fp
  | .nan, _ => .nan
  | _, .nan => .nan
  | .inf s, .inf t => if s = t then .inf s else .nan
  | .inf s, .fin .. => .inf s
  | .fin .., .inf t => .inf t
  | .fin s m e, .fin t n d =>
    let q := min e d
    let v := scaledInt s m e q + scaledInt t n d q
    if v = 0 then .fin (if s = t then s else rm == 2) 0 0 else .fin (decide (v < 0)) v.natAbs q

def Fp.neg : Fp → Fp
  | .nan => .nan
  | .inf s => .inf (!s)
  | .fin s m e => .fin (!s) m e

def Fp.isNan : Fp → Bool
  | .nan => true
  | _ => false

/-- Exact comparison of two values that are not NaN: −1, 0 or 1; both zeros are equal (R225). -/
def Fp.cmp : Fp → Fp → Int
  | .inf s, .inf t => if s = t then 0 else if s then -1 else 1
  | .inf s, _ => if s then -1 else 1
  | _, .inf t => if t then 1 else -1
  | .fin s m e, .fin t n d =>
    let q := min e d
    let v := scaledInt s m e q - scaledInt t n d q
    if v = 0 then 0 else if v < 0 then -1 else 1
  | _, _ => 0

/-! ## FP32 and packed operations -/

def f32 (w : Word) : Fp := Fmt.f32.decode w.toNat

def toF32 (rm : Nat) (x : Fp) : Word := BitVec.ofNat 32 (Fmt.f32.encode rm false x)

/-- The canonical NaN of FP32. -/
def nan32 : Word := 0x7FC00000

/-- R307. -/
def faddW (rm : Nat) (a b : Word) : Word := toF32 rm (Fp.add rm (f32 a) (f32 b))
def fsubW (rm : Nat) (a b : Word) : Word := toF32 rm (Fp.add rm (f32 a) (f32 b).neg)
def fmulW (rm : Nat) (a b : Word) : Word := toF32 rm (Fp.mul (f32 a) (f32 b))
def ffmaW (rm : Nat) (a b c : Word) : Word := toF32 rm (Fp.add rm (Fp.mul (f32 a) (f32 b)) (f32 c))

/-- The order of R308, −0 below +0. -/
def fbelow (a b : Word) : Bool :=
  match Fp.cmp (f32 a) (f32 b) with
  | 0 => a.msb && !b.msb
  | v => decide (v < 0)

/-- R308. -/
def fminW (a b : Word) : Word :=
  if (f32 a).isNan then (if (f32 b).isNan then nan32 else b)
  else if (f32 b).isNan then a else if fbelow b a then b else a

def fmaxW (a b : Word) : Word :=
  if (f32 a).isNan then (if (f32 b).isNan then nan32 else b)
  else if (f32 b).isNan then a else if fbelow a b then b else a

/-- R312: a half of a register, and a register of two halves. -/
def halfOf (w : Word) (h : Nat) : Nat := w.toNat / 2 ^ (16 * h) % 65536
def ofHalves (lo hi : Nat) : Word := BitVec.ofNat 32 (hi % 65536 * 65536 + lo % 65536)

def fma2W (f : Fmt) (rm : Nat) (a b c : Word) : Word :=
  let one := fun h => f.encode rm false
    (Fp.add rm (Fp.mul (f.decode (halfOf a h)) (f.decode (halfOf b h))) (f.decode (halfOf c h)))
  ofHalves (one 0) (one 1)

/-! ## Conversions (R236 to R239) -/

/-- R239: FP32 to UE8M0. -/
def toUe8m0 : Fp → Nat
  | .fin false m e =>
    if m = 0 then 0xFF else (min (max ((Nat.log2 m : Int) + e + 127) 0) 254).toNat
  | _ => 0xFF

/-- R227, R239: the value of a scale. -/
def ofUe8m0 (x : Nat) : Fp := if x = 0xFF then .nan else .fin false 1 ((x : Int) - 127)

/-- R227: a value times a scale. -/
def Fp.scale (v : Fp) (x : Nat) : Fp :=
  if x = 0xFF then .nan
  else match v with
    | .fin s m e => .fin s m (e + (x : Int) - 127)
    | w => w

/-- R238: a value rounded to an integer. -/
def Fp.toInt (rm : Nat) (neg : Bool) (m : Nat) (e : Int) : Int :=
  let n : Int := if 0 ≤ e then (m * 2 ^ e.toNat : Nat) else (roundShift rm neg m (-e).toNat : Nat)
  if neg then -n else n

def clampInt (lo hi v : Int) : Int := if v < lo then lo else if hi < v then hi else v

/-- R238: conversion to an integer range with the clamp flag. -/
def Fp.toRange (rm : Nat) (lo hi : Int) : Fp → Int × Bool
  | .nan => (0, true)
  | .inf neg => (if neg then lo else hi, true)
  | .fin s m e =>
    let v := Fp.toInt rm s m e
    (clampInt lo hi v, decide (v < lo ∨ hi < v))

def intClamp (lo hi v : Int) : Word × Bool := (BitVec.ofInt 32 (clampInt lo hi v), decide (v < lo ∨ hi < v))

def ofIntFp (v : Int) : Fp := .fin (decide (v < 0)) v.natAbs 0

/-- R322, R260: conversion code `c` of the register `a` in rounding mode `rm`: the result and whether the lane's SATF
bit is set. -/
def cvtW (c rm : Nat) (a : Word) : Word × Bool :=
  let n := a.toNat
  let narrow := fun (f : Fmt) (sat : Bool) => ((BitVec.ofNat 32 (f.encode rm sat (f32 a)) : Word), false)
  let widen := fun (f : Fmt) (w : Nat) => (toF32 0 (f.decode (n % 2 ^ w)), false)
  let toI := fun (lo hi : Int) => let r := Fp.toRange rm lo hi (f32 a); ((BitVec.ofInt 32 r.1 : Word), r.2)
  match c with
  | 0 => narrow .f16 false
  | 1 => narrow .f16 true
  | 2 => narrow .bf16 false
  | 3 => narrow .bf16 true
  | 4 => narrow .e4m3 false
  | 5 => narrow .e4m3 true
  | 6 => narrow .e5m2 false
  | 7 => narrow .e5m2 true
  | 8 => narrow .e2m1 false
  | 9 => (BitVec.ofNat 32 (toUe8m0 (f32 a)), false)
  | 10 => widen .f16 16
  | 11 => widen .bf16 16
  | 12 => widen .e4m3 8
  | 13 => widen .e5m2 8
  | 14 => widen .e2m1 4
  | 15 => (toF32 0 (ofUe8m0 (n % 256)), false)
  | 16 => toI (-2147483648) 2147483647
  | 17 => toI 0 4294967295
  | 18 => (toF32 rm (ofIntFp a.toInt), false)
  | 19 => (toF32 rm (ofIntFp n), false)
  | 20 => toI (-32768) 32767
  | 21 => toI (-128) 127
  | 22 => ((a.setWidth 16).signExtend 32, false)
  | 23 => intClamp (-32768) 32767 a.toInt
  | 24 => ((a.setWidth 8).signExtend 32, false)
  | 25 => intClamp (-128) 127 a.toInt
  | 26 => intClamp 0 255 a.toInt
  | _ => intClamp (-8) 7 a.toInt

/-! ## The summation rule and dot products (R240, R241) -/

/-- A term's floor of log2. -/
def termExp : Fp → Option Int
  | .fin _ m e => if m = 0 then none else some ((Nat.log2 m : Int) + e)
  | _ => none

def maxExp (ts : List Fp) : Option Int :=
  ts.foldl (fun acc t => match acc, termExp t with
    | some x, some y => some (max x y)
    | some x, none => some x
    | none, y => y) none

/-- A term truncated toward zero to a multiple of `2^q`, in units of `2^q`. -/
def truncTerm (q : Int) : Fp → Int
  | .fin s m e =>
    let v : Int := (if q ≤ e then m * 2 ^ (e - q).toNat else m / 2 ^ (q - e).toNat : Nat)
    if s then -v else v
  | _ => 0

/-- R240. -/
def sumRule (ts : List Fp) : Word :=
  let pos := ts.any fun t => t == .inf false
  let neg := ts.any fun t => t == .inf true
  if ts.any Fp.isNan || (pos && neg) then nan32
  else if pos then 0x7F800000
  else if neg then 0xFF800000
  else match maxExp ts with
    | none => if ts.all fun t => match t with | .fin s _ _ => s | _ => false then 0x80000000 else 0
    | some emax =>
      let q := emax - 48
      let v := (ts.map (truncTerm q)).foldl (· + ·) 0
      if v = 0 then 0 else toF32 0 (.fin (decide (v < 0)) v.natAbs q)

/-- R230: element `j` of width `w`. -/
def elemOf (w : Nat) (x : Word) (j : Nat) : Nat := x.toNat / 2 ^ (w * j) % 2 ^ w

/-- R229: an element as an integer. -/
def elemInt (signed : Bool) (w v : Nat) : Int :=
  if signed && decide (2 ^ (w - 1) ≤ v) then (v : Int) - 2 ^ w else v

/-- R320: integer dot product of elements of width `w`. -/
def dotW (signed : Bool) (w : Nat) (a b c : Word) : Word × Bool :=
  let s := (List.range (32 / w)).foldl
    (fun acc j => acc + elemInt signed w (elemOf w a j) * elemInt signed w (elemOf w b j)) c.toInt
  intClamp (-2147483648) 2147483647 s

/-- R321: floating-point dot product. -/
def fdotW (f : Fmt) (w : Nat) (a b c : Word) : Word :=
  sumRule (f32 c :: (List.range (32 / w)).map fun j => Fp.mul (f.decode (elemOf w a j)) (f.decode (elemOf w b j)))

/-- R319: a packed saturating sum or difference. -/
def add2W (sub : Bool) (a b : Word) : Word × Bool :=
  let one := fun h =>
    let x := elemInt true 16 (halfOf a h)
    let y := elemInt true 16 (halfOf b h)
    if sub then x - y else x + y
  let lo := one 0
  let hi := one 1
  let c := clampInt (-32768) 32767
  (ofHalves (BitVec.ofInt 16 (c lo)).toNat (BitVec.ofInt 16 (c hi)).toNat, decide (c lo ≠ lo ∨ c hi ≠ hi))

/-- R243. -/
def srniW (x : Word) (n : Nat) : Word :=
  if n = 0 then x else BitVec.ofInt 32 ((x.toInt + 2 ^ (n - 1)) / 2 ^ n)

/-! ## The functions of R310 -/

/-- Integer square root by bits from `b` down. -/
def isqrtFrom (n : Nat) : Nat → Nat → Nat
  | 0, r => if (r + 1) * (r + 1) ≤ n then r + 1 else r
  | b + 1, r => isqrtFrom n b (if (r + 2 ^ (b + 1)) * (r + 2 ^ (b + 1)) ≤ n then r + 2 ^ (b + 1) else r)

def isqrt (n : Nat) : Nat := isqrtFrom n (Nat.log2 n / 2 + 1) 0

/-- A magnitude known to lie strictly between `n` and `n + 1` units of `2^e`: one bit further down stands for the rest. -/
def jam (exact : Bool) (n : Nat) : Nat := if exact then 2 * n else 2 * n + 1

/-- A magnitude with an even exponent. -/
def evenExp (m : Nat) (e : Int) : Nat × Int := if e % 2 = 0 then (m, e) else (2 * m, e - 1)

def Fp.sqrt : Fp → Fp
  | .nan => .nan
  | .inf s => if s then .nan else .inf false
  | .fin s m e =>
    if m = 0 then .fin s 0 0
    else if s then .nan
    else
      let p := evenExp m e
      let n := p.1 * 2 ^ 80
      let r := isqrt n
      .fin false (jam (r * r == n) r) (p.2 / 2 - 41)

def Fp.recip : Fp → Fp
  | .nan => .nan
  | .inf s => .fin s 0 0
  | .fin s m e =>
    if m = 0 then .inf s
    else .fin s (jam (2 ^ 80 % m == 0) (2 ^ 80 / m)) (-e - 81)

def Fp.rsqrt : Fp → Fp
  | .nan => .nan
  | .inf s => if s then .nan else .fin false 0 0
  | .fin s m e =>
    if m = 0 then .inf s
    else if s then .nan
    else
      let p := evenExp m e
      let r := isqrt (2 ^ 120 / p.1)
      .fin false (jam (r * r * p.1 == 2 ^ 120) r) (-(p.2 / 2) - 61)

/-- Fraction bits of the fixed-point numbers of the transcendental functions. -/
def fixBits : Nat := 800

/-- π/2 and ln 2 at 800 fraction bits, rounded down. -/
def fixHalfPi : Nat :=
  0x1921fb54442d18469898cc51701b839a252049c1114cf98e804177d4c76273644a29410f31c6809bbdf2a33679a748636605614dbe4be286e9fc26adadaa3848bc90b6aecc4bcfd8de89885d34c6fdad617feb96de80d6fdbdc70d7f6b5133f4b5d3e4822
def fixLn2 : Nat :=
  0xb17217f7d1cf79abc9e3b39803f2f6af40f343267298b62d8a0d175b8baafa2be7b876206debac98559552fb4afa1b10ed2eae35c138214427573b291169b8253e96ca16224ae8c51acbda11317c387eb9ea9bc3b136603b256fa0ec7657f74b72ce87b1

/-- Terms of a Taylor series: `t` times `x` over `k`, `step` apart, added with alternating or equal signs. -/
def taylor (x2 : Int) (alt : Bool) (step : Nat) : Nat → Nat → Int → Int → Int
  | 0, _, _, acc => acc
  | fuel + 1, k, t, acc =>
    let den : Int := if step = 2 then (k + 1) * (k + 2) else k + 1
    let t' := t * x2 / 2 ^ fixBits / den
    let t'' := if alt then -t' else t'
    taylor x2 alt step fuel (k + step) t'' (acc + t'')

/-- sin and cos of a fixed-point number of at most π/4 in magnitude. -/
def fixSin (r : Int) : Int := taylor (r * r / 2 ^ fixBits) true 2 90 1 r r
def fixCos (r : Int) : Int := taylor (r * r / 2 ^ fixBits) true 2 90 0 (2 ^ fixBits) (2 ^ fixBits)
/-- e to a fixed-point number between 0 and 1. -/
def fixExp (y : Int) : Int := taylor y false 1 180 0 (2 ^ fixBits) (2 ^ fixBits)

/-- Σ z^(2k+1)/(2k+1). -/
def fixAtanh (z2 : Int) : Nat → Nat → Int → Int → Int
  | 0, _, _, acc => acc
  | fuel + 1, k, t, acc =>
    let t' := t * z2 / 2 ^ fixBits
    fixAtanh z2 fuel (k + 2) t' (acc + t' / (k + 2))

/-- A fixed-point result that is no exact number: the errors of the series stay below 2^100 units of 2^−800, and no
single-precision argument brings one of these functions within 2^−650 of a rounding boundary that it does not meet
exactly, so the bits above stand and one bit says that something follows. -/
def ofFix (v : Int) : Fp := .fin (decide (v < 0)) (jam false (v.natAbs / 2 ^ 120)) (120 - 1 - (fixBits : Int))

/-- sin (`co` false) or cos of ±m·2^e, with e at least −149. -/
def Fp.sinCos (co : Bool) : Fp → Fp
  | .nan => .nan
  | .inf _ => .nan
  | .fin s m e =>
    if m = 0 then (if co then .fin false 1 0 else .fin s 0 0)
    else
      let x := m * 2 ^ (e + fixBits).toNat
      let k := (2 * x + fixHalfPi) / (2 * fixHalfPi)
      let r : Int := (x : Int) - (k * fixHalfPi : Nat)
      let v := match (k + (if co then 1 else 0)) % 4 with
        | 0 => fixSin r
        | 1 => fixCos r
        | 2 => -fixSin r
        | _ => -fixCos r
      ofFix (if s && !co then -v else v)

def Fp.exp2 : Fp → Fp
  | .nan => .nan
  | .inf s => if s then .fin false 0 0 else .inf false
  | .fin s m e =>
    if m = 0 then .fin false 1 0
    else if 10 ≤ (Nat.log2 m : Int) + e then (if s then .fin false 1 (-1000) else .fin false 1 1000)
    else
      let x : Int := scaledInt s m (e + fixBits) 0
      let n := x / 2 ^ fixBits
      let f := x % 2 ^ fixBits
      if f = 0 then .fin false 1 n
      else match ofFix (fixExp (f * fixLn2 / 2 ^ fixBits)) with
        | .fin t q d => .fin t q (d + n)
        | v => v

def Fp.log2 : Fp → Fp
  | .nan => .nan
  | .inf s => if s then .nan else .inf false
  | .fin s m e =>
    if m = 0 then .inf true
    else if s then .nan
    else
      let l := Nat.log2 m
      let ex : Int := l + e
      if m = 2 ^ l then ofIntFp ex
      else
        let x : Int := (m * 2 ^ (fixBits - l) : Nat)
        let one : Int := 2 ^ fixBits
        let z := (x - one) * one / (x + one)
        let ln := 2 * fixAtanh (z * z / one) 260 1 z z
        ofFix (ex * one + ln * one / fixLn2)

/-- R310: rounding to an integer; a zero keeps the sign. -/
def frintW (rm : Nat) (a : Word) : Word :=
  match f32 a with
  | .nan => nan32
  | .inf _ => a
  | .fin s m e =>
    if 0 ≤ e ∨ m = 0 then a else toF32 0 (.fin s (roundShift rm s m (-e).toNat) 0)

/-- R311. -/
def fclassW (a : Word) : Word :=
  let neg := a.msb
  let ex := a.toNat / 2 ^ 23 % 256
  let m := a.toNat % 2 ^ 23
  let k := if ex = 255 then (if m = 0 then (if neg then 0 else 7) else if m < 2 ^ 22 then 8 else 9)
    else if ex = 0 then (if m = 0 then (if neg then 3 else 4) else (if neg then 2 else 5))
    else (if neg then 1 else 6)
  BitVec.ofNat 32 (2 ^ k)

/-- R228: a block quantised to an element format: its scale and its element codes. -/
def quantBlock (f : Fmt) (emaxFmt : Nat) (vs : List Fp) : Nat × List Nat :=
  if vs.any fun v => match v with | .fin .. => false | _ => true then (0xFF, vs.map fun _ => 0)
  else match maxExp vs with
    | none => (0, vs.map fun _ => 0)
    | some l =>
      let x := (clampInt 0 254 (l - emaxFmt + 127)).toNat
      (x, vs.map fun v => match v with
        | .fin s m e => f.encode 0 true (.fin s m (e + 127 - x))
        | _ => 0)

end Sys2Proof.Machine
end

