-- ==== Sys2Proof/Machine/Flags.lean ====
section
/-! DEFINITION. Condition codes, saturation flags and the integer functions of the lane and scalar sets (R257, R278,
R313 to R317, R325, R327). -/

namespace Sys2Proof.Machine

/-- R257: the integer conditions. -/
def icond (c : Nat) (a b : Word) : Bool :=
  match c with
  | 0 => a == b
  | 1 => a != b
  | 2 => a.slt b
  | 3 => a.sle b
  | 4 => b.slt a
  | 5 => b.sle a
  | 6 => a.ult b
  | 7 => a.ule b
  | 8 => b.ult a
  | 9 => b.ule a
  | _ => (a &&& b) != 0

/-- R257: the meanings for `fcmp`. -/
def fcond (c : Nat) (a b : Word) : Bool :=
  let un := (f32 a).isNan || (f32 b).isNan
  let k := Fp.cmp (f32 a) (f32 b)
  match c with
  | 0 => !un && k == 0
  | 1 => un || k != 0
  | 2 => !un && decide (k < 0)
  | 3 => !un && decide (k ≤ 0)
  | 4 => !un && decide (0 < k)
  | 5 => !un && decide (0 ≤ k)
  | 6 => !un
  | _ => un

def boolWord (b : Bool) : Word := if b then 1 else 0

/-! ## Integer functions -/

def shlW (a b : Word) : Word := a <<< (b.toNat % 32)
def shrW (a b : Word) : Word := a >>> (b.toNat % 32)
def sraW (a b : Word) : Word := a.sshiftRight (b.toNat % 32)
def mulhsW (a b : Word) : Word := BitVec.ofInt 32 (a.toInt * b.toInt / 2 ^ 32)
def mulhuW (a b : Word) : Word := BitVec.ofNat 32 (a.toNat * b.toNat / 2 ^ 32)
def sminW (a b : Word) : Word := if b.slt a then b else a
def smaxW (a b : Word) : Word := if a.slt b then b else a
def uminW (a b : Word) : Word := if b.ult a then b else a
def umaxW (a b : Word) : Word := if a.ult b then b else a

/-- R278: signed quotient truncated toward zero, with its corners. -/
def divW (a b : Word) : Word := if b = 0 then 0xFFFFFFFF else BitVec.ofInt 32 (a.toInt.tdiv b.toInt)
def divuW (a b : Word) : Word := if b = 0 then 0xFFFFFFFF else BitVec.ofNat 32 (a.toNat / b.toNat)
def remW (a b : Word) : Word := if b = 0 then a else BitVec.ofInt 32 (a.toInt.tmod b.toInt)
def remuW (a b : Word) : Word := if b = 0 then a else BitVec.ofNat 32 (a.toNat % b.toNat)

/-- Number of set bits. -/
def popcW (a : Word) : Word := BitVec.ofNat 32 (((List.range 32).filter fun k => a.getLsbD k).length)
def clzW (a : Word) : Word :=
  BitVec.ofNat 32 (((List.range 32).find? fun k => a.getLsbD (31 - k)).getD 32)
def ctzW (a : Word) : Word := BitVec.ofNat 32 (((List.range 32).find? fun k => a.getLsbD k).getD 32)

/-- A word built bit by bit. -/
def wordOfBits (f : Nat → Bool) : Word :=
  (List.range 32).foldl (fun w k => if f k then w ||| (1#32 <<< k) else w) 0

def brevW (a : Word) : Word := wordOfBits fun k => a.getLsbD (31 - k)
def bswapW (a : Word) : Word :=
  a.extractLsb' 0 8 ++ a.extractLsb' 8 8 ++ a.extractLsb' 16 8 ++ a.extractLsb' 24 8

def iabsW (a : Word) : Word := if a.msb then -a else a
def sextW (n : Nat) (a : Word) : Word := (a.setWidth n).signExtend 32
def zextW (n : Nat) (a : Word) : Word := (a.setWidth n).setWidth 32

/-- R316: the width of the field of a control word. -/
def bfWidth (ctl : Word) : Nat := min (min (ctl.toNat / 256 % 64) 32) (32 - ctl.toNat % 32)
def bfMask (ctl : Word) : Word := BitVec.ofNat 32 ((2 ^ bfWidth ctl - 1) * 2 ^ (ctl.toNat % 32))

def bfxW (a ctl : Word) : Word :=
  let f := (a &&& bfMask ctl) >>> (ctl.toNat % 32)
  let w := bfWidth ctl
  if ctl.getLsbD 16 && decide (0 < w) then BitVec.ofInt 32 (elemInt true w f.toNat) else f

def bfiW (a ctl d : Word) : Word :=
  (d &&& ~~~bfMask ctl) ||| ((a <<< (ctl.toNat % 32)) &&& bfMask ctl)

/-- R325: the reductions of `tos`, over the contributing values in any order. -/
def tosFold (fn : Nat) (xs : List Word) : Word :=
  match fn with
  | 0x20 => xs.foldl (· + ·) 0
  | 0x21 => xs.foldl (· &&& ·) 0xFFFFFFFF
  | 0x22 => xs.foldl (· ||| ·) 0
  | 0x23 => xs.foldl (· ^^^ ·) 0
  | 0x24 => xs.foldl smaxW 0x80000000
  | 0x25 => xs.foldl sminW 0x7FFFFFFF
  | 0x26 => xs.foldl umaxW 0
  | 0x27 => xs.foldl uminW 0xFFFFFFFF
  | 0x28 =>
    match xs with
    | [] => 0xFF800000
    | x :: r => fmaxW (r.foldl fmaxW x) (r.foldl fmaxW x)
  | _ =>
    match xs with
    | [] => 0x7F800000
    | x :: r => fminW (r.foldl fminW x) (r.foldl fminW x)

/-- R327, R261: the operations of `scan`; code 1 is the exclusive sum. -/
def scanFold (fn : Nat) (xs : List Word) : Word :=
  match fn with
  | 0 => xs.foldl (· + ·) 0
  | 1 => xs.foldl (· + ·) 0
  | 2 => xs.foldl smaxW 0x80000000
  | 3 => xs.foldl sminW 0x7FFFFFFF
  | 4 => xs.foldl (· &&& ·) 0xFFFFFFFF
  | 5 => xs.foldl (· ||| ·) 0
  | 6 => xs.foldl (· ^^^ ·) 0
  | 7 => xs.foldl umaxW 0
  | _ => xs.foldl uminW 0xFFFFFFFF

end Sys2Proof.Machine
end

