-- ==== Sys2Proof/Machine/Operands.lean ====
section
/-! DEFINITION. Operand forms: lanes, lane registers, masks, scalar registers with s0, the banked copies and bound
streams, pairs and blocks (R13, R193, R204, R250, R251, R356, R357), and tensor-identifier entries (R148 to R150). -/

namespace Sys2Proof.Machine

/-! ## Tensor identifiers -/

def Tid.word (t : Tid) (k : Nat) : DWord :=
  match k with
  | 0 => t.w0 | 1 => t.w1 | 2 => t.w2 | 3 => t.w3 | 4 => t.w4 | 5 => t.w5 | 6 => t.w6 | _ => t.w7

/-- Bits `lo + n - 1..lo` of word `k`. -/
def Tid.fld (t : Tid) (k lo n : Nat) : Nat := (t.word k).toNat / 2 ^ lo % 2 ^ n

def Tid.elem (t : Tid) : Nat := t.fld 1 60 4
/-- Number of dimensions. -/
def Tid.dims (t : Tid) : Nat := t.fld 1 58 2 + 1
def Tid.skdim (t : Tid) : Nat := t.fld 1 56 2
def Tid.sbsz (t : Tid) : Nat := t.fld 1 54 2
def Tid.valid (t : Tid) : Bool := t.w1.getLsbD 0
def Tid.sizeField (t : Tid) (k : Nat) : Nat :=
  match k with
  | 0 => t.fld 3 32 32 | 1 => t.fld 3 0 32 | 2 => t.fld 4 32 32 | _ => t.fld 4 0 32
def Tid.tileField (t : Tid) (k : Nat) : Nat :=
  match k with
  | 0 => t.fld 5 48 16 | 1 => t.fld 6 48 16 | 2 => t.fld 7 48 16 | _ => t.fld 1 16 16
def Tid.strideField (t : Tid) (k : Nat) : Nat :=
  match k with
  | 0 => 0 | 1 => t.fld 5 0 40 | 2 => t.fld 6 0 40 | _ => t.fld 7 0 40

/-- R149: sizes, tiles and strides as used: an unused dimension has extent 1. -/
def Tid.size (t : Tid) (k : Nat) : Nat := if k < t.dims then t.sizeField k else 1
def Tid.tile (t : Tid) (k : Nat) : Nat := if k < t.dims then t.tileField k else 1
def Tid.stride (t : Tid) (k : Nat) : Nat := if k < t.dims then t.strideField k else 0

/-- R148: bits of an element. -/
def elemBits (e : Nat) : Nat :=
  match e with
  | 0 => 8 | 1 => 8 | 2 => 4 | 3 => 8 | 4 => 4 | 5 => 16 | 6 => 16 | 7 => 32 | 8 => 16 | 9 => 32 | 10 => 8 | 11 => 4
  | _ => 16

/-- Bytes of `n` elements along dimension 0. -/
def Tid.rowBytes (t : Tid) (n : Nat) : Nat := n * elemBits t.elem / 8

/-- R150: whether the entry is well formed; bit 0 of word 1 does not count. -/
def Tid.wellFormed (t : Tid) : Bool :=
  let used := List.range t.dims
  let un := (List.range 4).filter fun k => decide (t.dims ≤ k)
  let four := elemBits t.elem == 4
  let extent := fun k => if k = 0 then t.rowBytes (t.size 0) else t.strideField k * t.size k
  decide (t.elem < 13)
    && used.all (fun k => decide (1 ≤ t.sizeField k) && decide (1 ≤ t.tileField k) && decide (t.tileField k ≤ t.sizeField k))
    && used.all (fun k => k == 0 || (t.strideField k % 16 == 0 && decide (extent (k - 1) ≤ t.strideField k)))
    && t.w0.toNat % 16 == 0 && t.w2.toNat % 16 == 0 && decide (t.w0.toNat < 2 ^ 52) && decide (t.w2.toNat < 2 ^ 52)
    && (!four || (t.sizeField 0 % 2 == 0 && t.tileField 0 % 2 == 0))
    && (t.sbsz == 0 || (t.sbsz == 1 && decide (t.elem < 3) && decide (t.skdim < t.dims)))
    && un.all (fun k => decide (t.sizeField k ≤ 1) && t.strideField k == 0 && t.tileField k == 0)
    && t.fld 1 32 22 == 0 && t.fld 1 1 15 == 0 && t.fld 5 40 8 == 0 && t.fld 6 40 8 == 0 && t.fld 7 40 8 == 0

/-- R149: byte offset of an element from BASE. -/
def Tid.offset (t : Tid) (i0 i1 i2 i3 : Nat) : Nat :=
  i0 * elemBits t.elem / 8 + i1 * t.stride 1 + i2 * t.stride 2 + i3 * t.stride 3

/-- R149: offset of the scale byte of an element from SBASE. -/
def Tid.scaleOffset (t : Tid) (i0 i1 i2 i3 : Nat) : Nat :=
  let sz := fun k => if k = t.skdim then (t.size k + 31) / 32 else t.size k
  let ix := fun k i => if k = t.skdim then i / 32 else i
  ix 0 i0 + sz 0 * (ix 1 i1 + sz 1 * (ix 2 i2 + sz 2 * ix 3 i3))

/-! ## Streams (R356, R357) -/

def Stream.count (st : Stream) (k : Nat) : Nat :=
  if st.elem then st.tid.size k else (st.tid.size k + st.tid.tile k - 1) / st.tid.tile k

/-- The walk's length T. -/
def Stream.total (st : Stream) : Nat := st.count 0 * st.count 1 * st.count 2 * st.count 3

/-- The tuple at position `p`, dimension 0 fastest. -/
def Stream.index (st : Stream) (p k : Nat) : Nat :=
  match k with
  | 0 => p % st.count 0
  | 1 => p / st.count 0 % st.count 1
  | 2 => p / (st.count 0 * st.count 1) % st.count 2
  | _ => p / (st.count 0 * st.count 1 * st.count 2) % st.count 3

/-- The offset at the stream's position, modulo 2^32. -/
def Stream.offset (st : Stream) : Word :=
  let i := st.index st.pos
  let t := st.tid
  BitVec.ofNat 32 <|
    if st.elem then i 0 * elemBits t.elem / 8 + i 1 * t.stride 1 + i 2 * t.stride 2 + i 3 * t.stride 3
    else i 0 * t.rowBytes (t.tile 0) + i 1 * (t.tile 1 * t.stride 1) + i 2 * (t.tile 2 * t.stride 2)
      + i 3 * (t.tile 3 * t.stride 3)

/-- The end flags after the tuple at the position has been read. -/
def Stream.endFlags (st : Stream) : BitVec 4 :=
  let last := fun k => st.index st.pos k + 1 == st.count k
  let d0 := last 0
  let d1 := d0 && last 1
  let d2 := d1 && last 2
  let d3 := d2 && last 3
  BitVec.ofNat 4 ((if d0 then 1 else 0) + (if d1 then 2 else 0) + (if d2 then 4 else 0) + (if d3 then 8 else 0))

/-- R357: an advancing read. -/
def Stream.advance (st : Stream) : Stream := { st with flags := st.endFlags, pos := (st.pos + 1) % st.total }

/-! ## Slices and lanes -/

def sliceList (sl : BitVec 8) : List Nat := (List.range 8).filter fun k => sl.getLsbD k

/-- The lowest slice of a set. -/
def lowSlice (sl : BitVec 8) : Nat := (sliceList sl).headD 0

/-- R193: the lanes of a set of slices: lane l lies in slice l div 4. -/
def slicesLanes (sl : BitVec 8) : Word := wordOfBits fun l => sl.getLsbD (l / 4)

/-- R194: live lanes of a set of slices. -/
def Group.liveLanes (g : Group) (sl : BitVec 8) : Word := slicesLanes (sl &&& g.live) &&& g.lanes

/-- R250: m0 reads as all ones. -/
def Group.mask (g : Group) (k : Nat) : Word := if k = 0 then 0xFFFFFFFF else Sparse.get 0 g.masks k

/-- R13: the active lanes of an instruction of the slices `sl` under mask `k`. -/
def Group.act (g : Group) (sl : BitVec 8) (k : Nat) : Word := g.liveLanes sl &&& g.mask k

def laneList (w : Word) : List Nat := (List.range 32).filter fun l => w.getLsbD l

/-- R204: write the bits of `act` of a mask. -/
def Group.setMask (g : Group) (k : Nat) (act v : Word) : Group :=
  if k = 0 then g else { g with masks := Sparse.set 0 g.masks k ((g.mask k &&& ~~~act) ||| (v &&& act)) }

/-- A lane's copy of a lane register. -/
def Group.vreg (g : Group) (n l : Nat) : Word := Sparse.get 0 g.vregs (n * 32 + l)

def Group.setV (g : Group) (n l : Nat) (v : Word) : Group := { g with vregs := Sparse.set 0 g.vregs (n * 32 + l) v }

/-- R304: write lane register `n` in the lanes of `act`. -/
def Group.writeV (g : Group) (act : Word) (n : Nat) (f : Nat → Word) : Group :=
  { g with vregs := (laneList act).foldl (fun m l => Sparse.set 0 m (n * 32 + l) (f l)) g.vregs }

/-- R244: set saturation flags. -/
def Group.setSat (g : Group) (lanes : Word) : Group := { g with satf := g.satf ||| lanes }

/-! ## Scalar registers -/

def Group.streamOf (g : Group) (n : Nat) : Stream := Sparse.get {} g.streams n

/-- R357: whether a stream is bound to the register. -/
def Group.bound (g : Group) (n : Nat) : Bool := decide (48 ≤ n) && decide (n < 56) && (g.streamOf n).bound

/-- R251: at trap level s56 to s59 name the banked copies. -/
def Group.banked (g : Group) (n : Nat) : Bool := g.atTrap && decide (56 ≤ n) && decide (n < 60)

/-- A slice's scalar register as an operand: s0 zero, a bound register the offset at its position, without advancing. -/
def Group.sreg (g : Group) (k n : Nat) : Word :=
  if n = 0 then 0
  else if g.bound n then (g.streamOf n).offset
  else if g.banked n then Sparse.get 0 g.banks (k * 4 + (n - 56))
  else Sparse.get 0 g.sregs (k * 64 + n)

/-- A write to a slice's scalar register: discarded for s0 and for a bound register. -/
def Group.setS (g : Group) (k n : Nat) (v : Word) : Group :=
  if n = 0 || g.bound n then g
  else if g.banked n then { g with banks := Sparse.set 0 g.banks (k * 4 + (n - 56)) v }
  else { g with sregs := Sparse.set 0 g.sregs (k * 64 + n) v }

/-- R274: every slice of the set writes its own copy. -/
def Group.writeS (g : Group) (sl : BitVec 8) (n : Nat) (f : Nat → Word) : Group :=
  (sliceList sl).foldl (fun g k => g.setS k n (f k)) g

/-- A 64-bit value of an even pair (R251). -/
def Group.spair (g : Group) (k n : Nat) : DWord := (g.sreg k (n + 1)) ++ (g.sreg k n)

def Group.writePair (g : Group) (sl : BitVec 8) (n : Nat) (f : Nat → DWord) : Group :=
  (g.writeS sl n fun k => (f k).setWidth 32).writeS sl (n + 1) fun k => ((f k) >>> 32).setWidth 32

/-- R357: the walks of the registers named as single source operands advance once each. -/
def Group.advance (g : Group) (ns : List Nat) : Group :=
  ns.eraseDups.foldl (fun g n =>
    if g.bound n then { g with streams := Sparse.upd {} g.streams n Stream.advance } else g) g

def Group.cflag (g : Group) (k n : Nat) : Bool := g.cflags.getLsbD (k * 4 + n)

def Group.setFlag (g : Group) (k n : Nat) (v : Bool) : Group :=
  let bit := 1#32 <<< (k * 4 + n)
  { g with cflags := if v then g.cflags ||| bit else g.cflags &&& ~~~bit }

def Group.writeFlag (g : Group) (sl : BitVec 8) (n : Nat) (f : Nat → Bool) : Group :=
  (sliceList sl).foldl (fun g k => g.setFlag k n (f k)) g

/-! ## Immediates (R256) -/

def sext7 (i : BitVec 7) : Word := i.signExtend 32
def sext12 (i : BitVec 12) : Word := i.signExtend 32
def zext7 (i : BitVec 7) : Word := i.setWidth 32
def zext12 (i : BitVec 12) : Word := i.setWidth 32

/-- A branch's target: pc + 4 × offset. -/
def targetOf {n : Nat} (pc : DWord) (o : BitVec n) : DWord := pc + (o.signExtend 64 <<< 2)

end Sys2Proof.Machine
end

