-- ==== Sys2Proof/Machine/Translate.lean ====
section
/-! DEFINITION. Address classes, windows and two-stage translation (R14 to R42). -/

namespace Sys2Proof.Machine

/-- R401. -/
def Trap.code : Trap → Nat
  | .ill => 1 | .priv => 2 | .align => 3 | .spb => 4 | .rlk => 5 | .pf => 6 | .prot => 7 | .sres => 8 | .pipe => 9
  | .pois => 10 | .peer => 11 | .cabrt => 12 | .brk => 13 | .trap => 14 | .psave => 15

/-- R49: the ACC code. -/
def Acc.code : Acc → Nat
  | .read => 0 | .write => 1 | .atomic => 2 | .fetch => 3 | .walk => 4 | .ad => 5 | .txWrite => 1

/-- Why an access fails: the trap, the record kind of R32 (0 for none), the access kind, and the PPA reached; with kind 2,
the host address. -/
structure Flt where
  code : Trap
  kind : Nat := 0
  acc  : Nat := 0
  ppa  : Nat := 0
deriving DecidableEq, Repr

/-- Why a translation gives no address now. -/
inductive NoWalk where
  | fault (f : Flt)
  /-- R75, R213: a line that it reads or writes is held. -/
  | held
  /-- R40: the host's ATS has been asked. -/
  | ats
deriving DecidableEq, Repr

/-! ## Host and peer memory -/

/-- R159: a byte of host or peer memory by its class-0b01 or class-0b10 address: what this device or an input wrote
there, else a value of its owner's (log 8). -/
def State.hostByte (s : State) (a : Nat) : Byte :=
  match s.host.find? fun x => x.1 == a with
  | some x => x.2
  | none => Config.hostByte a

def State.hostRead (s : State) : Nat → Nat → Nat
  | _, 0 => 0
  | a, n + 1 => (s.hostByte a).toNat + 256 * s.hostRead (a + 1) n

def State.hostWrite (s : State) (a : Nat) : Nat → Nat → State
  | 0, _ => s
  | n + 1, v =>
    let s1 := State.hostWrite s a n v
    { s1 with host := Sparse.insert s1.host (a + n) (BitVec.ofNat 8 (v / 2 ^ (8 * n))) }

/-! ## Requests to peers (R189, R429, R433) -/

def State.peerOf (s : State) (a : Nat) : Peer := Sparse.get {} s.peers a
def State.updPeer (s : State) (a : Nat) (f : Peer → Peer) : State := { s with peers := Sparse.upd {} s.peers a f }

/-- R429: the UALink ports whose link is up. -/
def State.upPorts (s : State) : List Nat := (List.range 13).filter fun k => k != 0 && s.links.getLsbD k

/-- R429: a request or message leaves over one of the ports that are up; with none up nothing is sent. -/
def State.sendOut (s : State) (f : Nat → Out) : State :=
  match s.upPorts with
  | [] => s
  | p :: ps => { s with draw := s.draw + 1, out := s.out ++ [f ((p :: ps).getD (Config.portOf s.draw % (ps.length + 1)) p)] }

/-- R33: the accelerator that an outbound request goes to. -/
def Ask.dest (k : Ask) : Nat := k.addr / 2 ^ 40 % 1024

/-- R433: a request goes to a peer and is outstanding. -/
def State.sendAsk (s : State) (k : Ask) : State :=
  let t := (s.peerOf k.dest).nextTag
  (s.updPeer k.dest fun p => { p with
    nextTag := t + 1, lastSent := s.clock.toNat, out := p.out ++ [{ tag := t, ask := k, time := s.clock.toNat }] }).sendOut fun port =>
      .peerReq port k.dest t k.kind (k.addr % 2 ^ 40) k.n k.x

/-- Two requests are one and the same access of one asker. -/
def Ask.same (k j : Ask) : Bool := k.who == j.who && k.kind == j.kind && k.addr == j.addr && k.n == j.n

/-- R433: what is known of a request: its completion, poison at a peer that is DOWN, or nothing yet. -/
def State.answerTo (s : State) (k : Ask) : Option (Option Nat) :=
  match s.answers.find? fun a => a.ask.same k with
  | some a => some a.v
  | none => if (s.peerOf k.dest).state = 2 then some none else none

/-- R433: a request is sent unless it has been. -/
def State.ask (s : State) (k : Ask) : State :=
  if (s.answerTo k).isSome || (s.peerOf k.dest).out.any (fun o => o.ask.same k) then s else s.sendAsk k

/-- R429: an access cut into naturally aligned pieces whose sizes are powers of two: offset and size of each. -/
def natCuts : Nat → Nat → Nat → List (Nat × Nat)
  | 0, _, _ => []
  | _, _, 0 => []
  | fuel + 1, a, n =>
    let k := ((List.range 9).reverse.find? fun j => a % 2 ^ j == 0 && decide (2 ^ j ≤ n)).elim 1 fun j => 2 ^ j
    (a, k) :: natCuts fuel (a + k) (n - k)

/-- What an access outside this device, or of the front end, comes to. -/
inductive Fe (α : Type) where
  | ok (v : α)
  | fault
  /-- It waits: for a line that is held, for the host's ATS, or for a peer. -/
  | wait
deriving DecidableEq, Repr

/-- R433: requests that make up one access: sent, and, with the completion of the last, their data from the lowest piece up, or
poison. What was read stays with its asker until it has ended. -/
def State.far (s : State) (ks : List Ask) : State × Fe Nat :=
  let s1 := ks.foldl State.ask s
  if ks.any fun k => (s1.answerTo k).isNone then (s1, .wait)
  else
    let s2 := { s1 with answers := s1.answers.filter fun a => a.ask.kind == 0 || !(ks.any a.ask.same) }
    if ks.any fun k => s1.answerTo k == some none then (s2, .fault)
    else (s2, .ok (ks.foldr (fun k v => ((s1.answerTo k).getD none).getD 0 % 2 ^ (8 * k.n) + 2 ^ (8 * k.n) * v) 0))

/-- What an asker has read of peers is not kept beyond the access that it read it for. -/
def State.taken (s : State) (who : Asker) : State := { s with answers := s.answers.filter fun a => a.ask.who != who }

/-- R37: no walk and no walk's fault waits for such an agent any more. -/
def Die.forget (d : Die) (p : Asker → Bool) : Die :=
  { d with
    walks := d.walks.map fun w => { w with agents := w.agents.filter fun a => !p a }
    xlFails := d.xlFails.filter fun f => !p f.who }

/-- R37, R433: askers have ended: nothing that they read is kept, and what is outstanding has nobody to go to. -/
def State.forget (s : State) (p : Asker → Bool) : State :=
  { s with
    answers := s.answers.filter fun a => !p a.ask.who
    peers := s.peers.map fun q => (q.1, { q.2 with
      out := q.2.out.map fun o => if p o.ask.who then { o with ask := { o.ask with who := .gone } } else o })
    dies := s.dies.map fun d => (d.1, d.2.forget p) }

def State.farDone (s : State) (who : Asker) : State := s.forget fun a => a == who

/-- R159: a read of `n` bytes of host or peer memory. -/
def State.outRead (s : State) (who : Asker) (a n : Nat) : State × Fe Nat :=
  if a / 2 ^ 50 % 4 = 2 then s.far ((natCuts (n + 1) a n).map fun c => { who := who, kind := 0, addr := c.1, n := c.2 })
  else (s, .ok (s.hostRead a n))

/-- The operand of a write of `n` bytes, 16 bytes at a time. -/
def operandWords (n v : Nat) : List (BitVec 128) := (List.range ((n + 15) / 16)).map fun k => BitVec.ofNat 128 (v / 2 ^ (128 * k))

/-- R159: a write of `n` bytes of host or peer memory. -/
def State.outWrite (s : State) (who : Asker) (a n v : Nat) : State × Fe Nat :=
  if a / 2 ^ 50 % 4 = 2 then
    match s.far ((natCuts (n + 1) a n).map fun c =>
      { who := who, kind := 1, addr := c.1, n := c.2, x := operandWords c.2 (v / 2 ^ (8 * (c.1 - a)) % 2 ^ (8 * c.2)) }) with
    | (s1, .ok _) => (s1, .ok 0)
    | r => r
  else (s.hostWrite a n v, .ok 0)

/-! ## Table entries (R27 to R29) -/

structure Pte where
  raw : Nat
deriving DecidableEq, Repr

def Pte.v (e : Pte) : Bool := e.raw.testBit 0
def Pte.leaf (e : Pte) : Bool := e.raw.testBit 1
def Pte.r (e : Pte) : Bool := e.raw.testBit 3
def Pte.w (e : Pte) : Bool := e.raw.testBit 4
def Pte.x (e : Pte) : Bool := e.raw.testBit 5
def Pte.a (e : Pte) : Bool := e.raw.testBit 6
def Pte.d (e : Pte) : Bool := e.raw.testBit 7
/-- Bits 51..8, as an address. -/
def Pte.addr (e : Pte) : Nat := e.raw / 256 % 2 ^ 44 * 256

/-- R27: the lowest index bit of a level; level 4 is the stage-1 root. -/
def levelShift : Nat → Nat
  | 0 => 16 | 1 => 21 | 2 => 30 | 3 => 39 | _ => 48

/-- R27: the alignment of the table that a pointer at this level names. -/
def nextAlign : Nat → Nat
  | 1 => 256
  | _ => 4096

/-- R27: index of an address at a level. -/
def levelIndex (lv a : Nat) : Nat :=
  a / 2 ^ levelShift lv % (match lv with | 0 => 32 | 4 => 16 | _ => 512)

/-- R29. -/
def Pte.malformed (e : Pte) (stage1 : Bool) (lv : Nat) : Bool :=
  e.raw / 2 ^ 60 != 0 || e.raw.testBit 2 || (e.leaf && decide (3 ≤ lv)) || (!e.leaf && lv == 0)
    || (e.leaf && decide (e.addr % 2 ^ levelShift lv ≠ 0)) || (!e.leaf && decide (e.addr % nextAlign lv ≠ 0))
    || (stage1 && decide (2 ^ 48 ≤ e.addr))

/-- R33, R34: the DPA's class and range are valid. -/
def dpaOk (a : Nat) : Bool :=
  match a / 2 ^ 50 % 4 with
  | 0 => decide (a % 2 ^ 50 < Config.localEnd)
  | 3 => false
  | _ => true

def isLocal (a : Nat) : Bool := a / 2 ^ 50 % 4 == 0

/-- R34, R35, R485: the checks of a final or table DPA reached from a PPA, for an access of code `acc`. The owner map is
read for it; where its line is lost the walk has met a poisoned table (log 16). -/
def State.dpaCheck (s : State) (part a acc ppa : Nat) : Option Flt :=
  if !dpaOk a then some { code := .prot, kind := 8, acc := acc, ppa := ppa }
  else if !isLocal a then none
  else if s.resLost (ownBase + parcelOf a) then some { code := .pois, acc := 4 }
  else if s.ownerOf (parcelOf a) != part then some { code := .prot, kind := 6, acc := acc, ppa := ppa }
  else none

/-! ## TLBs (R36) -/

def Tlb.hits (t : Tlb) (part asid va : Nat) : Bool := !t.st2 && !t.ats && t.part == part && t.asid == asid && t.va == va / 2 ^ t.log2

/-- The DPA of an address under a translation. -/
def Tlb.at_ (t : Tlb) (va : Nat) : Nat := t.dpa + va % 2 ^ t.log2

/-- Put a translation into a table of which at most `cap` entries may lie in its set; which entry leaves a full set is
not stated (log 4). -/
def tlbPut (cap victim : Nat) (inSet : Tlb → Bool) (ts : List Tlb) (t : Tlb) : List Tlb :=
  let ts' := ts.filter fun x => !(x.part == t.part && x.asid == t.asid && x.va == t.va && x.log2 == t.log2 && x.st2 == t.st2 && x.ats == t.ats && x.vf == t.vf)
  let full := ts'.filter inSet
  (if full.length < cap then ts' else match full[victim % cap]? with | some v => ts'.erase v | none => ts') ++ [t]

/-- R36: a translation enters the L2 TLB of a die: 2,048 sets of 8 ways, chosen by the low bits of the page number (log 66). -/
def State.tlbFillDie (s : State) (d : Nat) (t : Tlb) : State :=
  let s1 := s.updDie d fun x => { x with l2tlb := tlbPut 8 (Config.tlbVictim s.draw) (fun y => y.va % 2048 == t.va % 2048) x.l2tlb t }
  { s1 with draw := s.draw + 1 }

/-! ## The host's ATS (R40) -/

/-- The ASID under which ATS is asked for an address of no process (log 65). -/
def noAsid : Nat := 65536

/-- R40: the answer of the host's ATS that a die's L2 TLB holds for a function and a host address. -/
def State.atsFind (s : State) (d vf asid io : Nat) : Option Tlb :=
  (s.dieOf d).l2tlb.find? fun t => t.ats && t.vf == vf && t.asid == asid && t.va == io / 2 ^ t.log2

/-- R40: a Translation Request for a page, once until it is answered; the die takes the answer. -/
def State.askAts (s : State) (d vf asid page : Nat) : State :=
  let v := s.vdevOf vf
  if v.atsAsked.contains (d, asid, page) then s
  else
    let s1 := s.updVdev vf fun v => { v with atsAsked := v.atsAsked ++ [(d, asid, page)] }
    if v.atsAsked.any fun x => x.2 == (asid, page) then s1
    else { s1 with out := s1.out ++ [.atsReq vf asid page (Config.pasid vf asid)] }

/-- R40: an address that the host has no say in: its own translation, of the whole of its class. -/
def idXl (a : Nat) : Tlb :=
  { part := 0, asid := 0, va := 0, log2 := 50, dpa := a - a % 2 ^ 50, r1 := true, w1 := true, x1 := true, r2 := true, w2 := true
    x2 := true, d := true }

/-- R33, R40: what ATS says of a DPA reached for a function's process: the address, with the size and the permissions. Addresses
of other classes are not the host's to translate. -/
def State.hostXl (s : State) (d vf asid a acc : Nat) : State × Except NoWalk Tlb :=
  let io := a % 2 ^ 50
  if a / 2 ^ 50 % 4 ≠ 1 then (s, .ok (idXl a))
  else if (s.vdevOf vf).atsNo.contains (asid, io / 4096) then
    (s.updVdev vf fun v => { v with atsNo := v.atsNo.erase (asid, io / 4096) },
      .error (.fault { code := .pf, kind := 2, acc := acc, ppa := io }))
  else match s.atsFind d vf asid io with
    | some t => (s, .ok t)
    | none => (s.askAts d vf asid (io / 4096), .error .ats)

/-! ## Tables (R26, R27, R30) -/

/-- R30, R33, R35: read 8 bytes of a table at a DPA, as class-2 traffic, once its line admits the read. -/
def State.tableRead (s : State) (d part asid vf a ppa : Nat) : State × Except NoWalk Nat :=
  match s.dpaCheck part a 4 ppa with
  | some f => (s, .error (.fault f))
  | none =>
    if isLocal a then
      if s.blocked (a / 128) noTeam 0 then (s, .error .held)
      else match s.readDpa d a 8 vf 2 with
        | (s1, some v) => (s1, .ok v)
        | (s1, none) => (s1, .error (.fault { code := .pois, acc := 4 }))
    else match s.hostXl d vf asid a 4 with
      | (s1, .error e) => (s1, .error e)
      | (s1, .ok x) =>
        if x.r2 then (match s1.outRead (.walk d part asid) (x.at_ a) 8 with
          | (s2, .ok v) => (s2, .ok v)
          | (s2, .fault) => (s2, .error (.fault { code := .pois, acc := 4 }))
          | (s2, .wait) => (s2, .error .held)) else (s1, .error (.fault { code := .prot, kind := 4, acc := 4, ppa := ppa }))

/-- R36: the walk cache's entry at an address. -/
def State.pdeFind (s : State) (d part asid : Nat) (st2 : Bool) (lv a : Nat) : Option Nat :=
  ((s.dieOf d).wcache.find? fun x => x.part == part && x.asid == asid && x.st2 == st2 && x.lv == lv && x.addr == a).map fun x => x.raw

/-- R36: a non-leaf entry enters the walk cache of 256 entries; which leaves a full one is not stated (log 4). -/
def State.pdeFill (s : State) (d : Nat) (x : Pde) : State :=
  let s1 := s.updDie d fun y => { y with
    wcache := (if y.wcache.length < 256 then y.wcache else y.wcache.eraseIdx (Config.tlbVictim s.draw % 256)) ++ [x] }
  { s1 with draw := s.draw + 1 }

/-- A mapping found by a stage: the page's base, log2 of its size, its permissions. -/
structure Leaf where
  base : Nat
  log2 : Nat
  r : Bool
  w : Bool
  x : Bool
  /-- Stage 1: the leaf's own address in memory, its content, A and D. -/
  at_ : Nat := 0
  raw : Nat := 0
  a : Bool := true
  d : Bool := true
deriving DecidableEq, Repr

/-- R27: what an entry of a stage-2 table says: the next table, or the leaf. -/
def Pte.step2 (e : Pte) (lv ppa acc : Nat) : Except NoWalk (Nat ⊕ Leaf) :=
  if !e.v then .error (.fault { code := .pf, kind := 1, acc := acc, ppa := ppa })
  else if e.malformed false lv then .error (.fault { code := .prot, kind := 5, acc := acc })
  else if e.leaf then .ok (.inr { base := e.addr, log2 := levelShift lv, r := e.r, w := e.w, x := e.x })
  else .ok (.inl e.addr)

/-- R27, R36: a stage-2 walk from level `lv` with the table at DPA `t`. -/
def State.s2From (s : State) (d part asid vf ppa acc : Nat) : Nat → Nat → State × Except NoWalk Leaf
  | lv, t =>
    let q := t + 8 * levelIndex lv ppa
    let known := s.pdeFind d part asid true lv q
    match (match known with | some v => (s, .ok v) | none => s.tableRead d part asid vf q ppa : State × Except NoWalk Nat) with
    | (s1, .error e) => (s1, .error e)
    | (s1, .ok v) =>
      match Pte.step2 { raw := v } lv ppa acc with
      | .error e => (s1, .error e)
      | .ok (.inr l) => (s1, .ok l)
      | .ok (.inl a) =>
        let s2 := if known.isSome then s1 else s1.pdeFill d { part := part, asid := asid, st2 := true, lv := lv, addr := q, raw := v }
        match lv with
        | 0 => (s2, .error (.fault { code := .prot, kind := 5, acc := acc }))
        | l + 1 => State.s2From s2 d part asid vf ppa acc l a

/-- R26, R27: stage 2 of a partition. -/
def State.stage2 (s : State) (d part asid vf ppa acc : Nat) : State × Except NoWalk Leaf :=
  s.s2From d part asid vf ppa acc 3 (s.partOf part).s2root.toNat

/-- The DPA of an address under a leaf. -/
def Leaf.dpa (l : Leaf) (a : Nat) : Nat := l.base + a % 2 ^ l.log2

/-- R36: a translation enters the L2 TLB of the die and, for a core, its L1 TLB. -/
def State.tlbFill (s : State) (core : Nat) (t : Tlb) : State :=
  let s1 := s.tlbFillDie (core / 64) t
  let s2 := s1.updCore core fun c => { c with tlb := tlbPut 128 (Config.tlbVictim s1.draw) (fun _ => true) c.tlb t }
  { s2 with draw := s1.draw + 1 }

/-- R30, R36: stage 2 of a table address, from the L2 TLB where it stands there. -/
def State.tableXl (s : State) (d part asid vf ppa acc : Nat) : State × Except NoWalk Leaf :=
  match (s.dieOf d).l2tlb.find? fun t => t.st2 && t.part == part && t.asid == asid && t.va == ppa / 2 ^ t.log2 with
  | some t => (s, .ok { base := t.dpa, log2 := t.log2, r := t.r2, w := t.w2, x := t.x2 })
  | none =>
    match s.stage2 d part asid vf ppa acc with
    | (s1, .error e) => (s1, .error e)
    | (s1, .ok l) =>
      (s1.tlbFillDie d { part := part, asid := asid, va := ppa / 2 ^ l.log2, log2 := l.log2, dpa := l.base, st2 := true
                         r1 := true, w1 := true, x1 := true, r2 := l.r, w2 := l.w, x2 := l.x, d := true }, .ok l)

/-- R30: read 8 bytes of a stage-1 table at a PPA: translated by stage 2, which must permit the read. Answers the DPA
read too. -/
def State.ppaRead (s : State) (d part asid vf ppa : Nat) : State × Except NoWalk (Nat × Nat) :=
  match s.tableXl d part asid vf ppa 4 with
  | (s1, .error e) => (s1, .error e)
  | (s1, .ok l) =>
    if !l.r then (s1, .error (.fault { code := .prot, kind := 4, acc := 4, ppa := ppa }))
    else match s1.tableRead d part asid vf (l.dpa ppa) ppa with
      | (s2, .error e) => (s2, .error e)
      | (s2, .ok v) => (s2, .ok (l.dpa ppa, v))

/-- R27, R36: a stage-1 walk from level `lv` with the table at PPA `t`: the leaf and the PPA at which it stands. -/
def State.s1From (s : State) (d part asid vf va acc : Nat) : Nat → Nat → State × Except NoWalk (Leaf × Nat)
  | lv, t =>
    let p := t + 8 * levelIndex lv va
    let known := s.pdeFind d part asid false lv p
    match (match known with | some v => (s, .ok (0, v)) | none => s.ppaRead d part asid vf p : State × Except NoWalk (Nat × Nat)) with
    | (s1, .error e) => (s1, .error e)
    | (s1, .ok (q, v)) =>
      let e : Pte := { raw := v }
      if !e.v then (s1, .error (.fault { code := .pf, kind := 0, acc := acc }))
      else if e.malformed true lv then (s1, .error (.fault { code := .prot, kind := 5, acc := acc }))
      else if e.leaf then
        (s1, .ok ({ base := e.addr, log2 := levelShift lv, r := e.r, w := e.w, x := e.x, at_ := q, raw := v, a := e.a, d := e.d }, p))
      else
        let s2 := if known.isSome then s1 else s1.pdeFill d { part := part, asid := asid, st2 := false, lv := lv, addr := p, raw := v }
        match lv with
        | 0 => (s2, .error (.fault { code := .prot, kind := 5, acc := acc }))
        | l + 1 => State.s1From s2 d part asid vf va acc l e.addr

/-- R26: the stage-1 root of an ASID, from the partition's process table. -/
def State.s1Root (s : State) (d part asid vf acc : Nat) : State × Except NoWalk Nat :=
  if (s.partOf part).nasid ≤ asid then (s, .error (.fault { code := .pf, kind := 0, acc := acc }))
  else
    let p := (s.partOf part).pctx.toNat + 16 * asid
    match s.ppaRead d part asid vf p with
    | (s1, .error e) => (s1, .error e)
    | (s1, .ok (_, lo)) =>
      match s1.ppaRead d part asid vf (p + 8) with
      | (s2, .error e) => (s2, .error e)
      | (s2, .ok (_, hi)) =>
        if lo % 2 = 0 then (s2, .error (.fault { code := .pf, kind := 0, acc := acc }))
        else if hi ≠ 0 ∨ lo / 2 % 64 ≠ 0 ∨ 2 ^ 48 ≤ lo then (s2, .error (.fault { code := .prot, kind := 5, acc := acc }))
        else (s2, .ok (lo - lo % 2))

/-- What an access needs (R30). -/
def Acc.needs (a : Acc) (r w x : Bool) : Bool :=
  match a with
  | .read => r | .write => w | .atomic => r && w | .fetch => x | .walk => r | .ad => r && w | .txWrite => r && w

/-- R31: the accesses that need D. -/
def Acc.writes : Acc → Bool
  | .write => true | .atomic => true | .txWrite => true | _ => false

/-- R31: set A, or A and D, in a stage-1 leaf at its home slice, as stage 2 permits, once its line admits the update. The
compare never fails: nothing comes between the read of the leaf and this step. -/
def State.setAD (s : State) (d part asid vf : Nat) (l : Leaf) (p : Nat) (dirty : Bool) : State × Except NoWalk Unit :=
  match s.tableXl d part asid vf p 5 with
  | (s1, .error e) => (s1, .error e)
  | (s1, .ok m) =>
    let refuse : NoWalk := .fault { code := .prot, kind := 4, acc := 5, ppa := p }
    let v := l.raw ||| 0x40 ||| (if dirty then 0x80 else 0)
    if !(m.r && m.w) then (s1, .error refuse)
    else if isLocal l.at_ then
      if s1.blocked (l.at_ / 128) noTeam 0 then (s1, .error .held)
      else match s1.readHome l.at_ 8 vf 2 2 with
        | (s2, none) => (s2, .error (.fault { code := .pois, acc := 5 }))
        | (s2, some _) => (s2.writeHome l.at_ 8 v vf 2 2 noTeam 0, .ok ())
    else match s1.hostXl d vf asid l.at_ 5 with
      | (s2, .error e) => (s2, .error e)
      | (s2, .ok x) => if x.r2 && x.w2 then (match s2.outWrite (.walk d part asid) (x.at_ l.at_) 8 v with
          | (s3, .ok _) => (s3, .ok ())
          | (s3, .fault) => (s3, .error (.fault { code := .pois, acc := 5 }))
          | (s3, .wait) => (s3, .error .held)) else (s2, .error refuse)

/-! ## Walks -/

/-- What a walk is for: an access; a MEMLOC query, which sets neither A nor D (R31); a prefetch, which sets neither and is
dropped at a leaf with A = 0. -/
inductive WalkFor where
  | access | query | prefetch
deriving DecidableEq, Repr

/-- What a walk comes to. -/
inductive Xl where
  | ok (t : Tlb)
  | fault (f : Flt)
  /-- R75, R213: a line of the tables is held. -/
  | held
  /-- R40: the host's ATS has been asked. -/
  | ats
deriving DecidableEq, Repr

def NoWalk.xl : NoWalk → Xl
  | .fault f => .fault f | .held => .held | .ats => .ats

/-- R31: A, or A and D, of the leaf that a walk has reached. -/
def State.leafReached (s : State) (d part asid vf : Nat) (acc : Acc) (why : WalkFor) (l : Leaf) (p : Nat) : State × Except NoWalk Unit :=
  match why with
  | .query => (s, .ok ())
  | .prefetch => (s, if l.a then .ok () else .error (.fault { code := .prot }))
  | .access => if l.a && (l.d || !acc.writes) then (s, .ok ()) else s.setAD d part asid vf l p (acc.writes || l.d)

/-- R26, R30 to R35, R40: the final PPA of a walk through stage 2 and its checks. The class and owner of the DPA decide
before the permissions, which the translation carries (log 67). A query and a prefetch ask no ATS: a host address is no local
memory (R88, R335). -/
def State.finalXl (s : State) (d part asid vf va : Nat) (acc : Acc) (why : WalkFor) (l1 : Leaf) : State × Except NoWalk Tlb :=
  let ppa := l1.dpa va
  match s.stage2 d part asid vf ppa acc.code with
  | (s1, .error e) => (s1, .error e)
  | (s1, .ok l2) =>
    let a := l2.dpa ppa
    match s1.dpaCheck part a acc.code ppa with
    | some f => (s1, .error (.fault f))
    | none =>
      match (if why ≠ .access then (s1, .ok (idXl a)) else s1.hostXl d vf asid a acc.code : State × Except NoWalk Tlb) with
      | (s2, .error e) => (s2, .error e)
      | (s2, .ok x) =>
        let n := min x.log2 (min l1.log2 l2.log2)
        (s2, .ok { part := part, asid := asid, va := va / 2 ^ n, log2 := n, dpa := x.at_ a - x.at_ a % 2 ^ n
                   r1 := l1.r, w1 := l1.w, x1 := l1.x, r2 := l2.r && x.r2, w2 := l2.w && x.w2, x2 := l2.x && x.r2
                   d := l1.d || acc.writes, io := if a / 2 ^ 50 % 4 = 1 then a % 2 ^ 50 - a % 2 ^ n else 0 })

/-- A walk that has ended keeps nothing that it read of a peer; one that waits does. -/
def State.walkEnd {α : Type} (d part asid : Nat) (r : State × Except NoWalk α) : State × Except NoWalk α :=
  match r with
  | (s, .error .held) => (s, .error .held)
  | (s, .error .ats) => (s, .error .ats)
  | (s, x) => (s.farDone (.walk d part asid), x)

/-- R485: no TLB or walk-cache entry stays of a walk that met a poisoned line. -/
def State.unfilled {α : Type} (s : State) (d part asid : Nat) (r : State × Except NoWalk α) : State × Except NoWalk α :=
  State.walkEnd d part asid (match r with
    | (s1, .error (.fault f)) =>
      (if f.code = .pois then s1.updDie d fun x => { x with l2tlb := (s.dieOf d).l2tlb, wcache := (s.dieOf d).wcache } else s1, .error (.fault f))
    | r => r)

/-- R26 to R35, R40: walk both stages for an access. -/
def State.walk (s : State) (d part asid vf va : Nat) (acc : Acc) (why : WalkFor) : State × Xl :=
  let r := s.unfilled d part asid (match s.s1Root d part asid vf acc.code with
    | (s1, .error e) => (s1, .error e)
    | (s1, .ok root) =>
      match s1.s1From d part asid vf va acc.code 4 root with
      | (s2, .error e) => (s2, .error e)
      | (s2, .ok (l1, p)) =>
        match s2.leafReached d part asid vf acc why l1 p with
        | (s3, .error e) => (s3, .error e)
        | (s3, .ok _) => s3.finalXl d part asid vf va acc why l1)
  (r.1, match r.2 with | .ok t => .ok t | .error e => e.xl)

/-- R29, R30, R34, R35, R40: a PPA of a partition translated by its stage 2 for an agent that is no process: the trap queue,
a ring, an inbound request. -/
def State.ppaXl (s : State) (d part vf ppa : Nat) (acc : Acc) : State × Except NoWalk Nat :=
  let refuse := fun (k : Nat) => NoWalk.fault { code := .prot, kind := k, acc := acc.code, ppa := ppa }
  s.unfilled d part noAsid (match s.stage2 d part noAsid vf ppa acc.code with
    | (s1, .error e) => (s1, .error e)
    | (s1, .ok l) =>
      if !acc.needs l.r l.w l.x then (s1, .error (refuse 4))
      else match s1.dpaCheck part (l.dpa ppa) acc.code ppa with
        | some f => (s1, .error (.fault f))
        | none =>
          match s1.hostXl d vf noAsid (l.dpa ppa) acc.code with
          | (s2, .error e) => (s2, .error e)
          | (s2, .ok x) => (s2, if acc.needs x.r2 x.w2 x.r2 then .ok (x.at_ (l.dpa ppa)) else .error (refuse 4)))

/-! ## Use of the translations (R36 to R38) -/

/-- R36: the translation of an address that a core finds in its L1 TLB or its die's L2 TLB. A write under a translation
without D walks again (R31). -/
def State.tlbFind (s : State) (core part asid va : Nat) (acc : Acc) : Option Tlb :=
  let p := fun (t : Tlb) => t.hits part asid va && (t.d || !acc.writes)
  match (s.coreOf core).tlb.find? p with
  | some t => some t
  | none => (s.dieOf (core / 64)).l2tlb.find? p

/-- R30, R32: the permissions of a translation. -/
def Tlb.check (t : Tlb) (acc : Acc) : Option Flt :=
  if !acc.needs t.r1 t.w1 t.x1 then some { code := .prot, kind := 3, acc := acc.code }
  else if !acc.needs t.r2 t.w2 t.x2 then some { code := .prot, kind := 4, acc := acc.code }
  else none

/-- A translation under its permissions. -/
def Tlb.checked (t : Tlb) (acc : Acc) : Xl := match t.check acc with | some f => .fault f | none => .ok t

/-- R37: walks of a die that stand on an engine, and those of one partition. -/
def Die.onEngine (d : Die) (p : Walk → Bool) : Nat := (d.walks.filter fun w => w.state != .queued && p w).length

/-- R37: an engine of the die is free for a walk of the partition: 64 on the die, 32 for a partition. -/
def State.engineFree (s : State) (d part : Nat) : Bool :=
  decide ((s.dieOf d).onEngine (fun _ => true) < 64) && decide ((s.dieOf d).onEngine (fun w => w.part == part) < 32)

/-- R37: a walk of the die that a miss for the page may still join. -/
def Walk.joins (w : Walk) (part asid va : Nat) : Bool :=
  w.part == part && w.asid == asid && w.va / 65536 == va / 65536 && decide (w.merged < 32)

/-- R37: the partition's share of a die's miss queue, or the queue, is full. -/
def Die.missFull (d : Die) (part : Nat) : Bool :=
  let q := d.walks.filter fun w => w.state == .queued
  decide (512 ≤ q.length) || decide (256 ≤ (q.filter fun w => w.part == part).length)

/-- R37: a miss joins a walk for its page, or starts its own; answers the walk's number, or 0 where the queue is full. -/
def State.queueWalk (s : State) (d : Nat) (v : Walk) : State × Nat :=
  let x := s.dieOf d
  let s1 := s.capture v.part 5 (x.walks.filter fun w => w.part == v.part).length
  match x.walks.find? fun w => w.joins v.part v.asid v.va with
  | some w =>
    (s1.updDie d fun y => { y with walks := y.walks.map fun u => if u.id = w.id then { u with merged := u.merged + 1, agents := u.agents ++ v.agents } else u }, w.id)
  | none =>
    if x.missFull v.part then (s, 0)
    else
      let w : Walk := { v with id := x.lastWalk + 1 }
      (s1.updDie d fun y => { y with walks := y.walks ++ [w], lastWalk := w.id }, w.id)

/-- R37: the miss of an agent that is no lane: it waits for its walk, and takes the fault that the walk comes to (log 68). -/
def State.walkFor (s : State) (d : Nat) (who : Asker) (part asid vf va : Nat) (acc : Acc) (core : Option Nat) : State × Xl :=
  let x := s.dieOf d
  match x.xlFails.find? fun f => f.who == who && f.part == part && f.asid == asid && f.page == va / 65536 with
  | some f =>
    (s.updDie d fun y => { y with xlFails := y.xlFails.erase f },
      .fault { code := f.code, kind := f.kind, acc := if f.acc = 4 ∨ f.acc = 5 then f.acc else acc.code, ppa := f.ppa })
  | none =>
    if x.walks.any fun w => w.part == part && w.asid == asid && w.va / 65536 == va / 65536 && w.agents.contains who then (s, .held)
    else ((s.queueWalk d { part := part, asid := asid, vf := vf, va := va, acc := acc, core := core, agents := [who] }).1, .held)

/-- The translation for a core's fetch or copy. -/
def State.translateNow (s : State) (who : Asker) (core part asid vf va : Nat) (acc : Acc) : State × Xl :=
  match s.tlbFind core part asid va acc with
  | some t => (s, t.checked acc)
  | none => s.walkFor (core / 64) who part asid vf va acc (some core)

/-- R36: the translation for an agent of a die that is no core: its L2 TLB, else a walk. -/
def State.translateDie (s : State) (who : Asker) (d part asid vf va : Nat) (acc : Acc) : State × Xl :=
  match (s.dieOf d).l2tlb.find? fun t => t.hits part asid va && (t.d || !acc.writes) with
  | some t => (s, t.checked acc)
  | none => s.walkFor d who part asid vf va acc none

/-! ## Windows (R14 to R25) -/

/-- R15: the levels of the virtual space. -/
inductive Level where
  | global | lanePriv | sp | cluster | chip | reserved | noncanon
deriving DecidableEq, Repr

def levelOf (va : Nat) : Level :=
  if 2 ^ 52 ≤ va then .noncanon
  else if va / 2 ^ 44 < 0xF0 then .global
  else match va / 2 ^ 44 with
    | 0xF0 => .lanePriv
    | 0xF1 => .sp
    | 0xF2 => .cluster
    | 0xF3 => .chip
    | _ => .reserved

def winOffset (va : Nat) : Nat := va % 2 ^ 44

/-- R22, R198: the team of rank `k` of a team's cluster launch; a team outside one has only its own rank. -/
def State.rankTeam (s : State) (u k : Nat) : Option Nat :=
  let t := s.teamOf u
  if !t.cl then (if k = t.rank then some u else none)
  else
    let v := t.clHead + k
    let w := s.teamOf v
    if k < 4 && w.cl && w.clHead == t.clHead && w.place != .absent then some v else none

/-- R24. -/
def privAddr (t : Team) (g lane o : Nat) : Nat :=
  (t.lpBase.toNat + (t.pslot * 1024 + g * 32) * (t.lpSize * 256) + o / 4 * 128 + lane * 4 + o % 4) % 2 ^ 64

/-- R18, R19 as the team holds them. -/
def Team.csSize (t : Team) : Nat := t.wincs.toNat / 2 ^ 16 % 1024
def Team.csBase (t : Team) : Nat := t.wincs.toNat % 512

/-- Where an access's bytes lie before translation. -/
inductive Spot where
  /-- Global virtual addresses with their byte counts: one, or one per word of a wide lane-private access. -/
  | global (ps : List (Nat × Nat))
  | sp (core byte : Nat)
  | cs (die byte : Nat)
  | bad (f : Flt)
deriving DecidableEq, Repr

/-- R14 to R24: the level and window checks of one lane's access of `n` bytes at `va`, after its alignment. -/
def State.spot (s : State) (u g lane va n : Nat) (acc : Acc) : Spot :=
  let t := s.teamOf u
  let o := winOffset va
  match levelOf va with
  | .noncanon => .bad { code := .prot, acc := acc.code }
  | .reserved => .bad { code := .prot, acc := acc.code }
  | .global => .global [(va, n)]
  | .lanePriv =>
    if t.lpSize * 256 ≤ o then .bad { code := .prot, acc := acc.code }
    else if acc = .atomic ∧ n = 8 then .bad { code := .prot, acc := acc.code }
    else if n ≤ 4 then .global [(privAddr t g lane o, n)]
    else .global ((List.range (n / 4)).map fun k => (privAddr t g lane (o + 4 * k), 4))
  | .sp => if o + n ≤ t.spSize * 256 then .sp t.core (t.spBase * 256 + o) else .bad { code := .spb, acc := acc.code }
  | .cluster =>
    let k := o / Config.spBytes
    let p := o % Config.spBytes
    if 4 ≤ k then .bad { code := .spb, acc := acc.code }
    else match s.rankTeam u k with
      | none => .bad { code := .spb, acc := acc.code }
      | some v =>
        let w := s.teamOf v
        if p + n ≤ w.spSize * 256 then .sp w.core (w.spBase * 256 + p) else .bad { code := .spb, acc := acc.code }
  | .chip =>
    let d := o / Config.csBytes
    let q := o % Config.csBytes
    if 3 ≤ d ∨ t.csSize * 65536 < q + n then .bad { code := .spb, acc := acc.code }
    else .cs d (t.csBase * 65536 + q)

/-- R145: whether a range lock of the core stops the access. -/
def Core.locked (c : Core) (byte n : Nat) (writes : Bool) : Bool :=
  c.locks.any fun l => (l.dest || writes) && decide (l.base < byte + n) && decide (byte < l.base + l.len)

end Sys2Proof.Machine
end

