-- ==== Sys2Proof/Machine/Ops.lean ====
section
/-! DEFINITION. The named operations of a running group: the run and its end, counters, records of the trap queue, taking
a trap and returning from one, the end of transactions, of teams and of graph nodes. -/

namespace Sys2Proof.Machine

/-- The outcome of a meaning. -/
abbrev Out1 := Host.Outcome State Fault Refusal

/-! ## The run (R200 to R203) -/

def State.run (s : State) : Run := Sparse.get {} s.runs s.site
def State.curTeam (s : State) : Team := s.teamOf s.run.uid
def State.curGroup (s : State) : Group := s.groupOf s.run.uid s.run.grp
def State.updCur (s : State) (f : Group → Group) : State := s.updGroup s.run.uid s.run.grp f
def State.curCore (s : State) : Nat := s.site / 4

/-- R200: the run of the site ends. -/
def State.endRun (s : State) : State := { s with runs := Sparse.set {} s.runs s.site {} }

/-- End whatever run a group has. -/
def State.endRunOf (s : State) (u g : Nat) : State :=
  { s with runs := s.runs.filter fun r => !(r.2.uid == u && r.2.grp == g) }

/-- R405: paths of a group other than those of `sl` are in the middle of a run. -/
def State.othersRun (s : State) (u g : Nat) (sl : BitVec 8) : Bool :=
  s.runs.any fun r => r.2.on && r.2.uid == u && r.2.grp == g && r.2.slices &&& ~~~sl != 0

/-- R405: the paths of `sl` stop, and the others of their run go on to its boundary. -/
def State.leaveRun (s : State) (u g : Nat) (sl : BitVec 8) : State :=
  { s with runs := s.runs.map fun r => if r.2.uid = u ∧ r.2.grp = g then (r.1, { r.2 with slices := r.2.slices &&& ~~~sl }) else r }

/-- Paths of a set of slices move to the next word. -/
def Group.stepPast (g : Group) (sl : BitVec 8) : Group :=
  { g with paths := g.paths.map fun p =>
      if p.slices &&& sl != 0 then { p with pc := p.pc + 4, exempt := false } else p }

/-- R200: count the instruction just issued; the run ends after one with bit 30 set and after the 24th. A run that a
trap, a branch or a suspension has ended stays ended. -/
def State.tally (s : State) (e : Bool) : State :=
  let r := s.run
  if !r.on then s
  else if e || decide (24 ≤ r.count + 1) then s.endRun
  else { s with runs := Sparse.set {} s.runs s.site { r with count := r.count + 1 } }

/-- The plain end of an instruction: every issuing path goes on at the next word. -/
def State.retire (s : State) (e : Bool) : State := (s.updCur fun g => g.stepPast s.run.slices).tally e

/-- The paths that issue, lowest slice first. -/
def Group.issuers (g : Group) (sl : BitVec 8) : List (BitVec 8) :=
  (sliceList sl).filterMap fun k =>
    match g.paths.find? fun p => p.slices.getLsbD k with
    | some p => if lowSlice p.slices = k then some p.slices else none
    | none => none

/-- R202: the next path of an issue set still issues: a path before it that was suspended has only ended the run (R200);
one that trapped has stopped it. -/
def State.goesOn (s old : State) : Bool :=
  (s.teamOf old.run.uid).place == old.curTeam.place && (s.groupOf old.run.uid old.run.grp).atTrap == old.curGroup.atTrap

/-- R202: the paths of an issue set stay distinct agents: `f` acts for each in turn, its slices moving on by themselves. -/
def State.eachPath (s : State) (f : BitVec 8 → State → State) : State :=
  (s.curGroup.issuers s.run.slices).foldl (fun t sl =>
    if t.run.on then f sl t
    else if t.goesOn s then (f sl { t with runs := Sparse.set {} t.runs t.site s.run }).endRun
    else t) s

/-- The path of a group that holds the slices. -/
def Group.pathOf (g : Group) (sl : BitVec 8) : Path :=
  (g.paths.find? fun p => p.slices &&& sl != 0).getD { slices := sl, pc := 0 }

def Group.updPath (g : Group) (sl : BitVec 8) (f : Path → Path) : Group :=
  { g with paths := g.paths.map fun p => if p.slices &&& sl != 0 then f p else p }

/-- Paths that issue now. -/
def State.pathCount (s : State) : Nat := (s.curGroup.issuers s.run.slices).length

/-- R406: the entries of the level at which the group runs. -/
def Group.queue (g : Group) : List RqEntry := if g.atTrap then g.trq else g.rq
def Group.setQueue (g : Group) (q : List RqEntry) : Group := if g.atTrap then { g with trq := q } else { g with rq := q }

/-- The entries of both levels; operation `op`'s, and whether it is one of program level; the entries of its level. -/
def Group.entries (g : Group) : List RqEntry := g.rq ++ g.trq
def Group.entry (g : Group) (op : Nat) : Option RqEntry := g.entries.find? fun x => x.op == op
def Group.prog (g : Group) (op : Nat) : Bool := g.rq.any fun x => x.op == op
def Group.levelOf (g : Group) (op : Nat) : List RqEntry := if g.prog op then g.rq else g.trq

/-- An entry is changed, or leaves. -/
def Group.put (g : Group) (x : RqEntry) : Group :=
  let on := fun (y : RqEntry) => if y.op = x.op then x else y
  { g with rq := g.rq.map on, trq := g.trq.map on }
def Group.remove (g : Group) (op : Nat) : Group :=
  { g with rq := g.rq.filter fun x => x.op != op, trq := g.trq.filter fun x => x.op != op }

/-- R406: `f` acts on a group for an operation of program level or of trap level, which name other registers. -/
def Group.at_ (g : Group) (trap : Bool) (f : Group → Group) : Group := { f { g with atTrap := trap } with atTrap := g.atTrap }
def Group.atOp (g : Group) (op : Nat) (f : Group → Group) : Group := g.at_ (g.atTrap && !g.prog op) f

/-! ## Counters (R207) -/

def Counters.get (c : Counters) : OpClass → List (Nat × Bool)
  | .ld => c.ld | .st => c.st | .cp => c.cp | .tl => c.tl

def Counters.put (c : Counters) (k : OpClass) (l : List (Nat × Bool)) : Counters :=
  match k with
  | .ld => { c with ld := l } | .st => { c with st := l } | .cp => { c with cp := l } | .tl => { c with tl := l }

/-- R207: operations issued minus the completed prefix; the list holds what lies beyond that prefix. -/
def Counters.value (c : Counters) (k : OpClass) : Nat := (c.get k).length

def Counters.issue (c : Counters) (k : OpClass) (op : Nat) : Counters := c.put k (c.get k ++ [(op, false)])

def Counters.complete (c : Counters) (k : OpClass) (op : Nat) : Counters :=
  c.put k (((c.get k).map fun x => if x.1 = op then (op, true) else x).dropWhile fun x => x.2)

/-- R406: the counters of the level at which the group runs. -/
def Group.counters (g : Group) : Counters := if g.atTrap then g.tctr else g.ctr

def Group.updCounters (g : Group) (f : Counters → Counters) : Group :=
  if g.atTrap then { g with tctr := f g.tctr } else { g with ctr := f g.ctr }

/-- An operation of either level completes. -/
def Group.completeOp (g : Group) (k : OpClass) (op : Nat) : Group :=
  { g with ctr := g.ctr.complete k op, tctr := g.tctr.complete k op }

/-- R207: `n` more operations would raise a counter above 62. -/
def Group.ctrFull (g : Group) (k : OpClass) (n : Nat) : Bool := decide (62 < g.counters.value k + n)

/-- R403: `n` more entries find no room in the queue of the group's level. -/
def Group.queueFull (g : Group) (n : Nat) : Bool :=
  decide ((if g.atTrap then Config.rqTrap else Config.rqProgram) < g.queue.length + n)

/-! ## Doomed transactions, registrations and locks -/

def Group.inTx (g : Group) : Bool := decide (0 < g.tx.depth)

/-- R214: a registered line has been written since. -/
def State.doomed (s : State) (u g : Nat) : Bool := s.regs.any fun r => r.uid == u && r.grp == g && r.hit

def State.dropLocks (s : State) (u g : Nat) : State :=
  { s with wlocks := s.wlocks.filter fun w => !(w.uid == u && w.grp == g) }

/-! ## Interrupt vectors (R428) -/

/-- A vector fires: its message goes out, or, masked, vector 0 stays pending; vector 1 fires only while unmasked. -/
def State.fireMsix (s : State) (fn vec : Nat) : State :=
  if !(s.vdevOf fn).msixMask.getLsbD vec then { s with out := s.out ++ [.msix fn vec] }
  else if vec = 0 then s.updVdev fn fun v => { v with msix := v.msix ||| 1#2 }
  else s

/-- The host writes a vector's mask bit; a pending vector that is unmasked fires. -/
def State.maskMsix (s : State) (fn vec : Nat) (mask : Bool) : State :=
  let b : BitVec 2 := 1#2 <<< vec
  let v := s.vdevOf fn
  if mask then s.updVdev fn fun v => { v with msixMask := v.msixMask ||| b }
  else
    let s1 := s.updVdev fn fun v => { v with msixMask := v.msixMask &&& ~~~b, msix := v.msix &&& ~~~b }
    if v.msix &&& b != 0 then { s1 with out := s1.out ++ [.msix fn vec] } else s1

/-- R394, R396: a partition has a cluster: its own and not lent, or on loan to it. -/
def Part.has (p : Part) (cl : Nat) : Bool := (p.homecl.getLsbD cl && !p.lent.getLsbD cl) || p.borrowed.getLsbD cl

/-! ## The trap queue (R45 to R51) -/

/-- R49: the sixteen words of a record. -/
def TrapRec.words (r : TrapRec) (ph : Bool) : List Word :=
  let hi := fun (x : DWord) => (x >>> 32).setWidth 32
  let lo := fun (x : DWord) => x.setWidth 32
  let n := BitVec.ofNat 32
  [ n ((if ph then 2 ^ 31 else 0) + (if r.fatal then 2 ^ 30 else 0) + r.code * 2 ^ 24 + r.kind * 2 ^ 20 + r.acc * 2 ^ 17 + r.part * 2 ^ 11),
    n (r.asid * 65536 + r.vf), lo r.va, hi r.va, lo r.ppa, hi r.ppa, r.ident, lo r.pc, hi r.pc, r.lanes,
    n r.seq, n (r.seq / 2 ^ 32), n r.time, n (r.time / 2 ^ 32), n (r.peer * 2 ^ 29 + r.tag), 0 ]

/-- Words in memory order as one number. -/
def wordsNat (ws : List Word) : Nat := ws.foldr (fun w n => w.toNat + 2 ^ 32 * n) 0

/-- R49 words 4 and 5: the PPA is recorded for kinds 1, 4, 6 and 8 only. -/
def recPpa (kind ppa : Nat) : DWord := if kind = 1 ∨ kind = 4 ∨ kind = 6 ∨ kind = 8 then BitVec.ofNat 64 ppa else 0

/-- What becomes of a record. -/
inductive Posted where
  | posted | failed | stalled
deriving DecidableEq, Repr

/-- R45: free entries of the ring. -/
def Part.tqFree (p : Part) : Nat := 2 ^ p.tqLog2 - (p.tqTail - p.tqHead).toNat

/-- R47, R48: a fatal record is lost. -/
def Part.loseFatal (p : Part) : Part := { p with tqFovf := true, tqLost := min (p.tqLost + 1) 0xFFFF }

/-- A write of the device to a ring slot at a PPA of a partition (trap queue, trace): done; refused by stage 2, the owner
or the host's ATS; or waiting for a held line or for ATS. -/
def State.slotWrite (s : State) (part ppa n v : Nat) : State × Posted :=
  match s.ppaXl 0 part 127 ppa .write with
  | (s1, .error (.fault _)) => (s1, .failed)
  | (s1, .error _) => (s1, .stalled)
  | (s1, .ok a) =>
    if !isLocal a then (match s1.outWrite (.ring part) a n v with
      | (s2, .ok _) => (s2, .posted)
      | (s2, .fault) => (s2, .failed)
      | (s2, .wait) => (s2, .stalled))
    else if s1.blocked (a / 128) noTeam 0 then (s1, .stalled)
    else (s1.writeHome a n v 127 3 1 noTeam 0, .posted)

/-- R47: write a record to its slot. -/
def State.writeRecord (s : State) (r : TrapRec) : State × Posted :=
  let p := s.partOf r.part
  let idx := p.tqTail.toNat
  let r' := { r with seq := p.seq, time := s.clock.toNat }
  match s.slotWrite r.part (p.tqBase.toNat + 64 * (idx % 2 ^ p.tqLog2)) 64 (wordsNat (r'.words (idx.testBit p.tqLog2))) with
  | (s1, .posted) =>
    let s2 := (s1.capture r.part 4 p.tqFree).updPart r.part fun x => { x with
      tqTail := x.tqTail + 1, seq := x.seq + 1, tqPosted := if r.fatal then x.tqPosted else x.tqPosted ++ [r'] }
    ((List.range 96).foldl (fun s v => if p.vfmask.getLsbD v then s.fireMsix v 1 else s) s2, .posted)
  | (s1, .failed) => (s1.updPart r.part fun x => { x with tqRingf := true }, .failed)
  | (s1, .stalled) => (s1, .stalled)

/-- R47: post a record, or lose, discard or hold it. Records whose slot has to wait keep their order and count as posted
against the free entries (log 69). -/
def State.postRecord (s : State) (r : TrapRec) : State × Posted :=
  let p := s.partOf r.part
  let lose := fun (s : State) => if r.fatal then s.updPart r.part Part.loseFatal else s
  let room := p.tqFree - p.tqWait.length
  if !p.tqEn || (r.fatal && room == 0) then (lose s, .failed)
  else if !r.fatal && decide (room ≤ 2) then (s.updPart r.part fun x => { x with tqStalled := x.tqStalled ++ [r] }, .stalled)
  else
    let later := fun (s : State) => (s.updPart r.part fun x => { x with tqWait := x.tqWait ++ [r] }, Posted.stalled)
    if !p.tqWait.isEmpty then later s
    else match s.writeRecord r with
      | (s1, .posted) => (s1, .posted)
      | (s1, .failed) => (lose s1, .failed)
      | (s1, .stalled) => later s1

/-- A fresh replay tag of a partition (R49 word 14), 1 to 65,535. -/
def State.newTag (s : State) (part : Nat) : State × Nat :=
  let t := (s.partOf part).tag % 65535 + 1
  (s.updPart part fun p => { p with tag := t }, t)

/-- R49 word 6: the identity of a group. -/
def identWord (t : Team) (g : Nat) (sl : BitVec 8) : Word :=
  BitVec.ofNat 32 (t.core / 64 * 2 ^ 30 + t.core % 64 * 2 ^ 24 + t.slot * 2 ^ 21 + g * 2 ^ 16 + sl.toNat * 256)

/-! ## The trace ring (R470, R471) -/

/-- R471: what a trace record says. -/
structure TraceRec where
  kind   : Nat
  reason : Nat := 0
  code   : Nat := 0
  ident  : Word := 0
  pc     : DWord := 0
  act    : Word := 0
  parted : Bool := false
  blame  : DWord := 0
  spc    : List Word := []

def Part.trLog2 (p : Part) : Nat := p.trCtl.toNat / 2 ^ 26 % 32
def Part.trFree (p : Part) : Nat := 2 ^ p.trLog2 - (p.trTail - p.trHead).toNat

/-- R471: the 32 words of a record. -/
def TraceRec.words (r : TraceRec) (part : Nat) (ph : Bool) (time : DWord) : List Word :=
  let hi := fun (x : DWord) => (x >>> 32).setWidth 32
  let lo := fun (x : DWord) => x.setWidth 32
  [ BitVec.ofNat 32 (r.kind * 2 ^ 28 + r.reason * 2 ^ 24 + r.code * 2 ^ 16 + part * 2 ^ 11 + (if r.parted then 2 ^ 10 else 0) + (if ph then 2 ^ 9 else 0)),
    r.ident, lo r.pc, hi r.pc, r.act, 0, lo r.blame, hi r.blame, lo time, hi time ]
  ++ (List.range 8).map (fun k => if r.parted then r.spc.getD k 0 else 0) ++ List.replicate 14 0

/-- R470: the oldest trace record that waits is written where its slot admits it; a slot that cannot be written drops it. -/
def State.flushTrace (s : State) (part : Nat) : State :=
  let p := s.partOf part
  let idx := p.trTail.toNat
  match p.trWait with
  | [] => s
  | v :: rest =>
    match s.slotWrite part (p.trBase.toNat + 128 * (idx % 2 ^ p.trLog2)) 128 (v + (if idx.testBit p.trLog2 then 2 ^ 9 else 0)) with
    | (s1, .posted) => s1.updPart part fun x => { x with trTail := x.trTail + 1, trWait := rest }
    | (s1, .failed) => s1.updPart part fun x => { x with trDrop := min (x.trDrop + 1) 0xFFFF, trWait := rest }
    | (s1, .stalled) => s1

/-- R470: a record is written where tracing of its kind is on and the ring has room; else it is dropped and counted. A
record whose slot cannot be written counts as dropped; one whose slot has to wait waits (log 69). -/
def State.writeTrace (s : State) (part : Nat) (r : TraceRec) : State :=
  let p := s.partOf part
  if !p.trCtl.getLsbD 31 || !p.trCtl.getLsbD (8 + r.kind) then s
  else if p.trFree ≤ p.trWait.length then s.updPart part fun p => { p with trDrop := min (p.trDrop + 1) 0xFFFF }
  else
    let s1 := s.updPart part fun x => { x with trWait := x.trWait ++ [wordsNat (r.words part false s.clock)] }
    if p.trWait.isEmpty then s1.flushTrace part else s1

/-- R471: a record about a path of a group. -/
def Team.traceRec (t : Team) (g : Nat) (sl : BitVec 8) (kind reason code : Nat) (pc blame : DWord) : TraceRec :=
  let x := t.group g
  { kind := kind, reason := reason, code := code, ident := identWord t g sl, pc := pc, act := x.liveLanes sl
    parted := decide (1 < x.paths.length), blame := blame
    spc := (List.range 8).map fun k => if x.live.getLsbD k then (x.pathOf (1#8 <<< k)).pc.setWidth 32 else 0 }

/-! ## Queues and graphs (R381, R385, R389 to R392) -/

def State.queueOf (s : State) (fn q : Nat) : Queue := Sparse.get {} (s.vdevOf fn).queues q
def State.updQueue (s : State) (fn q : Nat) (f : Queue → Queue) : State :=
  s.updVdev fn fun v => { v with queues := Sparse.upd {} v.queues q f }

/-- R385: the queue halts with the first cause; vector 0 fires (R428). -/
def State.haltQueue (s : State) (fn q err : Nat) : State :=
  if (s.queueOf fn q).halt then s
  else (s.updQueue fn q fun x => { x with halt := true, err := err }).fireMsix fn 0

def State.launchOf (s : State) (id : Nat) : Option Launch := Sparse.get none s.launches id

def State.updLaunch (s : State) (id : Nat) (f : Launch → Launch) : State :=
  { s with launches := Sparse.upd none s.launches id fun l => l.map f }

def Node.teams (n : Node) : Nat := n.x * n.y * n.z
def Node.groups (n : Node) : Nat := (n.lanes + 31) / 32

def Launch.updNode (l : Launch) (k : Nat) (f : Node → Node) : Launch :=
  { l with nodes := l.nodes.mapIdx fun i n => if i = k then f n else n }

/-- R391: the edges of one kind of a node decrement their successors. -/
def Launch.fire (l : Launch) (k : Nat) (early : Bool) : Launch :=
  ((l.nodes.getD k {}).succ.filter fun e => e.1 == early).foldl (fun l e => l.updNode e.2 fun n => { n with c := n.c - 1 }) l

/-- R382, R40: a DPA that the physical function names: local, or the host's through ATS. -/
def State.pfAddr (s : State) (a : Nat) (acc : Acc) : State × Fe Nat :=
  if !dpaOk a then (s, .fault)
  else match s.hostXl 0 127 noAsid a acc.code with
    | (s1, .ok x) => (s1, if acc.needs x.r2 x.w2 x.r2 then .ok (x.at_ a) else .fault)
    | (s1, .error (.fault _)) => (s1, .fault)
    | (s1, .error _) => (s1, .wait)

/-- R382: where an operand address of a function's command lies: a DPA for the physical function, else through the
queue's process. -/
def State.feAddr (s : State) (part asid fn va : Nat) (acc : Acc) : State × Fe Nat :=
  if fn = 127 then s.pfAddr va acc
  else match s.translateDie (.front fn) 0 part asid fn va acc with
    | (s1, .ok t) => (s1, .ok (t.at_ va))
    | (s1, .fault _) => (s1, .fault)
    | (s1, _) => (s1, .wait)

/-- `n` bytes of one line at a DPA, read by the front end (class 3). -/
def State.feLine (s : State) (fn a n : Nat) : State × Fe Nat :=
  if isLocal a then
    if s.blocked (a / 128) noTeam 0 then (s, .wait)
    else match s.readDpa 0 a n fn 3 with
      | (s1, none) => (s1, .fault)
      | (s1, some v) => (s1, .ok v)
  else s.outRead (.front fn) a n

/-- Front-end reads in 16-byte pieces, lowest byte least significant. -/
def State.feRead (s : State) (part asid fn : Nat) : Nat → Nat → State × Fe Nat
  | _, 0 => (s, .ok 0)
  | va, n + 1 =>
    match s.feAddr part asid fn va .read with
    | (s1, .ok a) =>
      match s1.feLine fn a 16 with
      | (s2, .ok v) =>
        match State.feRead s2 part asid fn (va + 16) n with
        | (s3, .ok w) => (s3, .ok (v + 2 ^ 128 * w))
        | r => r
      | r => r
    | r => r

/-- R389, R391: the arguments of a node that has started are read, once; where they cannot be, its launch is abandoned. -/
def State.readArgs (s : State) (id k : Nat) : State :=
  match s.launchOf id with
  | none => s
  | some l =>
    let n := l.nodes.getD k {}
    match s.feRead l.part l.asid l.fn n.argsAt.toNat n.argLen with
    | (s1, .ok v) => (s1.updLaunch id fun l => l.updNode k fun n => { n with args := v, reading := false }).taken (.front l.fn)
    | (s1, .wait) => s1
    | (s1, .fault) => s1.updLaunch id fun l =>
        { l.updNode k (fun n => { n with done := true, reading := false }) with abandoned := true, argFault := true }

/-- R391: every node whose counter has reached 0 starts, lower index first. -/
def Launch.start (l : Launch) : Launch :=
  let new := (List.range l.nodes.length).filter fun k => !l.abandoned && !(l.nodes.getD k {}).started && (l.nodes.getD k {}).c == 0
  { l with
    nodes := l.nodes.mapIdx fun k n => if new.contains k then { n with started := true, reading := true } else n
    order := l.order ++ new }

/-- R389, R391: nodes start, and arguments that are still to be read are read. -/
def State.startNodes (s : State) (id : Nat) : State :=
  let s1 := s.updLaunch id Launch.start
  ((s1.launchOf id).elim [] fun l => (List.range l.nodes.length).filter fun k => (l.nodes.getD k {}).reading).foldl (fun s k => s.readArgs id k) s1

/-- R384, R385: an INDIRECT completes when its buffer has run and no command of it remains. -/
def Queue.closeInd (x : Queue) : Queue :=
  match x.busy.find? fun b => match b with
    | .indirect k _ 0 => !x.busy.any fun c => match c with | .launch _ i => i == k | .waiteq _ _ i _ => i == k | .indirect .. => false
    | _ => false with
  | some b => { x with busy := x.busy.erase b, cmpl := (x.cmpl + 1) % 65536 }
  | none => x

/-- R384: a command completes that belongs to INDIRECT `ind`, or, 0, stands in the ring. -/
def Queue.count (x : Queue) (ind : Nat) : Queue := if ind = 0 then { x with cmpl := (x.cmpl + 1) % 65536 } else x.closeInd

/-- A command that was in progress completes. -/
def Queue.complete (x : Queue) (p : CmdWait → Bool) : Queue :=
  match x.busy.find? p with
  | some (.launch i k) => ({ x with busy := x.busy.erase (.launch i k) } : Queue).count k
  | some (.waiteq a v k z) => ({ x with busy := x.busy.erase (.waiteq a v k z) } : Queue).count k
  | _ => x

/-- R392: a LAUNCH completes when every node has completed, or, abandoned, when the started ones have. -/
def State.launchCheck (s : State) (id : Nat) : State :=
  match s.launchOf id with
  | none => s
  | some l =>
    let ovf := l.nodes.all fun n => n.done || (l.abandoned && !n.started)
    if !ovf then s
    else
      let s1 := { s with launches := Sparse.set none s.launches id none }
      let s2 := s1.updQueue l.fn l.q fun x => x.complete fun b => match b with | .launch i _ => i == id | _ => false
      if l.abandoned then s2.haltQueue l.fn l.q (if l.argFault then 3 else 10) else s2

/-- R182, R391: one more team of a node has ended; with the last, the node completes. -/
def State.nodeTeamDone (s : State) (id k : Nat) (aborted : Bool) : State :=
  let s1 := s.updLaunch id fun l =>
    let l1 := { l.updNode k fun n => { n with finished := n.finished + 1 } with abandoned := l.abandoned || aborted }
    let n := l1.nodes.getD k {}
    if n.finished = n.teams && n.started && !n.done then
      let l2 := if n.fired then l1 else l1.fire k true
      (l2.fire k false).updNode k fun n => { n with done := true, fired := true }
    else l1
  (s1.startNodes id).launchCheck id

/-- R184: a group has contributed; with the last of the producer's groups, the early edges fire. -/
def State.nodeContrib (s : State) (id k : Nat) : State :=
  (s.updLaunch id fun l =>
    let l1 := l.updNode k fun n => { n with contrib := n.contrib + 1 }
    let n := l1.nodes.getD k {}
    if n.contrib = n.teams * n.groups && !n.fired then (l1.fire k true).updNode k fun n => { n with fired := true } else l1).startNodes id

/-! ## The end of teams (R51, R205, R206, R287, R414) -/

def Counters.idle (c : Counters) : Bool := c.ld.isEmpty && c.st.isEmpty && c.cp.isEmpty && c.tl.isEmpty

/-- R287: a group completes when no slice is live and its counters are zero. -/
def Group.finished (g : Group) : Bool := g.live == 0 && g.ctr.idle

/-- Tiles allocated to a team or its cluster launch: owner number plus one (R366). -/
def Team.tileOwner (t : Team) (u : Nat) : Nat := (if t.cl then t.clHead else u) + 1

/-- R366: tiles are freed with their team, or with the last team of their cluster launch. -/
def State.freeTiles (s : State) (u : Nat) : State :=
  let t := s.teamOf u
  let others := (List.range 4).any fun k =>
    t.cl && t.clHead + k != u && !((s.teamOf (t.clHead + k)).place == .done || (s.teamOf (t.clHead + k)).place == .aborted)
  if others then s
  else s.updEngine (t.core / 4) fun e => { e with owner := e.owner.filter fun o => o.2 != t.tileOwner u }

/-- R146, R147, R414: the range locks of a team's operations are released. -/
def State.dropRanges (s : State) (u : Nat) : State :=
  { s with cores := s.cores.map fun c => (c.1, { c.2 with locks := c.2.locks.filter fun l => l.uid != u }) }

/-- R128, R419: what a team holds on a core is away in its shadow store or in an image. -/
def Team.away (t : Team) : Bool := t.place == .saved || t.kept

/-- R396: at the end of the last team resident on a cluster the border controller is to decide. -/
def State.clusterLeft (s : State) (cl : Nat) : State :=
  if s.teams.any fun t => t.2.onCore && t.2.core / 4 == cl then s else { s with plan := s.plan ++ [.own (.borderDecide cl)] }

/-- R182, R287: a team whose groups have all completed ends. -/
def State.settle (s : State) (u : Nat) : State :=
  let t := s.teamOf u
  if (t.place == .resident || t.place == .stopping) && (List.range t.ngroup).all (fun g => (t.group g).finished)
      && t.ring.isEmpty then
    (((s.updTeam u fun x => { x with place := .done }).freeTiles u).clusterLeft (t.core / 4)).nodeTeamDone t.launch t.node false
  else s

/-- R359: the next generation, 1 to 255. -/
def nextGen (g : Nat) : Nat := if g = 255 then 1 else g + 1

/-- R359: a slot becomes FREE and its generation moves on. -/
def Slot.freed (x : Slot) : Slot := { gen := nextGen x.gen }

/-- R359: a slot whose fill a team's end abandons; a reload goes on. -/
def Slot.abandoned (x : Slot) (u : Nat) : Bool := x.state == .loading && x.uid == u && x.counted

/-- R399, R414: a team's ungranted entries are withdrawn and its fills abandoned. -/
def Engine.stopTeam (e : Engine) (u : Nat) : Engine :=
  { e with resv := e.resv.filter fun r => r.uid != u
           slots := e.slots.map fun x => (x.1, if x.2.abandoned u then x.2.freed else x.2) }

/-- R362: whether a watch is of a slot whose fill a team's end abandons. -/
def State.filling (s : State) (w : Watch) (u : Nat) : Bool :=
  let x : Slot := Sparse.get {} (s.engineOf w.eng).slots w.slot
  x.abandoned u && x.vdev == w.vdev

/-- R410, R479: the records of a tag no longer have an entry that awaits an answer, which is ignored when it comes. -/
def State.unrecord (s : State) (part tag : Nat) : State :=
  if tag = 0 then s
  else s.updPart part fun p => { p with
    tqPosted := p.tqPosted.filter fun r => r.tag != tag
    tqStalled := p.tqStalled.filter fun r => r.tag != tag
    tqWait := p.tqWait.filter fun r => r.fatal || r.tag != tag }

/-- The replay tags that what is outstanding of a team waits on: entries, fetches, copies and fills. -/
def State.tagsOf (s : State) (u : Nat) : List Nat :=
  let t := s.teamOf u
  (t.groups.flatMap fun g => (g.2.rq ++ g.2.trq).map (·.tag) ++ g.2.paths.filterMap fun p => match p.stop with | .fetch k => some k | _ => none)
    ++ (t.ring.filterMap fun c => match c.2.state with | .issued k => some k | _ => none)
    ++ s.engines.flatMap fun e => (e.2.slots.filter fun x => x.2.abandoned u).map fun x => x.2.stall

/-- R414: what a stopped copy still writes: the rest of the 128-byte line in which it stands. -/
def Copy.tail (c : Copy) : Option Copy :=
  let rest := (c.todo.getD []).filter fun p => p.va / 128 == c.line
  if c.moved = 0 ∨ rest.isEmpty then none else some { c with state := .issued 0, todo := some rest }

/-- R433: whether an outbound request is a team's own. -/
def Asker.ofTeam (a : Asker) (u : Nat) : Bool :=
  match a with
  | .lane v .. => v == u
  | .engine v _ => v == u
  | .fetch v _ => v == u
  | _ => false

/-- Stop one team at once: nothing of it goes on (R51, R414). A copy that stands inside a line finishes it and keeps its locks
until then; requests that have gone to peers stay outstanding there (R433). -/
def State.stopTeam (s : State) (u : Nat) : State :=
  let t := s.teamOf u
  if t.place == .done || t.place == .aborted || t.place == .absent then s
  else
    let s0 := (s.tagsOf u).foldl (fun s k => s.unrecord t.part k) s
    let tails := t.ring.filterMap fun c => c.2.tail.map fun x => (c.1, x)
    let s1 : State := { (if tails.isEmpty then s0.forget fun a => a.ofTeam u else s0) with
      runs := s.runs.filter fun r => r.2.uid != u
      regs := s.regs.filter fun r => r.uid != u
      wakes := s.wakes.filter fun w => w.uid != u
      wlocks := s.wlocks.filter fun w => w.uid != u
      watch := s.watch.filter fun w => !(s.filling w u)
      shadowWatch := s.shadowWatch.filter fun w => !(s.filling w u)
      engines := s.engines.map fun e => (e.1, e.2.stopTeam u) }
    let s2 := (if tails.isEmpty then s1.dropRanges u else s1).updTeam u fun x => { x with
      place := .aborted, ring := tails
      groups := x.groups.map fun g =>
        (g.1, { g.2 with live := 0, paths := [], rq := [], trq := [], sleep := none, ctr := {}, tctr := {}, owed := [] }) }
    ((s2.freeTiles u).clusterLeft (t.core / 4)).nodeTeamDone t.launch t.node true

/-- R414: a fatal end aborts the whole cluster launch. -/
def State.abortTeam (s : State) (u : Nat) : State :=
  let t := s.teamOf u
  if t.cl then (List.range 4).foldl (fun s k => s.stopTeam (t.clHead + k)) s else s.stopTeam u

/-- R51, R407: a fatal record of kind 10, and the team stops. -/
def State.fatal (s : State) (u g : Nat) (sl : BitVec 8) (code : Trap) (acc : Nat) (va pc : DWord) (lanes : Word) : State :=
  let t := s.teamOf u
  let r := s.postRecord { fatal := true, code := code.code, kind := 10, acc := acc, part := t.part, asid := t.asid, vf := t.vf,
                          va := va, ident := identWord t g sl, pc := pc, lanes := lanes }
  r.1.abortTeam u

/-! ## Fetch (R15, R185, R249) -/

/-- The instruction word at an address, as a group of a team fetches it, in traffic class 0 (log 70); none while a walk or the line
is held, the host's ATS has been asked, or a peer has not answered. -/
def State.fetchNow (s : State) (u g : Nat) (pc : DWord) : State × Option (Except Flt Word) :=
  let t := s.teamOf u
  if levelOf pc.toNat ≠ .global then (s, some (.error { code := .prot, acc := 3 }))
  else match s.translateNow (.fetch u g) t.core t.part t.asid t.vf pc.toNat .fetch with
    | (s1, .fault f) => (s1, some (.error { f with acc := if f.acc = 4 ∨ f.acc = 5 then f.acc else 3 }))
    | (s1, .ok x) =>
      let a := x.at_ pc.toNat
      if !isLocal a then (match s1.outRead (.fetch u g) a 4 with
        | (s2, .ok v) => (s2, some (.ok (BitVec.ofNat 32 v)))
        | (s2, .fault) => (s2, some (.error { code := .peer, acc := 3 }))
        | (s2, .wait) => (s2, none))
      else if s1.blocked (a / 128) noTeam 0 then (s1, none)
      else match s1.readDpa (t.core / 64) a 4 t.vf 0 with
        | (s2, some v) => (s2, some (.ok (BitVec.ofNat 32 v)))
        | (s2, none) => (s2, some (.error { code := .pois, acc := 3 }))
    | (s1, _) => (s1, none)

/-- R211: what the scan for a matching `xend` comes to: the address after it, nothing, or a word that has to wait. -/
inductive Scan where
  | found (pc : DWord)
  | unmatched
  | wait
deriving DecidableEq, Repr

/-- R211: the scan for the matching `xend`, over words from `pc` with nesting `n`. -/
def State.scanEnd (s : State) (u g : Nat) : Nat → Nat → DWord → State × Scan
  | 0, _, _ => (s, .unmatched)
  | fuel + 1, n, pc =>
    match s.fetchNow u g pc with
    | (s1, none) => (s1, .wait)
    | (s1, some (.error _)) => (s1, .unmatched)
    | (s1, some (.ok w)) =>
      match decodeWord w with
      | .ok (.xbegin ..) => State.scanEnd s1 u g fuel (n + 1) (pc + 4)
      | .ok (.xbeginNoTarget ..) => State.scanEnd s1 u g fuel (n + 1) (pc + 4)
      | .ok (.xend _) => if n ≤ 1 then (s1, .found (pc + 4)) else State.scanEnd s1 u g fuel (n - 1) (pc + 4)
      | _ => State.scanEnd s1 u g fuel n (pc + 4)

/-- R211: the scan from an `xbegin`; what it read of peers stays with it only while it waits. -/
def State.scan (s : State) (u g : Nat) (pc : DWord) : State × Scan :=
  match s.scanEnd u g 16384 0 pc with
  | (s1, .wait) => (s1, .wait)
  | (s1, r) => (s1.taken (.fetch u g), r)

/-! ## Taking a trap, and returning from one (R401 to R411) -/

/-- What is known of a trap when it is taken. -/
structure TrapInfo where
  slices  : BitVec 8
  atIssue : Bool
  code    : Trap
  acc     : Nat := 0
  kind    : Nat := 0
  lanes   : Word := 0
  addr    : DWord := 0
  deliv   : Nat := 0
  pc      : DWord
  /-- R471: KIND of its trace record: a trap, a hardware breakpoint or a debug stop. -/
  trace   : Nat := 1
deriving DecidableEq, Repr

/-- R405, R406, R408: enter the handler: the trap frame is written, the group goes to trap level, and the trapping path
goes on at ENTRY − 4 with the resume address in TRAPPC. -/
def Team.enterTrap (t : Team) (g : Nat) (i : TrapInfo) : Team :=
  t.updGroup g fun x =>
    { x with
      atTrap := true
      frame := { slices := i.slices, atIssue := i.atIssue, acc := i.acc, kind := i.kind, code := i.code.code, lanes := i.lanes,
                 addrL := i.addr.setWidth 32, addrH := (i.addr >>> 32).setWidth 32, deliv := i.deliv, pc := i.pc,
                 selEnt := x.frame.selEnt, selWord := x.frame.selWord, stop := (x.pathOf i.slices).stop }
      paths := x.paths.map fun p => if p.slices &&& i.slices != 0 then { p with pc := t.entry - 4, stop := .ready, exempt := false } else p }

/-- R406, R407, R471: a trap outside a transaction: the handler and a trace record, or at trap level the end of the team. -/
def State.deliver (s : State) (u g : Nat) (i : TrapInfo) : State :=
  let s1 := s.endRunOf u g
  let t := s1.teamOf u
  if (s1.groupOf u g).atTrap then s1.fatal u g i.slices i.code i.acc i.addr i.pc i.lanes
  else (s1.writeTrace t.part (t.traceRec g i.slices i.trace 0 i.code.code i.pc 0)).updTeam u fun t => t.enterTrap g i

/-- R211: control goes on after the matching `xend` of the group's ended transaction; unmatched, ILL is raised at the
outermost `xbegin`; while a word has to wait, the group waits. -/
def State.afterXend (s : State) (u g : Nat) : State :=
  let st := (s.groupOf u g).tx.start
  match s.scan u g st with
  | (s1, .found pc) => s1.updGroup u g fun x => { x with paths := x.joinAt pc }
  | (s1, .wait) => s1.updGroup u g fun x => { x with paths := (x.joinAt st).map fun p => { p with stop := .scan } }
  | (s1, .unmatched) =>
    let s2 := s1.updGroup u g fun x => { x with paths := x.joinAt st }
    let x := s2.groupOf u g
    s2.deliver u g { slices := x.live, atIssue := true, code := .ill, lanes := x.liveLanes x.live, pc := st }

/-- R215, R211: a deterministic end of a transaction: writes and registrations are dropped, XSTAT tells why, and control
goes on after the matching `xend`. -/
def State.txFail (s : State) (u g cause code : Nat) : State :=
  let s1 := ((s.endRunOf u g).dropRegs u g).dropLocks u g
  (s1.updGroup u g fun x =>
    { x with rq := if x.atTrap then x.rq else [], trq := if x.atTrap then [] else x.trq
             tx := { x.tx with depth := 0, alts := [], reads := [], writes := [], locks := [], cause := cause, code := code } }).afterXend u g

/-- R214: a conflict: the transaction restarts and FAILS rises. -/
def State.txRestart (s : State) (u g : Nat) : State :=
  ((((s.txAttempt u g).endRunOf u g).dropRegs u g).dropLocks u g).updGroup u g fun x =>
    { (x.restart false) with rq := [], tx := { x.tx.again false with fails := min (x.tx.fails + 1) 255 } }

/-- R214, R215, R401, R405: a trap is raised in a group: a doomed transaction restarts, another transaction ends with cause
TRAP, and otherwise the trap is delivered. While other paths of the group are in the middle of a run, the trapping path only
stops: at its own instruction, which it issues again before any other path issues, or with its entry standing, whose trap is
delivered once they have come to their run boundary (log 45). -/
def State.raise (s : State) (u g : Nat) (i : TrapInfo) : State :=
  if (s.groupOf u g).inTx then
    if s.doomed u g then s.txRestart u g else s.txFail u g 5 i.code.code
  else if s.othersRun u g i.slices then
    (if i.atIssue then s.updGroup u g fun x => { x with paths := x.paths.map fun p => if p.slices &&& i.slices != 0 then { p with due := true } else p }
     else s).leaveRun u g i.slices
  else s.deliver u g i

/-- R405: a trap at issue of the current run's path `sl`, at its own address. -/
def State.trapAt (s : State) (sl : BitVec 8) (code : Trap) (addr : DWord := 0) (acc kind : Nat := 0) : State :=
  let g := s.curGroup
  s.raise s.run.uid s.run.grp
    { slices := sl, atIssue := true, code := code, acc := acc, kind := kind, lanes := g.liveLanes sl, addr := addr, pc := (g.pathOf sl).pc }

/-- R411 steps 3 and 5: leave trap level; the path goes on at TRAPPC, waiting for what it waited for. -/
def Group.leaveTrap (g : Group) : Group :=
  { g with atTrap := false
           paths := g.paths.map fun p => if p.slices &&& g.frame.slices != 0 then { p with pc := g.frame.pc, stop := g.frame.stop, exempt := true } else p }

/-! ## Checkers (R412, R413, R459 to R464, R468) -/

/-- Number of a quarter's checked unit in `misfire` and in records. -/
def unitId (site u : Nat) : Nat := site / 4 * 32 + site % 4 * 8 + u

/-- R459, R468: whether a check of a checked operation fails now, and of which unit: an input fault, or the injector of
the die for a group of a test partition, which draws once for the operation. -/
def State.checkOp (s : State) (us : List Nat) : State × Option Nat :=
  match us.find? fun u => s.misfire.contains (unitId s.site u) with
  | some u => ({ s with misfire := s.misfire.erase (unitId s.site u) }, some u)
  | none =>
    if (s.partOf s.curTeam.part).test then
      let r := s.injDraw (s.curCore / 64) 0
      (r.1, if r.2 then us.head? else none)
    else (s, none)

/-- R417: the teams of a cluster launch are saved together. -/
def State.clusterOf (s : State) (u : Nat) : List Nat :=
  let t := s.teamOf u
  if t.cl then (List.range 4).map fun k => t.clHead + k else [u]

/-- R219, R416: the group sleeps: in a transaction, or with every path asleep on an entry. -/
def Group.asleep (g : Group) : Bool :=
  g.sleep.isSome || (!g.paths.isEmpty && g.paths.all fun p => match p.stop with | .asleep .. => true | _ => false)

/-- R302, R416, R417: whether a group has stopped by itself: it has exited, sleeps, or one of its paths has stopped at
`yield`, after which no other path of it starts a run. -/
def Group.stopped (g : Group) : Bool := g.live == 0 || g.asleep || g.paths.any fun p => p.stop == .yielded

/-- R215, R417: PSAVE of one group. -/
def Group.psave (g : Group) : Group :=
  if g.stopped then g
  else
    let g1 := if g.inTx then { g.restart false with rq := [] } else g
    if g1.atTrap then g1 else { g1 with frame := { g1.frame with code := 15, pc := (g1.pathOf g1.live).pc } }

/-- R416 to R418: a team whose save has begun, or begins because all its groups have stopped by themselves. -/
def Team.saving (t : Team) : Bool := t.place == .stopping || (t.req && t.groups.all fun g => g.2.stopped)

/-- R399, R418: a team's ungranted entries are withdrawn. -/
def Engine.withdraw (e : Engine) (u : Nat) : Engine := { e with resv := e.resv.filter fun r => r.uid != u || r.granted }

/-- R417: every group of a team that has not stopped takes PSAVE, its transaction's attempt discarded (R476); the team is
then to be saved. -/
def State.psaveTeam (s0 : State) (u : Nat) : State :=
  let s := if (s0.teamOf u).place == .resident then
      ((s0.teamOf u).groups.filter fun g => g.2.inTx && !g.2.stopped).foldl (fun s g => s.txAttempt u g.1) s0
    else s0
  let s1 : State := { s with
    runs := s.runs.filter fun r => r.2.uid != u
    regs := s.regs.filter fun r => r.uid != u || ((s.groupOf u r.grp).sleep.isSome)
    wlocks := s.wlocks.filter fun w => w.uid != u
    engines := s.engines.map fun e => (e.1, e.2.withdraw u) }
  s1.updTeam u fun t => if t.place == .resident then { t with place := .stopping, groups := t.groups.map fun g => (g.1, g.2.psave) } else t

/-- R460: a mismatch of a unit of the site's quarter would be a repeat. -/
def State.isRepeat (s : State) (u : Nat) : Bool :=
  let last := Sparse.get 0 (s.coreOf s.curCore).lastMis (s.site % 4 * 8 + u)
  last != 0 && decide (s.clock.toNat + 1 - last < 2 ^ (s.pipecfg.toNat % 32))

/-- R460, R463: count a mismatch and post its record; a repeat quarantines the quarter and its teams are to be saved. -/
def State.mismatch (s : State) (u : Nat) : State :=
  let core := s.curCore
  let q := s.site % 4
  let k := q * 8 + u
  let now := s.clock.toNat
  let rep := s.isRepeat u
  let s1 := s.updCore core fun c => { c with lastMis := Sparse.set 0 c.lastMis k (now + 1), mism := min (c.mism + 1) 0xFFFF }
  let s2 := (s1.postFault { elem := BitVec.ofNat 32 (core / 64 * 2 ^ 30 + core % 64 * 2 ^ 24 + k), kind := 9
                            count := if rep then 2 else 1 }).count s.curTeam.part 0x40 1
  if rep then
    let g := s.curGroup
    let s2 := s2.writeTrace s.curTeam.part (s.curTeam.traceRec s.run.grp s.run.slices 4 0 0 (g.pathOf s.run.slices).pc 0)
    let s3 := s2.updCore core fun c => { c with quar := c.quar ||| (1#4 <<< q), withdrawn := c.withdrawn || (c.quar ||| (1#4 <<< q)) == 15#4 }
    let us := (s3.teams.filter fun t => t.2.core == core && t.2.place == .resident && t.2.groups.any fun g => g.2.quarter == q).map fun t => t.1
    (us.flatMap s3.clusterOf).eraseDups.foldl (fun s u => s.psaveTeam u) s3
  else s2

/-- R412: an entry that a checker makes: its lanes, and the values of its sources in the lanes `all`. -/
def pipeEntry (w : Word) (sl : BitVec 8) (act all : Word) (pc : DWord) (rm : BitVec 2) (ref : Bool) (cls : Option OpClass) (op : Nat)
    (data : Nat → LaneRec) : RqEntry :=
  { insn := w, orig := w, ref := ref, slices := sl, lanes := act, act := act, pc := pc, rm := rm, pipe := true, cls := cls, op := op
    lane := (laneList all).foldl (fun m l => Sparse.set {} m l { data l with code := if act.getLsbD l then 9 else 0 }) [] }

/-- R412, R413, R460: an instruction of units `us` is checked; where none fails, `f` gives its effect. What a check has caught
writes no result: it enters the queue as a PIPE entry that has captured the rounding mode, the masks and the source values,
and hardware re-injects it before the machine takes any other turn of its own (log 26), or, after a repeat, when its team is
restored. Of the effect only `adv` follows, the advance of the streams read (R357). -/
def State.checked (s : State) (us : List Nat) (e : Bool) (w : Option Word) (act : Word) (adv : Group → Group) (data : Nat → LaneRec)
    (f : State → State) : State :=
  match s.checkOp us with
  | (s0, none) => (f s0).retire e
  | (s0, some u) =>
    let g := s.curGroup
    let sl := s.run.slices
    let ent := { pipeEntry (w.getD 0) sl act (g.liveLanes sl) (g.pathOf sl).pc g.fmode false none g.nextOp data with masksAt := g.masks }
    ((s0.updCur fun g => { ((adv g).stepPast sl).setQueue (g.queue ++ [ent]) with nextOp := g.nextOp + 1 }).mismatch u).tally e

/-! ## A delivered trap's lanes -/

/-- The lowest lane of a set. -/
def lowLane (w : Word) : Nat := (laneList w).headD 0

end Sys2Proof.Machine
end

