-- ==== Sys2Proof/Machine/Branch.lean ====
section
/-! DEFINITION. Control transfer: branches and parting, and what a group contributes to its node (R184, R205, R283 to R285). -/

namespace Sys2Proof.Machine

/-- Trap of a code (R401). -/
def Trap.ofCode (n : Nat) : Trap :=
  match n with
  | 1 => .ill | 2 => .priv | 3 => .align | 4 => .spb | 5 => .rlk | 6 => .pf | 7 => .prot | 8 => .sres | 9 => .pipe
  | 10 => .pois | 11 => .peer | 12 => .cabrt | 13 => .brk | 14 => .trap | _ => .psave

/-- R205: the paths into which the slices of a path go, one for each next program counter. -/
def splitPath (sl : BitVec 8) (next : Nat → DWord) : List Path :=
  ((sliceList sl).map next).eraseDups.map fun pc =>
    { slices := (sliceList sl).foldl (fun m k => if next k = pc then m ||| (1#8 <<< k) else m) 0, pc := pc }

/-- The paths of a group after the paths of `sl` have gone to their next program counters. -/
def Group.branchTo (g : Group) (sl : BitVec 8) (next : Nat → DWord) : Group :=
  { g with paths := g.paths.flatMap fun p => if p.slices &&& sl != 0 then splitPath p.slices next else [p] }

/-- R205: whether a branch parts one of the issuing paths. -/
def Group.parts (g : Group) (sl : BitVec 8) (next : Nat → DWord) : Bool :=
  g.paths.any fun p => p.slices &&& sl != 0 && decide (1 < (splitPath p.slices next).length)

/-- R205, R283, R285: a branch taken in the slices `taken` to the targets `target`. A taken branch ends the run for the
whole issue set; a parting branch in a transaction ends it with PARTED (R210), and a parted or joined group drops its
reuse latch (R371). -/
def State.branch (s : State) (e : Bool) (taken : Nat → Bool) (target : Nat → DWord) : State :=
  let g := s.curGroup
  let sl := s.run.slices
  let next := fun k => if taken k then target k else (g.pathOf (1#8 <<< k)).pc + 4
  if g.inTx && g.parts sl next then s.txFail s.run.uid s.run.grp 6 0
  else
    let s1 := s.updCur fun g => { (g.branchTo sl next) with latch := if g.parts sl next then {} else g.latch }
    if (sliceList sl).any taken then s1.endRun else s1.tally e

/-- pc + 4 × offset of a slice's path. -/
def Group.targetFor {n : Nat} (g : Group) (o : BitVec n) (k : Nat) : DWord := targetOf (g.pathOf (1#8 <<< k)).pc o

/-- R283. -/
def execB (e : Bool) (o : BitVec 20) (s : State) : Out1 :=
  .next (s.branch e (fun _ => true) (s.curGroup.targetFor o))

/-- R258, R283: conditions 0 to 3 want the flag set, 4 to 7 clear. -/
def execBc (e : Bool) (c : BitVec 4) (o : BitVec 20) (s : State) : Out1 :=
  .next (s.branch e (fun k => s.curGroup.cflag k (c.toNat % 4) == decide (c.toNat < 4)) (s.curGroup.targetFor o))

/-- R283: the slice's live lanes of the mask; Z = 1 wants zero. -/
def execBm (e : Bool) (z : BitVec 1) (m : BitVec 3) (o : BitVec 19) (s : State) : Out1 :=
  .next (s.branch e (fun k => (s.curGroup.act (1#8 <<< k) m.toNat == 0) == (z == 1)) (s.curGroup.targetFor o))

/-- R283: the mask over the group's live lanes. -/
def execBmG (e : Bool) (z : BitVec 1) (m : BitVec 3) (o : BitVec 19) (s : State) : Out1 :=
  .next (s.branch e (fun _ => (s.curGroup.act s.curGroup.live m.toNat == 0) == (z == 1)) (s.curGroup.targetFor o))

/-- R283, R415: p = 0 wants PREQ set. -/
def execBxPreq (e : Bool) (p : BitVec 1) (o : BitVec 15) (s : State) : Out1 :=
  .next (s.branch e (fun _ => s.curTeam.req == (p == 0)) (s.curGroup.targetFor o))

/-- R283: end flag f of the stream bound to s48 + n; all clear where none is bound. p = 0 wants it set. -/
def execBxD (e : Bool) (p : BitVec 1) (n : BitVec 3) (f : BitVec 2) (o : BitVec 15) (s : State) : Out1 :=
  let g := s.curGroup
  let flag := g.bound (48 + n.toNat) && (g.streamOf (48 + n.toNat)).flags.getLsbD f.toNat
  .next (s.branch e (fun _ => flag == (p == 0)) (g.targetFor o))

/-- R284: s62:s63 := pc + 4, then the branch. -/
def execCall (e : Bool) (o : BitVec 20) (s : State) : Out1 :=
  let g := s.curGroup
  .next ((s.updCur fun x => x.writePair s.run.slices 62 fun k => (g.pathOf (1#8 <<< k)).pc + 4).branch e (fun _ => true) (g.targetFor o))

/-- R284, R285, R249: a target whose bits 1..0 are not zero raises ALIGN at the branch in the slice's path, with the
lowest such target as its address (log 20). -/
def execJr (e : Bool) (a : BitVec 6) (s : State) : Out1 :=
  let g := s.curGroup
  let bad := (sliceList s.run.slices).filter fun k => (g.spair k a.toNat).toNat % 4 != 0
  match bad with
  | [] => .next (s.branch e (fun _ => true) fun k => g.spair k a.toNat)
  | k :: _ => .next (s.trapAt (g.pathOf (1#8 <<< k)).slices .align (g.spair k a.toNat))

/-! ## Contributions (R184) -/

/-- R184: every path of the group has executed `trig` or exited. -/
def Group.allTrigged (g : Group) : Bool := g.live &&& ~~~g.trigged == 0

/-- R184: a group contributes once, when all its slices have triggered or exited. -/
def State.contribute (s : State) (u k : Nat) : State :=
  let x := s.groupOf u k
  if x.allTrigged && !x.contributed then
    (s.updGroup u k fun x => { x with contributed := true }).nodeContrib (s.teamOf u).launch (s.teamOf u).node
  else s

end Sys2Proof.Machine
end

