-- ==== Sys2Proof/Machine/Sync.lean ====
section
/-! DEFINITION. Waits for the group's own operations, fences, the levels of a transaction, barriers and triggers
(R165, R208, R210 to R220, R288 to R295, R339 to R341). -/

namespace Sys2Proof.Machine

/-! ## Requests answered MOVED (R58, R76, R81) -/

/-- R58: the home and VERSION by which a die routes its requests for a parcel. -/
def State.route (s : State) (die parcel : Nat) : Nat × Nat :=
  ((s.dieOf die).cadCache.find? fun x => x.1 == parcel).elim ((s.cadOf parcel).a.home, (s.cadOf parcel).version) fun x => x.2

/-- R76: a request of a group of the die for a line is answered MOVED: it reaches a slice that is not the parcel's home, or
one that is ceasing to be. -/
def State.moves (s : State) (die line u g : Nat) : Bool :=
  let parcel := parcelOf (line * 128)
  let cd := s.cadOf parcel
  (s.route die parcel).1 != cd.a.home
    || (s.stopped parcel && !s.locksIn parcel u g && (match cd.t with | some t => t.home != cd.a.home | none => false))

/-- A replay is that of a group's request for a line, by its operation; none for a commit's lock. -/
def Replay.of (r : Replay) (line u g : Nat) (o : Option Nat) : Bool := r.line == line && r.uid == u && r.grp == g && r.op == o

/-- R76: the request joins the die's replays, once; the lanes of an operation that lie on one line are one request (log 54). -/
def State.answerMoved (s : State) (die line u g : Nat) (o : Option Nat) : State :=
  s.updDie die fun d =>
    if d.replays.any fun r => r.of line u g o then d
    else { d with replays := d.replays ++ [{ parcel := parcelOf (line * 128), line := line, uid := u, grp := g, op := o }] }

/-- R76: a replay that will still be made: its group waits with the access, or with a commit. -/
def State.replayLive (s : State) (r : Replay) : Bool :=
  let t := s.teamOf r.uid
  let g := t.group r.grp
  t.onCore && match r.op with
    | some o => g.entries.any fun x => x.op == o && x.lane.any fun y => !y.2.got && y.2.code == 0
    | none => g.paths.any fun p => p.stop == .commit

/-- R76: a request waits: its MOVED has not come, or a replay of its parcel goes before it. -/
def State.behind (s : State) (die line u g : Nat) (o : Option Nat) : Bool :=
  let rs := (s.dieOf die).replays.filter fun r => r.parcel == parcelOf (line * 128) && s.replayLive r
  rs.any (fun r => r.of line u g o && !r.sent) || (rs.takeWhile fun r => !r.of line u g o).any fun r => !r.again

/-- R76: a replay has come to the new home, which holds it. -/
def State.heldThere (s : State) (die line u g : Nat) (o : Option Nat) : State :=
  if (s.dieOf die).replays.any fun r => r.of line u g o then
    s.updDie die fun d => { d with replays := d.replays.map fun r => if r.of line u g o then { r with again := true } else r }
  else s

/-- R76: a replay has been admitted. -/
def State.admitted (s : State) (die line u g : Nat) (o : Option Nat) : State :=
  if (s.dieOf die).replays.isEmpty then s
  else s.updDie die fun d => { d with replays := d.replays.filter fun r => !r.of line u g o }

/-! ## wait (R208, R288) -/

/-- R208: a count of 63 means any value. -/
def Counters.meets (c : Counters) (l s cp t : Nat) : Bool :=
  let ok := fun (n : Nat) (x : List (Nat × Bool)) => decide (63 ≤ n) || decide (x.length ≤ n)
  ok l c.ld && ok s c.st && ok cp c.cp && ok t c.tl

/-- A wait: the run ends; the paths that issue it go on, or are suspended until the counters meet the counts. -/
def State.waitFor (s : State) (l t c x : Nat) (srcs : List Nat) : State :=
  let sl := s.run.slices
  (s.updCur fun g =>
    let g1 := (g.stepPast sl).advance srcs
    if g.counters.meets l t c x then g1 else g1.updPath sl fun p => { p with stop := .wait l t c x }).endRun

/-- R288. -/
def execWait (_e : Bool) (l t c x : BitVec 6) (s : State) : Out1 :=
  .next (s.waitFor l.toNat t.toNat c.toNat x.toNat [])

/-- R288: the count from the lowest issuing slice; the class from fn. -/
def execWaitr (_e : Bool) (a : BitVec 6) (c : BitVec 2) (s : State) : Out1 :=
  let n := min (s.curGroup.sreg (lowSlice s.run.slices) a.toNat).toNat 63
  let at_ := fun k => if c.toNat = k then n else 63
  .next (s.waitFor (at_ 0) (at_ 1) (at_ 2) (at_ 3) [a.toNat])

/-! ## fence (R123, R165, R289) -/

/-- R188: a pod-scope release issues a zero-length read of host memory; like every read of it by the device, it completes in the
step that issues it (log 37). -/
def State.zeroRead (s : State) (sc : Nat) : State := if sc = 4 then { s with out := s.out ++ [.zeroRead] } else s

/-- R123: the release action of an ordering operation of scope `sc`, whether it must wait, and the acquire action. -/
def State.releaseAt (s : State) (sc : Nat) : State := if 2 ≤ sc then (s.releaseCore s.curCore).zeroRead sc else s
def State.stuckAt (s : State) (sc : Nat) : Bool := decide (2 ≤ sc) && s.releaseStuck s.curCore
def State.acquireAt (s : State) (sc : Nat) : State := if 2 ≤ sc then s.acquireCore s.curCore else s

/-- R289: kind 0 acq, 1 rel, 2 acqrel, 3 sc. In a transaction it has no effect (R212). -/
def execFence (e : Bool) (sc : BitVec 3) (q : BitVec 2) (s : State) : Out1 :=
  if s.curGroup.inTx then .next (s.retire e)
  else if q != 0 && s.stuckAt sc.toNat then .next s
  else
    let s1 := if q = 0 then s else s.releaseAt sc.toNat
    .next ((if q = 1 then s1 else s1.acquireAt sc.toNat).retire e)

/-! ## Transactions (R210 to R218) -/

/-- R218: the word of XSTAT. -/
def Tx.stat (t : Tx) : Word :=
  BitVec.ofNat 32 (t.code * 2 ^ 24 + t.cause * 2 ^ 20 + t.fails * 256 + (if ((t.alts.getLast?).getD none).isSome then 128 else 0)
    + (if t.slept then 64 else 0) + t.scope * 8 + t.depth)

/-- R213: the global key of a line, by which locks are taken. -/
def LineKey.order (k : LineKey) : Nat :=
  match k with
  | .mem l => l
  | .chip d l => 2 ^ 40 + d * 2 ^ 20 + l
  | .core c l => 2 ^ 41 + c * 2 ^ 20 + l
  | .buf c l => 2 ^ 42 + c * 2 ^ 20 + l
  | .bar c l => 2 ^ 43 + c * 2 ^ 20 + l

def insertKey (k : LineKey) : List LineKey → List LineKey
  | [] => [k]
  | x :: xs => if k.order ≤ x.order then k :: x :: xs else x :: insertKey k xs

/-- The lines of a write buffer in ascending order of the global key. -/
def Tx.lockOrder (t : Tx) : List LineKey := ((t.writes.map fun w => w.key).eraseDups).foldl (fun ks k => insertKey k ks) []

/-- R210, R340: an `xbegin` that begins no transaction: at trap level (UNSUP) or by a path of a parted group (PARTED). It
ends at once; the path goes on after the matching `xend`, or raises ILL where there is none (R211). While the scan waits for
a word, the `xbegin` has not issued. -/
def State.xbeginFails (s : State) (sl : BitVec 8) (scope cause : Nat) : State :=
  let u := s.run.uid
  let k := s.run.grp
  let pc := (s.curGroup.pathOf sl).pc
  let said := fun (s : State) =>
    s.updCur fun g => { g with tx := { g.tx with fails := 0, code := 0, slept := false, scope := scope, cause := cause } }
  match s.scan u k pc with
  | (s1, .wait) => s1
  | (s1, .found t) => ((said s1).updCur fun g => g.updPath sl fun p => { p with pc := t }).endRun
  | (s1, .unmatched) =>
    let s2 := said s1
    s2.deliver u k { slices := sl, atIssue := true, code := .ill, lanes := s2.curGroup.liveLanes sl, pc := pc }

/-- R210: an `xbegin` with the alternative `alt` of a path's address. -/
def State.xbegin (s : State) (e : Bool) (scope : Nat) (alt : DWord → Option DWord) : State :=
  let g := s.curGroup
  let sl := s.run.slices
  if g.inTx then
    if 4 ≤ g.tx.depth then s.txFail s.run.uid s.run.grp 4 0
    else (s.updCur fun g => { g with tx := { g.tx with depth := g.tx.depth + 1, alts := g.tx.alts ++ [alt (g.pathOf sl).pc] } }).retire e
  else if g.atTrap then s.eachPath fun p s => s.xbeginFails p scope 7
  else if 1 < g.paths.length then s.eachPath fun p s => s.xbeginFails p scope 6
  else if s.releaseStuck s.curCore then s
  else
    let pc := (g.pathOf sl).pc
    ((s.releaseCore s.curCore).updCur fun g => { g with
      tx := { depth := 1, scope := scope, start := pc, alts := [alt pc], alt1 := alt pc, since := s.clock.toNat } }).retire e

/-- R210, R339. -/
def execXbegin (e : Bool) (sc : BitVec 3) (o : BitVec 20) (s : State) : Out1 :=
  .next (s.xbegin e sc.toNat fun pc => some (targetOf pc o))

/-- R210, R339: without an alternative. -/
def execXbeginNoTarget (e : Bool) (sc : BitVec 3) (s : State) : Out1 := .next (s.xbegin e sc.toNat fun _ => none)

/-- R216: outside a transaction the form raises ILL; every issuing path takes it. -/
def State.needTx (s : State) (f : State → State) : State :=
  if s.curGroup.inTx then f s else s.eachPath fun sl s => s.trapAt sl .ill

/-- R216: a new live alternative of the current level. -/
def execXelse (e : Bool) (o : BitVec 20) (s : State) : Out1 :=
  .next (s.needTx fun s => (s.updCur fun g =>
    { g with tx := { g.tx with alts := g.tx.alts.dropLast ++ [some (targetOf (g.pathOf s.run.slices).pc o)] } }).retire e)

/-- R213 step 4, R123, R175: a commit has succeeded: locks and registrations go, the acquire action is taken, and the group
goes on after its `xend`. -/
def State.txDone (s : State) (u k : Nat) : State :=
  (((((s.count (s.teamOf u).part 0x20 1).txAttempt u k).dropRegs u k).dropLocks u k).updGroup u k fun g => { g with
    tx := { g.tx with depth := 0, alts := [], reads := [], writes := [], locks := [] }
    paths := g.paths.map fun p => { p with pc := p.pc + 4, stop := .ready } }).acquireCore (s.teamOf u).core

/-- Masked bytes of a line applied to a scratchpad. -/
def applyLine (m : Mem) (base : Nat) (mask : BitVec 128) (v : BitVec 1024) : Mem := Mem.writeMasked m base 128 v.toNat mask.toNat

/-- R213 step 3: one buffered line is written at its home, controller of its scratchpad, or stripe. -/
def State.txApply (s : State) (u k : Nat) (w : TxWrite) : State :=
  match w.key with
  | .mem l => s.homeWrite l w.mask w.data (s.teamOf u).vf 0 1 u k
  | .chip d l => (s.updDie d fun x => { x with cs := applyLine x.cs (l * 128) w.mask w.data }).noteKey w.key u k
  | .core c l => (s.updCore c fun x => { x with sp := applyLine x.sp (l * 128) w.mask w.data }).noteKey w.key u k
  | _ => s

/-- R213: the commit once every lock is held: validation, then the writes of every level, outer levels first. -/
def State.txCommit (s : State) (u k : Nat) : State :=
  if s.doomed u k then (s.count (s.teamOf u).part 0x21 1).txRestart u k
  else
    let ws := (s.groupOf u k).tx.writes
    let byLevel := [1, 2, 3, 4].flatMap fun n => ws.filter fun w => w.level == n
    (byLevel.foldl (fun s w => s.txApply u k w) s).txDone u k

/-- R213, R341: a nested `xend` lowers the depth, its writes joining the level below; the outermost one commits, at once
where nothing is to be locked. A commit is a release (R123, R175): its core's dirty bytes are written back first, before any
lock is asked for (log 79). -/
def execXend (e : Bool) (s : State) : Out1 :=
  .next (s.needTx fun s =>
    let g := s.curGroup
    if 1 < g.tx.depth then
      (s.updCur fun g => { g with tx := { g.tx with
        depth := g.tx.depth - 1, alts := g.tx.alts.dropLast
        writes := g.tx.writes.map fun w => { w with level := min w.level (g.tx.depth - 1) } } }).retire e
    else if s.releaseStuck s.curCore then s
    else
      let s1 := (s.releaseCore s.curCore).endRun
      if g.tx.writes.isEmpty then s1.txCommit s.run.uid s.run.grp
      else s1.updGroup s.run.uid s.run.grp fun g =>
        { g with tx := { g.tx with locks := g.tx.lockOrder }, paths := g.paths.map fun p => { p with stop := .commit } })

/-- R213 steps 1 and 2, R78: the next lock of a commit is granted unless another commit holds it or its parcel is being
switched, which may answer MOVED; with the last one the commit validates and writes. -/
def execCommitLockGrant (u k : Nat) (s : State) : Out1 :=
  let g := s.groupOf u k
  match g.tx.locks with
  | [] => .next s
  | key :: rest =>
    let die := (s.teamOf u).core / 64
    let moved := match key with | .mem l => s.moves die l u k | _ => false
    let busy := match key with
      | .mem l => s.blocked l u k || s.behind die l u k none
      | _ => s.wlocks.any fun w => w.key == key && !(w.uid == u && w.grp == k)
    if !(g.inTx && g.paths.all fun p => p.stop == .commit) then .next s
    else if moved then .next (s.answerMoved die (match key with | .mem l => l | _ => 0) u k none)
    else if busy then .next (match key with | .mem l => if s.behind die l u k none then s else s.heldThere die l u k none | _ => s)
    else
      let s0 := match key with | .mem l => s.admitted die l u k none | _ => s
      let s1 : State := { s0 with wlocks := s0.wlocks ++ [{ key := key, uid := u, grp := k }] }
      let s2 := s1.updGroup u k fun g => { g with tx := { g.tx with locks := rest } }
      .next (if rest.isEmpty then s2.txCommit u k else s2)

/-- The nearest level with a live alternative, counted from the depth outwards. -/
def Tx.nearest (t : Tx) : Option (Nat × DWord) :=
  ([4, 3, 2, 1].filterMap fun n => if n ≤ t.depth then ((t.alts.getD (n - 1) none).map fun a => (n, a)) else none).head?

/-- R219, R220: the group sleeps on the union read set; a write since a line's registration makes it start again at once. -/
def State.txSleep (s : State) (u k : Nat) : State :=
  let s0 := s.endRunOf u k
  if s0.doomed u k then ((s0.txAttempt u k).dropRegs u k).updGroup u k fun g => g.restart true
  else
    let keys := (s0.regs.filter fun r => r.uid == u && r.grp == k).map fun r => r.key
    let r := keys.foldl (fun (a : State × Bool) key =>
      let b := a.1.addWake key u k
      (b.1.setWait key u k, a.2 && b.2)) (s0.dropRegs u k, true)
    r.1.updGroup u k fun g => { g with sleep := some { since := s.clock.toNat, ovf := !r.2 } }

/-- R216: retry: the nearest live alternative, its level's writes and those inside it dropped; else the group sleeps. -/
def State.txRetry (s : State) (u k : Nat) : State :=
  match (s.groupOf u k).tx.nearest with
  | none => s.txSleep u k
  | some (n, a) =>
    (s.endRunOf u k).updGroup u k fun g => { g with
      tx := { g.tx with depth := n, alts := (g.tx.alts.take (n - 1)) ++ [none], writes := g.tx.writes.filter fun w => decide (w.level < n) }
      paths := g.paths.map fun p => { p with pc := a } }

/-- R216, R341. -/
def execXretry (_e : Bool) (s : State) : Out1 := .next (s.needTx fun s => s.txRetry s.run.uid s.run.grp)

/-- R216, R339: cause ABORT. -/
def execXabort (_e : Bool) (c : BitVec 8) (s : State) : Out1 := .next (s.needTx fun s => s.txFail s.run.uid s.run.grp 1 c.toNat)

/-- R218, R339: XSTAT to every issuing slice, at any time. -/
def execXstat (e : Bool) (d : BitVec 6) (s : State) : Out1 :=
  .next ((s.updCur fun g => g.writeS s.run.slices d.toNat fun _ => g.tx.stat).retire e)

/-- R292: an event on an entry by a group; where ARR then reaches EXP, ARR falls by it and PHASE flips once. -/
def State.barEvent (s : State) (u g c k : Nat) (f : Bar → Bar) : State :=
  let b := f (Sparse.get {} (s.coreOf c).bars k)
  let flips := decide (b.exp ≤ b.arr)
  let b1 := if flips then { b with arr := b.arr - b.exp, phase := !b.phase } else b
  let s1 := s.updCore c fun x => { x with bars := Sparse.set {} x.bars k b1 }
  if flips then s1.noteKey (.bar c k) u g else s1

/-- R220, R292: the paths of a woken group are about to read the entries of the barriers on which they sleep. -/
def State.readBars (s : State) (u k : Nat) : State :=
  if (s.teamOf u).place == .saved then s
  else ((s.groupOf u k).paths.filterMap fun p => match p.stop with | .asleep _ (.bar c b) _ _ => some (c, b) | _ => none).eraseDups.foldl
    (fun s x => s.barEvent noTeam 0 x.1 x.2 id) s

/-- R220: 4 µs after it began to sleep, an overflowed sleeper is woken. -/
def execOverflowWake (u k : Nat) (s : State) : Out1 :=
  let g := s.groupOf u k
  let late := fun (since : Nat) => decide (since + 4 * Config.cyclesPerUs ≤ s.clock.toNat)
  let due := (match g.sleep with | some x => x.ovf && late x.since | none => false)
    || g.paths.any fun p => match p.stop with | .asleep t _ _ o => o && late t | _ => false
  .next (if due then ((s.count (s.teamOf u).part 0x22 1).readBars u k).wakeGroup u k else s)

/-- R212: an instruction that ends a transaction with UNSUP; else `f`. -/
def State.unsup (s : State) (f : State → State) : State :=
  if s.curGroup.inTx then s.txFail s.run.uid s.run.grp 7 0 else f s

/-! ## One-line levels (R142, R217, R291, R343) -/

/-- R212, R219: a read of a line or an entry joins the read set; with a 65th line it does not. -/
def State.txRead (s : State) (u k : Nat) (key : LineKey) : Option State :=
  let g := s.groupOf u k
  if g.tx.reads.contains key then some s
  else if 64 ≤ g.tx.reads.length then none
  else
    let s1 := s.updGroup u k fun g => { g with tx := { g.tx with reads := g.tx.reads ++ [key] } }
    some { s1 with regs := s1.regs ++ [{ key := key, uid := u, grp := k }] }

/-- R217: a wait of a path until the PHASE of an entry is not `want`. In a transaction it is a nested level: at depth 4 it
fails with NEST, and its retry is a retry of the transaction. Elsewhere it is a level of its own, of which XSTAT tells that it
has had no conflict and no sleep (log 24); the path goes on, with the acquire of the entry's scope, or sleeps on the
entry. -/
def State.phaseWait (s : State) (sl : BitVec 8) (key : LineKey) (want : Bool) : State :=
  let u := s.run.uid
  let k := s.run.grp
  if s.curGroup.inTx then
    if 4 ≤ s.curGroup.tx.depth then s.txFail u k 4 0
    else match s.txRead u k key with
      | none => s.txFail u k 2 0
      | some s1 => if s1.phaseOf key == want then s1.txRetry u k else s1.updCur fun g => g.stepPast sl
  else
    let s1 := s.updCur fun g => { g.stepPast sl with tx := { g.tx with fails := 0, slept := false } }
    if s1.phaseOf key == want then (s1.pathSleep u k sl key want).endRun else s1.waitAcquire key s.curCore

/-! ## Barriers (R290 to R293) -/

/-- The entry of a barrier identifier: the team's own, or the cluster barrier at the rank-0 core. -/
def State.barKey (s : State) (i : Nat) : Nat × Nat :=
  let t := s.curTeam
  let h := s.teamOf t.clHead
  if i < 4 then (t.core, t.slot * 4 + i) else (h.core, 32 + h.slot)

/-- R291: identifier 4 outside a cluster launch raises PROT; else `pre` acts on the entry, and then `f` for each path in
turn. -/
def State.barrier (s : State) (e : Bool) (i : Nat) (pre : State → State) (f : BitVec 8 → State → State) : State :=
  (if i = 4 ∧ !s.curTeam.cl then s.eachPath fun sl s => s.trapAt sl .prot else (pre s).eachPath f).tally e

/-- R357: the walks of the source registers of an instruction of `old`'s run advance, where a path has issued it: one that has
trapped, or waits unissued, stands at it still. -/
def State.advanceAfter (s old : State) (ns : List Nat) : State :=
  let g := s.groupOf old.run.uid old.run.grp
  let gone := fun (sl : BitVec 8) => (g.pathOf sl).pc == (old.curGroup.pathOf sl).pc + 4
  if g.atTrap == old.curGroup.atTrap && (old.curGroup.issuers old.run.slices).any gone then
    s.updGroup old.run.uid old.run.grp fun g => g.advance ns
  else s

/-- R290: word 0. -/
def Bar.word0 (b : Bar) : Word := BitVec.ofNat 32 ((if b.phase then 2 ^ 31 else 0) + b.exp * 65536 + b.arr)

/-- R274, R291: EXP := S[sa] of the lowest issuing slice; a value outside 1..1,023 raises PROT. -/
def execBarInit (e : Bool) (a i : BitVec 6) (s : State) : Out1 :=
  let n := (s.curGroup.sreg (lowSlice s.run.slices) a.toNat).toNat
  .next (s.unsup fun s =>
    let r := s.barrier e i.toNat
      (fun s => if n = 0 ∨ 1023 < n then s else s.barEvent s.run.uid s.run.grp (s.barKey i.toNat).1 (s.barKey i.toNat).2 fun b => { b with exp := n })
      fun sl s => if n = 0 ∨ 1023 < n then s.trapAt sl .prot else s.updCur fun g => g.stepPast sl
    r.advanceAfter s [a.toNat])

/-- R291, R292: the arrivals of the issuing paths, one each, are one event; every slice receives PHASE before it. -/
def State.arrive (s : State) (d i : Nat) : State :=
  let key := s.barKey i
  let ph := s.phaseOf (.bar key.1 key.2)
  (s.barEvent s.run.uid s.run.grp key.1 key.2 fun b => { b with arr := b.arr + s.pathCount }).updCur fun g => g.writeS s.run.slices d fun _ => boolWord ph

/-- R293: an arrival is a release at the barrier's scope. -/
def State.barRelease (s : State) (i : Nat) (f : State → State) : State :=
  let sc := if i = 4 then 2 else 1
  if s.stuckAt sc then s else f (s.releaseAt sc)

/-- R291. -/
def execBarArrive (e : Bool) (d i : BitVec 6) (s : State) : Out1 :=
  .next (s.unsup fun s => s.barRelease i.toNat fun s => s.barrier e i.toNat (fun s => s.arrive d.toNat i.toNat)
    fun sl s => s.updCur fun g => g.stepPast sl)

/-- R291: the wait of a path, on the value of a register in its lowest slice. -/
def State.barWait (s : State) (sl : BitVec 8) (a i : Nat) : State :=
  let key := s.barKey i
  s.phaseWait sl (.bar key.1 key.2) ((s.curGroup.sreg (lowSlice sl) a).getLsbD 0)

/-- R291, R292: a wait; its read is an event on the entry, at which a remainder of arrivals may flip PHASE. -/
def execBarWait (e : Bool) (a i : BitVec 6) (s : State) : Out1 :=
  let r := s.barrier e i.toNat (fun s => s.barEvent s.run.uid s.run.grp (s.barKey i.toNat).1 (s.barKey i.toNat).2 id)
    fun sl s => s.barWait sl a.toNat i.toNat
  .next (r.advanceAfter s [a.toNat])

/-- R291: `bar.arrive`, then `bar.wait` on the register that it wrote, whose read falls into the cycle of the arrival
(R292). -/
def execBarSync (e : Bool) (d i : BitVec 6) (s : State) : Out1 :=
  .next (s.unsup fun s => s.barRelease i.toNat fun s => s.barrier e i.toNat (fun s => s.arrive d.toNat i.toNat)
    fun sl s => s.barWait sl d.toNat i.toNat)

/-- R291: word 0 of the entry. -/
def execBarRead (e : Bool) (d i : BitVec 6) (s : State) : Out1 :=
  .next (s.barrier e i.toNat id fun sl s =>
    let key := s.barKey i.toNat
    let w := (Sparse.get {} (s.coreOf key.1).bars key.2).word0
    s.updCur fun g => (g.writeS sl d.toNat fun _ => w).stepPast sl)

/-! ## Trigger (R184, R295) -/

/-- R295: a release at device scope that marks the contribution of the issuing paths. -/
def execTrig (e : Bool) (s : State) : Out1 :=
  .next (s.unsup fun s =>
    if s.stuckAt 3 then s
    else
      let s1 := (s.releaseAt 3).updCur fun g => { g with trigged := g.trigged ||| s.run.slices }
      (s1.contribute s.run.uid s.run.grp).retire e)

end Sys2Proof.Machine
end

