-- ==== Sys2Proof/Machine/Access.lean ====
section
/-! DEFINITION. Memory accesses of lanes and slices: checks, translation, the place where each is performed, what a
transaction makes of it, the replay entry and its end (R16, R37, R43 to R50, R121, R122, R145, R157, R164, R171 to R174,
R212, R331, R336 to R338, R402 to R405, R433). -/

namespace Sys2Proof.Machine

/-! ## What a memory instruction does -/

/-- The access of a memory instruction. `fn` is an atomic's operation under R336's codes; `ret`: it returns a value to
`dest`; `order`: an acquire load or a release store. -/
structure MemOp where
  acc    : Acc
  n      : Nat
  cls    : OpClass
  dest   : Nat
  fn     : Nat := 0
  scope  : Nat := 0
  order  : Bool := false
  ret    : Bool := false
  signed : Bool := false
  scalar : Bool := false
  /-- R189: only an access to peer memory may be performed now. -/
  peerOnly : Bool := false
deriving DecidableEq, Repr

/-- R330: bytes of a size code. -/
def sizeBytes (z : Nat) : Nat :=
  match z with
  | 0 => 1 | 1 => 1 | 2 => 2 | 3 => 2 | 4 => 4 | 5 => 8 | _ => 16

/-- R336: bytes of an atomic. -/
def aopBytes (o : Nat) : Nat := if o = 1 ∨ o = 10 ∨ o = 12 then 8 else 4

/-- R298: the operation of a scalar atomic under R336's codes. -/
def saopFn (o : Nat) : Nat :=
  match o with
  | 0 => 0 | 1 => 9 | 2 => 11 | 3 => 6 | 4 => 7 | 5 => 8 | 6 => 3 | _ => 2

/-- The access of an instruction; none where it makes none. -/
def memOp : Instr → Option MemOp
  | .ld _ _ d _ _ z => some { acc := .read, n := sizeBytes z.toNat, cls := .ld, dest := d.toNat, ret := true, signed := z == 1 || z == 3 }
  | .ldAcq _ _ d _ z sc => some { acc := .read, n := sizeBytes z.toNat, cls := .ld, dest := d.toNat, ret := true,
                                  signed := z == 1 || z == 3, scope := sc.toNat, order := true }
  | .st _ _ d _ _ z => some { acc := .write, n := sizeBytes z.toNat, cls := .st, dest := d.toNat }
  | .stRel _ _ d _ z sc => some { acc := .write, n := sizeBytes z.toNat, cls := .st, dest := d.toNat, scope := sc.toNat, order := true }
  | .atom _ _ d _ o sc => some { acc := .atomic, n := aopBytes o.toNat, cls := .ld, dest := d.toNat, fn := o.toNat, scope := sc.toNat, ret := true }
  | .red _ _ d _ o sc => some { acc := .atomic, n := aopBytes o.toNat, cls := .st, dest := d.toNat, fn := o.toNat, scope := sc.toNat }
  | .ldsB32 _ d _ _ => some { acc := .read, n := 4, cls := .ld, dest := d.toNat, ret := true, scalar := true }
  | .ldsB64 _ d _ _ => some { acc := .read, n := 8, cls := .ld, dest := d.toNat, ret := true, scalar := true }
  | .stsB32 _ d _ _ => some { acc := .write, n := 4, cls := .st, dest := d.toNat, scalar := true }
  | .stsB64 _ d _ _ => some { acc := .write, n := 8, cls := .st, dest := d.toNat, scalar := true }
  | .satom _ d _ _ o p => some { acc := .atomic, n := 4, cls := .ld, dest := d.toNat, fn := saopFn o.toNat, scope := p.toNat, ret := true, scalar := true }
  | _ => none

/-- The access of a replay entry. -/
def RqEntry.memOp (x : RqEntry) : Option MemOp :=
  match decodeWord x.insn with
  | .ok i => Machine.memOp i
  | .error _ => none

/-- R336: the new value of an atomic of `n` bytes: old value, operand, second operand. -/
def aopNew (fn old b c : Nat) : Nat :=
  let w := fun (x : Nat) => BitVec.ofNat 32 x
  match fn with
  | 0 => (old + b) % 2 ^ 32
  | 1 => (old + b) % 2 ^ 64
  | 2 => (sminW (w old) (w b)).toNat
  | 3 => (smaxW (w old) (w b)).toNat
  | 4 => min old b
  | 5 => max old b
  | 6 => old &&& b
  | 7 => old ||| b
  | 8 => old ^^^ b
  | 9 => b
  | 10 => b
  | 11 => if old = b then c else old
  | 12 => if old = b then c else old
  | 13 => (faddW 0 (w old) (w b)).toNat
  | _ =>
    let h := fun k => Fmt.f16.encode 0 false (Fp.add 0 (Fmt.f16.decode (old / 2 ^ (16 * k) % 65536)) (Fmt.f16.decode (b / 2 ^ (16 * k) % 65536)))
    h 0 + 65536 * h 1

/-- R338: the forms that exist for host memory. -/
def aopHost (fn : Nat) : Bool := fn == 0 || fn == 1 || (decide (9 ≤ fn) && decide (fn ≤ 12))

/-! ## Lane records and queues -/

def LaneRec.value (r : LaneRec) : Nat := r.d0.toNat + 2 ^ 32 * r.d1.toNat + 2 ^ 64 * r.d2.toNat + 2 ^ 96 * r.d3.toNat

def LaneRec.setValue (r : LaneRec) (v : Nat) : LaneRec :=
  { r with d0 := BitVec.ofNat 32 v, d1 := BitVec.ofNat 32 (v / 2 ^ 32), d2 := BitVec.ofNat 32 (v / 2 ^ 64), d3 := BitVec.ofNat 32 (v / 2 ^ 96) }

def RqEntry.recOf (x : RqEntry) (l : Nat) : LaneRec := Sparse.get {} x.lane l
def RqEntry.setRec (x : RqEntry) (l : Nat) (r : LaneRec) : RqEntry := { x with lane := Sparse.set {} x.lane l r }
def RqEntry.updRec (x : RqEntry) (l : Nat) (f : LaneRec → LaneRec) : RqEntry := x.setRec l (f (x.recOf l))

/-- The lanes in which an entry accesses memory: all of them, or lane 4k of each slice (R297). -/
def RqEntry.doing (x : RqEntry) (scalar : Bool) : List Nat := (laneList x.lanes).filter fun l => !scalar || l % 4 == 0

/-! ## Performing one piece of a lane's access -/

/-- What comes of an access. -/
inductive Done where
  | ok (v : Nat)
  | fault (f : Flt) (va : Nat)
  /-- It waits for a walk of this address. -/
  | walk (va : Nat)
  /-- It waits for a lock or a switch. -/
  | wait
  /-- It has gone to a peer; the value is that of the pieces already read. -/
  | sent (v : Nat)
  /-- R212: it ends the transaction with this cause. -/
  | ends (cause : Nat)
deriving DecidableEq, Repr

/-- R122: every byte of an access is held VALID in L1. -/
def State.l1Hit (s : State) (core line : Nat) (mask : BitVec 128) : Bool :=
  match (s.coreOf core).l1Find line with
  | some w => mask &&& ~~~((s.coreOf core).l1Line line w).valid == 0
  | none => false

def Done.pois (op : MemOp) : Done := .fault { code := .pois, acc := op.acc.code } 0

/-- R75, R76: a request of operation `o` of a group that reaches the home of a line, where it is performed by `f`: answered MOVED, held, or
admitted. -/
def State.atHome (s : State) (u g o line : Nat) (f : State → State × Done) : State × Done :=
  let die := (s.teamOf u).core / 64
  if s.moves die line u g then (s.answerMoved die line u g (some o), .wait)
  else if s.behind die line u g (some o) then (s, .wait)
  else if s.blocked line u g then (s.heldThere die line u g (some o), .wait)
  else f (s.admitted die line u g (some o))

/-- An access of `n` bytes at local DPA `a`, outside a transaction: `v` is the value stored or the operand, `c` the second
operand (R122, R171, R334, R338). -/
def State.localAccess (s : State) (u g : Nat) (op : MemOp) (o a n v c : Nat) : State × Done :=
  let t := s.teamOf u
  let line := a / 128
  let m := maskAt (a % 128) n
  let near := decide (op.scope < 2)
  /- The line in L1 with the bytes of `m`, by a request to its home where one is missing. -/
  let inL1 := fun (s : State) (m : BitVec 128) (f : State → State × Done) =>
    if s.l1Hit t.core line m then f s else if s.l1Stuck t.core line then (s, .wait) else s.atHome u g o line f
  match op.acc with
  | .read =>
    if near || !op.order then
      inL1 s m fun s => match (s.count t.part (if s.l1Hit t.core line m then 0x10 else 0x11) 1).l1Load t.core line m t.vf with
        | (s1, some d) => (s1, .ok (bytesAt d (a % 128) n))
        | (s1, none) => (s1, .pois op)
    else s.atHome u g o line fun s => match (s.l1Flush t.core line m false t.vf).readHome a n t.vf 0 0 with
      | (s1, some x) => (s1, .ok x)
      | (s1, none) => (s1, .pois op)
  | .write =>
    if near || !op.order then
      if s.l1Stuck t.core line then (s, .wait) else (s.l1Store t.core line m (lineAt (a % 128) v) t.vf, .ok 0)
    else s.atHome u g o line fun s => ((s.writeHome a n v t.vf 0 1 u g).l1Through t.core line m (lineAt (a % 128) v), .ok 0)
  | _ =>
    if near then
      inL1 s (widen m) fun s => match s.l1Load t.core line (widen m) t.vf with
        | (s1, none) => (s1, .pois op)
        | (s1, some d) =>
          let old := bytesAt d (a % 128) n
          (s1.l1Store t.core line m (lineAt (a % 128) (aopNew op.fn old v c)) t.vf, .ok old)
    else s.atHome u g o line fun s => match (s.l1Flush t.core line m true t.vf).readHome a n t.vf 0 2 with
      | (s1, none) => (s1, .pois op)
      | (s1, some old) => (s1.writeHome a n (aopNew op.fn old v c) t.vf 0 2 u g, .ok old)

/-- R173, R298: a further lane of an atomic: the entry it belongs to, its number, its operand and second operand. -/
abbrev Mate := Nat × Nat × Nat × Nat

/-- R173, R189, R433: a request to a peer, with the operands of its lane and of its further lanes (ascending); one that is DOWN
completes it at once. -/
def State.peerSend (s : State) (u g : Nat) (op : MemOp) (opno lane a n v c : Nat) (mates : List Mate) : State × Done :=
  let kind := match op.acc with | .read => 0 | .write => 1 | _ => 2 + op.fn
  if (s.peerOf (a / 2 ^ 40 % 1024)).state = 2 then (s, .fault { code := .peer, acc := op.acc.code } 0)
  else (s.sendAsk { who := .lane u g opno lane (mates.map fun m => (m.1, m.2.1)), kind := kind, addr := a, n := n
                    x := ((v, c) :: mates.map (·.2.2)).map fun l => BitVec.ofNat 128 (l.1 + 2 ^ 64 * l.2) }, .sent 0)

/-- An access of `n` bytes at a DPA, outside a transaction; `mates` are the further lanes of an atomic at the address. -/
def State.dpaAccess (s : State) (u g : Nat) (op : MemOp) (opno lane a n v c : Nat) (mates : List Mate) : State × Done :=
  match a / 2 ^ 50 % 4 with
  | 0 => s.localAccess u g op opno a n v c
  | 1 =>
    match op.acc with
    | .read => (s, .ok (s.hostRead a n))
    | .write => (s.hostWrite a n v, .ok 0)
    | _ =>
      if !aopHost op.fn then (s, .fault { code := .prot, acc := op.acc.code } 0)
      else let old := s.hostRead a n
        (s.hostWrite a n (aopNew op.fn old v c), .ok old)
  | _ => s.peerSend u g op opno lane a n v c mates

/-- R130, R172: an access to bytes of a scratchpad array, at its controller. -/
def MemOp.onArray (op : MemOp) (m : Mem) (b n v c : Nat) : Mem × Nat :=
  let old := Mem.readNat m b n
  match op.acc with
  | .read => (m, old)
  | .write => (Mem.writeNat m b n v, 0)
  | _ => (Mem.writeNat m b n (aopNew op.fn old v c), old)

def MemOp.writes (op : MemOp) : Bool := op.acc != .read

/-- R213: a scratchpad line locked by another commit. -/
def State.keyLocked (s : State) (key : LineKey) (u g : Nat) : Bool :=
  s.wlocks.any fun w => w.key == key && !(w.uid == u && w.grp == g)

def State.arrayAccess (s : State) (u g : Nat) (op : MemOp) (chip : Bool) (i b n v c : Nat) : State × Done :=
  let key : LineKey := if chip then .chip i (b / 128) else .core i (b / 128)
  if s.keyLocked key u g then (s, .wait)
  else
    let m := if chip then (s.dieOf i).cs else (s.coreOf i).sp
    let r := op.onArray m b n v c
    if op.writes then
      let s1 := if chip then s.updDie i fun x => { x with cs := r.1 } else s.updCore i fun x => { x with sp := r.1 }
      (s1.noteKey key u g, .ok r.2)
    else (s, .ok r.2)

/-! ## In a transaction (R212) -/

/-- Bytes of the write buffer over what the home holds. -/
def Tx.overlay (t : Tx) (key : LineKey) (v : BitVec 1024) : BitVec 1024 :=
  ([1, 2, 3, 4].flatMap fun n => t.writes.filter fun w => w.level == n && w.key == key).foldl (fun v w => mergeLine v w.data w.mask) v

/-- R212: a buffered write; with a 17th line it ends the transaction. -/
def Tx.buffer (t : Tx) (key : LineKey) (m : BitVec 128) (v : BitVec 1024) : Option Tx :=
  let lines := (t.writes.map fun w => w.key).eraseDups
  if !lines.contains key && decide (16 ≤ lines.length) then none
  else if t.writes.any fun w => w.key == key && w.level == t.depth then
    some { t with writes := t.writes.map fun w =>
      if w.key = key ∧ w.level = t.depth then { w with mask := w.mask ||| m, data := mergeLine w.data v m } else w }
  else some { t with writes := t.writes ++ [{ level := t.depth, key := key, mask := m, data := mergeLine 0 v m }] }

/-- A read or write of `n` bytes at offset `o` of a line, in a transaction; `base` reads the line where it is homed. -/
def State.txAccess (s : State) (u g : Nat) (op : MemOp) (key : LineKey) (o n v : Nat) (base : State → State × Option (BitVec 1024)) :
    State × Done :=
  if op.writes then
    match (s.groupOf u g).tx.buffer key (maskAt o n) (lineAt o v) with
    | none => (s, .ends 3)
    | some t => (s.updGroup u g fun x => { x with tx := t }, .ok 0)
  else if s.keyLocked key u g then (s, .wait)
  else match s.txRead u g key with
    | none => (s, .ends 2)
    | some s1 =>
      match base s1 with
      | (s2, none) => (s2, .pois op)
      | (s2, some d) => (s2, .ok (bytesAt ((s2.groupOf u g).tx.overlay key d) o n))

def State.txDpa (s : State) (u g : Nat) (op : MemOp) (o a n v : Nat) : State × Done :=
  if !isLocal a then (s, .ends 7)
  else
    let go := fun (s : State) => s.txAccess u g op (.mem (a / 128)) (a % 128) n v fun s =>
      match s.homeServe (a / 128) (s.teamOf u).vf 0 0 with
      | (s1, .poison) => (s1, none)
      | (s1, .data d) => (s1, some d)
    if op.writes then go s else s.atHome u g o (a / 128) go

def State.txArray (s : State) (u g : Nat) (op : MemOp) (chip : Bool) (i b n v : Nat) : State × Done :=
  s.txAccess u g op (if chip then .chip i (b / 128) else .core i (b / 128)) (b % 128) n v fun s =>
    (s, some (BitVec.ofNat 1024 (Mem.readNat (if chip then (s.dieOf i).cs else (s.coreOf i).sp) (b / 128 * 128) 128)))

/-! ## One lane -/

/-- R36, R37: the translations of the pieces of a lane's access, or the first that fails or is missing. -/
def State.pieces (s : State) (u : Nat) (acc : Acc) : List (Nat × Nat) → Except Done (List (Nat × Nat))
  | [] => .ok []
  | (va, n) :: rest =>
    let t := s.teamOf u
    match s.tlbFind t.core t.part t.asid va acc with
    | none => .error (.walk va)
    | some x =>
      match x.check acc with
      | some f => .error (.fault f va)
      | none =>
        match State.pieces s u acc rest with
        | .error d => .error d
        | .ok ps => .ok ((x.at_ va, n) :: ps)

/-- The pieces of an access performed one after another; the values read make one value. -/
def State.doPieces (s : State) (u g : Nat) (op : MemOp) (opno lane : Nat) (v c : Nat) (mates : List Mate) :
    Nat → List (Nat × Nat) → State × Done
  | _, [] => (s, .ok 0)
  | k, (a, n) :: rest =>
    let vk := if n = op.n then v else v / 2 ^ (32 * k) % 2 ^ 32
    let r := if (s.groupOf u g).inTx then s.txDpa u g op opno a n vk else s.dpaAccess u g op opno (lane + 32 * k) a n vk c mates
    match r with
    | (s1, .ok x) =>
      match State.doPieces s1 u g op opno lane v c mates (k + 1) rest with
      | (s2, .ok y) => (s2, .ok (x + 2 ^ (8 * n) * y))
      | (s2, .sent y) => (s2, .sent (x + 2 ^ (8 * n) * y))
      | e => e
    | (s1, .sent x) =>
      match State.doPieces s1 u g op opno lane v c mates (k + 1) rest with
      | (s2, .ok y) => (s2, .sent (x + 2 ^ (8 * n) * y))
      | (s2, .sent y) => (s2, .sent (x + 2 ^ (8 * n) * y))
      | e => e
    | e => e

/-- The operand of a lane, and its second operand. -/
def LaneRec.operands (r : LaneRec) (n : Nat) : Nat × Nat := (r.value % 2 ^ (8 * n), r.value / 2 ^ (8 * n) % 2 ^ (8 * n))

/-- R16: the checks of one lane, in their order, and its access. -/
def State.laneAccess (s : State) (u g : Nat) (op : MemOp) (opno lane : Nat) (r : LaneRec) (mates : List Mate) : State × Done :=
  let va := r.addr.toNat
  let v := (r.operands op.n).1
  let c := (r.operands op.n).2
  if 2 ^ 52 ≤ va then (s, .fault { code := .prot, acc := op.acc.code } va)
  else if va % op.n ≠ 0 then (s, .fault { code := .align, acc := op.acc.code } va)
  else match s.spot u g lane va op.n op.acc with
    | .bad f => (s, .fault f va)
    | .sp core b =>
      if (s.coreOf core).locked b op.n op.writes then (s, .fault { code := .rlk, acc := op.acc.code } va)
      else if op.peerOnly then (s, .wait)
      else if (s.groupOf u g).inTx then s.txArray u g op false core b op.n v
      else s.arrayAccess u g op false core b op.n v c
    | .cs die b =>
      if op.peerOnly then (s, .wait)
      else if (s.groupOf u g).inTx then s.txArray u g op true die b op.n v else s.arrayAccess u g op true die b op.n v c
    | .global ps =>
      match s.pieces u (if (s.groupOf u g).inTx && op.acc == .write then .txWrite else op.acc) ps with
      | .error d => (s, d)
      | .ok qs =>
        let die := (s.teamOf u).core / 64
        let ls := (qs.filter fun p => isLocal p.1).map fun p => p.1 / 128
        if op.peerOnly && qs.any (fun p => p.1 / 2 ^ 50 % 4 != 2) then (s, .wait)
        else if 1 < qs.length && ls.any (fun l => s.moves die l u g) then
          ((ls.filter fun l => s.moves die l u g).foldl (fun s l => s.answerMoved die l u g (some opno)) s, .wait)
        else if 1 < qs.length && ls.any fun l => s.blocked l u g || s.behind die l u g (some opno) || s.l1Stuck (s.teamOf u).core l then
          ((ls.filter fun l => !s.behind die l u g (some opno)).foldl (fun s l => s.heldThere die l u g (some opno)) s, .wait)
        else s.doPieces u g op opno lane v c mates 0 qs

/-- R37: the walk that a lane has joined has not ended. -/
def State.walkRuns (s : State) (u id : Nat) : Bool := (s.dieOf ((s.teamOf u).core / 64)).walks.any fun w => w.id == id

def LaneRec.withFault (r : LaneRec) (f : Flt) (va : Nat) : LaneRec :=
  { r with code := f.code.code, kind := f.kind, acc := f.acc, fva := BitVec.ofNat 64 va, fppa := f.ppa, walk := 0 }

/-- R173: lane `m` of an entry stands above `l`, with the address `at_` of its access still to be made. -/
def RqEntry.mate (x : RqEntry) (op : MemOp) (l : Nat) (at_ : DWord) (m : Nat) : Bool :=
  let r := x.recOf m
  decide (l < m) && x.lanes.getLsbD m && (!op.scalar || m % 4 == 0) && r.addr == at_ && !r.got && !r.sent && r.code == 0

/-- R173, R298: the further lanes, of the entries `xs` of one atomic, that join the request of lane `l` at an address. -/
def matesOf (xs : List RqEntry) (op : MemOp) (l : Nat) (at_ : DWord) : List Mate :=
  if op.acc != .atomic || levelOf at_.toNat != .global then []
  else (List.range 32).filterMap fun m => (xs.find? fun x => x.mate op l at_ m).map fun x => (x.op, m, (x.recOf m).operands op.n)

/-- One lane of an entry: performed, faulted, or left waiting; `beside` are the entries of the same atomic in co-issued paths. The
third component is the cause with which the lane ends a transaction, or 0. -/
def State.laneStep (u g : Nat) (op : MemOp) (beside : List RqEntry) (a : State × RqEntry × Nat) (l : Nat) : State × RqEntry × Nat :=
  let s := a.1
  let x := a.2.1
  let r := x.recOf l
  if r.got || r.code != 0 || r.sent || a.2.2 != 0 then a
  else match s.laneAccess u g op x.op l r (matesOf (x :: beside) op l r.addr) with
    | (s1, .ok v) => (s1, x.setRec l { (if op.ret then r.setValue v else r) with got := true, walk := 0 }, 0)
    | (s1, .fault f va) => (s1, x.setRec l (r.withFault f va), 0)
    | (s1, .walk va) =>
      if r.walk != 0 && s1.walkRuns u r.walk then (s1, x, 0)
      else
        let t := s1.teamOf u
        let q := s1.queueWalk (t.core / 64) { part := t.part, asid := t.asid, vf := t.vf, va := va, acc := op.acc, core := some t.core }
        (q.1, x.setRec l { r with walk := q.2, past := false, fva := BitVec.ofNat 64 va }, 0)
    | (s1, .wait) => (s1, x.setRec l { r with walk := 0, past := true }, 0)
    | (s1, .sent v) =>
      (s1, (l :: (matesOf [x] op l r.addr).map (·.2.1)).foldl (fun x m => x.updRec m fun r =>
        { (if op.acc = .read then r.setValue v else r) with sent := true, walk := 0 }) x, 0)
    | (s1, .ends c) => (s1, x, c)

/-- R157: two lanes of a store write a common byte. -/
def RqEntry.overlaps (x : RqEntry) (n : Nat) (ls : List Nat) : Bool :=
  ls.any fun l => ls.any fun m => decide (l < m) && decide ((x.recOf l).addr.toNat / n = (x.recOf m).addr.toNat / n)

def insertRank (n : Nat) (l : Nat) : List Nat → List Nat
  | [] => [l]
  | m :: ms => if Config.laneRank n l ≤ Config.laneRank n m then l :: m :: ms else m :: insertRank n l ms

/-- R157: the order in which the lanes of an entry are performed: ascending (R173), but for a store whose lanes write a
common byte, which ends with the value of one of them (log 3). -/
def RqEntry.order (x : RqEntry) (op : MemOp) (draw : Nat) : List Nat :=
  let ls := x.doing op.scalar
  if op.acc = .write && x.overlaps op.n ls then ls.foldl (fun o l => insertRank draw l o) [] else ls

/-! ## The end of an entry -/

/-- The value that a lane's destination takes (R330). -/
def MemOp.extend (op : MemOp) (v : Nat) : Nat :=
  if op.signed && decide (2 ^ (8 * op.n - 1) ≤ v) then v + (2 ^ 32 - 2 ^ (8 * op.n)) else v

/-- R43: lanes of an entry at issue whose data is held and has not been written. -/
def RqEntry.unwritten (x : RqEntry) (scalar : Bool) : List Nat :=
  ({ x with lanes := x.act } : RqEntry).doing scalar |>.filter fun l => (x.recOf l).got && !(x.recOf l).wrote

/-- R331, R403: write the destination lanes whose data is held. -/
def RqEntry.deliverTo (x : RqEntry) (op : MemOp) (g : Group) : Group :=
  if !op.ret then g
  else (x.unwritten op.scalar).foldl (fun g l =>
    let v := op.extend (x.recOf l).value
    (List.range ((op.n + 3) / 4)).foldl (fun g k =>
      let w := BitVec.ofNat 32 (v / 2 ^ (32 * k))
      if op.scalar then g.setS (l / 4) (op.dest + k) w else g.setV (op.dest + k) l w) g) g

/-- A lane mask of an entry's faulting lanes: a slice's four lanes for a scalar entry (R297). -/
def RqEntry.lanesBy (x : RqEntry) (scalar : Bool) (p : LaneRec → Bool) : Word :=
  wordOfBits fun l => x.lanes.getLsbD l && p (x.recOf (if scalar then l / 4 * 4 else l))

/-- R43, R44: post the records of an entry's PF lanes, one for each 64 KiB page, under one tag. A record that fails turns
its lanes' PF into PROT (R50). -/
def State.postFaults (s : State) (u g : Nat) (op : MemOp) (x : RqEntry) : State × RqEntry :=
  let t := s.teamOf u
  let pf := (x.doing op.scalar).filter fun l => (x.recOf l).code == 6
  let pages := (pf.map fun l => (x.recOf l).fva.toNat / 65536).eraseDups
  let r := s.newTag t.part
  pages.foldl (fun (a : State × RqEntry) pg =>
    let ls := pf.filter fun l => (x.recOf l).fva.toNat / 65536 == pg
    let l0 := x.recOf (ls.headD 0)
    let b := a.1.postRecord {
      fatal := false, code := 6, kind := l0.kind, acc := l0.acc, part := t.part, asid := t.asid, vf := t.vf, va := l0.fva
      ppa := recPpa l0.kind l0.fppa, ident := identWord t g x.slices, pc := x.pc, tag := r.2, io := l0.fppa / 4096
      lanes := x.lanesBy op.scalar fun y => y.code == 6 && y.fva.toNat / 65536 == pg }
    if b.2 = .failed then (b.1, ls.foldl (fun x l => x.updRec l fun y => { y with code := 7, failed := true, fva := l0.fva }) a.2)
    else (b.1, { a.2 with held := true, tag := r.2 })) (r.1, x)

/-- R408: the number of an operation's entry at its level. -/
def Group.place (g : Group) (op : Nat) : Nat := ((g.levelOf op).findIdx? fun x => x.op == op).getD 0

/-- R402, R408: the trap that an entry delivers: the lowest lane with a delivered code decides it. -/
def RqEntry.trapInfo (x : RqEntry) (op : MemOp) (g : Group) (p : LaneRec → Bool) : TrapInfo :=
  let l := ((x.doing op.scalar).filter fun l => p (x.recOf l)).headD 0
  let r := x.recOf l
  let at_ := g.pathOf (1#8 <<< (l / 4))
  { slices := at_.slices, atIssue := false, code := .ofCode r.code, acc := r.acc, kind := r.kind, deliv := g.place x.op, pc := at_.pc
    addr := if r.failed then r.fva else r.addr
    lanes := x.lanesBy op.scalar fun y => p y && y.code == r.code }

/-- Put an entry back at its place. -/
def State.setEntry (s : State) (u g : Nat) (x : RqEntry) : State := s.updGroup u g fun y => y.put x

/-- R403, R410: an entry whose lanes have all finished: destinations are written, the operation completes. -/
def State.endEntry (s : State) (u g : Nat) (op : MemOp) (x : RqEntry) : State :=
  let s0 := if op.acc = .read then s.capture (s.teamOf u).part 0 (s.clock.toNat - x.time) else s
  let s1 := s0.updGroup u g fun y => ((y.atOp x.op (x.deliverTo op)).remove x.op).completeOp op.cls x.op
  if op.order && op.acc == .read && decide (2 ≤ op.scope) && !(s.groupOf u g).inTx then s1.acquireCore (s.teamOf u).core else s1

/-- R43, R297, R331: an entry that stays holds only the lanes that have not been performed. -/
def RqEntry.narrow (x : RqEntry) (scalar : Bool) : RqEntry := { x with lanes := x.lanesBy scalar fun z => !z.got }

/-- An entry after a pass over its lanes: it stays while a lane waits; then PF lanes post their records, a delivered trap
is raised, or the entry ends. What befalls an entry of program level while the group is at trap level is recorded in it, to be
delivered after `rte` (R407); while other paths of the group are in the middle of a run, it is delivered once they have come to
their run boundary (R405); and an exited path has nobody left to take it (log 12). -/
def State.closeEntry (s : State) (u g : Nat) (op : MemOp) (x0 : RqEntry) : State :=
  let x := x0.narrow op.scalar
  let rs := (x.doing op.scalar).map x.recOf
  let y := s.groupOf u g
  let later := y.atTrap && y.prog x.op
  let special := y.inTx || y.atTrap && !later
  if rs.any fun r => !r.got && r.code == 0 then s.setEntry u g x
  else if x.slices &&& y.live == 0 then s.endEntry u g op x
  else
    let r := if !special && !x.held && rs.any (fun r => r.code == 6) then s.postFaults u g op x else (s, x)
    let x1 := r.2
    let deliv := fun (z : LaneRec) => z.code != 0 && (special || z.code != 6)
    let rs1 := (x1.doing op.scalar).map x1.recOf
    let at_ := (y.pathOf (1#8 <<< lowSlice x1.slices)).slices
    if rs1.any deliv then
      if later then r.1.setEntry u g { x1 with lane := x1.lane.map fun z => (z.1, { z.2 with due := deliv z.2 }) }
      else if !y.inTx && s.othersRun u g at_ then (r.1.setEntry u g x1).leaveRun u g at_
      else
        let s1 := r.1.updGroup u g fun y => x1.deliverTo op y
        (s1.setEntry u g { x1 with lane := x1.lane.map fun z => (z.1, { z.2 with
          failed := false, due := false, wrote := z.2.wrote || z.2.got }) }).raise u g (x1.trapInfo op (r.1.groupOf u g) deliv)
    else if x1.held then r.1.setEntry u g x1
    else r.1.endEntry u g op x1

/-- R407: a fault that comes to a program-level entry while the group is at trap level, to be delivered after `rte`. -/
def RqEntry.later (x : RqEntry) : RqEntry :=
  { x with lane := x.lane.map fun z => (z.1, { z.2 with due := z.2.due || (z.2.code != 0 && z.2.code != 6) }) }

/-- What comes to entries of both levels. -/
def Group.onEntries (g : Group) (f : RqEntry → RqEntry) : Group :=
  { g with rq := g.rq.map fun x => if g.atTrap then (f x).later else f x, trq := g.trq.map f }

/-! ## Tile entries (R366, R367, R370, R397, R404) -/

/-- The descriptor register of a tile instruction, or its operand's, and the first bit of the tile number in it. -/
def tileOp : Instr → Option (Nat × Nat)
  | .mma _ _ _ x .. => some (x.toNat, 16)
  | .accxRd _ _ _ x _ => some (x.toNat, 16)
  | .accxWr _ _ _ x _ => some (x.toNat, 16)
  | .accxRdz _ _ _ x _ => some (x.toNat, 16)
  | .accAlloc _ _ a => some (a.toNat, 0)
  | .accFree _ a => some (a.toNat, 0)
  | .accZero _ a => some (a.toNat, 0)
  | _ => none

/-- The instruction of an entry. -/
def RqEntry.instr (x : RqEntry) : Option Instr :=
  match decodeWord x.insn with
  | .ok i => some i
  | .error _ => none

def RqEntry.tileOp (x : RqEntry) : Option (Nat × Nat) := x.instr.bind Machine.tileOp

/-- The descriptor of a tile entry, kept beside its lanes. -/
def RqEntry.desc (x : RqEntry) : Word := (x.recOf 32).d0
def RqEntry.setDesc (x : RqEntry) (v : Word) : RqEntry := x.updRec 32 fun r => { r with d0 := v }

/-- The tile that a tile entry names; 64 names none. -/
def RqEntry.tile (x : RqEntry) : Nat :=
  match x.tileOp with
  | some (_, lo) => x.desc.toNat / 2 ^ lo % 256
  | none => 64

/-- R366: a team may use a tile. -/
def State.mayUse (s : State) (u tile : Nat) : Bool :=
  decide (tile < 64) && Sparse.get 0 (s.engineOf ((s.teamOf u).core / 4)).owner tile == (s.teamOf u).tileOwner u

/-- R367: columns of an `accx` width. -/
def accxCols (w : BitVec 2) : Nat := 8 * 2 ^ w.toNat

/-- R366, R367, R370: an operand that raises PROT. -/
def State.tileBad (s : State) (u : Nat) (i : Instr) (v : Word) : Bool :=
  let n := v.toNat
  let row := fun (w : BitVec 2) =>
    decide (n / 2 ^ 24 ≠ 0) || decide (n / 512 % 128 ≠ 0) || decide (n % 8 ≠ 0) || decide (512 < n % 512 + accxCols w) || !s.mayUse u (n / 65536 % 256)
  match i with
  | .mma .. => decide (n / 2 ^ 29 ≠ 0) || !s.mayUse u (n / 65536 % 256)
  | .accxRd _ _ _ _ w => row w
  | .accxWr _ _ _ _ w => row w
  | .accxRdz _ _ _ _ w => row w
  | .accAlloc .. => decide (64 < n)
  | .accFree .. => !s.mayUse u n
  | .accZero .. => !s.mayUse u n
  | _ => false

/-- R397: room for another entry of a team in its engine's reservation table. -/
def State.tableRoom (s : State) (u n : Nat) : Bool :=
  let q := (s.engineOf ((s.teamOf u).core / 4)).resv
  decide (q.length + n ≤ 64) && decide ((q.filter fun r => r.uid == u).length + n ≤ 32)

/-- R397: a tile entry takes a reservation, unless it has one or finds no room. -/
def State.reserve (s : State) (u g : Nat) (x : RqEntry) : State :=
  let t := s.teamOf u
  if (s.engineOf (t.core / 4)).resv.any fun r => r.uid == u && r.grp == g && r.op == x.op then s
  else if s.tableRoom u 1 then
    s.updEngine (t.core / 4) fun e => { e with
      resv := e.resv ++ [{ uid := u, grp := g, op := x.op, tile := x.tile, prio := t.prio, time := s.clock.toNat }] }
  else s

/-- R402, R408: a tile entry traps, with every lane that it is to perform. At trap level one of program level only records it:
after `rte` its check is made afresh (R407, R411). -/
def State.tileTrap (s : State) (u g : Nat) (x : RqEntry) (code : Trap) (addr : DWord) : State :=
  let x1 := { x with lane := (laneList x.lanes).foldl (fun m l => Sparse.set {} m l { code := code.code }) x.lane }
  let y := s.groupOf u g
  let at_ := y.pathOf (1#8 <<< lowSlice x.slices)
  let s1 := s.setEntry u g x1
  if y.atTrap && y.prog x.op then s1
  else s1.raise u g
    { slices := at_.slices, atIssue := false, code := code, lanes := x.lanes, addr := addr, deliv := y.place x.op, pc := at_.pc }

/-- R403: a tile entry is over. -/
def State.endTile (s : State) (u g : Nat) (x : RqEntry) : State := s.updGroup u g fun y => (y.remove x.op).completeOp .tl x.op

/-- R371: the A registers of an `mma`, for every live lane of its slices: register offset × 32 + lane. -/
def Group.regRows (g : Group) (sl : BitVec 8) (a : BitVec 7) (f : BitVec 3) (c : BitVec 2) : Sparse Word :=
  let ls := laneList (g.liveLanes sl)
  (List.range (mmaRegs f c)).flatMap fun j => ls.map fun l => (j * 32 + l, g.vreg (a.toNat + j) l)

/-- R404: an entry whose A came from registers holds them by reference. -/
def RqEntry.rereadA (x : RqEntry) (g : Group) : Instr → RqEntry
  | .mma _ _ a _ f _ _ _ c => if x.latched then x else { x with rowsA := g.regRows x.slices a f c }
  | _ => x

/-- R404, R411: a tile entry takes its descriptor and A from their registers and asks for the engine; what the latch gave
it stays (log 28). -/
def State.tileAttempt (s : State) (u g : Nat) (x : RqEntry) : State :=
  match x.instr, x.tileOp with
  | some ins, some (r, _) =>
    if x.lanes = 0 then s.endTile u g x
    else
      let y := s.groupOf u g
      let z : Group := if y.prog x.op then { y with atTrap := false } else y
      let x1 := (if y.bound r then x else x.setDesc (z.sreg (lowSlice x.slices) r)).rereadA y ins
      if s.tileBad u ins x1.desc then s.tileTrap u g x1 .prot 0 else (s.setEntry u g x1).reserve u g x1
  | _, _ => s

/-- R486: every lane of an entry has passed the checks that can raise PF, ALIGN, PROT, SPB or RLK. -/
def RqEntry.checked (x : RqEntry) (scalar : Bool) : Bool :=
  !x.pipe && (x.doing scalar).all fun l => (x.recOf l).got || (x.recOf l).sent || (x.recOf l).past

/-- Two accesses, each naturally aligned, may touch a common byte: they name one page offset, or a window (R159). -/
def mayMeet (a n b m : Nat) : Bool :=
  !(levelOf a == .global && levelOf b == .global)
    || (decide (a % 65536 < b % 65536 + m) && decide (b % 65536 < a % 65536 + n))

/-- Lanes that two entries have still to perform may touch a common byte. -/
def RqEntry.meets (x : RqEntry) (op : MemOp) (y : RqEntry) (oy : MemOp) : Bool :=
  ((y.doing oy.scalar).filter fun l => !(y.recOf l).got).any fun l =>
    (x.doing op.scalar).any fun m => mayMeet (x.recOf m).addr.toNat op.n (y.recOf l).addr.toNat oy.n

/-- R160, R165, R189, R486: what an entry may perform beside an earlier one of its group: everything, accesses to peer
memory, or nothing. -/
inductive May where
  | all | peers | none
deriving DecidableEq, Repr

def May.and : May → May → May
  | .none, _ => .none
  | _, .none => .none
  | .peers, _ => .peers
  | _, .peers => .peers
  | .all, .all => .all

def RqEntry.beside (x : RqEntry) (op : MemOp) (y : RqEntry) : May :=
  match y.memOp with
  | none => .all
  | some oy =>
    let left := (y.doing oy.scalar).filter fun l => !(y.recOf l).got
    if !y.checked oy.scalar then .none
    else if left.isEmpty then .all
    else if x.meets op y oy then .none
    else if op.order && op.acc == .write && (op.scope == 4 || left.any fun l => !(y.recOf l).sent) then .none
    else if oy.order && oy.acc == .read then (if oy.scope = 4 then .none else .peers)
    else .all

/-- R486: what an entry may perform beside the earlier ones of its level. -/
def Group.may (g : Group) (x : RqEntry) (op : MemOp) : May :=
  (((g.levelOf x.op).takeWhile fun y => y.op != x.op).map fun y => x.beside op y).foldl May.and .all

/-- R298: the entries of one scalar atomic in co-issued paths, of which `x` is one. -/
def Group.issuedWith (g : Group) (x : RqEntry) : List RqEntry :=
  (g.levelOf x.op).filter fun y => !y.pipe && y.time == x.time && y.pc == x.pc && y.insn == x.insn

/-- R298: entries of one scalar atomic in co-issued paths: their slices are performed in ascending order, and the entries then
end in theirs. -/
def State.attemptSlices (s : State) (u g : Nat) (xs : List RqEntry) (op0 : MemOp) : State :=
  let y := s.groupOf u g
  let m := (xs.map fun x => y.may x op0).foldl May.and .all
  if m = .none then s
  else
    let op := if m = .peers then { op0 with peerOnly := true } else op0
    let r := (List.range 8).foldl (fun (a : State × List RqEntry) k =>
      match a.2.findIdx? fun x => x.lanes.getLsbD (4 * k) with
      | none => a
      | some i =>
        match a.2[i]? with
        | none => a
        | some x =>
          let at_ := (x.recOf (4 * k)).addr
          let b := State.laneStep u g op (a.2.eraseIdx i) (a.1, x, 0) (4 * k)
          let sent := !(x.recOf (4 * k)).sent && (b.2.1.recOf (4 * k)).sent
          (b.1, (a.2.set i b.2.1).map fun z =>
            if !sent then z
            else ((matesOf [z] op (4 * k) at_).map (·.2.1)).foldl (fun z m => z.updRec m fun r => { r with sent := true, walk := 0 }) z))
      (s, xs)
    let s1 := r.2.foldl (fun s x => s.setEntry u g x) r.1
    r.2.foldl (fun s x => if (s.groupOf u g).atTrap == y.atTrap && ((s.groupOf u g).entry x.op).isSome then s.closeEntry u g op x else s) s1

/-- One pass over the entry of operation `o`. Entries of PIPE come first (R411, R413), those of a team that is being saved stay
as they stand (R405), and one with no lane left completes at once. -/
def State.attempt (s : State) (u g o : Nat) : State :=
  let y := s.groupOf u g
  match y.entry o with
  | none => s
  | some x =>
    if (y.levelOf o).any (fun z => z.pipe) || (s.teamOf u).place != .resident then s
    else match x.memOp with
    | none => s.tileAttempt u g x
    | some op0 =>
      let m := y.may x op0
      let with_ := y.issuedWith x
      if (x.doing op0.scalar).isEmpty then s.closeEntry u g op0 x
      else if m = .none then s
      else if op0.scalar && op0.acc == .atomic && decide (1 < with_.length) then s.attemptSlices u g with_ op0
      else
      let op := if m = .peers then { op0 with peerOnly := true } else op0
      let r := (x.order op y.draw).foldl (State.laneStep u g op []) (s, x, 0)
      if r.2.2 != 0 then r.1.txFail u g r.2.2 0
      else
        let s1 := if op.acc = .write && x.overlaps op.n (x.doing op.scalar) then r.1.updGroup u g fun y => { y with draw := y.draw + 1 } else r.1
        s1.closeEntry u g op r.2.1

/-! ## Issue -/

/-- R403, R404, R207: a path's memory instruction takes an entry with its addresses and data, is counted unless in a
transaction, and the path goes on. -/
def State.entryPush (s : State) (sl : BitVec 8) (i : Instr) (op : MemOp) (act : Word) (rec : Nat → LaneRec) : State :=
  let w := (encode i).getD 0
  let g := s.curGroup
  let x : RqEntry :=
    { insn := w, orig := w, slices := sl, lanes := act, act := act, pc := (g.pathOf sl).pc, rm := g.fmode, cls := some op.cls, op := g.nextOp, time := s.clock.toNat
      lane := (laneList act).foldl (fun m l => Sparse.set {} m l (rec l)) [] }
  s.updCur fun g =>
    let g1 := if g.inTx then g else g.updCounters fun c => c.issue op.cls g.nextOp
    ({ (g1.setQueue (g1.queue ++ [x])) with nextOp := g1.nextOp + 1 } : Group).stepPast sl

/-- The lanes of a new entry are performed as far as they can be. -/
def State.memPush (s : State) (sl : BitVec 8) (i : Instr) (op : MemOp) (act : Word) (rec : Nat → LaneRec) : State :=
  (s.entryPush sl i op act rec).attempt s.run.uid s.run.grp s.curGroup.nextOp

/-- R459, R412: a path's entry of a memory instruction whose address adder mismatched: everything by register reference. -/
def State.pipePush (s : State) (sl : BitVec 8) (i : Instr) (cls : Option OpClass) (act : Word) : State :=
  s.updCur fun g =>
    let x := { pipeEntry ((encode i).getD 0) sl act act (g.pathOf sl).pc g.fmode true cls g.nextOp (fun _ => {}) with lane := [] }
    let g1 := match cls with | some k => if g.inTx || act == 0 then g else g.updCounters fun c => c.issue k g.nextOp | none => g
    ({ g1.setQueue (g1.queue ++ [x]) with nextOp := g1.nextOp + 1 } : Group).stepPast sl

/-- R16, R37: a lane's access would miss and find no room for a walk; one that fails a check before the translation does not. -/
def State.laneStalls (s : State) (u g : Nat) (op : MemOp) (l va : Nat) : Bool :=
  let t := s.teamOf u
  if 2 ^ 52 ≤ va || va % op.n != 0 then false
  else match s.spot u g l va op.n op.acc with
  | .global ps => match s.pieces u op.acc ps with
    | .error (.walk a) => !(s.dieOf (t.core / 64)).walks.any fun w => w.joins t.part t.asid a
    | _ => false
  | _ => false

/-- R37: with its partition's share of the miss queue full, an instruction of which a lane misses stays unissued. -/
def State.missStall (s : State) (u g : Nat) (op : MemOp) (act : Word) (at_ : Nat → DWord) : Bool :=
  (s.dieOf ((s.teamOf u).core / 64)).missFull (s.teamOf u).part && (laneList act).any fun l => s.laneStalls u g op l (at_ l).toNat

/-- R332, R207, R212, R334, R459: a memory instruction `i`: `act` and `rec` give a path's lanes with their addresses and
data. An empty `act` makes no access. A full counter, or a release that must wait, holds the instruction back. The
address adders are checked once, before any lane makes an access. -/
def State.memInstr (s : State) (e : Bool) (i : Instr) (srcs : List Nat) (act : BitVec 8 → Word) (rec : Group → Nat → LaneRec) : State :=
  match memOp i with
  | none => s
  | some op =>
    let g := s.curGroup
    let some_ := act s.run.slices != 0
    let n := ((g.issuers s.run.slices).filter fun sl => act sl != 0).length
    let rel := op.order && op.acc == .write && !g.inTx && some_
    if (!g.inTx && g.ctrFull op.cls n) || g.queueFull n then s
    else if some_ && g.inTx && op.acc == .atomic then s.txFail s.run.uid s.run.grp 7 0
    else if (rel && s.stuckAt op.scope) || s.missStall s.run.uid s.run.grp op (act s.run.slices) (fun l => (rec g l).addr) then s
    else
      let go := fun (s : State) =>
        let s1 := if rel then s.releaseAt op.scope else s
        let s2 := s1.updCur fun g => g.advance srcs
        if op.scalar && op.acc == .atomic && decide (1 < n) then
          ((s2.eachPath fun sl s => s.entryPush sl i op (act sl) (rec g)).attempt s.run.uid s.run.grp g.nextOp).tally e
        else (s2.eachPath fun sl s =>
          if act sl = 0 then s.updCur fun g => g.stepPast sl
          else s.memPush sl i op (act sl) (rec g)).tally e
      match s.checkOp [5] with
      | (s0, none) => go s0
      | (s0, some u) => ((s0.eachPath fun sl s => s.pipePush sl i (some op.cls) (act sl)).mismatch u).tally e

end Sys2Proof.Machine
end

