-- ==== Sys2Proof/Machine/Issue.lean ====
section
/-! DEFINITION. Which registers an instruction names, and what holds an instruction back before it issues (R197, R203, R404). -/

namespace Sys2Proof.Machine

/-- The lane registers that an instruction names: first and number of each operand (R197, R250). -/
def laneNames : Instr → List (Nat × Nat)
  | .fadd _ _ d a b => [(d.toNat, 1), (a.toNat, 1), (b.toNat, 1)]
  | .fsub _ _ d a b => [(d.toNat, 1), (a.toNat, 1), (b.toNat, 1)]
  | .fmul _ _ d a b => [(d.toNat, 1), (a.toNat, 1), (b.toNat, 1)]
  | .ffma _ _ d a b => [(d.toNat, 1), (a.toNat, 1), (b.toNat, 1)]
  | .fmin _ _ d a b => [(d.toNat, 1), (a.toNat, 1), (b.toNat, 1)]
  | .fmax _ _ d a b => [(d.toNat, 1), (a.toNat, 1), (b.toNat, 1)]
  | .fcmp _ _ _ _ a b => [(a.toNat, 1), (b.toNat, 1)]
  | .fneg _ _ d a => [(d.toNat, 1), (a.toNat, 1)]
  | .fabs _ _ d a => [(d.toNat, 1), (a.toNat, 1)]
  | .fsqrt _ _ d a => [(d.toNat, 1), (a.toNat, 1)]
  | .frcp _ _ d a => [(d.toNat, 1), (a.toNat, 1)]
  | .frsqrt _ _ d a => [(d.toNat, 1), (a.toNat, 1)]
  | .fexp2 _ _ d a => [(d.toNat, 1), (a.toNat, 1)]
  | .flog2 _ _ d a => [(d.toNat, 1), (a.toNat, 1)]
  | .fsin _ _ d a => [(d.toNat, 1), (a.toNat, 1)]
  | .fcos _ _ d a => [(d.toNat, 1), (a.toNat, 1)]
  | .frint _ _ d a => [(d.toNat, 1), (a.toNat, 1)]
  | .ffloor _ _ d a => [(d.toNat, 1), (a.toNat, 1)]
  | .fceil _ _ d a => [(d.toNat, 1), (a.toNat, 1)]
  | .ftrunc _ _ d a => [(d.toNat, 1), (a.toNat, 1)]
  | .fclass _ _ d a => [(d.toNat, 1), (a.toNat, 1)]
  | .sel _ _ d a b => [(d.toNat, 1), (a.toNat, 1), (b.toNat, 1)]
  | .hfma2 _ _ d a b => [(d.toNat, 1), (a.toNat, 1), (b.toNat, 1)]
  | .bfma2 _ _ d a b => [(d.toNat, 1), (a.toNat, 1), (b.toNat, 1)]
  | .ldAcq _ _ d a z _ => [(d.toNat, sizeRegs z), (a.toNat, 2)]
  | .stRel _ _ d a z _ => [(d.toNat, sizeRegs z), (a.toNat, 2)]
  | .pfx _ _ a _ _ => [(a.toNat, 1)]
  | .iadd _ _ d a b => [(d.toNat, 1), (a.toNat, 1), (b.toNat, 1)]
  | .isub _ _ d a b => [(d.toNat, 1), (a.toNat, 1), (b.toNat, 1)]
  | .imul _ _ d a b => [(d.toNat, 1), (a.toNat, 1), (b.toNat, 1)]
  | .imulh _ _ d a b => [(d.toNat, 1), (a.toNat, 1), (b.toNat, 1)]
  | .umulh _ _ d a b => [(d.toNat, 1), (a.toNat, 1), (b.toNat, 1)]
  | .imad _ _ d a b => [(d.toNat, 1), (a.toNat, 1), (b.toNat, 1)]
  | .andLane _ _ d a b => [(d.toNat, 1), (a.toNat, 1), (b.toNat, 1)]
  | .orLane _ _ d a b => [(d.toNat, 1), (a.toNat, 1), (b.toNat, 1)]
  | .xorLane _ _ d a b => [(d.toNat, 1), (a.toNat, 1), (b.toNat, 1)]
  | .shlLane _ _ d a b => [(d.toNat, 1), (a.toNat, 1), (b.toNat, 1)]
  | .shrLane _ _ d a b => [(d.toNat, 1), (a.toNat, 1), (b.toNat, 1)]
  | .sraLane _ _ d a b => [(d.toNat, 1), (a.toNat, 1), (b.toNat, 1)]
  | .imin _ _ d a b => [(d.toNat, 1), (a.toNat, 1), (b.toNat, 1)]
  | .imax _ _ d a b => [(d.toNat, 1), (a.toNat, 1), (b.toNat, 1)]
  | .umin _ _ d a b => [(d.toNat, 1), (a.toNat, 1), (b.toNat, 1)]
  | .umax _ _ d a b => [(d.toNat, 1), (a.toNat, 1), (b.toNat, 1)]
  | .icmp _ _ _ _ a b => [(a.toNat, 1), (b.toNat, 1)]
  | .ineg _ _ d a => [(d.toNat, 1), (a.toNat, 1)]
  | .iabs _ _ d a => [(d.toNat, 1), (a.toNat, 1)]
  | .notLane _ _ d a => [(d.toNat, 1), (a.toNat, 1)]
  | .popcLane _ _ d a => [(d.toNat, 1), (a.toNat, 1)]
  | .clzLane _ _ d a => [(d.toNat, 1), (a.toNat, 1)]
  | .ctzLane _ _ d a => [(d.toNat, 1), (a.toNat, 1)]
  | .brev _ _ d a => [(d.toNat, 1), (a.toNat, 1)]
  | .bswap _ _ d a => [(d.toNat, 1), (a.toNat, 1)]
  | .sext8 _ _ d a => [(d.toNat, 1), (a.toNat, 1)]
  | .sext16 _ _ d a => [(d.toNat, 1), (a.toNat, 1)]
  | .zext8 _ _ d a => [(d.toNat, 1), (a.toNat, 1)]
  | .zext16 _ _ d a => [(d.toNat, 1), (a.toNat, 1)]
  | .laneid _ _ d => [(d.toNat, 1)]
  | .bfx _ _ d a b => [(d.toNat, 1), (a.toNat, 1), (b.toNat, 1)]
  | .bfi _ _ d a b => [(d.toNat, 1), (a.toNat, 1), (b.toNat, 1)]
  | .iaddi _ _ d a _ => [(d.toNat, 1), (a.toNat, 1)]
  | .imuli _ _ d a _ => [(d.toNat, 1), (a.toNat, 1)]
  | .andiLane _ _ d a _ => [(d.toNat, 1), (a.toNat, 1)]
  | .oriLane _ _ d a _ => [(d.toNat, 1), (a.toNat, 1)]
  | .xoriLane _ _ d a _ => [(d.toNat, 1), (a.toNat, 1)]
  | .shliLane _ _ d a _ => [(d.toNat, 1), (a.toNat, 1)]
  | .shriLane _ _ d a _ => [(d.toNat, 1), (a.toNat, 1)]
  | .sraiLane _ _ d a _ => [(d.toNat, 1), (a.toNat, 1)]
  | .srni _ _ d a _ => [(d.toNat, 1), (a.toNat, 1)]
  | .add2s _ _ d a b => [(d.toNat, 1), (a.toNat, 1), (b.toNat, 1)]
  | .sub2s _ _ d a b => [(d.toNat, 1), (a.toNat, 1), (b.toNat, 1)]
  | .dot2S _ _ d a b => [(d.toNat, 1), (a.toNat, 1), (b.toNat, 1)]
  | .dot2U _ _ d a b => [(d.toNat, 1), (a.toNat, 1), (b.toNat, 1)]
  | .dot4S _ _ d a b => [(d.toNat, 1), (a.toNat, 1), (b.toNat, 1)]
  | .dot4U _ _ d a b => [(d.toNat, 1), (a.toNat, 1), (b.toNat, 1)]
  | .dot8S _ _ d a b => [(d.toNat, 1), (a.toNat, 1), (b.toNat, 1)]
  | .dot8U _ _ d a b => [(d.toNat, 1), (a.toNat, 1), (b.toNat, 1)]
  | .fdot4E4m3 _ _ d a b => [(d.toNat, 1), (a.toNat, 1), (b.toNat, 1)]
  | .fdot4E5m2 _ _ d a b => [(d.toNat, 1), (a.toNat, 1), (b.toNat, 1)]
  | .fdot8 _ _ d a b => [(d.toNat, 1), (a.toNat, 1), (b.toNat, 1)]
  | .cvt _ _ d a _ _ => [(d.toNat, 1), (a.toNat, 1)]
  | .slide _ _ d a _ _ _ => [(d.toNat, 1), (a.toNat, 1)]
  | .shfl _ _ d a b => [(d.toNat, 1), (a.toNat, 1), (b.toNat, 1)]
  | .tosLane _ _ a _ => [(a.toNat, 1)]
  | .tosReduce _ _ _ a _ => [(a.toNat, 1)]
  | .tov _ _ d _ => [(d.toNat, 1)]
  | .scan _ _ d a _ => [(d.toNat, 1), (a.toNat, 1)]
  | .ld _ _ d a _ z => [(d.toNat, sizeRegs z), (a.toNat, 1)]
  | .st _ _ d a _ z => [(d.toNat, sizeRegs z), (a.toNat, 1)]
  | .atom _ _ d a o _ => [(d.toNat, atomRegs o), (a.toNat, 2)]
  | .red _ _ d a o _ => [(d.toNat, atomRegs o), (a.toNat, 2)]
  | .mma _ _ a _ f _ _ _ c => [(a.toNat, mmaRegs f c)]
  | .accxRd _ _ a _ w => [(a.toNat, accxRegs w)]
  | .accxWr _ _ a _ w => [(a.toNat, accxRegs w)]
  | .accxRdz _ _ a _ w => [(a.toNat, accxRegs w)]
  | _ => []

/-- The scalar registers that an instruction names: first and number of each operand (R250, R251). A `couple` names none: the
slices that it joins wait for what is pending in any of them (R286). -/
def scalarNames : Instr → List (Nat × Nat)
  | .pfx _ _ _ b _ => [(2 * b.toNat, 2)]
  | .tosLane _ s _ _ => [(s.toNat, 1)]
  | .tosReduce _ _ s _ _ => [(s.toNat, 1)]
  | .tov _ _ _ s => [(s.toNat, 1)]
  | .ld _ _ _ _ b _ => [(2 * b.toNat, 2)]
  | .st _ _ _ _ b _ => [(2 * b.toNat, 2)]
  | .mma _ _ _ x _ _ _ _ _ => [(x.toNat, 1)]
  | .accxRd _ _ _ x _ => [(x.toNat, 1)]
  | .accxWr _ _ _ x _ => [(x.toNat, 1)]
  | .accxRdz _ _ _ x _ => [(x.toNat, 1)]
  | .addScalar _ d a b => [(d.toNat, 1), (a.toNat, 1), (b.toNat, 1)]
  | .subScalar _ d a b => [(d.toNat, 1), (a.toNat, 1), (b.toNat, 1)]
  | .mulScalar _ d a b => [(d.toNat, 1), (a.toNat, 1), (b.toNat, 1)]
  | .mulh _ d a b => [(d.toNat, 1), (a.toNat, 1), (b.toNat, 1)]
  | .mulhu _ d a b => [(d.toNat, 1), (a.toNat, 1), (b.toNat, 1)]
  | .andScalar _ d a b => [(d.toNat, 1), (a.toNat, 1), (b.toNat, 1)]
  | .orScalar _ d a b => [(d.toNat, 1), (a.toNat, 1), (b.toNat, 1)]
  | .xorScalar _ d a b => [(d.toNat, 1), (a.toNat, 1), (b.toNat, 1)]
  | .shlScalar _ d a b => [(d.toNat, 1), (a.toNat, 1), (b.toNat, 1)]
  | .shrScalar _ d a b => [(d.toNat, 1), (a.toNat, 1), (b.toNat, 1)]
  | .sraScalar _ d a b => [(d.toNat, 1), (a.toNat, 1), (b.toNat, 1)]
  | .minScalar _ d a b => [(d.toNat, 1), (a.toNat, 1), (b.toNat, 1)]
  | .maxScalar _ d a b => [(d.toNat, 1), (a.toNat, 1), (b.toNat, 1)]
  | .minu _ d a b => [(d.toNat, 1), (a.toNat, 1), (b.toNat, 1)]
  | .maxu _ d a b => [(d.toNat, 1), (a.toNat, 1), (b.toNat, 1)]
  | .div _ d a b => [(d.toNat, 1), (a.toNat, 1), (b.toNat, 1)]
  | .divu _ d a b => [(d.toNat, 1), (a.toNat, 1), (b.toNat, 1)]
  | .rem _ d a b => [(d.toNat, 1), (a.toNat, 1), (b.toNat, 1)]
  | .remu _ d a b => [(d.toNat, 1), (a.toNat, 1), (b.toNat, 1)]
  | .popcScalar _ d a => [(d.toNat, 1), (a.toNat, 1)]
  | .clzScalar _ d a => [(d.toNat, 1), (a.toNat, 1)]
  | .ctzScalar _ d a => [(d.toNat, 1), (a.toNat, 1)]
  | .cmp _ _ _ a b => [(a.toNat, 1), (b.toNat, 1)]
  | .addi _ d a _ => [(d.toNat, 1), (a.toNat, 1)]
  | .andiScalar _ d a _ => [(d.toNat, 1), (a.toNat, 1)]
  | .oriScalar _ d a _ => [(d.toNat, 1), (a.toNat, 1)]
  | .xoriScalar _ d a _ => [(d.toNat, 1), (a.toNat, 1)]
  | .shliScalar _ d a _ => [(d.toNat, 1), (a.toNat, 1)]
  | .shriScalar _ d a _ => [(d.toNat, 1), (a.toNat, 1)]
  | .sraiScalar _ d a _ => [(d.toNat, 1), (a.toNat, 1)]
  | .cmpi _ _ _ a _ => [(a.toNat, 1)]
  | .li _ d _ => [(d.toNat, 1)]
  | .lui _ d _ => [(d.toNat, 1)]
  | .mset _ _ a => [(a.toNat, 1)]
  | .mget _ d _ => [(d.toNat, 1)]
  | .mpopc _ d _ => [(d.toNat, 1)]
  | .mfirst _ d _ => [(d.toNat, 1)]
  | .call _ _ => [(62, 2)]
  | .jr _ a => [(a.toNat, 2)]
  | .waitr _ a _ => [(a.toNat, 1)]
  | .xstat _ d => [(d.toNat, 1)]
  | .barInit _ a _ => [(a.toNat, 1)]
  | .barArrive _ d _ => [(d.toNat, 1)]
  | .barWait _ a _ => [(a.toNat, 1)]
  | .barSync _ d _ => [(d.toNat, 1)]
  | .barRead _ d _ => [(d.toNat, 1)]
  | .bufArm _ a _ => [(a.toNat, 1)]
  | .bufArrive _ a _ => [(a.toNat, 1)]
  | .bufArriveCl _ d a _ => [(d.toNat, 1), (a.toNat, 1)]
  | .bufWait _ a _ => [(a.toNat, 1)]
  | .bufRgn _ a _ => [(a.toNat, 1)]
  | .bufStat _ d _ => [(d.toNat, 1)]
  | .bufCount _ d _ => [(d.toNat, 1)]
  | .cpy _ d a => [(d.toNat, 1), (a.toNat, 8)]
  | .tidSet _ d a _ => [(d.toNat, 1), (a.toNat, 16)]
  | .tidRd _ d _ _ => [(d.toNat, 2)]
  | .strBind _ n _ => [(n.toNat, 1)]
  | .strBindE _ n _ => [(n.toNat, 1)]
  | .strUnbind _ n => [(n.toNat, 1)]
  | .strPeek _ d _ => [(d.toNat, 1)]
  | .strSeek _ _ a => [(a.toNat, 1)]
  | .resLoad _ d a b => [(d.toNat, 1), (a.toNat, 1), (b.toNat, 2)]
  | .resPin _ d a => [(d.toNat, 1), (a.toNat, 1)]
  | .resUnpin _ d a => [(d.toNat, 1), (a.toNat, 1)]
  | .resRevoke _ d a => [(d.toNat, 1), (a.toNat, 1)]
  | .resStat _ d a => [(d.toNat, 1), (a.toNat, 1)]
  | .resUse _ d => [(d.toNat, 1)]
  | .accAlloc _ d a => [(d.toNat, 1), (a.toNat, 1)]
  | .accFree _ a => [(a.toNat, 1)]
  | .accZero _ a => [(a.toNat, 1)]
  | .collPost _ d a => [(d.toNat, 1), (a.toNat, 8)]
  | .collCancel _ d a => [(d.toNat, 1), (a.toNat, 2)]
  | .collStat _ d a => [(d.toNat, 1), (a.toNat, 2)]
  | .ldsB32 _ d a _ => [(d.toNat, 1), (a.toNat, 2)]
  | .ldsB64 _ d a _ => [(d.toNat, 2), (a.toNat, 2)]
  | .stsB32 _ d a _ => [(d.toNat, 1), (a.toNat, 2)]
  | .stsB64 _ d a _ => [(d.toNat, 2), (a.toNat, 2)]
  | .satom _ d a b _ _ => [(d.toNat, 1), (a.toNat, 2), (b.toNat, 2)]
  | .sysrd _ d _ => [(d.toNat, 1)]
  | .syswr _ a _ => [(a.toNat, 1)]
  | _ => []

/-! ## Pending registers (R203, R404, R459) -/

/-- Two lists of operands share a register. -/
def sharesReg (xs ys : List (Nat × Nat)) : Bool :=
  xs.any fun x => ys.any fun y => decide (x.1 < y.1 + y.2) && decide (y.1 < x.1 + x.2)

/-- The registers of an entry that a later instruction of its paths waits for, lane and scalar: the destinations of a memory
instruction; all that it names where it holds its operands by reference or has not been performed (log 12). -/
def RqEntry.pending (x : RqEntry) : List (Nat × Nat) × List (Nat × Nat) :=
  match x.instr with
  | none => ([], [])
  | some i =>
    match x.memOp with
    | some op =>
      if x.ref || x.pipe then (laneNames i, scalarNames i)
      else if !op.ret then ([], [])
      else if op.scalar then ([], [(op.dest, (op.n + 3) / 4)]) else ([(op.dest, (op.n + 3) / 4)], [])
    | none => (laneNames i, scalarNames i)

/-- The mask that an arithmetic instruction writes (R282, R309, R314). -/
def maskDest : Instr → Option Nat
  | .fcmp _ _ m _ _ _ => some m.toNat
  | .icmp _ _ m _ _ _ => some m.toNat
  | .mand _ d _ _ => some d.toNat
  | .mor _ d _ _ => some d.toNat
  | .mxor _ d _ _ => some d.toNat
  | .mandn _ d _ _ => some d.toNat
  | .mnot _ d _ => some d.toNat
  | .mset _ d _ => some d.toNat
  | _ => none

/-- The masks that an instruction names: that of its word's mk field in the lane set (R252), and its operands. -/
def maskNames (i : Instr) : List Nat :=
  let mk := match encode i with
    | some w => if w.getLsbD 31 then [] else [w.toNat / 2 ^ 21 % 8]
    | none => []
  (maskDest i).toList ++ match i with
    | .mand _ _ a b => [a.toNat, b.toNat]
    | .mor _ _ a b => [a.toNat, b.toNat]
    | .mxor _ _ a b => [a.toNat, b.toNat]
    | .mandn _ _ a b => [a.toNat, b.toNat]
    | .mnot _ _ a => [a.toNat]
    | .mget _ _ m => [m.toNat]
    | .mpopc _ _ m => [m.toNat]
    | .mfirst _ _ m => [m.toNat]
    | .bm _ _ m _ => [m.toNat]
    | .bmG _ _ m _ => [m.toNat]
    | _ => mk

/-- The condition flags that an instruction names. -/
def flagNames : Instr → List Nat
  | .cmp _ _ n _ _ => [n.toNat]
  | .cmpi _ _ n _ _ => [n.toNat]
  | .bc _ c _ => [c.toNat % 4]
  | _ => []

/-- The lane register that an arithmetic instruction writes. -/
def laneDest (i : Instr) : Option Nat :=
  match i, (laneNames i).map Prod.fst with
  | .fcmp .., _ => none
  | .icmp .., _ => none
  | .tosLane .., _ => none
  | .tosReduce .., _ => none
  | _, ns => ns.head?

/-- The scalar register that an arithmetic instruction writes. -/
def scalarDest (i : Instr) : Option Nat :=
  match i, (scalarNames i).map Prod.fst with
  | .cmp .., _ => none
  | .cmpi .., _ => none
  | .mset .., _ => none
  | .tov .., _ => none
  | _, ns => ns.head?

/-- R203: the lane and scalar registers that an entry has still to write. -/
def RqEntry.dests (x : RqEntry) : List (Nat × Nat) × List (Nat × Nat) :=
  match x.instr with
  | none => ([], [])
  | some i =>
    match x.memOp with
    | some op => if !op.ret then ([], []) else if op.scalar then ([], [(op.dest, (op.n + 3) / 4)]) else ([(op.dest, (op.n + 3) / 4)], [])
    | none => match i with
      | .accxRd .. => (laneNames i, [])
      | .accxRdz .. => (laneNames i, [])
      | .accAlloc _ d _ => ([], [(d.toNat, 1)])
      | _ => if x.pipe then ((laneDest i).toList.map fun n => (n, 1), (scalarDest i).toList.map fun n => (n, 1)) else ([], [])

/-- R203, R406: an instruction of trap level names a register that an entry of program level has still to write; s56 to s59 are
other registers there (R251). What such an entry has still to read, the handler may write (R404). -/
def RqEntry.owes (x : RqEntry) (i : Instr) : Bool :=
  let lasting := (scalarNames i).flatMap fun r => ((List.range r.2).map fun k => (r.1 + k, 1)).filter fun n => decide (n.1 < 56) || decide (60 ≤ n.1)
  sharesReg x.dests.1 (laneNames i) || sharesReg x.dests.2 lasting
    || (x.pipe && x.instr.any fun j => (maskNames i).any (fun m => maskDest j == some m)
      || (maskDest j).isNone && (flagNames i).any fun f => (flagNames j).contains f)

/-- R203: the instruction names a register that an entry of the issuing slices has still to write or to read, or that waits for
the answer to a `coll.cancel`; answers the address of the register's producer. Behind an instruction that a checker has
caught, whose destination may be a mask or a flag as well, nothing issues (R412). -/
def Group.interlocked (g : Group) (sl : BitVec 8) (i : Instr) : Option DWord :=
  let here := g.queue.find? fun x =>
    x.slices &&& sl != 0 && (x.pipe || sharesReg x.pending.1 (laneNames i) || sharesReg x.pending.2 (scalarNames i))
  let below := (if g.atTrap then g.rq else []).find? fun x => x.slices &&& sl != 0 && x.owes i
  let owed := g.owed.find? fun o =>
    o.slices &&& sl != 0 && (o.trap == g.atTrap || decide (o.reg < 56) || decide (60 ≤ o.reg)) && sharesReg [(o.reg, 1)] (scalarNames i)
  (here.map RqEntry.pc).or ((below.map RqEntry.pc).or (owed.map Owed.pc))

/-- R165, R293, R344: the instructions before which the accesses of the group are performed, and those with which a
transaction begins or ends (log 12). -/
def drains : Instr → Bool
  | .stRel .. => true
  | .fence .. => true
  | .xbegin .. => true
  | .xbeginNoTarget .. => true
  | .xelse .. => true
  | .xend .. => true
  | .xretry .. => true
  | .xabort .. => true
  | .barInit .. => true
  | .barArrive .. => true
  | .barWait .. => true
  | .barSync .. => true
  | .bufArm .. => true
  | .bufArrive .. => true
  | .bufArriveCl .. => true
  | .bufWait .. => true
  | .bufRel .. => true
  | .bufRgn .. => true
  | .cpy .. => true
  | .resLoad .. => true
  | .collPost .. => true
  | .collCancel .. => true
  | .trig .. => true
  | _ => false

/-- R164, R189: ordering instructions narrower than pod scope leave requests to peers alone; a transaction's scope is that of
its `xbegin` (R210). -/
def Group.leavesPeers (g : Group) : Instr → Bool
  | .stRel _ _ _ _ _ sc => sc != 4
  | .fence _ sc _ => sc != 4
  | .xbegin _ sc _ => sc != 4
  | .xbeginNoTarget _ sc => sc != 4
  | .xelse .. => g.tx.scope != 4
  | .xend .. => g.tx.scope != 4
  | .xretry .. => g.tx.scope != 4
  | .xabort .. => g.tx.scope != 4
  | .barInit .. => true
  | .barArrive .. => true
  | .barWait .. => true
  | .barSync .. => true
  | .bufArm .. => true
  | .bufWait .. => true
  | .bufArrive .. => true
  | .bufArriveCl .. => true
  | .bufRel .. => true
  | .bufRgn .. => true
  | .cpy .. => true
  | .resLoad .. => true
  | .collPost .. => true
  | .collCancel .. => true
  | .trig .. => true
  | _ => false

/-- R433: all that is left of an entry has gone to peers. -/
def RqEntry.onlySent (x : RqEntry) : Bool :=
  match x.memOp with
  | none => false
  | some op => !x.pipe && (x.doing op.scalar).all fun l => (x.recOf l).got || (x.recOf l).sent

/-- R245: an instruction in the queue that may still set a flag of SATF: an integer pass, or what a checker caught. -/
def RqEntry.setsSat (x : RqEntry) : Bool :=
  x.pipe && !x.ref || match x.instr with
  | some (.mma _ _ _ _ f _ _ _ _) => f.toNat == 3 || f.toNat == 4
  | _ => false

/-- R245: the instruction reads SATF. -/
def readsSat : Instr → Bool
  | .sysrd _ _ n => n.toNat == 0x011
  | _ => false

/-- An exit waits for what its own slices have issued, but for requests to peers (R184, R189). -/
def isExit : Instr → Bool
  | .exit _ => true
  | _ => false

/-- R203, R404: an instruction of the current run waits unissued: for the operation issued at this address. Inside a transaction
everything before it has been performed, but for requests to peers that were issued before a transaction narrower than
pod scope. -/
def Group.waitsFor (g : Group) (sl : BitVec 8) (i : Instr) : Option DWord :=
  let first := fun (p : RqEntry → Bool) => (g.queue.find? p).map RqEntry.pc
  (if g.inTx then first fun x => g.tx.scope == 4 || !x.onlySent
  else if drains i then first fun x => !g.leavesPeers i || !x.onlySent
  else if isExit i && !g.atTrap then first fun x => x.slices &&& sl != 0 && !x.onlySent
  else if readsSat i then (g.entries.find? RqEntry.setsSat).map RqEntry.pc
  else none).or (g.interlocked sl i)

/-! ## Re-injection of what a checker caught (R412, R413, R460) -/

/-- R409, R412: the lane registers whose values DATA0 to DATA2 of an arithmetic instruction's entry hold, in their order. -/
def laneSources (i : Instr) : List Nat :=
  match i, (laneNames i).map Prod.fst with
  | .fcmp .., ns => ns
  | .icmp .., ns => ns
  | .tosLane .., ns => ns
  | .tosReduce .., ns => ns
  | _, [d, a, b] => [a, b, d]
  | _, [_, a] => [a]
  | _, _ => []

/-- R409, R412: the scalar registers whose values DATA0 and DATA1 of lane 4k hold for slice k. -/
def scalarSources (i : Instr) : List Nat :=
  match i, (scalarNames i).map Prod.fst with
  | .cmp .., ns => ns
  | .cmpi .., ns => ns
  | .mset .., ns => ns
  | .tov .., ns => ns
  | .lui _ d _, _ => [d.toNat]
  | _, [_, a, b] => [a, b]
  | _, [_, a] => [a]
  | _, _ => []

/-- R409: DATA`j` of a lane. -/
def LaneRec.word (r : LaneRec) (j : Nat) : Word :=
  match j with
  | 0 => r.d0
  | 1 => r.d1
  | 2 => r.d2
  | _ => r.d3

/-- R409: the slices in which an entry is performed: those that have a lane of it left, or had none. -/
def RqEntry.left (x : RqEntry) : BitVec 8 :=
  let has := fun (w : Word) (k : Nat) => w &&& slicesLanes (1#8 <<< k) != 0
  (sliceList x.slices).foldl (fun m k => if has x.lanes k || !has x.act k then m ||| (1#8 <<< k) else m) 0

/-- R234, R246, R412: the group as instruction `i` of entry `x` saw it: its rounding mode and masks, and its source values in
the registers that it names, with its paths at its address and no flag of SATF set. A stream that it read stands aside with
the value that was read. An entry that holds its operands by register reference finds the registers as they are (R459), and
its operation is counted anew. -/
def RqEntry.captured (x : RqEntry) (i : Instr) (g : Group) : Group :=
  let g0 : Group := { g.remove x.op with
    paths := g.paths.map fun p => if p.slices &&& x.slices != 0 then { p with pc := p.pc - 4, stop := .ready } else p }
  if x.ref then (match x.cls with | some k => g0.completeOp k x.op | none => g0)
  else
    let g1 : Group := { g0 with
      fmode := x.rm, masks := x.masksAt, satf := 0
      streams := (scalarSources i).foldl (fun m n => Sparse.set {} m n {}) g.streams }
    let g2 := (laneSources i).zipIdx.foldl (fun h r => h.writeV (g.liveLanes x.slices) r.1 fun l => (x.recOf l).word r.2) g1
    (scalarSources i).zipIdx.foldl (fun h r => h.writeS x.slices r.1 fun k => (x.recOf (4 * k)).word r.2) g2

/-- R245, R411: of what instruction `i` has done to the captured group, which is now `h`, the lanes left to the entry take
their results in the group as it stood, `g`, whose paths go on where they were. Where it has been caught again, or has not
issued, the entry stays. -/
def RqEntry.settled (x : RqEntry) (i : Instr) (g h : Group) : Group :=
  let moved := (h.pathOf x.slices).pc == (g.pathOf x.slices).pc
  if h.atTrap != g.atTrap then h
  else if h.queue.any (fun y => y.pipe && y.slices &&& x.slices != 0) || !moved then { g with draw := h.draw, frame := h.frame, dbg := h.dbg }
  else if x.ref then { h with paths := g.paths }
  else
    let nib := slicesLanes x.left
    let y : Group := { h with
      fmode := g.fmode, masks := g.masks, satf := g.satf, streams := g.streams, paths := g.paths
      vregs := g.vregs, sregs := g.sregs, banks := g.banks, cflags := g.cflags }
    let y1 := match laneDest i with | some d => y.writeV x.lanes d (h.vreg d) | none => y
    let y2 := match scalarDest i with | some d => y1.writeS x.left d fun k => h.sreg k d | none => y1
    let y3 := match maskDest i with | some m => y2.setMask m x.lanes (h.mask m) | none => y2
    { y3 with
      cflags := (g.cflags &&& ~~~nib) ||| (h.cflags &&& nib)
      satf := g.satf ||| (h.satf &&& x.lanes &&& ~~~x.satOff) }

/-- R413: the entry of a group's level that hardware re-injects, with its instruction. -/
def Group.redo (g : Group) : Option (RqEntry × Instr) :=
  (g.queue.find? fun x => x.pipe && x.tileOp.isNone && x.instr.isSome).bind fun x => x.instr.map fun i => (x, i)

/-- The state in which the instruction of a re-injected entry is executed, for the slices that issued it, on its group's
quarter. -/
def State.redoStart (s : State) (u g : Nat) (x : RqEntry) (i : Instr) : State :=
  let k := (s.teamOf u).core * 4 + (s.groupOf u g).quarter
  let s1 := s.updGroup u g (x.captured i)
  { s1 with site := k, runs := Sparse.set {} s1.runs k { on := true, uid := u, grp := g, slices := x.slices } }

/-- What its execution, which has led to `t`, leaves: the quarter's run goes on, but where a repeat has stopped its team (R460)
or a trap its group. The save of a transaction has discarded it with its entries (R215). -/
def State.redoEnd (s : State) (u g : Nat) (x : RqEntry) (i : Instr) (t : State) : State :=
  let y := s.groupOf u g
  let t1 := if y.inTx && (t.teamOf u).place != (s.teamOf u).place then t else t.updGroup u g (x.settled i y)
  let r := Sparse.get {} s.runs t.site
  let stops := (t1.teamOf r.uid).place != .resident || (r.uid == u && r.grp == g && (t1.groupOf u g).atTrap != y.atTrap)
  { t1 with runs := Sparse.set {} t1.runs t.site (if r.on && !stops then r else {}) }

end Sys2Proof.Machine
end

