-- ==== Sys2Proof/Machine/Couple.lean ====
section
/-! DEFINITION. The end of parting and of paths: couple and exit (R206, R286, R287). -/

namespace Sys2Proof.Machine

/-! ## Couple (R206) -/

/-- Every live slice waits at a couple. -/
def Group.coupled (g : Group) : Bool := g.live != 0 && g.paths.all fun p => p.stop == .couple

/-- R206: every slice's s1 to s63 and c0 to c3 take the values of the lowest-numbered slice. -/
def Group.copyLowest (g : Group) : Group :=
  let low := lowSlice g.live
  let regs := (sliceList g.live).foldl (fun m k =>
    (List.range 63).foldl (fun m n => Sparse.set 0 m (k * 64 + n + 1) (Sparse.get 0 g.sregs (low * 64 + n + 1))) m) g.sregs
  (sliceList g.live).foldl (fun g k => [0, 1, 2, 3].foldl (fun x n => x.setFlag k n (g.cflag low n)) g) { g with sregs := regs }

/-- R286, R404, R451: an operation of a waiting slice that holds the join of a couple back: one that has still to write, or to
read again, a scalar register or a flag, or a memory access that may still raise a trap of its checks (log 21). -/
def RqEntry.holdsJoin (x : RqEntry) : Bool :=
  x.pipe || !x.pending.2.isEmpty || match x.memOp with
    | some op => x.held || !x.checked op.scalar
    | none => false

/-- R206, R286: once every live slice waits at a couple, the slices leave together where all wait at one address and nothing
holds the join back; else each path goes on by itself and CPLMIS is set. -/
def Group.joinCouple (g : Group) : Group :=
  if !g.coupled then g
  else
    let pc := (g.paths.headD { slices := 0, pc := 0 }).pc
    if g.paths.all fun p => p.pc == pc then
      if g.rq.any RqEntry.holdsJoin || !g.owed.isEmpty then g
      else { g.copyLowest with paths := [{ slices := g.live, pc := pc }], cplmis := false }
    else { g with paths := g.paths.map fun p => { p with stop := .ready }, cplmis := true }

/-- R206, R286. At trap level it has no effect but that every couple empties the reuse latch (R371, log 21). Elsewhere too it
empties the latch; in a transaction and for a joined group it completes at once, clearing CPLMIS and copying nothing (log 21).
The slices that it joins go on in a run of their own. -/
def execCouple (e : Bool) (s : State) : Out1 :=
  let g := s.curGroup
  let sl := s.run.slices
  if g.atTrap then .next ((s.updCur fun g => { g with latch := {} }).retire e)
  else if g.inTx || decide (g.paths.length ≤ 1) then .next ((s.updCur fun g => { g with latch := {}, cplmis := false }).retire e)
  else
    let s1 := s.updCur fun g => ({ (g.stepPast sl).updPath sl fun p => { p with stop := .couple } with latch := {} } : Group).joinCouple
    .next (if (s1.curGroup.pathOf sl).stop == .couple || s1.curGroup.paths.length ≤ 1 then s1.endRun else s1.tally e)

/-! ## Exit (R184, R206, R287) -/

/-- The slices of an exit leave their group. -/
def Group.exit (g : Group) (sl : BitVec 8) : Group :=
  ({ g with
    live := g.live &&& ~~~sl
    paths := (g.paths.map fun p => { p with slices := p.slices &&& ~~~sl }).filter fun p => p.slices != 0
    tx := { g.tx with depth := 0, alts := [], reads := [], writes := [], locks := [] } } : Group).joinCouple

/-- R287: the issuing slices end. An exit releases at device scope (R184) and so waits while a line it would write back
is locked. At trap level it ends the team with a record of kind 10. -/
def execExit (_e : Bool) (s : State) : Out1 :=
  let g := s.curGroup
  let u := s.run.uid
  let k := s.run.grp
  let sl := s.run.slices
  if g.atTrap then
    .next (s.fatal u k sl (.ofCode g.frame.code) g.frame.acc (g.frame.addrH ++ g.frame.addrL) (g.pathOf sl).pc g.frame.lanes)
  else if s.releaseStuck s.curCore then .next s
  else
    let s1 := ((s.dropRegs u k).releaseCore s.curCore).endRun
    let s2 := s1.updGroup u k fun g => g.exit sl
    .next ((s2.contribute u k).settle u)

end Sys2Proof.Machine
end

