-- ==== Sys2Proof/Machine/Tensor.lean ====
section
/-! DEFINITION. Tensor identifiers and streams (R148 to R150, R354 to R358). -/

namespace Sys2Proof.Machine

/-- R137: the entry of a team-relative identifier; none at or above TIDCNT. -/
def State.tidAt (s : State) (u t : Nat) : Option Tid :=
  let x := s.teamOf u
  if x.tidCnt ≤ t then none else some (Sparse.get {} (s.coreOf x.core).tids (x.tidBase + t))

def State.setTid (s : State) (u t : Nat) (v : Tid) : State :=
  let x := s.teamOf u
  s.updCore x.core fun c => { c with tids := Sparse.set {} c.tids (x.tidBase + t) v }

/-- R137: `f` acts for each path on the entry of identifier `t`, or PROT is raised. -/
def State.withTid (s : State) (e : Bool) (t : BitVec 6) (f : BitVec 8 → Tid → State → State) : State :=
  (s.eachPath fun sl s =>
    match s.tidAt s.run.uid t.toNat with
    | none => s.trapAt sl .prot
    | some x => (f sl x s).updCur fun g => g.stepPast sl).tally e

/-- R354, R150: the entry that a `tid.set` stores: VALID says whether it is well formed. -/
def Tid.stored (t : Tid) : Tid := { t with w1 := if t.wellFormed then t.w1 ||| 1 else t.w1 &&& ~~~1 }

/-- R354: the eight pairs from S[sa] up, in the lowest slice of the path. -/
def Group.tidWords (g : Group) (k a : Nat) : Tid :=
  let w := fun j => g.spair k (a + 2 * j)
  { w0 := w 0, w1 := w 1 &&& ~~~1, w2 := w 2, w3 := w 3, w4 := w 4, w5 := w 5, w6 := w 6, w7 := w 7 }

/-- R354. -/
def execTidSet (e : Bool) (d a t : BitVec 6) (s : State) : Out1 :=
  .next (s.withTid e t fun sl _ s =>
    let x := (s.curGroup.tidWords (lowSlice sl) a.toNat).stored
    (s.setTid s.run.uid t.toNat x).updCur fun g => g.writeS sl d.toNat fun _ => boolWord x.valid)

/-- R354. -/
def execTidRd (e : Bool) (d : BitVec 6) (k : BitVec 3) (t : BitVec 6) (s : State) : Out1 :=
  .next (s.withTid e t fun sl x s => s.updCur fun g => g.writePair sl d.toNat fun _ => x.word k.toNat)

/-- R354. -/
def execTidInv (e : Bool) (t : BitVec 6) (s : State) : Out1 :=
  .next (s.withTid e t fun _ x s => s.setTid s.run.uid t.toNat { x with w1 := x.w1 &&& ~~~1 })

/-! ## Streams -/

def Group.setStream (g : Group) (n : Nat) (st : Stream) : Group := { g with streams := Sparse.set {} g.streams n st }

/-- R356, R358: bind a walk; PROT where the identifier may not be named, is not valid, or the walk is 2^32 or longer. -/
def State.bind (s : State) (e : Bool) (n t : BitVec 6) (elem : Bool) : State :=
  (s.eachPath fun sl s =>
    match s.tidAt s.run.uid t.toNat with
    | none => s.trapAt sl .prot
    | some x =>
      let st : Stream := { bound := true, tid := x, elem := elem }
      if !x.valid || decide (2 ^ 32 ≤ st.total) then s.trapAt sl .prot
      else s.updCur fun g => (g.setStream n.toNat st).stepPast sl).tally e

/-- R358. -/
def execStrBind (e : Bool) (n t : BitVec 6) (s : State) : Out1 := .next (s.bind e n t false)

/-- R358. -/
def execStrBindE (e : Bool) (n t : BitVec 6) (s : State) : Out1 := .next (s.bind e n t true)

/-- R358: the register then reads 0 in every slice. -/
def execStrUnbind (e : Bool) (n : BitVec 6) (s : State) : Out1 :=
  .next ((s.updCur fun g => ({ g with streams := Sparse.set {} g.streams n.toNat {} } : Group).writeS 0xFF n.toNat fun _ => 0).retire e)

/-- R358: the offset at the position, without advancing; 0 when unbound. -/
def execStrPeek (e : Bool) (d n : BitVec 6) (s : State) : Out1 :=
  .next ((s.updCur fun g => g.writeS s.run.slices d.toNat fun _ =>
    if g.bound n.toNat then (g.streamOf n.toNat).offset else 0).retire e)

/-- R358: the position of the lowest slice of each path; PROT when unbound or outside the walk. -/
def execStrSeek (e : Bool) (n a : BitVec 6) (s : State) : Out1 :=
  let g0 := s.curGroup
  .next (((s.eachPath fun sl s =>
    let p := (g0.sreg (lowSlice sl) a.toNat).toNat
    let g := s.curGroup
    if !g.bound n.toNat || decide ((g.streamOf n.toNat).total ≤ p) then s.trapAt sl .prot
    else s.updCur fun g => (g.setStream n.toNat { g.streamOf n.toNat with pos := p, flags := 0 }).stepPast sl).tally e).advanceAfter s
      (if a = n then [] else [a.toNat]))

end Sys2Proof.Machine
end

