-- ==== Sys2Proof/Machine/System.lean ====
section
/-! DEFINITION. System registers, placement queries, traps, return and yield (R18 to R20, R84 to R88, R199, R233, R244,
R263, R264, R299 to R302, R408 to R411, R415). -/

namespace Sys2Proof.Machine

def bit (b : Bool) (k : Nat) : Nat := if b then 2 ^ k else 0

/-! ## Memory health (R84) -/

/-- R84: parcels still to be moved. -/
def State.remaining (s : State) : Nat :=
  if s.drops.isEmpty then ((s.rsSingles.map fun x => x.1).eraseDups.filter fun p => !reserved p).length
  else countFrom (fun p => (s.dueDrop p).isSome || s.rsSingles.any fun x => x.1 == p) Config.nParcels 0 0

/-- R84: some parcel, or some part of the reserved area, awaits or is in a move. -/
def State.awaits (s : State) : Bool :=
  !s.rsSingles.isEmpty || (!s.drops.isEmpty && (firstFrom (fun p => (s.dueDrop p).isSome) (Config.nParcels + Config.nReserved) 0).isSome)

/-- R84: some stripe carries the erasure of a dropped element. -/
def State.degraded (s : State) : Bool :=
  !s.drops.isEmpty && (firstFrom (fun p => s.drops.any fun e => (e.hits (s.cadOf p).a).isSome) (Config.nParcels + Config.nReserved) 0).isSome

/-- R6, R70: a whole stack has been resurveyed: the frames that are left are exactly those in use, and none is free. -/
def State.spent (s : State) : Bool :=
  !s.drops.isEmpty && (List.range Config.nStacks).any fun k => s.retired k
    && (firstFrom (fun p => (s.cadOf p).a.stk.contains k) (Config.nParcels + Config.nReserved) 0).isNone

/-- R84. -/
def State.mhstat (s : State) : Word :=
  BitVec.ofNat 32 (bit (s.nospare || s.spent) 31 + bit s.awaits 30 + bit s.degraded 29
    + ((List.range Config.nStacks).filter s.retired).length * 2 ^ 20 + s.remaining % 2 ^ 20)

/-! ## Placement queries (R87, R88) -/

def memlocErr (k : Nat) : DWord := BitVec.ofNat 64 (2 ^ 63 + k * 2 ^ 60)

/-- R88: the result for a DPA. -/
def State.memlocOf (s : State) (dpa pos : Nat) (tgt : Bool) : DWord :=
  let cd := s.cadOf (parcelOf dpa)
  let i := lineIn dpa
  if 5 ≤ pos then memlocErr 4
  else if tgt && cd.state == 0 then memlocErr 5
  else
    let l := if tgt then cd.t.getD cd.a else cd.a
    let c := l.col pos i
    BitVec.ofNat 64 (2 ^ 63 + cd.state * 2 ^ 58 + roleOf i pos * 2 ^ 55 + bit (s.dropped c) 54 + c.stack * 2 ^ 48 + c.p / 2 * 2 ^ 43
      + c.p % 2 * 2 ^ 42 + c.bank * 2 ^ 37 + c.row * 2 ^ 23 + c.unit * 2 ^ 17 + cd.version % 65536)

/-- R88: the result for a DPA that has been found; other classes are not local memory. -/
def State.memlocAt (s : State) (a : Nat) (q : DWord) : DWord :=
  if !isLocal a then memlocErr 2 else s.memlocOf a (q.toNat / 2 ^ 61) (q.getLsbD 59)

/-- R88: the error of a failing translation. -/
def memlocFault (f : Flt) : DWord := memlocErr (if f.kind = 6 then 3 else if f.kind = 8 then 2 else 1)

/-- R87: the query of a group: its address translated as a read, with no trap and no record; or, of firmware, a DPA. None
while a table line is held or the host is asked. Errors of the translation decide before those of POS and TGT, and an
address in the reserved range of R15 answers as a window does (log 72). -/
def State.memloc (s : State) (u : Nat) (q : DWord) : State × Option DWord :=
  let t := s.teamOf u
  let va := q.toNat % 2 ^ 52
  let fin := fun (s : State) (x : Xl) => match x with
    | .ok t => some (s.memlocAt (t.at_ va) q)
    | .fault f => some (memlocFault f)
    | _ => none
  if q.getLsbD 60 then (s, some (if dpaOk va then s.memlocAt va q else memlocErr 2))
  else if levelOf va ≠ .global then (s, some (memlocErr 2))
  else match s.tlbFind t.core t.part t.asid va .read with
    | some x => (s, fin s (x.checked .read))
    | none =>
      match s.walk (t.core / 64) t.part t.asid t.vf va .read .query with
      | (s1, .ok x) => (s1, fin s1 (x.checked .read))
      | (s1, r) => (s1, fin s1 r)

/-! ## The replay window (R408, R409) -/

/-- R409: the lowest trapping lane's code. -/
def RqEntry.code (x : RqEntry) : Nat :=
  if x.pipe then 9
  else (((laneList x.lanes).map fun l => (x.recOf l).code).find? fun c => c != 0).getD 0

/-- R409: a word of an entry. -/
def RqEntry.word (x : RqEntry) (w : Nat) : Word :=
  let n := BitVec.ofNat 32
  match w with
  | 0 => n (2 ^ 31 + bit x.held 30 + bit x.ref 29 + x.code * 2 ^ 24 + x.slices.toNat * 2 ^ 16 + x.tag % 65536)
  | 1 => x.insn
  | 2 => x.lanes
  | 3 => x.act
  | 4 => x.pc.setWidth 32
  | 5 => (x.pc >>> 32).setWidth 32
  | 6 => x.rm.setWidth 32
  | 7 => 0
  | _ =>
    if 264 ≤ w then 0
    else
      let scalar := x.insn.getLsbD 31
      let l := (w - 8) / 8
      let r := x.recOf (if scalar then l / 4 * 4 else l)
      if (w - 8) % 8 < 6 && x.ref then 0
      else if !x.act.getLsbD l then 0
      else match (w - 8) % 8 with
        | 0 => r.addr.setWidth 32
        | 1 => (r.addr >>> 32).setWidth 32
        | 2 => r.d0
        | 3 => r.d1
        | 4 => r.d2
        | 5 => r.d3
        | 6 => n (r.code * 2 ^ 24 + r.kind * 2 ^ 20 + r.acc * 2 ^ 17)
        | _ => 0

/-- R409: a write of a word of lane `l`'s record. -/
def LaneRec.setWord (r : LaneRec) (k : Nat) (v : Word) : LaneRec :=
  match k with
  | 0 => { r with addr := (r.addr >>> 32 <<< 32) ||| v.setWidth 64 }
  | 1 => { r with addr := v ++ r.addr.setWidth 32 }
  | 2 => { r with d0 := v }
  | 3 => { r with d1 := v }
  | 4 => { r with d2 := v }
  | 5 => { r with d3 := v }
  | _ => r

/-- R408, R410: an entry is dropped: a load writes what it holds, the operation completes, nothing more is performed. The entries
issued after it move up, and DELIV with its own. -/
def State.dropEntry (s : State) (u g i : Nat) : State :=
  match (s.groupOf u g).rq[i]? with
  | none => s
  | some x =>
    let s1 := s.updGroup u g fun y =>
      let y1 := match x.memOp with | some op => y.atOp x.op (x.deliverTo op) | none => y
      let y2 : Group := { y1 with
        rq := y1.rq.eraseIdx i, frame := { y1.frame with deliv := if i < y1.frame.deliv then y1.frame.deliv - 1 else y1.frame.deliv } }
      match x.cls with | some k => y2.completeOp k x.op | none => y2
    let e := (s.teamOf u).core / 4
    (s1.updEngine e fun e => { e with resv := e.resv.filter fun r => !(r.uid == u && r.grp == g && r.op == x.op) }).unrecord (s.teamOf u).part x.tag

/-- R409: a write to RQDATA: the selected word of the selected program-level entry. -/
def State.rqWrite (s : State) (u g : Nat) (v : Word) : State :=
  let f := (s.groupOf u g).frame
  match (s.groupOf u g).rq[f.selEnt]? with
  | none => s
  | some x =>
    let put := fun (x : RqEntry) => s.updGroup u g fun y => { y with rq := y.rq.set f.selEnt x }
    match f.selWord with
    | 0 => if v.getLsbD 31 || x.pipe then s else s.dropEntry u g f.selEnt
    | 1 => put { x with insn := v }
    | 2 => put { x with lanes := v &&& x.act }
    | w =>
      let l := (w - 8) / 8
      if w < 8 ∨ 264 ≤ w ∨ x.ref ∨ !x.act.getLsbD l then s else put (x.updRec l fun r => r.setWord ((w - 8) % 8) v)

/-! ## System registers (R263) -/

/-- R137, R199: identity and windows. -/
def Team.grpid (t : Team) (g : Nat) (k : Nat) : Word :=
  let x := t.group g
  BitVec.ofNat 32 (bit x.cplmis 31 + x.live.toNat * 2 ^ 16 + bit x.role 15 + k * 2 ^ 12 + x.nslice * 256 + g)

/-- R415: PREQ. -/
def Team.preq (t : Team) (now : Nat) : Word :=
  if t.req then BitVec.ofNat 32 (2 ^ 31 + t.why * 2 ^ 28 + min (t.deadline - now) 0x0FFFFFFF) else 0

/-- R408: TRAPCAUSE. -/
def Frame.cause (f : Frame) : Word :=
  BitVec.ofNat 32 (f.slices.toNat * 2 ^ 16 + bit f.atIssue 15 + f.acc * 2 ^ 12 + f.kind * 256 + f.code)

/-- R263: the value of a register in slice `k`; none where the level may not read it. -/
def State.sysValue (s : State) (u g k n : Nat) : Option Word :=
  let t := s.teamOf u
  let x := t.group g
  let w := BitVec.ofNat 32
  let trap := fun (v : Word) => if x.atTrap then some v else none
  match n with
  | 0x000 => some (t.grpid g k)
  | 0x001 => some (w (t.lanes * 2 ^ 10 + (t.ngroup - 1) * 32 + t.slot))
  | 0x002 => some (w (bit t.cl 8 + t.core / 64 * 64 + t.core % 64 / 4 * 4 + t.core % 4))
  | 0x003 => some (w (t.y * 65536 + t.x))
  | 0x004 => some (w t.z)
  | 0x008 => some (w (t.spSize * 65536 + t.spBase))
  | 0x009 => some t.wincs
  | 0x00A => some (w (t.pslot * 2 ^ 21 + t.lpSize))
  | 0x00B => some (t.lpBase.setWidth 32)
  | 0x00C => some ((t.lpBase >>> 32).setWidth 32)
  | 0x00D => some (w (t.bufBase * 2 ^ 26 + t.bufCnt * 2 ^ 19 + t.tidBase * 2 ^ 13 + t.tidCnt * 64))
  | 0x010 => some (x.fmode.setWidth 32)
  | 0x011 => some x.satf
  | 0x012 => some x.tx.stat
  | 0x018 => trap x.frame.cause
  | 0x019 => trap x.frame.lanes
  | 0x01A => trap x.frame.addrL
  | 0x01B => trap x.frame.addrH
  | 0x020 => trap (w (x.rq.length * 65536 + (if x.frame.atIssue then 0 else x.frame.deliv * 256)))
  | 0x021 => trap (w (x.frame.selEnt * 65536 + x.frame.selWord))
  | 0x022 => trap (match x.rq[x.frame.selEnt]? with | some y => y.word x.frame.selWord | none => 0)
  | 0x024 => trap (x.frame.pc.setWidth 32)
  | 0x025 => trap ((x.frame.pc >>> 32).setWidth 32)
  | 0x040 => some (t.preq s.clock.toNat)
  | 0x041 => some (s.clock.setWidth 32)
  | 0x042 => some (x.clockLatch.getD ((s.clock >>> 32).setWidth 32))
  | 0x044 => some (x.memlocQ.setWidth 32)
  | 0x045 => some ((x.memlocQ >>> 32).setWidth 32)
  | 0x046 => some (x.memlocR.setWidth 32)
  | 0x047 => some ((x.memlocR >>> 32).setWidth 32)
  | 0x048 => some s.mhstat
  | 0x049 => some (w s.mhpois)
  | 0x080 => some (s.partOf t.part).deadline
  | _ => if 0x020 ≤ n ∧ n < 0x030 then trap 0 else none

/-- R263: the registers that a level may write. -/
def sysWritable (atTrap : Bool) (n : Nat) : Bool :=
  n == 0x010 || n == 0x011 || n == 0x044 || n == 0x045 || (atTrap && decide (0x021 ≤ n) && decide (n < 0x030))

/-- R299: every issuing slice receives the register; a read of CLOCKL latches the high half (R264). -/
def execSysrd (e : Bool) (d : BitVec 6) (i : BitVec 12) (s : State) : Out1 :=
  let u := s.run.uid
  let g := s.run.grp
  if (s.sysValue u g 0 i.toNat).isNone then .next (s.eachPath fun sl s => s.trapAt sl .priv)
  else .next ((s.updCur fun x =>
    let x1 := if i.toNat = 0x041 then { x with clockLatch := some ((s.clock >>> 32).setWidth 32) } else x
    x1.writeS s.run.slices d.toNat fun k => (s.sysValue u g k i.toNat).getD 0).retire e)

/-- The value that a `syswr` of the current run writes: that of the lowest issuing slice (R274). -/
def State.sysOperand (s : State) (a : BitVec 6) : Word := s.curGroup.sreg (lowSlice s.run.slices) a.toNat

/-- R234: FMODE takes bits 1..0. -/
def Group.setFmode (g : Group) (v : Word) : Group := { g with fmode := v.setWidth 2 }

/-- R244, R245: bits written as 1 clear their flags, those included that instructions issued before are still to set (log 86). -/
def Group.clearSatf (g : Group) (v : Word) : Group :=
  let off := fun (x : RqEntry) => { x with satOff := x.satOff ||| v }
  { g with satf := g.satf &&& ~~~v, rq := g.rq.map off, trq := g.trq.map off }

/-- R10, R87: what MEMLOCQ holds after a write of a query: a reserved POS leaves the field as it was. -/
def memlocKeep (old q : DWord) : DWord :=
  if 5 ≤ q.toNat / 2 ^ 61 then (q &&& 0x1FFFFFFFFFFFFFFF) ||| (old &&& 0xE000000000000000) else q

/-- R87: the high half of the query is written and the query performed as it was written (log 72); with PHYS = 1 a program's
write raises PRIV. Firmware's programs are those of virtual device 127 (R465, log 73). While the query has to wait, the
write does not issue. -/
def State.memlocWrite (s : State) (e : Bool) (v : Word) : State :=
  if v.getLsbD 28 && s.curTeam.vf != 127 then s.eachPath fun sl s => s.trapAt sl .priv
  else
    let q : DWord := (v &&& 0xF80FFFFF) ++ s.curGroup.memlocQ.setWidth 32
    match s.memloc s.run.uid q with
    | (s1, none) => s1
    | (s1, some r) => (s1.updGroup s.run.uid s.run.grp fun g => { g with memlocQ := memlocKeep g.memlocQ q, memlocR := r }).retire e

/-- R263, R299, R408: a write of a register that the level may write. -/
def State.sysWrite (s : State) (e : Bool) (n : Nat) (v : Word) : State :=
  let upd := fun (f : Group → Group) => (s.updCur f).retire e
  let frame := fun (f : Frame → Frame) => upd fun g => { g with frame := f g.frame }
  match n with
  | 0x010 => upd fun g => g.setFmode v
  | 0x011 => upd fun g => g.clearSatf v
  | 0x044 => upd fun g => { g with memlocQ := ((g.memlocQ >>> 32) <<< 32) ||| v.setWidth 64 }
  | 0x045 => s.memlocWrite e v
  | 0x021 => frame fun f => { f with selEnt := v.toNat / 65536 % 16, selWord := v.toNat % 512 }
  | 0x022 => (s.rqWrite s.run.uid s.run.grp v).retire e
  | 0x024 => frame fun f => { f with pc := ((f.pc >>> 32) <<< 32) ||| v.setWidth 64 }
  | 0x025 => frame fun f => { f with pc := v ++ f.pc.setWidth 32 }
  | _ => s.retire e

/-- R299: an access that the level may not make raises PRIV and writes nothing. -/
def execSyswr (e : Bool) (a : BitVec 6) (i : BitVec 12) (s : State) : Out1 :=
  if sysWritable s.curGroup.atTrap i.toNat then .next ((s.sysWrite e i.toNat (s.sysOperand a)).advanceAfter s [a.toNat])
  else .next (s.eachPath fun sl s => s.trapAt sl .priv)

/-- R87: the write of MEMLOCQH as a step of its own. -/
def execMemlocQuery (e : Bool) (a : BitVec 6) (s : State) : Out1 :=
  .next ((s.memlocWrite e (s.sysOperand a)).advanceAfter s [a.toNat])

/-- R234: the write of FMODE as a step of its own. -/
def execFmodeWrite (e : Bool) (a : BitVec 6) (s : State) : Out1 :=
  .next (((s.updCur fun g => g.setFmode (s.sysOperand a)).retire e).advanceAfter s [a.toNat])

/-- R245: the clearing of SATF as a step of its own. -/
def execSatfClear (e : Bool) (a : BitVec 6) (s : State) : Out1 :=
  .next (((s.updCur fun g => g.clearSatf (s.sysOperand a)).retire e).advanceAfter s [a.toNat])

/-- R409: the write of RQDATA as a step of its own; at program level PRIV. -/
def execRqdataWrite (e : Bool) (a : BitVec 6) (s : State) : Out1 :=
  if s.curGroup.atTrap then
    .next (((s.rqWrite s.run.uid s.run.grp (s.sysOperand a)).retire e).advanceAfter s [a.toNat])
  else .next (s.eachPath fun sl s => s.trapAt sl .priv)

/-! ## Traps by instruction (R300) -/

/-- R300: raises TRAP with the immediate as its address. -/
def execTrap (_e : Bool) (i : BitVec 18) (s : State) : Out1 := .next (s.eachPath fun sl s => s.trapAt sl .trap (i.setWidth 64))

/-- R300: raises BRK with the tag as its address. -/
def execBrk (_e : Bool) (t : BitVec 16) (s : State) : Out1 := .next (s.eachPath fun sl s => s.trapAt sl .brk (t.setWidth 64))

/-! ## Return (R301, R411) -/

/-- R409, R411 step 2: the bits of an instruction word that a handler may have changed. -/
def RqEntry.edited (x : RqEntry) : Bool :=
  let free : Word := match decodeWord x.orig with | .ok (.mma ..) => 0x1C | _ => 0
  (x.insn ^^^ x.orig) &&& ~~~free != 0

/-- R411 step 4, R52, R407: an entry made ready to be performed again: every check is made afresh, but a lane held for the host
stays held, a lane that the host has answered with FAIL meanwhile is still to take its PROT, and a fault recorded while the
group was at trap level is still to be delivered. -/
def RqEntry.afresh (x : RqEntry) : RqEntry :=
  { x with pipe := x.pipe && x.tileOp.isNone, lane := x.lane.map fun r =>
      if r.2.code = 6 ∧ x.held ∨ r.2.failed ∨ r.2.due then r
      else (r.1, { r.2 with code := 0, kind := 0, acc := 0, walk := 0, past := r.2.past && (r.2.got || r.2.sent) }) }

/-- R411 step 4: entries of a group are performed as far as they can be, in their order, until one of them changes the group's
level. At trap level those of program level go on too, what befalls them being recorded (R407). -/
def State.pump (s : State) (u g : Nat) : State :=
  let y := s.groupOf u g
  (y.entries.map RqEntry.op).foldl (fun s o => if (s.groupOf u g).atTrap == y.atTrap then s.attempt u g o else s) s

/-- R301, R411: return. It waits for the trap level's own operations. -/
def execRte (_e : Bool) (s : State) : Out1 :=
  let g := s.curGroup
  let u := s.run.uid
  let k := s.run.grp
  if !g.atTrap then .next (s.eachPath fun sl s => s.trapAt sl .priv)
  else if !(g.trq.isEmpty && g.tctr.idle) || g.owed.any (fun o => o.trap) then .next s
  else if g.rq.any RqEntry.edited then .next (s.trapAt g.frame.slices .ill)
  else if g.frame.pc.toNat % 4 ≠ 0 then .next (s.trapAt g.frame.slices .align g.frame.pc)
  else
    let s1 := s.endRun.updGroup u k fun g => ({ g.leaveTrap with rq := g.rq.map RqEntry.afresh } : Group).joinCouple
    .next (s1.pump u k)

/-! ## yield (R302) -/

/-- R302: always ends the run; with PREQ set at program level the path stops here until the team has been saved. -/
def execYield (_e : Bool) (s : State) : Out1 :=
  .next (s.unsup fun s =>
    let stop := s.curTeam.req && !s.curGroup.atTrap
    (s.updCur fun g =>
      let g1 := g.stepPast s.run.slices
      if stop then g1.updPath s.run.slices fun p => { p with stop := .yielded } else g1).endRun)

end Sys2Proof.Machine
end

