-- ==== Sys2Proof/Machine/Home.lean ====
section
/-! DEFINITION. Requests at the home slices, drops of elements, the resurvey, the switch of a parcel and the
perambulator (R57, R64 to R81, R107, R110, R112, R113). -/

namespace Sys2Proof.Machine

/-! ## Requests at a home slice (R65, R76, R77, R133) -/

/-- A request for `n` bytes that a home slice can take now: of local memory, in one line, its line not held. -/
def State.admits (s : State) (dpa n : Nat) : Bool :=
  decide (dpa < Config.localEnd) && decide (0 < n) && decide (dpa % 128 + n ≤ 128) && !s.blocked (dpa / 128) noTeam 0

/-- R132, R133: a read of a line for a die. -/
def execHomeSliceRead (die dpa vdev cls : Nat) (s : State) : Out1 :=
  .next (if s.admits dpa 1 then (s.readLine (die % 3) (dpa / 128) vdev (cls % 4)).1 else s)

/-- R65: a store or writeback of `n` bytes merged at home. -/
def execHomeSliceWrite (_die dpa vdev cls n : Nat) (v : DWord) (s : State) : Out1 :=
  .next (if s.admits dpa n then s.writeHome dpa n v.toNat vdev (cls % 4) 1 noTeam 0 else s)

/-- R77, R186, R336: an atomic performed at the home; a poisoned line is left as it is. Also the old value. -/
def State.atomicAt (s : State) (dpa vdev fn x y : Nat) : State × Option Nat :=
  let n := aopBytes fn
  match s.readHome dpa n vdev 0 2 with
  | (s1, none) => (s1, none)
  | (s1, some old) => (s1.writeHome dpa n (aopNew fn old (x % 2 ^ (8 * n)) (y % 2 ^ (8 * n))) vdev 0 2 noTeam 0, some old)

def execHomeSliceAtomic (_die dpa vdev : Nat) (op : BitVec 4) (x y : DWord) (s : State) : Out1 :=
  .next (if s.admits dpa (aopBytes op.toNat) then (s.atomicAt dpa vdev op.toNat x.toNat y.toNat).1 else s)

/-- R58, R76: a die's cadastre cache takes the entry of a parcel that has changed, and the die sends its requests for the
parcel that were answered MOVED again, in their order; each counts once (R474). -/
def execMoved (die parcel : Nat) (s : State) : Out1 :=
  let due := (s.dieOf die).replays.filter fun r => r.parcel == parcel && !r.sent && s.replayLive r
  .next ((if due.isEmpty then s else s.count (s.ownerOf parcel) 0x14 due.length).updDie die fun d => { d with
    cadCache := Sparse.erase d.cadCache parcel
    replays := (d.replays.filter s.replayLive).map fun r => if r.parcel = parcel then { r with sent := true } else r })

/-! ## Drops (R67, R68, R113) -/

def setDies (s : State) (f : Die → Die) : State := [0, 1, 2].foldl (fun s d => s.updDie d f) s

/-- R72: a parcel in COPYING whose new position lies on the element is given back to its queue. -/
def State.discardOn (s : State) (e : Elem) : State :=
  [0, 1, 2].foldl (fun s d =>
    let x := s.dieOf d
    let cd := s.cadOf x.rsParcel
    match cd.t with
    | some t =>
      if x.rsBusy && cd.state == 1 && e.hits t == some x.rsPos then
        (s.setCad x.rsParcel { cd with state := 0, cursor := 0, t := none }).updDie d fun x => { x with rsBusy := false }
      else s
    | none => s) s

/-- R113: the element that firmware drops next because of what is dropped already under `e`'s stack. -/
def State.escalates (s : State) (e : Elem) : Option Elem :=
  let has := fun (x : Elem) => s.drops.contains x
  let mt := s.mtcfg.toNat
  let pch : Elem := { level := 1, stack := e.stack, chan := e.chan, pch := e.pch }
  let chan : Elem := { level := 2, stack := e.stack, chan := e.chan }
  let all : Elem := { level := 3, stack := e.stack }
  let banks := (s.drops.filter fun x => x.level == 0 && x.stack == e.stack && x.chan == e.chan && x.pch == e.pch).eraseDups.length
  let chans := (s.drops.filter fun x => x.level == 2 && x.stack == e.stack).eraseDups.length
  match e.level with
  | 0 => if mt / 512 % 32 ≤ banks && !has pch then some pch else none
  | 1 => if has { pch with pch := 1 - e.pch } && !has chan then some chan else none
  | 2 => if mt / 16 % 32 ≤ chans && !has all then some all else none
  | _ => none

/-- R68: an element is dropped and recorded (R115). -/
def State.drop (s : State) (e : Elem) : State :=
  let s1 := ({ s with drops := s.drops ++ [e] }).discardOn e
  let s2 := s1.postFault { elem := e.word, kind := 8 }
  match s2.escalates e with
  | none => s2
  | some x => { s2 with plan := s2.plan ++ [.own (.rsdrop x.word)] }

/-- R67, R68. -/
def execRsdrop (v : Word) (s : State) : Out1 :=
  .next (match Elem.ofWord v with
    | none => setDies s fun d => { d with rsBadDesc := true }
    | some e => s.drop e)

/-! ## Frames (R55, R57, R69) -/

/-- The frames that the layouts of an entry name. -/
def Cad.names (c : Cad) (stack frame : Nat) : Bool :=
  let on := fun (l : Layout) => [0, 1, 2, 3, 4].any fun j => l.stk.getD j 12 == stack && l.frm.getD j 0 == frame
  on c.a || (match c.t with | some t => on t | none => false)

/-- R55: a frame that no layout names, that is not of the reserved area and is not recorded as unusable. -/
def State.freeFrame (s : State) (stack frame : Nat) : Bool :=
  let initial := match s.numberOf stack frame with
    | some n => decide (n < 1441792) && (decide (5 * (Config.nParcels + Config.nReserved) ≤ n) || (Sparse.get none s.cad (n / 5)).isNone)
    | none => true
  !(initial || s.cad.any (fun x => match x.2 with | some c => c.names stack frame | none => false) || s.unusable.contains (stack, frame))

/-- How many frames of a stack are free. -/
def State.freeFrames (s : State) (stack : Nat) : Nat := countFrom (s.freeFrame stack) Config.nFrames 0 0

/-- R69, R70: the stack of the new position. `same`: the position stays on its stack. -/
def State.newStack (s : State) (a : Layout) (pos : Nat) (same : Bool) : Option Nat :=
  if s.spent then none
  else if same then some (a.stk.getD pos 0)
  else
    let ks := (List.range Config.nStacks).filter fun k => !a.stk.contains k && !s.retired k
    (ks.foldl (fun (b : Option (Nat × Nat)) k =>
      let n := s.freeFrames k
      match b with
      | some (_, m) => if m < n then some (k, n) else b
      | none => some (k, n)) none).map fun b => b.1

/-- R57, R69: the target layout with position `pos` at a frame of `stack`. -/
def State.target (s : State) (a : Layout) (pos stack frame : Nat) : Layout :=
  let gone := s.retired (a.home / 32) || s.drops.any fun e => e.level == 2 && e.stack == a.home / 32 && e.chan == a.home % 32
  { a with stk := a.stk.set pos stack, frm := a.frm.set pos frame, home := if gone then stack * 32 + a.home % 32 else a.home }

/-- R57: a target is well formed. -/
def State.targetOk (s : State) (t : Layout) (pos : Nat) (bankx : Word) : Bool :=
  decide t.stk.Nodup && t.stk.all (fun k => decide (k < Config.nStacks))
    && t.frm.all (fun f => decide (f < Config.nFrames) && !bankx.getLsbD (f % 32))
    && t.stk.contains (t.home / 32)
    && !s.drops.any (fun e => e.level == 2 && e.stack == t.home / 32 && e.chan == t.home % 32)
    && s.freeFrame (t.stk.getD pos 0) (t.frm.getD pos 0)
    && !s.drops.any fun e => e.hits t == some pos

/-! ## The resurvey (R71 to R75) -/

/-- R58, R71, R76: a parcel that a die's engine may take now: homed on the die, at rest, its entry taken by every cache, and
every replay for it admitted. -/
def State.movable (s : State) (die parcel : Nat) : Bool :=
  let cd := s.cadOf parcel
  cd.a.home / 128 == die && cd.state == 0 && [0, 1, 2].all fun d =>
    !(s.dieOf d).cadCache.any (fun x => x.1 == parcel) && !(s.dieOf d).replays.any fun r => r.parcel == parcel && s.replayLive r

/-- R71: among `n` parcels from `lo` up, the first that the engine may take for the drop in place `k`. -/
def State.dropMove (s : State) (die lo n k : Nat) : Option (Nat × Nat × Option (Nat × Elem)) :=
  (firstFrom (fun p => s.movable die p && (match s.dueDrop p with | some x => x.1 == k | none => false)) n lo).bind fun p =>
    (s.dueDrop p).map fun x => (p, x.2.2, some (k, x.2.1))

/-- R71: what a die's engine moves next: the reserved area; then parcels in ascending order, drop by drop; then the single
moves. The parcel, the position, the drop's place or none, and the drop. -/
def State.nextMove (s : State) (die : Nat) : Option (Nat × Nat × Option (Nat × Elem)) :=
  let ks := List.range s.drops.length
  ((ks.findSome? (s.dropMove die Config.nParcels Config.nReserved)).orElse fun _ => ks.findSome? (s.dropMove die 0 Config.nParcels)).orElse fun _ =>
    (s.rsSingles.find? fun x => s.movable die x.1).map fun x => (x.1, x.2, none)

/-- R57, R70: a move that is not made, nor asked for again, nor counted in MHSTAT (log 80). -/
def State.skipMove (s : State) (parcel pos : Nat) (by_ : Option (Nat × Elem)) : State :=
  match by_ with
  | some (k, _) => { s with rsSkip := s.rsSkip ++ [(k, parcel)] }
  | none => { s with rsSingles := s.rsSingles.erase (parcel, pos) }

/-- R72: the engine takes its next parcel, with the frame named where the target is then well formed, else with the first
that makes it so; a bank's drop finds no frame in a stack that has since been retired (log 80). No free frame outside the banks it may not lie in: R70. Such a frame but no well-formed target: refused
(R57). -/
def execResurveyTakeParcel (die frame : Nat) (s : State) : Out1 :=
  .next (if (s.dieOf die).rsBusy then s
  else match s.nextMove die with
    | none => s
    | some (parcel, pos, by_) =>
      let cd := s.cadOf parcel
      let same := match by_ with | some (_, e) => e.level == 0 | none => !s.retired (cd.a.stk.getD pos 0)
      let bx := match by_ with
        | some (_, e) => if e.level = 0 then cd.bankx ||| (1#32 <<< e.bank) else cd.bankx
        | none => cd.bankx
      match s.newStack cd.a pos same with
      | none => { s.skipMove parcel pos by_ with nospare := true }
      | some k =>
        let ok := fun f => s.targetOk (s.target cd.a pos k f) pos bx
        match (if ok frame then some frame else firstFrom ok Config.nFrames 0) with
        | some f =>
          (s.setCad parcel { cd with state := 1, cursor := 0, bankx := bx, t := some (s.target cd.a pos k f) }).updDie die fun d =>
            { d with rsBusy := true, rsParcel := parcel, rsPos := pos, rsSingle := by_.isNone, rsStop := false }
        | none =>
          let free := fun f => s.freeFrame k f && !bx.getLsbD (f % 32) && !s.drops.any fun e => e.hits (s.target cd.a pos k f) == some pos
          if (firstFrom free Config.nFrames 0).isSome then
            (s.skipMove parcel pos by_).updDie die fun d => { d with rsRefused := true, rsParcel := parcel }
          else { s.skipMove parcel pos by_ with nospare := true })

/-- The lines of a parcel that stand in a slice, with their ways. -/
def State.sliceLines (s : State) (h parcel : Nat) : List (Nat × Nat) :=
  (s.l2.filter fun x => x.1 / 8192 == h && x.2.on && parcelOf (x.2.line * 128) == parcel).map fun x => (x.2.line, x.1 % 16)

/-- R72, R75: the home slice writes the parcel's dirty lines back and keeps them. -/
def State.cleanParcel (s : State) (parcel : Nat) : State :=
  let h := (s.cadOf parcel).a.home
  (s.sliceLines h parcel).foldl (fun s x => s.l2Writeback h x.1 x.2) s

/-- R73: the copy of line CURSOR, unless RATE pauses it (R82). -/
def execResurveyLineCopy (die : Nat) (s : State) : Out1 :=
  let p := (s.dieOf die).rsParcel
  let cd := s.cadOf p
  .next (match cd.t with
  | some t =>
    if !(s.dieOf die).rsBusy || cd.state != 1 || s.rsrate.toNat % 65536 == 0 || s.unready (p * 16384 + cd.cursor) then s
    else
      let i := cd.cursor
      let c := t.col (s.dieOf die).rsPos i
      let s1 := match s.stripeRead (p * 2 ^ 21 + i * 128) 126 with
        | (s1, .data v) => s1.colWrite c (colOfLine i v (s.dieOf die).rsPos) false 126 p cd.version
        | (s1, .poison) => s1.colWrite c 0 true 126 p cd.version
      let s2 := s1.setCad p { cd with cursor := i + 1 }
      if i + 1 < 16384 then s2
      else
        let s3 := s2.cleanParcel p
        s3.setCad p { s3.cadOf p with state := 2 }
  | none => s)

/-- R75 step 1: the old home stops admitting requests for the parcel. -/
def execParcelSwitch (die : Nat) (s : State) : Out1 :=
  .next (if (s.dieOf die).rsBusy && (s.cadOf (s.dieOf die).rsParcel).state == 2 then s.updDie die fun d => { d with rsStop := true } else s)

/-- R75 step 4, R78 to R80: what the old home hands over: registrations count as written, sleepers are woken, and
watches that do not fit at the new home go to the residency shadows, with the parcel's overflow bit. -/
def State.handOver (s : State) (parcel home : Nat) : State :=
  let on := fun (k : LineKey) => match k with | .mem l => parcelOf (l * 128) == parcel | _ => false
  let s1 : State := { s with regs := s.regs.map fun r => if on r.key then { r with hit := true } else r }
  let s2 := (s1.wakes.filter fun w => on w.key).foldl State.wakeOne s1
  let mine := fun (w : Watch) => parcelOf (w.line * 128) == parcel
  let there := (s2.watch.filter fun w => !mine w && s2.homeOf w.line == home).length
  let moving := s2.watch.filter mine
  { s2 with
    watch := (s2.watch.filter fun w => !mine w) ++ moving.take (2048 - there)
    shadowWatch := s2.shadowWatch ++ moving.drop (2048 - there)
    watchOvf := if 2048 - there < moving.length then Sparse.set false s2.watchOvf parcel true else s2.watchOvf }

/-- R112: the pseudo-channel and row on whose account a frame is retired: those of the row that could not be repaired, or,
of a move asked for without one, a row of the frame that stands in the row log (log 80). -/
def State.retiredFor (s : State) (parcel pos stack frame : Nat) : Option (Nat × Nat) :=
  ((s.rsCause.find? fun x => x.1 == parcel && x.2.1 == pos).map fun x => x.2.2).orElse fun _ =>
    ((s.stackOf stack).rowLog.find? fun r => r.bank == frame % 32 && r.row / 4 == frame / 32).map fun r => (r.p, r.row)

/-- R112, R113, R115: a position has left the frame that was to be retired: the frame is recorded as unusable; with
MTCFG.BANKFRM such frames in a bank, the bank of the pseudo-channel on whose account it was retired is dropped. -/
def State.retireFrame (s : State) (parcel pos stack frame version : Nat) : State :=
  let b := frame % 32
  let s1 := fun (s : State) => { s with
    rsSingles := s.rsSingles.erase (parcel, pos), unusable := s.unusable ++ [(stack, frame)]
    rsCause := s.rsCause.filter fun x => !(x.1 == parcel && x.2.1 == pos) }
  match s.retiredFor parcel pos stack frame with
  | none => s1 (s.postFault { elem := Elem.word { level := 0, stack := stack, bank := b }, kind := 7, rowid := frame / 32 * 4, parcel := parcel, version := version })
  | some (p, row) =>
    let e : Elem := { level := 0, stack := stack, chan := p / 2, pch := p % 2, bank := b }
    let s2 := s1 (s.postCol { stack := stack, p := p, bank := b, row := row, unit := 0 } 7 parcel version)
    if (s2.unusable.filter fun x => x.1 == stack && x.2 % 32 == b).length < s.mtcfg.toNat / 2 ^ 14 % 64 || s.drops.contains e then s2
    else { s2 with plan := s2.plan ++ [.own (.rsdrop e.word)] }

/-- R58, R75 step 5, R76: the changed entry is on its way to the dies' caches; a die that has already taken it with a MOVED
has it. -/
def State.broadcast (s : State) (parcel home version : Nat) : State :=
  setDies s fun x => if x.replays.any fun r => r.parcel == parcel && r.sent then x
    else { x with cadCache := Sparse.insert x.cadCache parcel (home, version) }

/-- R75 steps 2 to 5, once no commit holds a lock on the parcel. -/
def execSwitchDrainComplete (die : Nat) (s : State) : Out1 :=
  let d := s.dieOf die
  let p := d.rsParcel
  let held := s.wlocks.any fun w => match w.key with | .mem l => parcelOf (l * 128) == p | _ => false
  .next (if !(d.rsBusy && d.rsStop) || held then s
  else match (s.cadOf p).t with
    | none => s
    | some t =>
      let old := (s.cadOf p).a
      let s1 := s.cleanParcel p
      let s2 := (s1.sliceLines old.home p).foldl (fun s x =>
        let s' := s.dropProxies old.home x.1
        if t.home = old.home then s'.setL2 old.home x.1 x.2 { s'.l2Line old.home x.1 x.2 with prx := 0 }
        else s'.setL2 old.home x.1 x.2 {}) s1
      let s3 := if t.home = old.home then s2 else s2.handOver p t.home
      let cd := s3.cadOf p
      let s4 := s3.setCad p { cd with state := 0, version := (cd.version + 1) % 65536, cursor := 0, a := t, t := none }
      let s5 := s4.updDie die fun d => { d with rsBusy := false, rsStop := false, rsSingle := false }
      let s6 := s5.broadcast p old.home cd.version
      if d.rsSingle then s6.retireFrame p d.rsPos (old.stk.getD d.rsPos 0) (old.frm.getD d.rsPos 0) cd.version else s6)

/-- R112: firmware asks for the move of one position of one parcel. -/
def execSingleParcelMove (parcel pos : Nat) (s : State) : Out1 :=
  .next (if parcel < Config.nParcels + Config.nReserved ∧ pos < 5 ∧ ¬s.rsSingles.contains (parcel, pos) then { s with rsSingles := s.rsSingles ++ [(parcel, pos)] }
  else s)

/-! ## The perambulator (R107 to R110) -/

/-- R107: the end of a die's walk: the parcels, and after them its share of the reserved area. -/
def walkEnd : Nat := Config.nParcels + Config.nReserved

/-- R107: the next line of the die's walk is read, once its columns have tags (R93); a line dirty at home is passed over, a
parcel on its way is left for the end of the pass. Between two parcels PARCEL shows the number after the last (log 87). -/
def execPerambulatorLineRead (die : Nat) (s : State) : Out1 :=
  let d := s.dieOf die
  let mine := fun p => (s.cadOf p).a.home / 128 == die
  let walk := fun (s : State) (p i : Nat) =>
    let h := (s.cadOf p).a.home
    let line := p * 16384 + i
    match s.l2Find h line with
    | some w => if (s.l2Line h line w).dirty = 0 then (s.stripeRead (line * 128) 125).1 else s
    | none => (s.stripeRead (line * 128) 125).1
  let past := fun (s : State) (p i : Nat) => s.updDie die fun d =>
    if i + 1 < 16384 then { d with pbParcel := p, pbLine := i + 1 } else { d with pbParcel := p + 1, pbLine := 0 }
  .next (if !s.pbctl.getLsbD 31 then s
  else if d.pbParcel < walkEnd then
    match firstFrom mine (walkEnd - d.pbParcel) d.pbParcel with
    | none => s.updDie die fun d => { d with pbParcel := walkEnd, pbLine := 0 }
    | some p =>
      let i := if p = d.pbParcel then d.pbLine else 0
      if (s.cadOf p).state != 0 then
        s.updDie die fun d => { d with pbParcel := p + 1, pbLine := 0, pbSkipped := d.pbSkipped ++ [p] }
      else if s.unready (p * 16384 + i) then s
      else past (walk s p i) p i
  else match d.pbSkipped with
    | [] => s.updDie die fun d => { d with pbPasses := (d.pbPasses + 1) % 256, pbParcel := 0, pbLine := 0 }
    | p :: ps =>
      if !mine p then s.updDie die fun d => { d with pbSkipped := ps, pbLine := 0 }
      else if (s.cadOf p).state != 0 || s.unready (p * 16384 + d.pbLine) then s
      else (walk s p d.pbLine).updDie die fun d =>
        if d.pbLine + 1 < 16384 then { d with pbLine := d.pbLine + 1 } else { d with pbSkipped := ps, pbLine := 0 })

/-- R110: firmware clears a corrected-error counter. -/
def execCecntWrite (index : Nat) (s : State) : Out1 :=
  .next { s with cecnt := Sparse.erase s.cecnt index }

end Sys2Proof.Machine
end

