-- ==== Sys2Proof/Machine/BaseDie.lean ====
section
/-! DEFINITION. The base dies: packets and their replies, refresh and self-refresh, tokens, the row log and the mailbox of
the management core (R90 to R119, R484). -/

namespace Sys2Proof.Machine

/-! ## Packets (R90 to R97) -/

/-- R92, R93, R98, R105: a packet reaches a base die whose training is done: discarded where its tag is outstanding (log 81),
answered with STATUS 3 where malformed, else accepted to wait for the scheduler. It ends an idle pseudo-channel's rest, and
issues the exit of one in self-refresh. -/
def State.arrive1 (s : State) (stack : Nat) (k : Packet) : State :=
  let t := s.stackOf stack
  let now := s.clock.toNat
  if !t.trDone || t.linkDown then s
  else if hdrDie k.hdr != 3 && (Sparse.get none t.tags (tagKey k.hdr)).isSome then
    s.updStack stack fun t => { t with tagdup := min (t.tagdup + 1) 0xFFFF }
  else if hdrBad k.hdr then
    s.updStack stack fun t => { t.reply { hdr := replyHdr k.hdr 3 false false } with refused := min (t.refused + 1) 0xFFFF }
  else s.updStack stack fun t => { t with
    tags := Sparse.set none t.tags (tagKey k.hdr) (some k)
    waiting := t.waiting ++ [k]
    sr := Sparse.upd {} t.sr (hdrP k.hdr) fun (x : SelfRef) => match x.state with
      | .selfref => { x with state := .exiting, timer := now }
      | .idle => { x with state := .active }
      | _ => x }

/-- The packet of a header, with the kind, and for a refresh-control packet the OP, that the step is for; bit 31, which makes
an OP a reserved one, is the header's. -/
def State.packet (s : State) (kind op : Nat) (hdr : DWord) (be : Word) (data : BitVec 256) : Packet :=
  let h := hdr.toNat % 2 ^ 62 + kind * 2 ^ 62
  { hdr := BitVec.ofNat 64 (if kind = 3 then h / 2 ^ 31 * 2 ^ 31 + op * 2 ^ 29 + h % 2 ^ 29 else h), data := data, be := be
    time := s.clock.toNat }

def execBaseDieRead (stack : Nat) (hdr : DWord) (s : State) : Out1 := .next (s.arrive1 stack (s.packet 0 0 hdr 0 0))
def execBaseDieWrite (stack : Nat) (hdr : DWord) (data : BitVec 256) (s : State) : Out1 := .next (s.arrive1 stack (s.packet 1 0 hdr 0 data))
def execBaseDieMaskedWrite (stack : Nat) (hdr : DWord) (be : Word) (data : BitVec 256) (s : State) : Out1 :=
  .next (s.arrive1 stack (s.packet 2 0 hdr be data))
def execRefreshRate (stack : Nat) (hdr : DWord) (s : State) : Out1 := .next (s.arrive1 stack (s.packet 3 0 hdr 0 0))
def execSelfRefreshEntryRequest (stack : Nat) (hdr : DWord) (s : State) : Out1 := .next (s.arrive1 stack (s.packet 3 1 hdr 0 0))
def execSelfRefreshExitRequest (stack : Nat) (hdr : DWord) (s : State) : Out1 := .next (s.arrive1 stack (s.packet 3 2 hdr 0 0))
def execNeighbourRefresh (stack : Nat) (hdr : DWord) (s : State) : Out1 := .next (s.arrive1 stack (s.packet 3 3 hdr 0 0))

/-- R98: the scheduler of a pseudo-channel that is awake serves a request that waits. -/
def State.bdServe (s : State) (stack p : Nat) : State :=
  let sr : SelfRef := Sparse.get {} (s.stackOf stack).sr p
  if sr.state = .active ∨ sr.state = .idle then (s.serveOne stack p false).updStack stack fun t => t.rest p s.clock.toNat else s

/-- R91 to R93, R97, R115: a reply, in any order, is received: its tag is free, but one that has timed out stays busy; a
column that failed is recorded, and the column of a read comes to the home slice. STATUS 3 is counted as a link fault. -/
def execBaseDieReply (stack idx : Nat) (s : State) : Out1 :=
  .next (match (s.stackOf stack).replies[idx]? with
    | none => s
    | some r =>
      let k := tagKey r.hdr
      let st := r.hdr.toNat / 2 ^ 49 % 4
      let s1 := s.updStack stack fun t => { t with replies := t.replies.eraseIdx idx }
      if st = 3 then s1.updDie (hdrDie r.hdr) fun d => { d with linkFaults := d.linkFaults + 1 }
      else match Sparse.get none (s.stackOf stack).tags k with
        | none => s1
        | some x =>
          if x.dead then s1
          else
            let c := hdrCol stack x.hdr
            let s2 := (s1.updStack stack fun t => { t with tags := Sparse.erase t.tags k }).replyReport c (hdrKind r.hdr == 0) st
            if hdrKind r.hdr = 0 then s2.columnIn (hdrDie r.hdr) c (hdrVdev x.hdr) else s2)

/-- R97: a tag outstanding for 20 µs: its pseudo-channel is dropped by hardware and the fault recorded. A read is completed as
an erased column; a write as one to a dropped element, where nothing is written. -/
def execTagTimeout (stack die p tag : Nat) (s : State) : Out1 :=
  let k := die * 512 + p * 8 + tag
  .next (match Sparse.get none (s.stackOf stack).tags k with
    | none => s
    | some x =>
      if x.dead || decide (s.clock.toNat < x.time + 20 * Config.cyclesPerUs) then s
      else
        let e : Elem := { level := 1, stack := stack, chan := p / 2, pch := p % 2 }
        let s1 := s.updStack stack fun t => { t with
          tags := Sparse.set none t.tags k (some { x with dead := true }), waiting := t.waiting.erase x }
        let s2 := (s1.postFault { elem := e.word, kind := 4 }).drop e
        if hdrKind x.hdr = 0 then s2.columnIn die (hdrCol stack x.hdr) (hdrVdev x.hdr) else s2)

/-- R97: firmware resets a stack's link: the tags that have timed out are free again. -/
def State.linkReset (s : State) (stack : Nat) : State :=
  s.updStack stack fun t => { t with tags := t.tags.filter fun x => match x.2 with | some k => !k.dead | none => true }

/-- R484: the array of a column unit fails. -/
def State.arrayFailure (s : State) (unit : Nat) : State := { s with broken := Sparse.set false s.broken unit true }

/-! ## Tokens, refresh and hot rows (R98 to R105) -/

/-- R99. -/
def execTokenRefill (s : State) : Out1 := .next s.refill

/-- R98: a due refresh of a pseudo-channel: its banks close. -/
def execRefreshDue (stack p : Nat) (s : State) : Out1 :=
  let sr : SelfRef := Sparse.get {} (s.stackOf stack).sr p
  .next (if s.clock.toNat < sr.refresh + 32 * Config.cyclesPerMs / 2 ^ sr.mult then s
  else s.updStack stack fun t => { t with
    openRow := t.openRow.filter fun x => x.1 / 32 != p
    sr := Sparse.set {} t.sr p { sr with refresh := s.clock.toNat } })

/-- R102: the 32 ms window ends and every count is cleared; windows begin at multiples of 32 ms of CLOCK (log 87). -/
def execHotRowWindowEnd (stack : Nat) (s : State) : Out1 :=
  let now := s.clock.toNat / (32 * Config.cyclesPerMs)
  .next (if now ≤ (s.stackOf stack).hotWin then s else s.updStack stack fun t => { t with hot := [], hotWin := now })

/-- R105, R106: the idle timer of a pseudo-channel has run out with no arrival. -/
def execSelfRefreshTimerExpiry (stack p : Nat) (s : State) : Out1 :=
  let t := s.stackOf stack
  let sr : SelfRef := Sparse.get {} t.sr p
  .next (if sr.state = .idle && t.srcfg.getLsbD 0 && decide (sr.timer + t.srcfg.toNat / 65536 * 32 ≤ s.clock.toNat) then
    s.updStack stack fun t => { t with sr := Sparse.set {} t.sr p { sr with state := .entering, timer := s.clock.toNat } }
  else s)

/-- R105: 20 ns after the entry was issued: SELFREF; a request held meanwhile issues the exit. -/
def execSelfRefreshEntryComplete (stack p : Nat) (s : State) : Out1 :=
  let t := s.stackOf stack
  let sr : SelfRef := Sparse.get {} t.sr p
  .next (if sr.state = .entering && decide (sr.timer + 20 * Config.cyclesPerNs ≤ s.clock.toNat) then
    let held := t.waiting.any fun k => hdrP k.hdr == p
    s.updStack stack fun t =>
      let t1 := t.entered p
      { t1 with sr := Sparse.set {} t1.sr p { sr with state := if held then .exiting else .selfref, timer := s.clock.toNat } }
  else s)

/-- R105: 250 ns after the exit was issued the pseudo-channel is awake, and the held requests are served. -/
def execSelfRefreshExitComplete (stack p : Nat) (s : State) : Out1 :=
  let t := s.stackOf stack
  let sr : SelfRef := Sparse.get {} t.sr p
  .next (if sr.state = .exiting && decide (sr.timer + 250 * Config.cyclesPerNs ≤ s.clock.toNat) then
    s.updStack stack fun t => { t with sr := Sparse.set {} t.sr p { sr with state := .active } }.rest p s.clock.toNat
  else s)

/-! ## The row log, the mailbox and training (R111 to R118) -/

/-- R111, R114: entries older than the window are discarded. -/
def execRowLogExpiry (stack : Nat) (s : State) : Out1 :=
  let win := 2 ^ (s.mtcfg.toNat / 2 ^ 20 % 16) * 3600 * 1000 * Config.cyclesPerMs
  .next (s.updStack stack fun t => { t with rowLog := t.rowLog.filter fun r => decide (s.clock.toNat ≤ r.first + win) })

/-- A mailbox command ends with an error code (R117). -/
def State.mbxEnd (s : State) (stack err : Nat) : State := s.updStack stack fun t => { t with mbxBusy := false, mbxErr := err }

/-- R116, R117: a command is written and carried out; one written while another is in progress is ignored. -/
def State.mbxDo (s : State) (stack cmd : Nat) (f : State → State) : State :=
  if (s.stackOf stack).mbxBusy && (s.stackOf stack).mbxCmd != cmd then s.updStack stack fun t => { t with mbxDropped := true }
  else f (s.updStack stack fun t => { t with mbxCmd := cmd })

/-- The arguments of a mailbox command that names a place: p in 30..25, BANK in 24..20, ROW in 19..6, as a location word
(R62); none where another bit is set. -/
def mbxPlace (w : Word) : Option (Nat × Nat × Nat) :=
  let n := w.toNat
  if n / 2 ^ 31 ≠ 0 ∨ n % 64 ≠ 0 then none else some (n / 2 ^ 25 % 64, n / 2 ^ 20 % 32, n / 64 % 16384)

def rowElem (stack p bank : Nat) : Elem := { level := 0, stack := stack, chan := p / 2, pch := p % 2, bank := bank }

/-- R118: training: every column of the stack is written as zeros with its check; failing channels and a failed link are
marked and then dropped (R113), before start-up by start-up itself (R481). -/
def State.train (s : State) (stack : Nat) (fail : Word) (linkErr : Bool) : State :=
  let units := 64 * 32 * 16384 * 64
  let chans := (List.range 32).filter fun c => fail.getLsbD c
  let s1 : State := { s with
    raw := Sparse.without s.raw (stack * units * 32) (units * 32)
    psn := Sparse.without s.psn (stack * units) units
    chk := Sparse.without s.chk (stack * units) units }
  let s2 := (s1.updStack stack fun t => { t with
    trDone := true, trLinkErr := linkErr, linkDown := linkErr, trFail := fail, openRow := [] }).mbxEnd stack 0
  let s3 := chans.foldl (fun s c => s.postFault { elem := Elem.word { level := 2, stack := stack, chan := c }, kind := 5 }) s2
  let es : List Elem := chans.map (fun c => { level := 2, stack := stack, chan := c }) ++ (if linkErr then [{ level := 3, stack := stack }] else [])
  if s.bootDone then { s3 with plan := s3.plan ++ es.map fun e => .own (.rsdrop e.word) } else s3

def execMbxTrain (stack : Nat) (fail : Word) (linkErr : Bool) (s : State) : Out1 :=
  .next (s.mbxDo stack 1 fun s => s.train stack fail linkErr)

/-- R112: a post-package row repair with one of the bank's four repair rows: the units keep what they hold, and their
array is sound again; a unit that returned no data fails its check, since nothing of it can be read as data (R484). The row's
entry in the log is done with (log 82). -/
def State.rowRepair (s : State) (stack : Nat) : State :=
  let t := s.stackOf stack
  match mbxPlace t.mbxArg0 with
  | none => s.mbxEnd stack 2
  | some (p, bank, row) =>
    let c : Col := { stack := stack, p := p, bank := bank, row := row, unit := 0 }
    if s.dropped c then s.mbxEnd stack 4
    else if 4 ≤ Sparse.get 0 t.repairs (p * 32 + bank) then s.mbxEnd stack 3
    else
      let failed := (List.range 64).filter fun k => Sparse.get false s.broken (c.index + k)
      let s1 : State := { s with
        broken := Sparse.without s.broken c.index 64
        chk := failed.foldl (fun m k => Sparse.set 0 m (c.index + k) 1) s.chk }
      let s2 := s1.updStack stack fun t => { t with
        repairs := Sparse.upd 0 t.repairs (p * 32 + bank) (· + 1)
        rowLog := t.rowLog.filter fun r => !(r.p == p && r.bank == bank && r.row == row) }
      (s2.postFault { elem := (rowElem stack p bank).word, kind := 6, rowid := row, count := s.logged c }).mbxEnd stack 0

def execMbxRowRepair (stack : Nat) (s : State) : Out1 := .next (s.mbxDo stack 2 fun s => s.rowRepair stack)

/-- R112, R116: firmware's answer, through the mailbox once it is not busy, to a row whose logged count has reached ROWCE: a
repair, or, where no repair row is left, the retirement of its frame. -/
def State.rowCe (s : State) (stack p bank row : Nat) : State :=
  if (s.stackOf stack).mbxBusy then s
  else
    let w := BitVec.ofNat 32 (p * 2 ^ 25 + bank * 2 ^ 20 + row * 64)
    let s1 := (s.updStack stack fun t => { t with mbxArg0 := w, mbxCmd := 2, rowDue := t.rowDue.erase (p, bank, row) }).rowRepair stack
    if (s1.stackOf stack).mbxErr = 3 then
      match s1.frameOwner stack (row / 4 * 32 + bank) with
      | some (q, j) => { s1 with plan := s1.plan ++ [.own (.singleParcelMove q j)], rsCause := (q, j, p, row) :: s1.rsCause }
      | none => s1
    else s1

/-- R116: command 0x03. -/
def execMbxSetRefresh (stack : Nat) (s : State) : Out1 :=
  let t := s.stackOf stack
  let p := t.mbxArg0.toNat
  let m := t.mbxArg1.toNat
  .next (s.mbxDo stack 3 fun s => if 2 < m ∨ (63 < p ∧ p ≠ 255) then s.mbxEnd stack 2
  else
    let ps := if p = 255 then List.range 64 else [p]
    (s.updStack stack fun t => { t with sr := ps.foldl (fun r p => Sparse.upd {} r p fun (x : SelfRef) => { x with mult := m }) t.sr }).mbxEnd
      stack 0)

/-- R116: command 0x04: the place in ARG0 and the count in ARG1. -/
def execMbxReadRowLog (stack : Nat) (s : State) : Out1 :=
  .next (s.mbxDo stack 4 fun s => match (s.stackOf stack).rowLog[(s.stackOf stack).mbxArg0.toNat]? with
    | none => s.mbxEnd stack 2
    | some r => (s.updStack stack fun t => { t with
        mbxArg0 := BitVec.ofNat 32 (r.p * 2 ^ 25 + r.bank * 2 ^ 20 + r.row * 64), mbxArg1 := BitVec.ofNat 32 r.count }).mbxEnd stack 0)

/-- R116: command 0x05. -/
def execMbxRepairRowsLeft (stack : Nat) (s : State) : Out1 :=
  .next (s.mbxDo stack 5 fun s => match mbxPlace (s.stackOf stack).mbxArg0 with
    | none => s.mbxEnd stack 2
    | some (p, bank, _) =>
      (s.updStack stack fun t => { t with mbxArg0 := BitVec.ofNat 32 (4 - Sparse.get 0 t.repairs (p * 32 + bank)) }).mbxEnd stack 0)

/-- R113: the link or the management core of a stack fails in operation: the whole stack is dropped. -/
def execBaseDieLinkFailure (stack : Nat) (s : State) : Out1 :=
  .next ((s.updStack stack fun t => { t with linkDown := true }).drop { level := 3, stack := stack })

end Sys2Proof.Machine
end

