-- ==== Sys2Proof/Machine/Buf.lean ====
section
/-! DEFINITION. The buffer table, the arrival network and the buffer-handle instructions (R137 to R143, R343 to R345). -/

namespace Sys2Proof.Machine

/-! ## Entries (R138, R139) -/

def maxCount : Nat := 1048575

/-- R138: word 0. -/
def Buf.word0 (b : Buf) : Word :=
  BitVec.ofNat 32 (b.state * 2 ^ 30 + (if b.phase then 2 ^ 29 else 0) + (if b.err then 2 ^ 28 else 0) + b.owner * 2 ^ 25 + b.exp)

/-- R139: an entry in which ARR has reached EXP flips and becomes FULL. -/
def Buf.fill (b : Buf) : Buf :=
  if b.exp ≤ b.arr then { b with arr := b.arr - b.exp, phase := !b.phase, state := 2 } else { b with state := 1 }

/-- R139: arm with `n`. -/
def Buf.arm (n : Nat) (b : Buf) : Buf :=
  if b.state = 0 ∨ b.state = 2 then ({ b with exp := n, err := false } : Buf).fill else { b with err := true }

/-- R139: arrival of `m`. -/
def Buf.arrive (m : Nat) (b : Buf) : Buf :=
  if b.state = 3 then { b with err := true }
  else
    let ovf := decide (maxCount < b.arr + m)
    let b1 := { b with arr := if ovf then maxCount else b.arr + m, err := b.err || ovf }
    if b.state = 1 then b1.fill else b1

/-- R139: a copy issues with the handle as source; the last such copy completes; release by the owner. -/
def Buf.drain (b : Buf) : Buf := if b.state = 2 then { b with state := 3 } else b
def Buf.drained (b : Buf) : Buf := if b.state = 3 then { b with state := 0 } else b
def Buf.release (b : Buf) : Buf := if b.state = 2 then { b with state := 0 } else b

/-- R142: an event on an entry; a change of STATE or PHASE wakes its sleepers. -/
def State.bufEvent (s : State) (c k u g : Nat) (f : Buf → Buf) : State :=
  let b := Sparse.get {} (s.coreOf c).bufs k
  let b1 := f b
  let s1 := s.updCore c fun x => { x with bufs := Sparse.set {} x.bufs k b1 }
  if b1.state = b.state ∧ b1.phase = b.phase then s1 else s1.noteKey (.buf c k) u g

/-! ## Arrivals (R140) -/

/-- An arrival of `m` at handle `h` of a team is sent. -/
def State.sendArrival (s : State) (u h m : Nat) (err : Bool) : State :=
  { s with arrivals := s.arrivals ++ [((if u < noTeam then (s.teamOf u).core else u - noTeam) / 4, u, h, m, err)] }

/-- R140, R143: an arrival is applied, or counted in BUFSTRAY where its team has no such handle. -/
def State.applyArrival (s : State) (u h m : Nat) (err : Bool) : State :=
  let t := s.teamOf u
  let gone := decide (noTeam ≤ u) || (t.place != .resident && t.place != .stopping) || decide (t.bufCnt ≤ h)
  if gone then s.updCore (if noTeam ≤ u then u - noTeam else t.core) fun c => { c with stray := c.stray + 1 }
  else s.bufEvent t.core (t.bufBase + h) noTeam 0 fun b => let b1 := b.arrive m
    if err then { b1 with err := true } else b1

/-- R140: the next arrival on a cluster's network is applied. -/
def execBufferArrival (cl : Nat) (s : State) : Out1 :=
  match s.arrivals.find? fun a => a.1 == cl with
  | none => .next s
  | some a => .next (({ s with arrivals := s.arrivals.erase a } : State).applyArrival a.2.1 a.2.2.1 a.2.2.2.1 a.2.2.2.2)

/-! ## Instructions (R343) -/

/-- R137, R343: a handle at or above BUFCNT raises PROT; else `f` acts on the entry for each path with the value of S[sa]
in the path's lowest slice. -/
def State.buffer (s : State) (e : Bool) (h : BitVec 6) (srcs : List Nat) (f : BitVec 8 → Nat → Word → State → State) : State :=
  let g := s.curGroup
  ((s.eachPath fun sl s =>
    if s.curTeam.bufCnt ≤ h.toNat then s.trapAt sl .prot
    else f sl (s.curTeam.bufBase + h.toNat) (g.sreg (lowSlice sl) (srcs.headD 0)) s).tally e).advanceAfter s srcs

def State.pathOn (s : State) (sl : BitVec 8) : State := s.updCur fun g => g.stepPast sl

/-- R343. -/
def execBufArm (e : Bool) (a h : BitVec 6) (s : State) : Out1 :=
  .next (s.unsup fun s => s.buffer e h [a.toNat] fun sl k v s =>
    if maxCount < v.toNat then s.trapAt sl .prot
    else (s.bufEvent s.curCore k s.run.uid s.run.grp (Buf.arm v.toNat)).pathOn sl)

/-- R344: an arrival is a release at cluster scope, performed first. -/
def State.bufRelease (s : State) (f : State → State) : State := if s.stuckAt 2 then s else f (s.releaseAt 2)

/-- R343: an arrival at the team's own entry. -/
def execBufArrive (e : Bool) (a h : BitVec 6) (s : State) : Out1 :=
  .next (s.unsup fun s => s.bufRelease fun s => s.buffer e h [a.toNat] fun sl _ v s =>
    if maxCount < v.toNat then s.trapAt sl .prot
    else (s.sendArrival s.run.uid h.toNat v.toNat false).pathOn sl)

/-- R140, R343: an arrival at the entry of the team of rank S[sd][1..0]. -/
def execBufArriveCl (e : Bool) (d a h : BitVec 6) (s : State) : Out1 :=
  let g := s.curGroup
  .next (s.unsup fun s => s.bufRelease fun s => s.buffer e h [a.toNat, d.toNat] fun sl _ v s =>
    let k := (g.sreg (lowSlice sl) d.toNat).toNat % 4
    let dest := (s.rankTeam s.run.uid k).getD (noTeam + (s.curCore / 4 * 4 + k))
    if maxCount < v.toNat then s.trapAt sl .prot else (s.sendArrival dest h.toNat v.toNat false).pathOn sl)

/-- R142, R343: a one-line transaction at cluster scope on the entry. -/
def execBufWait (e : Bool) (a h : BitVec 6) (s : State) : Out1 :=
  .next (s.buffer e h [a.toNat] fun sl k v s => s.phaseWait sl (.buf s.curCore k) (v.getLsbD 0))

/-- R343. -/
def execBufRel (e : Bool) (h : BitVec 6) (s : State) : Out1 :=
  .next (s.unsup fun s => s.buffer e h [] fun sl k _ s => (s.bufEvent s.curCore k s.run.uid s.run.grp Buf.release).pathOn sl)

/-- R343: word 2 := S[sa][29..0]; in FILLING or DRAINING only ERR is set. -/
def execBufRgn (e : Bool) (a h : BitVec 6) (s : State) : Out1 :=
  .next (s.unsup fun s => s.buffer e h [a.toNat] fun sl k v s =>
    let off := v.toNat / 2 ^ 15 % 2 ^ 15
    let size := v.toNat % 2 ^ 15
    if v.toNat / 2 ^ 30 ≠ 0 ∨ size = 0 ∨ s.curTeam.spSize * 16 < off + size then s.trapAt sl .prot
    else (s.bufEvent s.curCore k s.run.uid s.run.grp fun b =>
      if b.state = 1 ∨ b.state = 3 then { b with err := true } else { b with off := off, size := size }).pathOn sl)

/-- R343: S[sd] := word 0, in every issuing slice. -/
def execBufStat (e : Bool) (d h : BitVec 6) (s : State) : Out1 :=
  .next (s.buffer e h [] fun sl k _ s =>
    let w := (Sparse.get {} (s.coreOf s.curCore).bufs k).word0
    s.updCur fun g => (g.writeS sl d.toNat fun _ => w).stepPast sl)

/-- R343: S[sd] := word 1. -/
def execBufCount (e : Bool) (d h : BitVec 6) (s : State) : Out1 :=
  .next (s.buffer e h [] fun sl k _ s =>
    let w := BitVec.ofNat 32 (Sparse.get {} (s.coreOf s.curCore).bufs k).arr
    s.updCur fun g => (g.writeS sl d.toNat fun _ => w).stepPast sl)

end Sys2Proof.Machine
end

