-- ==== Sys2Proof/Machine/Copy.lean ====
section
/-! DEFINITION. Copy commands: the post and its checks, the pieces a command moves, range locks, the move itself with its
faults, and completion (R127, R144 to R147, R346 to R352, R374, R375). -/

namespace Sys2Proof.Machine

/-! ## How an engine reaches memory (R24, R121, R351) -/

/-- What comes of one of an engine's accesses. -/
inductive Eng where
  | ok (v : Nat)
  | pf (f : Flt) (va : Nat)
  | bad
  /-- The line of this address is poisoned. -/
  | pois (va : Nat)
  | wait
deriving DecidableEq, Repr

/-- The access has been made. -/
def Eng.done : Eng → Bool
  | .ok _ => true
  | _ => false

/-- R351: what stopped a read stops it for now only. -/
def Eng.stalls : Eng → Bool
  | .pf _ _ => true
  | .wait => true
  | _ => false

/-- The DPA of an engine's access, or why there is none. -/
def State.engDpa (s : State) (u o va : Nat) (acc : Acc) : State × Except Eng Nat :=
  let t := s.teamOf u
  match s.translateNow (.engine u o) t.core t.part t.asid t.vf va acc with
  | (s1, .ok x) => (s1, .ok (x.at_ va))
  | (s1, .ats) => (s1, .error .wait)
  | (s1, .held) => (s1, .error .wait)
  | (s1, .fault f) => (s1, .error (if f.code = .pf then .pf f va else if f.code = .pois then .pois va else .bad))

/-- R433: an access outside this device: a poisoned or an error completion stops the operation (R351). -/
def Eng.ofOut (r : State × Fe Nat) : State × Eng :=
  (r.1, match r.2 with | .ok v => .ok v | .fault => .bad | .wait => .wait)

/-- An engine's read of `n` bytes of one line, for operation `o` of a team, in traffic class `cls`. -/
def State.engRead (s : State) (u o cls va n : Nat) : State × Eng :=
  let t := s.teamOf u
  match levelOf va with
  | .global =>
    match s.engDpa u o va .read with
    | (s1, .error e) => (s1, e)
    | (s1, .ok a) =>
      if isLocal a then
        if s1.blocked (a / 128) noTeam 0 then (s1, .wait)
        else match s1.readDpa (t.core / 64) a n t.vf cls with
          | (s2, some v) => (s2, .ok v)
          | (s2, none) => (s2, .pois va)
      else Eng.ofOut (s1.outRead (.engine u o) a n)
  | .lanePriv => (s, .bad)
  | _ =>
    match s.spot u 0 0 va n .read with
    | .sp c b => if s.keyLocked (.core c (b / 128)) noTeam 0 then (s, .wait) else (s, .ok (Mem.readNat (s.coreOf c).sp b n))
    | .cs d b => if s.keyLocked (.chip d (b / 128)) noTeam 0 then (s, .wait) else (s, .ok (Mem.readNat (s.dieOf d).cs b n))
    | _ => (s, .bad)

/-- An engine's write of `n` bytes of one line. -/
def State.engWrite (s : State) (u o cls va n v : Nat) : State × Eng :=
  let t := s.teamOf u
  match levelOf va with
  | .global =>
    match s.engDpa u o va .write with
    | (s1, .error e) => (s1, e)
    | (s1, .ok a) =>
      if isLocal a then
        if s1.blocked (a / 128) noTeam 0 then (s1, .wait) else (s1.writeHome a n v t.vf cls 1 noTeam 0, .ok 0)
      else Eng.ofOut (s1.outWrite (.engine u o) a n v)
  | .lanePriv => (s, .bad)
  | _ =>
    match s.spot u 0 0 va n .write with
    | .sp c b =>
      if s.keyLocked (.core c (b / 128)) noTeam 0 then (s, .wait)
      else ((s.updCore c fun x => { x with sp := Mem.writeNat x.sp b n v }).noteKey (.core c (b / 128)) noTeam 0, .ok 0)
    | .cs d b =>
      if s.keyLocked (.chip d (b / 128)) noTeam 0 then (s, .wait)
      else ((s.updDie d fun x => { x with cs := Mem.writeNat x.cs b n v }).noteKey (.chip d (b / 128)) noTeam 0, .ok 0)
    | _ => (s, .bad)

/-- A span read line by line: the value of the bytes read, how many, and what stopped it. -/
def State.engSpan (s : State) (u o cls : Nat) : Nat → Nat → Nat → State × Nat × Nat × Eng
  | 0, _, _ => (s, 0, 0, .ok 0)
  | _, _, 0 => (s, 0, 0, .ok 0)
  | fuel + 1, va, n =>
    let k := min n (128 - va % 128)
    match s.engRead u o cls va k with
    | (s1, .ok v) =>
      match State.engSpan s1 u o cls fuel (va + k) (n - k) with
      | (s2, w, m, e) => (s2, v + 2 ^ (8 * k) * w, k + m, e)
    | (s1, .pois a) => (s1, 0, k, .pois a)
    | (s1, e) => (s1, 0, 0, e)

def lineFuel (n : Nat) : Nat := n / 128 + 2

/-! ## Rows of a tile (R149, R348) -/

/-- A row along dimension 0 at origin `i`, of `w` elements: the address of the byte with its first element, the number of
its elements inside SIZE, and the bit of that byte at which it starts. -/
structure Row where
  va    : Nat
  count : Nat
  start : Nat
deriving DecidableEq, Repr

def Tid.row (t : Tid) (i0 i1 i2 i3 w : Nat) : Row :=
  let inside := decide (i1 < t.size 1) && decide (i2 < t.size 2) && decide (i3 < t.size 3)
  { va := t.w0.toNat + t.offset i0 i1 i2 i3, count := if inside then min w (t.size 0 - i0) else 0, start := i0 * elemBits t.elem % 8 }

/-- Bytes that hold `c` elements of `b` bits from a starting bit. -/
def rowSpan (b c start : Nat) : Nat := (c * b + start + 7) / 8

/-- Origins of the rows of a tile, dense order. -/
def tileRows (t1 t2 t3 : Nat) : List (Nat × Nat × Nat) :=
  (List.range t3).flatMap fun c => (List.range t2).flatMap fun b => (List.range t1).map fun a => (a, b, c)

/-! ## Commands (R347, R348) -/

def Copy.fld (_c : Copy) (w : Word) (lo n : Nat) : Nat := w.toNat / 2 ^ lo % 2 ^ n
def Copy.mode (c : Copy) : Nat := c.fld c.w0 28 4
def Copy.skind (c : Copy) : Nat := c.fld c.w0 26 2
def Copy.dkind (c : Copy) : Nat := c.fld c.w0 24 2
def Copy.dbuf (c : Copy) : Nat := c.fld c.w0 16 6
def Copy.sbuf (c : Copy) : Nat := c.fld c.w0 10 6
def Copy.mcast (c : Copy) : Nat := c.fld c.w0 0 4
def Copy.bytes (c : Copy) : Nat := c.fld c.w1 0 20
def Copy.srcWord (c : Copy) : Nat := c.w2.toNat + 2 ^ 32 * c.w3.toNat
def Copy.dstWord (c : Copy) : Nat := c.w4.toNat + 2 ^ 32 * c.w5.toNat
/-- The tile origin in dimension `k`. -/
def Copy.org (c : Copy) (k : Nat) : Nat :=
  match k with
  | 0 => c.fld c.w6 0 16 | 1 => c.fld c.w6 16 16 | 2 => if c.mode = 1 then 0 else c.fld c.w7 0 16
  | _ => if c.mode = 1 then 0 else c.fld c.w7 16 16

/-- Elements of an identifier's tile. -/
def Tid.tileElems (t : Tid) : Nat := t.tile 0 * t.tile 1 * t.tile 2 * t.tile 3

/-- R374: elements of the destination inside SIZE along dimension `k` from origin `o`, of `w`. -/
def clipTo (o w size : Nat) : Nat := min w (size - o)

/-- R374, R375: the counts of a transpose: element bytes and scale bytes inside SIZE. -/
def Copy.transposeCount (c : Copy) : Nat :=
  let d := c.dst
  let n0 := clipTo (c.org 1) (c.src.tile 1) (d.size 0)
  let rows := clipTo (c.org 0) (c.src.tile 0) (d.size 1) * clipTo (c.org 2) (c.src.tile 2) (d.size 2) * clipTo (c.org 3) (c.src.tile 3) (d.size 3)
  rows * (n0 * elemBits d.elem / 8) + (if d.sbsz = 1 then rows * ((n0 + 31) / 32) else 0)

/-- R374: what makes a transpose's post fail. -/
def Copy.transposeBad (c : Copy) : Bool :=
  let ok := fun (e : Nat) => e == 0 || e == 1 || e == 2 || e == 5 || e == 6 || e == 7
  let s := c.src
  let d := c.dst
  !ok s.elem || !ok d.elem || d.tile 0 != s.tile 1 || d.tile 1 != s.tile 0 || d.tile 2 != s.tile 2 || d.tile 3 != s.tile 3
    || (d.sbsz == 1 && (d.skdim != 0 || c.org 1 % 32 != 0 || d.tile 0 % 32 != 0))
    || (elemBits d.elem == 4 && c.org 1 % 2 == 1)

/-- R128: the address of a team-window offset. -/
def teamWindow : Nat := 0xF1 * 2 ^ 44

/-- The byte ranges that a side touches, as addresses with lengths. -/
def tileSpans (t : Tid) (o : Nat → Nat) (w0 : Nat) (t1 t2 t3 : Nat) : List (Nat × Nat) :=
  (tileRows t1 t2 t3).filterMap fun r =>
    let x := t.row (o 0) (o 1 + r.1) (o 2 + r.2.1) (o 3 + r.2.2) w0
    if x.count = 0 then none else some (x.va, rowSpan (elemBits t.elem) x.count x.start)

/-- R348: element along dimension 1 of the `j`-th row of a gather, an INT32; rows outside the tensor, among them those of a
negative index, read as zero. -/
def State.gatherRow (s : State) (u : Nat) (c : Copy) (j : Nat) : Nat :=
  let t := s.teamOf u
  let v := Mem.readNat (s.coreOf t.core).sp (t.spBase * 256 + c.w7.toNat + 4 * j) 4
  if v < 2 ^ 31 then v else 2 ^ 32 + v

/-- R149: address of the scale byte of an element. -/
def Tid.scaleAt (t : Tid) (i0 i1 i2 i3 : Nat) : Nat := t.w2.toNat + t.scaleOffset i0 i1 i2 i3

/-- R374: an element of a transpose: tile offset (a, b, c, d) from the origin. -/
abbrev Cell := Nat × Nat × Nat × Nat

/-- R374: the elements of a transpose's source tile, in its dense order, and whether one lies in the source, or goes to a
place in the destination. -/
def Copy.cells (c : Copy) : List Cell :=
  let t := c.src
  (tileRows (t.tile 1) (t.tile 2) (t.tile 3)).flatMap fun r => (List.range (t.tile 0)).map fun a => (a, r.1, r.2.1, r.2.2)
def Copy.inSrc (c : Copy) (q : Cell) : Bool :=
  decide (c.org 0 + q.1 < c.src.size 0) && decide (c.org 1 + q.2.1 < c.src.size 1) && decide (c.org 2 + q.2.2.1 < c.src.size 2)
    && decide (c.org 3 + q.2.2.2 < c.src.size 3)
def Copy.inDst (c : Copy) (q : Cell) : Bool :=
  decide (c.org 1 + q.2.1 < c.dst.size 0) && decide (c.org 0 + q.1 < c.dst.size 1) && decide (c.org 2 + q.2.2.1 < c.dst.size 2)
    && decide (c.org 3 + q.2.2.2 < c.dst.size 3)
/-- R149: the scale byte of a source element, and of the block with the element in the destination. -/
def Copy.srcScale (c : Copy) (q : Cell) : Nat := c.src.scaleAt (c.org 0 + q.1) (c.org 1 + q.2.1) (c.org 2 + q.2.2.1) (c.org 3 + q.2.2.2)
def Copy.dstScale (c : Copy) (q : Cell) : Nat := c.dst.scaleAt (c.org 1 + q.2.1) (c.org 0 + q.1) (c.org 2 + q.2.2.1) (c.org 3 + q.2.2.2)

/-- R375: the scale bytes that a transpose reads, and that it writes. -/
def Copy.scaleReads (c : Copy) : List (Nat × Nat) :=
  if c.src.sbsz = 1 then ((c.cells.filter c.inSrc).map c.srcScale).eraseDups.map fun a => (a, 1) else []
def Copy.scaleWrites (c : Copy) : List (Nat × Nat) :=
  if c.dst.sbsz = 1 then ((c.cells.filter c.inDst).map c.dstScale).eraseDups.map fun a => (a, 1) else []

/-- The ranges a command reads. -/
def State.copyReads (s : State) (u : Nat) (c : Copy) : List (Nat × Nat) :=
  if c.skind = 1 then
    if c.mode = 1 then
      (teamWindow + c.w7.toNat, 4 * c.src.tile 1) :: ((List.range (c.src.tile 1)).filterMap fun j =>
        let x := c.src.row (c.org 0) (s.gatherRow u c j) 0 0 (c.src.tile 0)
        if x.count = 0 then none else some (x.va, rowSpan (elemBits c.src.elem) x.count x.start))
    else tileSpans c.src c.org (c.src.tile 0) (c.src.tile 1) (c.src.tile 2) (c.src.tile 3) ++ if c.mode = 2 then c.scaleReads else []
  else [(c.srcVa, c.count)]

/-- R22: the address of a byte of a rank's scratchpad through the cluster window. -/
def clusterWindow (k o : Nat) : Nat := 0xF2 * 2 ^ 44 + k * Config.spBytes + o

/-- Ranks of a multicast with the place and size of each rank's region. -/
def State.mcastRegions (s : State) (u : Nat) (c : Copy) : List (Nat × Nat × Nat) :=
  ((List.range 4).filter fun k => c.mcast.testBit k).filterMap fun k =>
    (s.rankTeam u k).map fun v =>
      let t := s.teamOf v
      let b : Buf := Sparse.get {} (s.coreOf t.core).bufs (t.bufBase + c.dbuf)
      (k, b.off * 16, if t.bufCnt ≤ c.dbuf then 0 else b.size * 16)

/-- The ranges a command writes. -/
def State.copyWrites (s : State) (u : Nat) (c : Copy) : List (Nat × Nat) :=
  if c.mode = 3 then (s.mcastRegions u c).map fun r => (clusterWindow r.1 r.2.1, min c.count r.2.2)
  else if c.mode = 2 then
    let o := fun k => c.org (if k = 0 then 1 else if k = 1 then 0 else k)
    tileSpans c.dst o (c.dst.tile 0) (c.dst.tile 1) (c.dst.tile 2) (c.dst.tile 3) ++ c.scaleWrites
  else if c.dkind = 1 then tileSpans c.dst c.org (c.dst.tile 0) (c.dst.tile 1) (c.dst.tile 2) (c.dst.tile 3)
  else [(c.dstVa, c.count)]

/-- R349: whether a range is reached through a window at all, and lies wholly inside its bound. -/
inductive RangeOk where
  | ok | prot | spb
deriving DecidableEq, Repr

def State.rangeOk (s : State) (u : Nat) (r : Nat × Nat) : RangeOk :=
  match levelOf r.1 with
  | .global => if r.2 = 0 ∨ levelOf (r.1 + r.2 - 1) = .global then .ok else .prot
  | .noncanon => .prot
  | .reserved => .prot
  | .lanePriv => .prot
  | _ => match s.spot u 0 0 r.1 r.2 .read with | .bad _ => .spb | _ => .ok

/-- R347 to R349: a command checked at its post: complete, or the trap it raises. -/
def State.copyCheck (s : State) (u : Nat) (c0 : Copy) : Except Trap Copy :=
  let t := s.teamOf u
  let core := s.coreOf t.core
  let m := c0.mode
  let sk := c0.skind
  let dk := c0.dkind
  let form := decide (3 < m) || sk == 3 || dk == 3 || c0.fld c0.w0 22 2 != 0 || c0.fld c0.w0 4 6 != 0 || c0.fld c0.w1 20 12 != 0
    || (sk != 2 && c0.sbuf != 0) || (m != 3 && c0.mcast != 0)
    || (sk == 1 && decide (64 ≤ c0.srcWord)) || (sk == 2 && c0.srcWord != 0) || (dk == 1 && decide (64 ≤ c0.dstWord)) || (dk == 2 && c0.dstWord != 0)
  let kinds := match m with
    | 0 => !(sk == 1 && dk == 1) | 1 => sk == 1 && dk != 1 | 2 => sk == 1 && dk == 1 | _ => sk != 2 && dk == 2
  let src := if sk = 1 then s.tidAt u c0.srcWord else some {}
  let dst := if dk = 1 then s.tidAt u c0.dstWord else some {}
  if form || !kinds || decide (t.bufCnt ≤ c0.dbuf) || (sk == 2 && decide (t.bufCnt ≤ c0.sbuf)) then .error .prot
  else match src, dst with
    | some a, some b =>
      let reg := fun (h : Nat) => (Sparse.get {} core.bufs (t.bufBase + h) : Buf)
      let sreg := reg c0.sbuf
      let dreg := reg c0.dbuf
      let tile := sk == 1 || dk == 1
      let c1 : Copy := { c0 with
        src := a, dst := b
        srcVa := if sk = 2 then teamWindow + sreg.off * 16 else c0.srcWord
        dstVa := if dk = 2 then teamWindow + dreg.off * 16 else c0.dstWord }
      let n := match m with
        | 1 => a.rowBytes (a.tile 0) * a.tile 1
        | 2 => c1.transposeCount
        | _ => if sk == 1 then a.tileElems * elemBits a.elem / 8 else if dk == 1 then b.tileElems * elemBits b.elem / 8
          else if c0.bytes != 0 then c0.bytes else if dk == 2 then dreg.size * 16 else if sk == 2 then sreg.size * 16 else 0
      let c : Copy := { c1 with count := n }
      let bad := (sk == 1 && !a.valid) || (dk == 1 && !b.valid) || (tile && c0.bytes != 0) || c0.bytes % 16 != 0
        || (sk == 0 && c0.srcWord % 16 != 0) || (dk == 0 && c0.dstWord % 16 != 0)
        || (sk == 0 && dk == 0 && n == 0)
        || (m == 1 && (a.dims != 2 || decide (t.spSize * 256 < c0.w7.toNat + 4 * a.tile 1)))
        || (m == 2 && c.transposeBad)
        || (sk == 2 && decide (sreg.size * 16 < n)) || (dk == 2 && m != 3 && decide (dreg.size * 16 < n))
        || (m == 3 && (c0.mcast == 0 || (List.range 4).any fun k => c0.mcast.testBit k && (s.rankTeam u k).isNone))
      if bad then .error .prot
      else
        let rs := (s.copyReads u c ++ if m = 3 then [] else s.copyWrites u c).map (s.rangeOk u)
        if rs.contains .prot then .error .prot else if rs.contains .spb then .error .spb else .ok c
    | _, _ => .error .prot

/-! ## The post (R346) -/

/-- R346: the next free slot in cyclic order. -/
def Team.freeSlot (t : Team) : Option Nat :=
  ((List.range 32).map fun k => (t.ringNext + k) % 32).find? fun k => !(t.ring.any fun r => r.1 == k)

/-- The command in S[sa] to S[sa+7] of a path's lowest slice. -/
def Group.copyWords (g : Group) (sl : BitVec 8) (a : Nat) : Copy :=
  let w := fun j => g.sreg (lowSlice sl) (a + j)
  { w0 := w 0, w1 := w 1, w2 := w 2, w3 := w 3, w4 := w 4, w5 := w 5, w6 := w 6, w7 := w 7, slices := sl, pc := (g.pathOf sl).pc,
    op := g.nextOp }

def Copy.words (c : Copy) : List Word := [c.w0, c.w1, c.w2, c.w3, c.w4, c.w5, c.w6, c.w7]

/-- R346: one path's post: the command goes to a slot of the ring (and its words to the ring's bytes, R127), which S[sd]
receives, and cp rises. -/
def State.postCopy (s : State) (sl : BitVec 8) (d a : Nat) : State :=
  let u := s.run.uid
  let k := s.run.grp
  match s.copyCheck u (s.curGroup.copyWords sl a), s.curTeam.freeSlot with
  | .error t, _ => s.trapAt sl t
  | .ok _, none => s
  | .ok c, some slot =>
    let t := s.curTeam
    let s1 := s.updTeam u fun t => { t with
      ring := Sparse.insert t.ring slot { c with grp := k, post := t.posts, time := s.clock.toNat }, ringNext := (slot + 1) % 32, posts := t.posts + 1 }
    let s2 := s1.updCore t.core fun x => { x with sp := Mem.writeNat x.sp ((t.spBase + t.spSize) * 256 + 32 * slot) 32 (wordsNat c.words) }
    s2.updCur fun g =>
      let g1 := g.updCounters fun x => x.issue .cp g.nextOp
      (({ g1 with nextOp := g1.nextOp + 1 } : Group).writeS sl d fun _ => BitVec.ofNat 32 slot).stepPast sl

/-- R346, R179: a post is a release at cluster scope; it waits while the counter or the ring is full. -/
def execCpy (e : Bool) (d a : BitVec 6) (s : State) : Out1 :=
  .next (s.unsup fun s =>
    if s.curGroup.ctrFull .cp s.pathCount || decide (32 < s.curTeam.ring.length + s.pathCount) || s.stuckAt 2 then s
    else ((s.releaseAt 2).eachPath fun sl s => s.postCopy sl d.toNat a.toNat).tally e)

/-! ## Range locks (R144, R146) -/

/-- The lowest and highest byte that ranges touch in each core's array. -/
def State.arraySpans (s : State) (u : Nat) (rs : List (Nat × Nat)) : Sparse (Nat × Nat) :=
  rs.foldl (fun m r =>
    match levelOf r.1, s.spot u 0 0 r.1 r.2 .read with
    | .lanePriv, _ => m
    | _, .sp c b =>
      if r.2 = 0 then m
      else match m.find? fun x => x.1 == c with
        | none => Sparse.insert m c (b, b + r.2)
        | some x => Sparse.insert m c (min x.2.1 b, max x.2.2 (b + r.2))
    | _, _ => m) []

/-- The locks that an operation takes, each with its core. -/
def State.locksFor (s : State) (u op : Nat) (reads writes : List (Nat × Nat)) : List (Nat × Lock) :=
  ((s.arraySpans u reads).map fun x => (x.1, ({ dest := false, uid := u, op := op, base := x.2.1, len := x.2.2 - x.2.1 } : Lock)))
  ++ ((s.arraySpans u writes).map fun x => (x.1, ({ dest := true, uid := u, op := op, base := x.2.1, len := x.2.2 - x.2.1 } : Lock)))

/-- Two locks that may not stand together: R146 exempts two KIND 0 ranges. -/
def Lock.clashes (x y : Lock) : Bool :=
  (x.dest || y.dest) && decide (x.base < y.base + y.len) && decide (y.base < x.base + x.len)

/-- The command of a team's ring that the engine takes up next: one in progress and not stalled, else the oldest posted. -/
def Team.nextCopy (t : Team) : Option (Nat × Copy) :=
  match t.ring.find? fun r => r.2.state == .issued 0 with
  | some r => some r
  | none =>
    let ps := t.ring.filter fun r => r.2.state == .posted
    let low := ps.foldl (fun m r => min m r.2.post) ((ps.head?.map fun r => r.2.post).getD 0)
    ps.find? fun r => r.2.post == low

/-- R350: a source handle lets its command issue. -/
def State.sourceReady (s : State) (u : Nat) (c : Copy) : Bool :=
  let t := s.teamOf u
  let b : Buf := Sparse.get {} (s.coreOf t.core).bufs (t.bufBase + c.sbuf)
  c.skind != 2 || b.state == 2 || b.state == 3

/-- R348's counterpart for a whole tensor: its rows in dense order. -/
def Tid.rowsOf (t : Tid) : List Row := (tileRows (t.size 1) (t.size 2) (t.size 3)).map fun r => t.row 0 r.1 r.2.1 r.2.2 (t.size 0)

/-- The ranges of a whole tensor. -/
def Tid.spans (t : Tid) : List (Nat × Nat) :=
  t.rowsOf.filterMap fun r => if r.count = 0 then none else some (r.va, rowSpan (elemBits t.elem) r.count r.start)

/-- The lock name of a collective: beside the copy slots of its team. -/
def Coll.lockOp (x : Coll) : Nat := 32 + x.slot

/-- R144, R378: the locks of a collective of a die: its source, and its destination unless another rank is the root that
writes it. -/
def State.collLocks (s : State) (d : Nat) (x : Coll) : List (Nat × Lock) :=
  let rank := (Sparse.get {} (s.dieOf d).comms x.comm : Comm).rank
  s.locksFor x.uid x.lockOp x.src.spans (if x.opn = 4 ∧ rank ≠ x.root then [] else x.dst.spans)

/-- R146: an operation that waits unissued: when it was posted, whose it is, and the locks that it needs. -/
structure Waiter where
  time : Nat
  uid  : Nat
  op   : Nat
  locks : List (Nat × Lock)
deriving DecidableEq, Repr

/-- R146: the operations that wait unissued for range locks. -/
def State.lockWaiters (s : State) : List Waiter :=
  (s.teams.flatMap fun t => match t.2.nextCopy with
    | some (k, c) =>
      if c.state == .posted && t.2.place == .resident && s.sourceReady t.1 c then
        [{ time := c.time, uid := t.1, op := k, locks := s.locksFor t.1 k (s.copyReads t.1 c) (s.copyWrites t.1 c) }]
      else []
    | none => [])
  ++ ([0, 1, 2].flatMap fun d => (s.dieOf d).colls.filterMap fun x =>
    if x.running && !x.locked then
      some { time := x.time, uid := x.uid, op := x.lockOp, locks := s.collLocks d x }
    else none)

def Waiter.before (w v : Waiter) : Bool :=
  decide (w.time < v.time) || (w.time == v.time && (decide (w.uid < v.uid) || (w.uid == v.uid && decide (w.op < v.op))))

/-- R146: the locks are free, and every table has room, beside the locks that are held and those that operations which came
to wait earlier are to take. -/
def State.locksFree (s : State) (ls : List (Nat × Lock)) : Bool :=
  match ls with
  | [] => true
  | l :: _ =>
    let ws := s.lockWaiters
    let mine := ws.find? fun w => w.uid == l.2.uid && w.op == l.2.op
    let ahead : List Waiter := match mine with | some m => ws.filter fun w => w.before m | none => ws
    let first : List (Nat × Lock) := ahead.flatMap fun w => w.locks
    ls.all fun x =>
      let held := (s.coreOf x.1).locks ++ (first.filter fun y => y.1 == x.1).map fun y => y.2
      (held.all fun h => !h.clashes x.2) && decide (held.length + (ls.filter fun y => y.1 == x.1).length ≤ 32)

def State.takeLocks (s : State) (ls : List (Nat × Lock)) : State :=
  ls.foldl (fun s x => s.updCore x.1 fun c => { c with locks := c.locks ++ [x.2] }) s

def State.freeLocks (s : State) (u op : Nat) : State :=
  { s with cores := s.cores.map fun c => (c.1, { c.2 with locks := c.2.locks.filter fun l => !(l.uid == u && l.op == op) }) }

/-! ## The move -/

/-- R147: the KIND 0 locks of an operation are released: it has read its source. -/
def State.freeSource (s : State) (u op : Nat) : State :=
  { s with cores := s.cores.map fun c => (c.1, { c.2 with locks := c.2.locks.filter fun l => l.dest || !(l.uid == u && l.op == op) }) }

/-- What the source side came to: its bytes as one value, how many of them, and what stopped it. -/
structure Gathered where
  v : Nat
  n : Nat
  e : Eng
deriving DecidableEq, Repr

/-- Rows read one after another into a dense value: each with its address, elements inside SIZE, starting bit, and the
bits it fills in the dense value. A poisoned line's bytes are zero (R351). -/
def State.readRows (s : State) (u o cls bits full : Nat) : List Row → State × Gathered
  | [] => (s, { v := 0, n := 0, e := .ok 0 })
  | r :: rest =>
    let span := if r.count = 0 then 0 else rowSpan bits r.count r.start
    match s.engSpan u o cls (lineFuel span) r.va span with
    | (s1, v, m, e) =>
      let clean := v / 2 ^ r.start % 2 ^ (r.count * bits)
      if m = span ∧ e.done then
        match State.readRows s1 u o cls bits full rest with
        | (s2, x) => (s2, { x with v := clean + 2 ^ (8 * full) * x.v, n := full + x.n })
      else
        let n := min (m - (if r.start = 0 then 0 else 1)) full
        (s1, { v := clean % 2 ^ (8 * n), n := n, e := e })

/-- Rows of an identifier's tile at the command's origin. -/
def Copy.srcRows (c : Copy) : List Row :=
  let t := c.src
  (tileRows (t.tile 1) (t.tile 2) (t.tile 3)).map fun r => t.row (c.org 0) (c.org 1 + r.1) (c.org 2 + r.2.1) (c.org 3 + r.2.2) (t.tile 0)

/-- The source of modes 0, 1 and 3 as one dense value. -/
def State.readSource (s : State) (u o : Nat) (c : Copy) : State × Gathered :=
  if c.skind = 1 then
    let t := c.src
    let rows := if c.mode = 1 then (List.range (t.tile 1)).map fun j => t.row (c.org 0) (s.gatherRow u c j) 0 0 (t.tile 0) else c.srcRows
    s.readRows u o 1 (elemBits t.elem) (t.rowBytes (t.tile 0)) rows
  else
    match s.engSpan u o 1 (lineFuel c.count) c.srcVa c.count with
    | (s1, v, m, e) => (s1, { v := v, n := m, e := e })

/-- A span of a dense value as pieces of single lines. -/
def linePieces : Nat → Nat → Nat → Nat → List Piece
  | 0, _, _, _ => []
  | _, _, 0, _ => []
  | fuel + 1, va, n, v =>
    let k := min n (128 - va % 128)
    { va := va, n := k, v := v % 2 ^ (8 * k) } :: linePieces fuel (va + k) (n - k) (v / 2 ^ (8 * k))

/-- The pieces of the first `cnt` elements of a row, of `b` bits each. -/
def Row.pieces (r : Row) (b cnt v : Nat) : List Piece :=
  if cnt = 0 then []
  else
    let val := v % 2 ^ (cnt * b) * 2 ^ r.start
    let sp := rowSpan b cnt r.start
    if r.start = 0 ∧ cnt * b % 8 = 0 then linePieces (lineFuel sp) r.va sp val
    else (List.range sp).map fun k =>
      { va := r.va + k, n := 1, v := val / 256 ^ k % 256, low := k = 0 && r.start != 0, high := k + 1 = sp && (cnt * b + r.start) % 8 != 0 }

/-- The destination pieces of modes 0, 1 and 3, of the first `n` bytes of a dense value. -/
def State.destPieces (s : State) (u : Nat) (c : Copy) (n v : Nat) : List Piece :=
  if c.mode = 3 then
    (s.mcastRegions u c).flatMap fun r =>
      let m := min n r.2.2
      linePieces (lineFuel m) (clusterWindow r.1 r.2.1) m v
  else if c.dkind = 1 then
    let t := c.dst
    let b := elemBits t.elem
    let full := t.rowBytes (t.tile 0)
    let rows := (tileRows (t.tile 1) (t.tile 2) (t.tile 3)).map fun r => t.row (c.org 0) (c.org 1 + r.1) (c.org 2 + r.2.1) (c.org 3 + r.2.2) (t.tile 0)
    (rows.zipIdx).flatMap fun x =>
      let have_ := min full (n - x.2 * full)
      x.1.pieces b (min x.1.count (have_ * 8 / b)) (v / 2 ^ (8 * full * x.2))
  else linePieces (lineFuel n) c.dstVa n v

/-- R375: the value of a source element with its scale, from the gathered rows; elements outside SIZE are 0. -/
def elemFmt (e : Nat) : Fmt :=
  match e with
  | 0 => .e4m3 | 1 => .e5m2 | 2 => .e2m1 | 5 => .bf16 | 6 => .f16 | _ => .f32

/-- R228: the exponent of an element format's largest value. -/
def emaxOf (e : Nat) : Nat :=
  match e with
  | 0 => 8 | 1 => 15 | _ => 2

/-- Single bytes read one after another. -/
def State.readBytes (s : State) (u o cls : Nat) : List Nat → State × List Nat × Eng
  | [] => (s, [], .ok 0)
  | a :: rest =>
    match s.engRead u o cls a 1 with
    | (s1, .ok v) =>
      match State.readBytes s1 u o cls rest with
      | (s2, vs, e) => (s2, v :: vs, e)
    | (s1, e) => (s1, [], e)

/-- R237, R375: the pieces of one destination row: its elements, and its blocks' scale bytes. An infinity stays one in FP32,
which no format narrows to. -/
def Copy.transposeRow (c : Copy) (vals : List Fp) (j1 j2 j3 : Nat) : List Piece :=
  let d := c.dst
  let f := elemFmt d.elem
  let b := elemBits d.elem
  let r := d.row (c.org 1) j1 j2 j3 vals.length
  let live := vals.zipIdx.map fun x => if x.2 < r.count then x.1 else .fin false 0 0
  let blocks := (List.range ((vals.length + 31) / 32)).map fun k => quantBlock f (emaxOf d.elem) ((live.drop (32 * k)).take 32)
  let codes := if d.sbsz = 1 then blocks.flatMap fun x => x.2 else live.map fun x => f.encode 0 (match x with | .inf _ => f != .f32 | _ => true) x
  let val := (codes.take r.count).foldr (fun x n => x + 2 ^ b * n) 0
  let span := rowSpan b r.count 0
  linePieces (lineFuel span) r.va span val
    ++ (if d.sbsz = 1 then
      (List.range ((r.count + 31) / 32)).map fun k => { va := d.scaleAt (c.org 1 + 32 * k) j1 j2 j3, n := 1, v := (blocks.getD k (0, [])).1 }
    else [])

/-- R351: a transpose that meets a poisoned line writes zero bytes for the elements that come from it, by their own bytes or
by their scale. -/
def Copy.zeroed (c : Copy) (line : Nat) : List Piece :=
  let t := c.src
  let from_ := fun (q : Cell) =>
    decide ((t.w0.toNat + t.offset (c.org 0 + q.1) (c.org 1 + q.2.1) (c.org 2 + q.2.2.1) (c.org 3 + q.2.2.2)) / 128 = line)
      || (t.sbsz == 1 && decide (c.srcScale q / 128 = line))
  (c.cells.filter fun q => c.inSrc q && c.inDst q && from_ q).flatMap fun q =>
    let r := c.dst.row (c.org 1 + q.2.1) (c.org 0 + q.1) (c.org 2 + q.2.2.1) (c.org 3 + q.2.2.2) 1
    r.pieces (elemBits c.dst.elem) r.count 0

/-- R374, R375: a transpose: the source tile and its scales are read, then the destination rows are made. -/
def State.transpose (s : State) (u o : Nat) (c : Copy) : State × List Piece × Eng :=
  let t := c.src
  let b := elemBits t.elem
  let end_ := fun (s : State) (e : Eng) => (s, (match e with | .pois va => c.zeroed (va / 128) | _ => []), e)
  match s.readRows u o 1 b (t.rowBytes (t.tile 0)) c.srcRows with
  | (s1, x) =>
    if !x.e.done then end_ s1 x.e
    else
      let uniq := c.scaleReads.map fun r => r.1
      match s1.readBytes u o 1 uniq with
      | (s2, vs, e) =>
        if vs.length < uniq.length then end_ s2 e
        else
          let scale := fun (a : Nat) => ((uniq.zip vs).find? fun p => p.1 == a).elim 127 fun p => p.2
          let value := fun (q : Cell) =>
            if !c.inSrc q then Fp.fin false 0 0
            else
              let idx := q.1 + t.tile 0 * (q.2.1 + t.tile 1 * (q.2.2.1 + t.tile 2 * q.2.2.2))
              let v := (elemFmt t.elem).decode (x.v / 2 ^ (b * idx) % 2 ^ b)
              if t.sbsz = 1 then v.scale (scale (c.srcScale q)) else v
          (s2, (tileRows (t.tile 0) (t.tile 2) (t.tile 3)).flatMap fun r =>
            c.transposeRow ((List.range (t.tile 1)).map fun q => value (r.1, q, r.2.1, r.2.2))
              (c.org 0 + r.1) (c.org 2 + r.2.1) (c.org 3 + r.2.2), .ok 0)

/-- Write one piece; a nibble that is kept is read first. -/
def State.writePiece (s : State) (u o : Nat) (p : Piece) : State × Eng :=
  if p.low || p.high then
    match s.engRead u o 1 p.va 1 with
    | (s1, .ok old) => s1.engWrite u o 1 p.va 1 ((if p.low then old % 16 else p.v % 16) + 16 * (if p.high then old / 16 else p.v / 16))
    | r => r
  else s.engWrite u o 1 p.va p.n p.v

/-- Write pieces in order; how many were written, and what stopped it. -/
def State.writePieces (s : State) (u o : Nat) : List Piece → State × Nat × Eng
  | [] => (s, 0, .ok 0)
  | p :: rest =>
    match s.writePiece u o p with
    | (s1, .ok _) =>
      match State.writePieces (s1.count (s.teamOf u).part 0x50 p.n) u o rest with
      | (s2, n, e) => (s2, n + 1, e)
    | (s1, e) => (s1, 0, e)

def State.updCopy (s : State) (u slot : Nat) (f : Copy → Copy) : State :=
  s.updTeam u fun t => { t with ring := t.ring.map fun r => if r.1 = slot then (r.1, f r.2) else r }

/-- R351: a copy or a fill meets a PF: a record under a tag of its own. Answers the tag, or 0 where the record fails. -/
def State.engFault (s : State) (u g : Nat) (sl : BitVec 8) (pc : DWord) (f : Flt) (va : Nat) : State × Nat :=
  let t := s.teamOf u
  let r := s.newTag t.part
  let p := r.1.postRecord { fatal := false, code := 6, kind := f.kind, acc := f.acc, part := t.part, asid := t.asid, vf := t.vf
                            va := BitVec.ofNat 64 va, ppa := recPpa f.kind f.ppa, ident := identWord t g sl, pc := pc, tag := r.2, io := f.ppa / 4096 }
  (p.1, if p.2 = .failed then 0 else r.2)

/-- R147, R350, R351, R414: what a copy does next, with `done` pieces written, the last on line `line`, and `todo` still to be
written, after it came to `e`. With its last byte its KIND 1 locks are released, before any arrival is sent. -/
def State.copyAfter (s : State) (u slot : Nat) (c : Copy) (done line : Nat) (todo : Option (List Piece)) (e : Eng) : State :=
  let put := fun (s : State) (st : CopyState) => s.updCopy u slot fun c => { c with state := st, moved := done, line := line, todo := todo }
  let ends := fun (s : State) (err : Bool) => put ((s.freeLocks u slot).farDone (.engine u slot)) (.moved err)
  match e with
  | .ok _ => ends s c.fault
  | .wait => put s (.issued 0)
  | .pf f va =>
    match s.engFault u c.grp c.slices c.pc f va with
    | (s1, 0) => ends s1 true
    | (s1, tag) => put s1 (.issued tag)
  | _ => ends s true

/-- What a copy has to write is written as far as it can be. -/
def State.writeCopy (s : State) (u slot : Nat) (c : Copy) (ps : List Piece) : State :=
  match s.writePieces u slot ps with
  | (s1, n, e) => s1.copyAfter u slot c (c.moved + n) ((ps.take n).getLast?.elim c.line fun p => p.va / 128) (some (ps.drop n)) e

/-- What a copy reads comes to: the pieces that it is to write, and what stopped it. -/
def State.copySource (s : State) (u slot : Nat) (c : Copy) : State × List Piece × Eng :=
  if c.mode = 2 then s.transpose u slot c
  else
    match s.readSource u slot c with
    | (s1, x) => (s1, s1.destPieces u c x.n x.v, x.e)

/-- R351: ranks of a multicast whose region the bytes exceed. -/
def State.shortRanks (s : State) (u : Nat) (c : Copy) : BitVec 4 :=
  if c.mode = 3 then (s.mcastRegions u c).foldl (fun (m : BitVec 4) r => if r.2.2 < c.count then m ||| (1#4 <<< r.1) else m) 0 else 0

/-- R147: the source of a copy is read, and its KIND 0 locks are released; or the copy stalls. -/
def State.readCopy (s : State) (u slot : Nat) (c : Copy) : State × Option Copy :=
  match s.copySource u slot c with
  | (s1, ps, e) =>
    if e.stalls then (s1.copyAfter u slot c c.moved c.line none e, none)
    else
      let c1 := { c with todo := some ps, fault := !e.done, errs := s1.shortRanks u c }
      ((s1.freeSource u slot).updCopy u slot fun c => { c with todo := c1.todo, fault := c1.fault, errs := c1.errs }, some c1)

/-- Move a command's bytes as far as they can be moved. -/
def State.moveCopy (s : State) (u slot : Nat) (c : Copy) : State :=
  match c.todo with
  | some ps => s.writeCopy u slot c ps
  | none => match s.readCopy u slot c with
    | (s1, none) => s1
    | (s1, some c1) => s1.writeCopy u slot c1 (c1.todo.getD [])

/-- R350: a posted command may issue. -/
def State.copyReady (s : State) (u slot : Nat) (c : Copy) : Bool :=
  s.sourceReady u c && s.locksFree (s.locksFor u slot (s.copyReads u c) (s.copyWrites u c)) && (s.teamOf u).place == .resident

/-- R350: a command issues: it takes its range locks, and a FULL source drains. -/
def State.copyStart (s : State) (u slot : Nat) (c : Copy) : State :=
  let t := s.teamOf u
  let s1 := s.takeLocks (s.locksFor u slot (s.copyReads u c) (s.copyWrites u c))
  let s2 := if c.skind = 2 then s1.bufEvent t.core (t.bufBase + c.sbuf) noTeam 0 Buf.drain else s1
  s2.updCopy u slot fun c => { c with state := .issued 0 }

/-- R414: the copies of a team that has been stopped finish the lines in which they stand, as far as they can be written; then
its locks are released. -/
def State.copyTails (s : State) (u : Nat) : State :=
  let s1 := (s.teamOf u).ring.foldl (fun s r =>
    match s.writePieces u r.1 (r.2.todo.getD []) with
    | (s1, n, .wait) => s1.updCopy u r.1 fun c => { c with todo := some ((r.2.todo.getD []).drop n) }
    | (s1, _, _) => (s1.farDone (.engine u r.1)).updTeam u fun t => { t with ring := t.ring.filter fun q => q.1 != r.1 }) s
  if (s1.teamOf u).ring.isEmpty then s1.dropRanges u else s1

/-- R350: a command issues when its range locks and its source handle allow, and moves. -/
def execCopyIssue (u : Nat) (s : State) : Out1 :=
  if (s.teamOf u).place = .aborted then .next (s.copyTails u)
  else match (s.teamOf u).nextCopy with
  | none => .next s
  | some (slot, c) =>
    if c.state = .issued 0 then .next (s.moveCopy u slot c)
    else if s.copyReady u slot c then .next ((s.copyStart u slot c).moveCopy u slot c)
    else .next s

/-- Bytes `lo` to `lo + n` of a piece, and what is left of it. -/
def Piece.cut (p : Piece) (lo n : Nat) : Piece × List Piece :=
  let m := min n (p.n - lo)
  if p.low || p.high || m = 0 then (p, [])
  else
    ({ va := p.va + lo, n := m, v := p.v / 256 ^ lo % 256 ^ m },
     (if lo = 0 then [] else [{ va := p.va, n := lo, v := p.v % 256 ^ lo }])
      ++ if p.n ≤ lo + m then [] else [{ va := p.va + lo + m, n := p.n - lo - m, v := p.v / 256 ^ (lo + m) }])

/-- R158, R179: a copy's bytes are written one at a time in any order: the next command issues, or reads its source, or
writes `n` bytes from byte `lo` on of piece `k`. -/
def State.copyPart (s : State) (u k lo n : Nat) : State :=
  match (s.teamOf u).nextCopy with
  | none => s
  | some (slot, c) =>
    if c.state = .posted then (if s.copyReady u slot c then s.copyStart u slot c else s)
    else match c.todo with
      | none => (s.readCopy u slot c).1
      | some ps => match ps[k]? with
        | none => s.copyAfter u slot c c.moved c.line (some ps) (if ps.isEmpty then .ok 0 else .wait)
        | some p =>
          let x := p.cut lo n
          let rest := ps.take k ++ x.2 ++ ps.drop (k + 1)
          match s.writePieces u slot [x.1] with
          | (s1, 0, e) => s1.copyAfter u slot c c.moved c.line (some ps) e
          | (s1, _, _) => s1.copyAfter u slot c (c.moved + 1) (x.1.va / 128) (some rest) (if rest.isEmpty then .ok 0 else .wait)

/-- R351, R352: a moved command sends its arrivals, frees its slot, and its operation completes. -/
def execCopyComplete (u slot : Nat) (s : State) : Out1 :=
  let t := s.teamOf u
  match t.ring.find? fun r => r.1 == slot with
  | none => .next s
  | some (_, c) =>
    match c.state with
    | .moved err =>
      let s1 := (s.freeLocks u slot).capture t.part 2 (s.clock.toNat - c.time)
      let s2 := if c.mode = 3 then
          ((List.range 4).filter fun k => c.mcast.testBit k).foldl (fun s k =>
            s.sendArrival ((s.rankTeam u k).getD (noTeam + (t.core / 4 * 4 + k))) c.dbuf c.count (err || c.errs.getLsbD k)) s1
        else s1.sendArrival u c.dbuf c.count err
      let s2 := if c.mode = 3 ∧ err ∧ !c.mcast.testBit t.rank then
          s2.bufEvent t.core (t.bufBase + c.dbuf) noTeam 0 fun b => { b with err := true }
        else s2
      let s3 := (s2.updTeam u fun t => { t with ring := t.ring.filter fun r => r.1 != slot }).updGroup u c.grp fun g => g.completeOp .cp c.op
      let others := (s3.teamOf u).ring.any fun r => r.2.skind == 2 && r.2.sbuf == c.sbuf && r.2.state != .posted
      let s4 := if c.skind = 2 ∧ !others then s3.bufEvent t.core (t.bufBase + c.sbuf) noTeam 0 Buf.drained else s3
      .next (s4.settle u)
    | _ => .next s

end Sys2Proof.Machine
end

