-- ==== Sys2Proof/Machine/Resid.lean ====
section
/-! DEFINITION. Residencies: handles, quotas, fills and reloads, watches, and the residency instructions (R359 to R365). -/

namespace Sys2Proof.Machine

/-! ## Slots and handles (R359) -/

def Engine.slot (e : Engine) (k : Nat) : Slot := Sparse.get {} e.slots k
def State.slotOf (s : State) (eng k : Nat) : Slot := (s.engineOf eng).slot k
def State.updSlot (s : State) (eng k : Nat) (f : Slot → Slot) : State :=
  s.updEngine eng fun e => { e with slots := Sparse.upd {} e.slots k f }

/-- R359: a 16-bit format takes two slots. -/
def wideElem (elem : Nat) : Bool := elem == 5 || elem == 6

/-- R359: the slots of the residency that an even or single slot names. -/
def Slot.span (x : Slot) (k : Nat) : List Nat := if wideElem x.elem then [k, k + 1] else [k]

/-- R359: a handle is valid for a virtual device on an engine. -/
def Engine.valid (e : Engine) (vdev h : Nat) : Bool :=
  let x := e.slot (h / 256 % 256)
  x.state != .free && x.gen == h % 256 && x.vdev == vdev && !x.upper

/-- R360: the slots of a virtual device that are not FREE, and the pinned ones. -/
def Engine.held (e : Engine) (vdev : Nat) : Nat := (e.slots.filter fun x => x.2.state != .free && x.2.vdev == vdev).length
def Engine.pinned (e : Engine) (vdev : Nat) : Nat := (e.slots.filter fun x => x.2.state != .free && x.2.vdev == vdev && x.2.pin).length

/-- R364. -/
def Vdev.resSlots (v : Vdev) : Nat := v.resq.toNat / 256 % 512
def Vdev.resPins (v : Vdev) : Nat := v.resq.toNat / 2 ^ 17 % 512

/-- R362: the watches of a virtual device's residency are withdrawn. -/
def State.dropWatch (s : State) (eng k vdev : Nat) : State :=
  let mine := fun (w : Watch) => w.eng == eng && w.slot == k && w.vdev == vdev
  { s with watch := s.watch.filter fun w => !mine w, shadowWatch := s.shadowWatch.filter fun w => !mine w }

/-- R79, R362: a line is entered in the watch table of its home slice, or, where 2,048 entries stand there, in the
residency shadows. -/
def State.addWatch (s : State) (line eng k : Nat) : State :=
  let w : Watch := { line := line, eng := eng, slot := k, vdev := (s.slotOf eng k).vdev }
  if s.watch.contains w || s.shadowWatch.contains w then s
  else if (s.watch.filter fun x => s.homeOf x.line == s.homeOf line).length < 2048 then { s with watch := s.watch ++ [w] }
  else { s with shadowWatch := s.shadowWatch ++ [w], watchOvf := Sparse.set false s.watchOvf (parcelOf (line * 128)) true }

/-! ## Fills and reloads (R361, R362) -/

/-- R15, R134, R362: bytes of one line read for a fill, at a global address; the line is watched from this event on. -/
def State.fillRead (s : State) (eng k va n : Nat) : State × Eng :=
  let x := s.slotOf eng k
  if levelOf va ≠ .global then (s, .bad)
  else match s.translateDie (.fill eng k) (eng / 16) x.part x.asid x.vdev va .read with
  | (s1, .ats) => (s1, .wait)
  | (s1, .held) => (s1, .wait)
  | (s1, .fault f) => (s1, if f.code = .pf then .pf f va else if f.code = .pois then .pois va else .bad)
  | (s1, .ok t) =>
    let a := t.at_ va
    if isLocal a then
      if s1.blocked (a / 128) noTeam 0 then (s1, .wait)
      else match s1.readDpa (eng / 16) a n x.vdev 2 with
        | (s2, some v) => (s2.addWatch (a / 128) eng k, .ok v)
        | (s2, none) => (s2, .pois va)
    else Eng.ofOut (s1.outRead (.fill eng k) a n)

/-- A span of a fill's source, line by line. -/
def State.fillSpan (s : State) (eng k : Nat) : Nat → Nat → Nat → State × Eng
  | 0, _, _ => (s, .ok 0)
  | _, _, 0 => (s, .ok 0)
  | fuel + 1, va, n =>
    let m := min n (128 - va % 128)
    match s.fillRead eng k va m with
    | (s1, .ok v) =>
      match State.fillSpan s1 eng k fuel (va + m) (n - m) with
      | (s2, .ok w) => (s2, .ok (v + 2 ^ (8 * m) * w))
      | r => r
    | r => r

/-- Spans read one after another, each giving its value. -/
def State.fillSpans (s : State) (eng k : Nat) : List (Nat × Nat) → State × List Nat × Eng
  | [] => (s, [], .ok 0)
  | (va, n) :: rest =>
    match s.fillSpan eng k (lineFuel n) va n with
    | (s1, .ok v) =>
      match State.fillSpans s1 eng k rest with
      | (s2, vs, e) => (s2, v :: vs, e)
    | (s1, e) => (s1, [], e)

/-- The entries of a table in `[lo, lo + n)` replaced by `f`. -/
def Sparse.replace {α : Type} [DecidableEq α] (d : α) (m : Sparse α) (lo n : Nat) (f : Nat → α) : Sparse α :=
  (m.filter fun x => x.1 < lo) ++ ((List.range n).filterMap fun k => let v := f k; if v = d then none else some (lo + k, v))
    ++ m.filter fun x => lo + n ≤ x.1

/-- R361: the rows of a residency's columns along dimension 0. -/
def Slot.rows (x : Slot) : List Row := (List.range x.n).map fun n => x.tid.row x.o0 (x.o1 + n) x.o2 x.o3 64

/-- R361: the place of the scale byte of block `b` of column `n`, where the block has an element inside SIZE. -/
def Slot.scaleSpans (x : Slot) : List (Nat × Nat) :=
  if x.tid.sbsz = 1 then
    (List.range 2).flatMap fun b => (List.range x.n).filterMap fun n =>
      if x.o0 + 32 * b < x.tid.size 0 ∧ x.o1 + n < x.tid.size 1 ∧ x.o2 < x.tid.size 2 ∧ x.o3 < x.tid.size 3 then
        some (x.tid.scaleAt (x.o0 + 32 * b) (x.o1 + n) x.o2 x.o3, 1)
      else none
  else []

/-- Element `k` of a row's value; 0 outside SIZE. -/
def Row.elem (r : Row) (bits v k : Nat) : Nat := if k < r.count then v / 2 ^ (r.start + bits * k) % 2 ^ bits else 0

/-- R359: the cells and scale bytes of a residency are written. -/
def Engine.store (e : Engine) (k : Nat) (x : Slot) (vals scales : List Nat) : Engine :=
  let bits := elemBits x.elem
  let cols := (x.rows.zip vals).map fun p => (List.range 64).map fun i => p.1.elem bits p.2 i
  let cell := fun (sh : Nat) (j : Nat) =>
    if j % 512 < x.n then BitVec.ofNat 8 ((((cols.getD (j % 512) []).getD (j / 512) 0)) / 2 ^ sh) else (0 : Byte)
  let w1 := Sparse.replace 0 e.weights (k * 32768) 32768 (cell 0)
  let w2 := if wideElem x.elem then Sparse.replace 0 w1 ((k + 1) * 32768) 32768 (cell 8) else w1
  let at_ := (x.scaleSpans.map fun p => p.1).zip scales
  let scale := fun (j : Nat) =>
    let a := x.tid.scaleAt (x.o0 + 32 * (j / 512)) (x.o1 + j % 512) x.o2 x.o3
    if j % 512 < x.n then ((at_.find? fun p => p.1 == a).elim (0 : Byte) fun p => BitVec.ofNat 8 p.2) else 0
  { e with weights := w2, scales := if x.tid.sbsz = 1 then Sparse.replace 0 e.scales (k * 1024) 1024 scale else e.scales }

/-- Both slots of a residency take a state. -/
def State.setSlots (s : State) (eng k : Nat) (f : Slot → Slot) : State :=
  ((s.slotOf eng k).span k).foldl (fun s j => s.updSlot eng j f) s

/-- R361: the operation of a fill completes. -/
def State.fillOver (s : State) (eng k : Nat) : State :=
  let x := s.slotOf eng k
  if x.counted then
    (((s.setSlots eng k fun x => { x with counted := false }).updGroup x.uid x.grp fun g => g.completeOp .cp x.op)).settle x.uid
  else s

/-- R361: a fill fails. -/
def State.fillFail (s : State) (eng k : Nat) : State :=
  (s.setSlots eng k fun x => { x with state := .failed, stall := 0 }).fillOver eng k

/-- R361, R362: a fill or a reload is performed as far as it can be. -/
def State.fill (s : State) (eng k : Nat) : State :=
  let x := s.slotOf eng k
  let bits := elemBits x.elem
  let spans := x.rows.map fun r => (r.va, if r.count = 0 then 0 else rowSpan bits r.count r.start)
  let stop := fun (s : State) (e : Eng) =>
    match e with
    | .wait => s
    | .pf f va =>
      match s.engFault x.uid x.grp x.slices x.pc f va with
      | (s1, 0) => s1.fillFail eng k
      | (s1, tag) => s1.setSlots eng k fun x => { x with stall := tag }
    | _ => s.fillFail eng k
  match s.fillSpans eng k spans with
  | (s1, vals, e) =>
    if vals.length < spans.length then stop s1 e
    else match s1.fillSpans eng k x.scaleSpans with
      | (s2, scales, e) =>
        if scales.length < x.scaleSpans.length then stop s2 e
        else ((s2.updEngine eng fun e => e.store k x vals scales).setSlots eng k fun x => { x with state := .resident }).fillOver eng k

/-- R361: a fill or reload that is not stalled is performed. -/
def execResidencyFillComplete (eng slot : Nat) (s : State) : Out1 :=
  let x := s.slotOf eng slot
  if x.state = .loading ∧ x.stall = 0 ∧ !x.upper then .next (s.fill eng slot) else .next s

/-- R362, R370: a reload begins: the old watches go, STALE is cleared, GEN stays. -/
def State.reload (s : State) (eng k : Nat) : State :=
  (((s.count (s.slotOf eng k).part 0x31 1).farDone (.fill eng k)).dropWatch eng k (s.slotOf eng k).vdev).setSlots eng k fun x => { x with state := .loading, stale := false, stall := 0, counted := false }

/-! ## Change of hands (R363) -/

/-- R363: every record of the device that held the engine goes to its residency shadows, with its watches; a fill in
progress ends. The slots stand FREE with their GEN unchanged. -/
def State.toShadows (s : State) (eng : Nat) : State :=
  let old := (s.engineOf eng).vdev
  let recs := (s.engineOf eng).slots.filter fun x => x.2.state != .free && !x.2.upper
  let s1 := recs.foldl (fun s x => s.fillOver eng x.1) s
  let s2 := s1.updVdev old fun v => { v with
    shadow := v.shadow ++ ((s1.engineOf eng).slots.filter fun x => x.2.state != .free).map fun x =>
      (eng, x.1, { x.2 with state := .evicted, stall := 0 }) }
  s2.updEngine eng fun e => { e with slots := (e.slots.map fun x => (x.1, ({ gen := x.2.gen } : Slot))).filter fun x => x.2 != {} }

/-- The line of the reserved area that holds a residency record (log 16). -/
def shadowDpa (vdev eng k : Nat) : Nat := shadowBase + vdev * 2 ^ 21 + (eng * 256 + k) * 128

/-- R363: the records of the device that is assigned the engine return to their slots, EVICTED with their own GEN; pinned
ones are reloaded. One whose line is lost comes back FAILED (log 16). -/
def State.fromShadows (s : State) (eng vdev : Nat) : State :=
  let mine := ((s.vdevOf vdev).shadow.filter fun x => x.1 == eng).map fun x =>
    if s.resLost (shadowDpa vdev eng x.2.1) then (x.1, x.2.1, { x.2.2 with state := .failed }) else x
  let s1 := (s.updVdev vdev fun v => { v with shadow := v.shadow.filter fun x => x.1 != eng }).updEngine eng fun e =>
    { e with vdev := vdev, slots := mine.foldl (fun m x => Sparse.insert m x.2.1 x.2.2) e.slots }
  mine.foldl (fun s x => if x.2.2.pin && !x.2.2.upper && x.2.2.state == .evicted then s.reload eng x.2.1 else s) s1

/-- R363, R370: a pass that has been granted uses the slot. -/
def State.inPass (s : State) (eng k : Nat) : Bool :=
  (s.engineOf eng).resv.any fun r => r.granted
    && (s.groupOf r.uid r.grp).entries.any fun x => x.op == r.op && x.tileOp.isSome && x.desc.toNat % 65536 / 256 == k

/-- R363: at a context save, unpinned RESIDENT residencies of the device among `which` are evicted, but for those that a
granted pass uses. -/
def State.evict (s : State) (eng vdev : Nat) (which : List Nat) : State :=
  which.foldl (fun s k =>
    let x := s.slotOf eng k
    if x.state = .resident ∧ !x.pin ∧ !x.upper ∧ x.vdev = vdev ∧ !s.inPass eng k then s.setSlots eng k fun x => { x with state := .evicted } else s) s

/-! ## Instructions (R360 to R365) -/

/-- R361: the operands of a load make its record, or raise PROT. -/
def State.resRecord (s : State) (u : Nat) (v : Word) (o : DWord) : Option (Slot × Option Nat) :=
  let req := v.toNat % 512
  let f := fun k => o.toNat / 2 ^ (16 * k) % 65536
  match s.tidAt u (v.toNat / 65536 % 64) with
  | none => none
  | some t =>
    let bad := decide (v.toNat / 2 ^ 22 ≠ 0) || decide (v.toNat / 2 ^ 10 % 64 ≠ 0) || decide (0x100 < req)
      || (wideElem t.elem && decide (req % 2 = 1)) || !t.valid || decide (6 < t.elem)
      || t.tile 0 != 64 || decide (t.tile 1 % 16 ≠ 0) || decide (512 < t.tile 1)
      || (t.sbsz == 1 && (t.skdim != 0 || decide (f 0 % 32 ≠ 0)))
      || levelOf t.w0.toNat != .global || levelOf t.w2.toNat != .global
    if bad then none
    else
      let x := s.teamOf u
      some ({ state := .loading, pin := v.getLsbD 9, vdev := x.vf, part := x.part, asid := x.asid, elem := t.elem, n := t.tile 1, tid := t
              o0 := f 0, o1 := f 1, o2 := f 2, o3 := f 3, uid := u, counted := true }, if req = 0x100 then none else some req)

/-- R361 steps 2 and 3: the slot that a request takes. -/
def Engine.pick (e : Engine) (wide : Bool) (req : Option Nat) : Option Nat :=
  let free := fun k => (e.slot k).state == .free && (!wide || (e.slot (k + 1)).state == .free)
  match req with
  | some k => if free k then some k else none
  | none => (List.range 256).find? fun k => (!wide || k % 2 == 0) && free k

/-- R360, R361: `res.load` of one path. -/
def State.resLoad (s : State) (sl : BitVec 8) (d a b : Nat) : State :=
  let u := s.run.uid
  let g := s.curGroup
  let k := lowSlice sl
  let eng := s.curCore / 4
  let e := s.engineOf eng
  let put := fun (s : State) (w : Nat) => s.updCur fun g => (g.writeS sl d fun _ => BitVec.ofNat 32 w).stepPast sl
  match s.resRecord u (g.sreg k a) (g.spair k b) with
  | none => s.trapAt sl .prot
  | some (x, req) =>
    let r := if wideElem x.elem then 2 else 1
    let v := s.vdevOf x.vdev
    if v.resSlots < e.held x.vdev + r ∨ (x.pin ∧ v.resPins < e.pinned x.vdev + r) then put s (2 ^ 30)
    else match e.pick (wideElem x.elem) req with
      | none => put s (2 * 2 ^ 30)
      | some j =>
        let y := { x with grp := s.run.grp, op := g.nextOp, pc := (g.pathOf sl).pc, slices := sl }
        let s1 := ((s.farDone (.fill eng j)).dropWatch eng j x.vdev).updSlot eng j fun z => { y with gen := z.gen }
        let s2 := if wideElem x.elem then s1.updSlot eng (j + 1) fun z => { y with gen := z.gen, upper := true } else s1
        let s3 := s2.updCur fun g =>
          let g1 := g.updCounters fun c => c.issue .cp g.nextOp
          { g1 with nextOp := g1.nextOp + 1 }
        put s3 (j * 256 + (e.slot j).gen)

/-- R361: posted as a release at cluster scope, counted in cp. -/
def execResLoad (e : Bool) (d a b : BitVec 6) (s : State) : Out1 :=
  .next (s.unsup fun s =>
    if s.curGroup.ctrFull .cp s.pathCount || s.stuckAt 2 then s
    else ((((s.releaseAt 2).eachPath fun sl s => s.resLoad sl d.toNat a.toNat b.toNat).tally e).advanceAfter s [a.toNat]))

/-- R360: a form on the handle in S[sa] of the path's lowest slice: `f` gives the new state and the result. -/
def State.resForm (s : State) (e : Bool) (d a : BitVec 6) (f : Nat → Nat → Nat → State → State × Nat) : State :=
  s.unsup fun s =>
    let g0 := s.curGroup
    ((s.eachPath fun sl s =>
      let r := f (s.curCore / 4) s.curTeam.vf ((g0.sreg (lowSlice sl) a.toNat).toNat % 65536) s
      r.1.updCur fun g => (g.writeS sl d.toNat fun _ => BitVec.ofNat 32 r.2).stepPast sl).tally e).advanceAfter s [a.toNat]

def resInvalid : Nat := 3 * 2 ^ 30

/-- R360, R363. -/
def execResPin (e : Bool) (d a : BitVec 6) (s : State) : Out1 :=
  .next (s.resForm e d a fun eng vdev h s =>
    let en := s.engineOf eng
    let k := h / 256
    if !en.valid vdev h then (s, resInvalid)
    else if (en.slot k).pin then (s, 0)
    else if (s.vdevOf vdev).resPins < en.pinned vdev + ((en.slot k).span k).length then (s, 2 ^ 30)
    else (s.setSlots eng k fun x => { x with pin := true }, 0))

/-- R360, R363. -/
def execResUnpin (e : Bool) (d a : BitVec 6) (s : State) : Out1 :=
  .next (s.resForm e d a fun eng vdev h s =>
    if !(s.engineOf eng).valid vdev h then (s, resInvalid)
    else (s.setSlots eng (h / 256) fun x => { x with pin := false }, 0))

/-- R363: the slot or pair becomes FREE; a fill in progress is abandoned and its operation completes. -/
def State.revoke (s : State) (eng k : Nat) : State :=
  (((s.fillOver eng k).dropWatch eng k (s.slotOf eng k).vdev).setSlots eng k Slot.freed)

/-- R360, R363. -/
def execResRevoke (e : Bool) (d a : BitVec 6) (s : State) : Out1 :=
  .next (s.resForm e d a fun eng vdev h s =>
    if !(s.engineOf eng).valid vdev h then (s, resInvalid) else (s.revoke eng (h / 256), 0))

/-- R365. -/
def Slot.status (x : Slot) : Nat :=
  let st := match x.state with | .loading => 1 | .resident => 2 | .evicted => 3 | .failed => 4 | .free => 0
  2 ^ 31 + st * 2 ^ 28 + (if x.stale then 2 ^ 27 else 0) + (if x.pin then 2 ^ 26 else 0) + x.elem * 2 ^ 22 + (x.n / 16 - 1) * 2 ^ 17

/-- R360, R365. -/
def execResStat (e : Bool) (d a : BitVec 6) (s : State) : Out1 :=
  .next (s.resForm e d a fun eng vdev h s =>
    (s, if (s.engineOf eng).valid vdev h then ((s.engineOf eng).slot (h / 256)).status else 0))

/-- R360. -/
def execResUse (e : Bool) (d : BitVec 6) (s : State) : Out1 :=
  .next (s.unsup fun s =>
    let en := s.engineOf (s.curCore / 4)
    let v := s.curTeam.vf
    (s.updCur fun g => g.writeS s.run.slices d.toNat fun _ => BitVec.ofNat 32 (en.pinned v * 512 + en.held v)).retire e)

end Sys2Proof.Machine
end

