-- ==== Sys2Proof/Machine/Coll.lean ====
section
/-! DEFINITION. Collectives: the post, the messages of the sequencer and what each makes its receiver do, the movement of
data, cancelling, failover and failure (R376 to R379, R436 to R445). -/

namespace Sys2Proof.Machine

/-! ## Communicators and messages (R436, R437) -/

def State.commOf (s : State) (d c : Nat) : Comm := Sparse.get {} (s.dieOf d).comms c
def State.updComm (s : State) (d c : Nat) (f : Comm → Comm) : State :=
  s.updDie d fun x => { x with comms := Sparse.upd {} x.comms c f }

/-- R436: the member address of a die of this module. -/
def State.memberAddr (s : State) (d : Nat) : BitVec 12 := BitVec.ofNat 12 (s.accid * 4 + d)
def State.isLocalMember (s : State) (a : BitVec 12) : Bool := decide (a.toNat / 4 = s.accid) && decide (a.toNat % 4 < 3)

/-- R433: a member of another module that is DOWN. -/
def State.memberDown (s : State) (a : BitVec 12) : Bool := !s.isLocalMember a && (s.peerOf (a.toNat / 4)).state == 2

/-- R429, R430: a message to a member: to a die of this module it comes as a step of its own, to another module it leaves by a
port whose link is up, unless the module holds no identifier. -/
def State.seqSend (s : State) (a : BitVec 12) (m : Nat → Ev) : State :=
  if s.isLocalMember a then { s with plan := s.plan ++ [.own (m (a.toNat % 4))] }
  else if s.accNone then s
  else s.sendOut fun port => .seqMsg port a (m (a.toNat % 4))

/-- R435: a refusal is counted. -/
def State.reject (s : State) (src : Nat) : State := s.updPeer src fun p => { p with rej := min (p.rej + 1) 255 }

/-- R430: a message that comes over the fabric: a device with no identifier takes none, and one that bears the device's own
is discarded and counted. -/
def State.inMsg (s : State) (src : BitVec 12) (f : State → State) : State :=
  if s.accNone then s else if src.toNat / 4 = s.accid then s.reject s.accid else f s

def State.seqSendAll (s : State) (as : List (BitVec 12)) (m : Nat → Ev) : State := as.foldl (fun s a => s.seqSend a m) s

/-- R439: number `m` precedes `n`. -/
def precedes (m n : Word) : Bool := decide (1 ≤ (n - m).toNat) && decide ((n - m).toNat < 2 ^ 31)

/-- R437: whether a message of a term is for the entry at all: in force, and not of an older term. -/
def Comm.hears (c : Comm) (term : Word) : Bool := c.v && decide (c.term.toNat ≤ term.toNat)

/-! ## A member's progress (R440) -/

def State.collOf (s : State) (d c : Nat) (tag : Word) : Option Coll := (s.dieOf d).colls.find? fun x => x.comm == c && x.tag == tag
def State.updColl (s : State) (d c : Nat) (tag : Word) (f : Coll → Coll) : State :=
  s.updDie d fun x => { x with colls := x.colls.map fun y => if y.comm = c ∧ y.tag = tag then f y else y }

def Tid.elems (t : Tid) : Nat := t.size 0 * t.size 1 * t.size 2 * t.size 3

/-- R378: bytes that a collective writes on this device: with OPN 4, only at the root. -/
def Coll.count (x : Coll) (rank : Nat) : Nat := if x.opn = 4 ∧ rank ≠ x.root then 0 else x.dst.elems * elemBits x.dst.elem / 8

/-- R378, R420: the arrival of a collective at its completion handle; kept for the restore of a team that is saved. -/
def State.collArrive (s : State) (x : Coll) (n : Nat) (err : Bool) : State :=
  if (s.teamOf x.uid).place == .saved then
    s.updTeam x.uid fun t => { t with image := { t.image with colls := t.image.colls ++ [(x.dbuf, n, err)] } }
  else s.sendArrival x.uid x.dbuf n err

/-- R433: what a number's exchange has asked of other members is over. -/
def State.partsOver (s : State) (d c : Nat) : State :=
  let mine := fun (a : Asker) => match a with | .part e k _ _ => e == d && k == c | _ => false
  s.forget mine

/-- R147, R378: a collective completes; its range locks are released before its arrival is sent. -/
def State.collEnd (s0 : State) (d : Nat) (x : Coll) (err : Bool) : State :=
  let sr := if x.running then (s0.partsOver d x.comm).farDone (.engine x.uid x.lockOp) else s0
  let s := if x.locked then sr.freeLocks x.uid x.lockOp else sr
  let s1 := s.updDie d fun y => { y with colls := y.colls.filter fun z => !(z.comm == x.comm && z.tag == x.tag) }
  ((s1.collArrive x (x.count (s.commOf d x.comm).rank) err).updGroup x.uid x.grp fun g => g.completeOp .cp x.op).settle x.uid

/-- R440: a member passes number `n`. -/
def State.pass1 (s : State) (d c : Nat) (n : Word) : State :=
  let x := s.commOf d c
  let s1 := s.updComm d c fun x => { x with
    next := n + 1, known := x.known.filter fun k => k.1 != n, holes := x.holes.filter fun k => k.1 != n
    readySent := x.readySent.filter fun k => k.1 != n, goGot := x.goGot.filter fun k => decide ((n - k).toNat ≤ 256)
    sent := x.sent.filter fun k => decide ((n - k.1).toNat ≤ 256) }
  s1.seqSend x.prim fun e => .done e c (s.memberAddr d) x.term n

/-- R440: holes at NEXT are passed; for a numbered and posted pair at NEXT, READY is sent, once. -/
def State.commStep (s : State) (d c : Nat) : Nat → State
  | 0 => s
  | fuel + 1 =>
    let x := s.commOf d c
    if x.holes.any fun k => k.1 == x.next then State.commStep (s.pass1 d c x.next) d c fuel
    else match x.known.find? fun k => k.1 == x.next with
      | some (n, tag) =>
        if (s.collOf d c tag).isSome && !(x.readySent.any fun k => k.1 == n) && !x.goGot.contains n then
          (s.updComm d c fun x => { x with readySent := x.readySent ++ [(n, s.clock.toNat)] }).seqSend x.prim fun e =>
            .ready e c (s.memberAddr d) x.term n
        else s
      | none => s

def State.commGo (s : State) (d c : Nat) : State := s.commStep d c 300

/-! ## coll.post (R376, R377) -/

/-- A command in eight words. -/
structure CollCmd where
  w : List Word
deriving DecidableEq, Repr

def CollCmd.fld (c : CollCmd) (k lo n : Nat) : Nat := (c.w.getD k 0).toNat / 2 ^ lo % 2 ^ n

/-- R377: the collective that a command posts, or none where it raises PROT. -/
def State.collCheck (s : State) (u : Nat) (c : CollCmd) : Option Coll :=
  let t := s.teamOf u
  let d := t.core / 64
  let opn := c.fld 0 28 4
  let red := c.fld 0 26 2
  let root := c.fld 0 0 16
  let comm := c.fld 1 0 16
  let e := s.commOf d comm
  let p := e.nm1 + 1
  let tag := c.w.getD 2 0
  let reduces := opn == 0 || opn == 1 || opn == 4
  let rooted := opn == 3 || opn == 4
  match s.tidAt u (c.fld 3 0 6), s.tidAt u (c.fld 3 8 6) with
  | some a, some b =>
    let n := a.elems
    let want := match opn with | 1 => n / p | 2 => n * p | _ => n
    let bad := decide (5 < opn) || (if reduces then red == 3 else red != 0) || c.fld 0 22 4 != 0
      || (if rooted then decide (p ≤ root) else root != 0)
      || c.fld 1 16 16 != 0 || c.fld 3 14 18 != 0 || c.fld 3 6 2 != 0 || (List.range 4).any (fun k => c.fld (4 + k) 0 32 != 0)
      || !(e.v && e.part == t.part) || (s.collOf d comm tag).isSome || decide (t.bufCnt ≤ c.fld 0 16 6)
      || !a.valid || !b.valid || a.sbsz == 1 || b.sbsz == 1 || a.elem != b.elem
      || ((opn == 1 || opn == 5) && decide (n % p ≠ 0)) || b.elems != want
      || (reduces && !(a.elem == 7 || a.elem == 5 || a.elem == 6 || a.elem == 9))
    if bad then none
    else some { comm := comm, tag := tag, uid := u, grp := 0, slot := 0, op := 0, opn := opn, red := red, root := root, dbuf := c.fld 0 16 6, src := a, dst := b }
  | _, _ => none

/-- The post slots of a team in use. -/
def State.collSlots (s : State) (u : Nat) : List Nat :=
  [0, 1, 2].flatMap fun d => ((s.dieOf d).colls.filter fun x => x.uid == u).map fun x => x.slot
def State.collsOf (s : State) (u : Nat) : Nat := (s.collSlots u).length

/-- The lowest post slot of a team that is free. -/
def State.collSlot (s : State) (u : Nat) : Option Nat :=
  let mine := s.collSlots u
  (List.range 16).find? fun k => !mine.contains k

/-- R376: one path's post: the pair is outstanding, cp rises, and ASSIGN goes to the primary unless the pair has a number
here; a pair that is a hole completes with ERR (R441). -/
def State.postColl (s : State) (sl : BitVec 8) (d a : Nat) : State :=
  let u := s.run.uid
  let g := s.curGroup
  let die := s.curCore / 64
  match s.collCheck u { w := (List.range 8).map fun j => g.sreg (lowSlice sl) (a + j) }, s.collSlot u with
  | none, _ => s.trapAt sl .prot
  | some _, none => s
  | some x0, some slot =>
    let x := { x0 with grp := s.run.grp, slot := slot, op := g.nextOp, time := s.clock.toNat, pc := (g.pathOf sl).pc }
    let e := s.commOf die x.comm
    let s1 := s.updCur fun g =>
      let g1 := g.updCounters fun c => c.issue .cp g.nextOp
      (({ g1 with nextOp := g1.nextOp + 1 } : Group).writeS sl d fun _ => BitVec.ofNat 32 slot).stepPast sl
    let s2 := s1.updDie die fun y => { y with colls := y.colls ++ [x] }
    if e.holes.any fun k => k.2 == some x.tag then s2.collEnd die x true
    else if e.known.any fun k => k.2 == x.tag then s2.commGo die x.comm
    else s2.seqSend e.prim fun p => .assignNum p x.comm (s.memberAddr die) e.term x.tag

/-- R181, R376: a post is a release at device scope; it waits while the team has 16 collectives outstanding. -/
def execCollPost (e : Bool) (d a : BitVec 6) (s : State) : Out1 :=
  .next (s.unsup fun s =>
    if s.curGroup.ctrFull .cp s.pathCount || decide (16 < s.collsOf s.run.uid + s.pathCount) || s.stuckAt 3 then s
    else ((s.releaseAt 3).eachPath fun sl s => s.postColl sl d.toNat a.toNat).tally e)

/-! ## coll.cancel and coll.stat (R379, R441) -/

/-- The communicator and tag that S[sa] and S[sa+1] of a path's lowest slice name. -/
def Group.collPair (g : Group) (sl : BitVec 8) (a : Nat) : Nat × Word :=
  ((g.sreg (lowSlice sl) a).toNat % 65536, g.sreg (lowSlice sl) (a + 1))

/-- R379, R441: the pair is outstanding for a team: posted by it, or numbered here and posted by no team. -/
def State.collKnown (s : State) (u d c : Nat) (tag : Word) : Bool :=
  match s.collOf d c tag with
  | some x => x.uid == u
  | none => (s.commOf d c).v && (s.commOf d c).part == (s.teamOf u).part && (s.commOf d c).known.any fun k => k.2 == tag

/-- R203, R441: UNKNOWN at once, or CANCEL is sent, and the destination is pending until REPLY. -/
def execCollCancel (e : Bool) (d a : BitVec 6) (s : State) : Out1 :=
  let g0 := s.curGroup
  .next (s.unsup fun s => (s.eachPath fun sl s =>
    let p := g0.collPair sl a.toNat
    let die := s.curCore / 64
    if s.collKnown s.run.uid die p.1 p.2 then
      let x := s.commOf die p.1
      let o : Owed := { slices := sl, reg := d.toNat, pc := (g0.pathOf sl).pc, trap := g0.atTrap }
      let s1 := s.updComm die p.1 fun x => { x with
        cancels := x.cancels ++ [{ tag := p.2, uid := s.run.uid, grp := s.run.grp, owed := o, time := s.clock.toNat }] }
      (s1.updCur fun g => ({ g with owed := g.owed ++ [o] } : Group).stepPast sl).seqSend x.prim fun k =>
        .cancel k p.1 (s.memberAddr die) x.term p.2
    else s.updCur fun g => (g.writeS sl d.toNat fun _ => 2).stepPast sl).tally e)

/-- R379: where a pair of the issuing team stands. -/
def State.collStatus (s : State) (u d c : Nat) (tag : Word) : Word :=
  match s.collOf d c tag with
  | some x =>
    if x.uid != u then 0
    else
      let st := if x.running then 3 else if (s.commOf d c).known.any fun k => k.2 == tag then 2 else 1
      let err := x.running && (s.commOf d c).sent.any fun k => (s.commOf d c).next == k.1 && k.2.1
      BitVec.ofNat 32 (st * 2 ^ 29 + (if err then 2 ^ 28 else 0))
  | none => 0

/-- R379. -/
def execCollStat (e : Bool) (d a : BitVec 6) (s : State) : Out1 :=
  let g0 := s.curGroup
  .next (s.unsup fun s => (s.eachPath fun sl s =>
    let p := g0.collPair sl a.toNat
    s.updCur fun g => (g.writeS sl d.toNat fun _ => s.collStatus s.run.uid (s.curCore / 64) p.1 p.2).stepPast sl).tally e)

/-- R441: a `coll.cancel` gets its answer: its register, of the level at which it was issued, is written and no longer
pending. -/
def State.answerCancel (s : State) (x : Cancel) (v : Word) : State :=
  s.updGroup x.uid x.grp fun g =>
    ({ g with owed := g.owed.erase x.owed } : Group).at_ x.owed.trap fun g => g.writeS x.owed.slices x.owed.reg fun _ => v

/-! ## The primary (R438, R441) -/

/-- R438: the lowest number held, or the next to give. -/
def Comm.oldest (c : Comm) : Word := c.held.foldl (fun m h => if precedes h.1 m then h.1 else m) c.nextN

/-- R438: whether another number may be given. -/
def Comm.room (c : Comm) : Bool := decide ((c.nextN - c.oldest).toNat < 2 ^ 31) && decide (c.held.length < 256)

/-- R438: the number of a pair that a member has not yet passed. -/
def Comm.numberOf (c : Comm) (src : BitVec 12) (tag : Word) : Option (Word × Option Word × Bool) :=
  c.held.find? fun h => h.2.1 == some tag && !c.doneFrom.contains (h.1, src)

/-- R438: the number of a tag, no hole, that is not yet retired. -/
def Comm.live (c : Comm) (tag : Word) : Option Word := (c.held.find? fun h => h.2.1 == some tag && !h.2.2).map (·.1)

/-- R438: a pair may be given a number now: there is room, and no number of its tag is still to be retired. -/
def Comm.gives (c : Comm) (tag : Word) : Bool := c.room && (c.live tag).isNone

/-- A message waits for a number, behind those that wait. -/
def State.waitNumber (s : State) (d c : Nat) (w : BitVec 12 × Word × Bool) : State :=
  s.updComm d c fun x => { x with waitAssign := if x.waitAssign.contains w then x.waitAssign else x.waitAssign ++ [w] }

/-- R438: the next number is given to a pair, as a hole or not. -/
def State.number (s : State) (d c : Nat) (tag : Word) (hole : Bool) : State :=
  let x := s.commOf d c
  (s.updComm d c fun x => { x with held := x.held ++ [(x.nextN, some tag, hole)], nextN := x.nextN + 1 }).seqSendAll x.members fun k =>
    if hole then .hole k c x.term (some tag) x.nextN else .numbered k c x.term tag x.nextN

/-- R438: an ASSIGN of a pair with no number: the next number where it may be given, else it waits. -/
def State.assignNew (s : State) (d c : Nat) (src : BitVec 12) (tag : Word) : State :=
  if (s.commOf d c).gives tag then s.number d c tag false else s.waitNumber d c (src, tag, false)

/-- R438, R441: an ASSIGN: answered with the pair's number, or the hole that it is. A member that has passed the number has
posted the pair anew: it gets the same NUMBERED, and waits until that number is retired (log 7). -/
def State.assign (s : State) (d c : Nat) (src : BitVec 12) (tag : Word) : State :=
  let x := s.commOf d c
  match x.numberOf src tag with
  | some (n, t, true) => s.seqSendAll x.members fun k => .hole k c x.term t n
  | some (n, _, false) => s.seqSendAll x.members fun k => .numbered k c x.term tag n
  | none => match x.live tag with
    | some n => (s.seqSendAll x.members fun k => .numbered k c x.term tag n).assignNew d c src tag
    | none => s.assignNew d c src tag

/-- Whether a die is the primary of a communicator, and a message of `term` is heard. -/
def State.primHears (s : State) (d c : Nat) (term : Word) : Bool :=
  (s.commOf d c).hears term && (s.commOf d c).prim == s.memberAddr d

/-- R438. -/
def State.onAssign (s : State) (d c : Nat) (src : BitVec 12) (term tag : Word) : State :=
  if s.primHears d c term then s.assign d c src tag else s

/-- R441, R445: RUNNING where GO has been sent; otherwise the pair's number, given now if it had none, becomes a hole. One that
may not be given now waits (R438). -/
def State.cancelPair (s : State) (d c : Nat) (src : BitVec 12) (tag : Word) : State :=
  let x := s.commOf d c
  let reply := fun (s : State) (st : Nat) => s.seqSend src fun k => .reply k c x.term tag st
  match x.numberOf src tag with
  | some (n, t, h) =>
    if !h && x.goSent.contains n then reply s 1
    else reply ((s.updComm d c fun x => { x with held := x.held.map fun y => if y.1 = n then (n, t, true) else y }).seqSendAll x.members
      fun k => .hole k c x.term t n) 0
  | none => if x.gives tag then reply (s.number d c tag true) 0 else s.waitNumber d c (src, tag, true)

/-- R441. -/
def State.onCancel (s : State) (d c : Nat) (src : BitVec 12) (term tag : Word) : State :=
  if s.primHears d c term then s.cancelPair d c src tag else s

/-- R438: messages that wait for a number are taken up in arrival order. A pair that has been numbered meanwhile needs none. -/
def State.retryAssigns (s : State) (d c : Nat) : State :=
  let ws := (s.commOf d c).waitAssign
  ws.foldl (fun s w =>
    if w.2.2 then s.cancelPair d c w.1 w.2.1
    else if ((s.commOf d c).numberOf w.1 w.2.1).isSome then s else s.assignNew d c w.1 w.2.1) (s.updComm d c fun x => { x with waitAssign := [] })

/-- R440: with the last READY of a number, GO goes to every member. -/
def State.goIfReady (s : State) (d c : Nat) (n : Word) : State :=
  let x := s.commOf d c
  if x.members.all (fun m => x.readyFrom.contains (n, m)) && !x.goSent.contains n && x.held.any (fun h => h.1 == n && !h.2.2) then
    (s.updComm d c fun x => { x with goSent := x.goSent ++ [n] }).seqSendAll x.members fun k => .go k c x.term n
  else s

/-- R440. -/
def State.onReady (s : State) (d c : Nat) (src : BitVec 12) (term n : Word) : State :=
  if s.primHears d c term then
    (s.updComm d c fun x => { x with readyFrom := if x.readyFrom.contains (n, src) then x.readyFrom else x.readyFrom ++ [(n, src)] }).goIfReady d c n
  else s

/-- R438, R445: a number is retired when DONE has come from every member; what waits may then be numbered. -/
def State.onDone (s : State) (d c : Nat) (src : BitVec 12) (term n : Word) : State :=
  if s.primHears d c term then
    (s.updComm d c fun x =>
      let df := if x.doneFrom.contains (n, src) then x.doneFrom else x.doneFrom ++ [(n, src)]
      if x.members.all fun m => df.contains (n, m) then
        { x with held := x.held.filter fun h => h.1 != n, doneFrom := df.filter fun p => p.1 != n
                 readyFrom := x.readyFrom.filter fun p => p.1 != n, goSent := x.goSent.filter fun p => p != n }
      else { x with doneFrom := df }).retryAssigns d c
  else s

/-! ## Members (R440, R441) -/

/-- R440: a member learns a number. -/
def State.onNumbered (s : State) (d c : Nat) (term tag n : Word) : State :=
  let x := s.commOf d c
  if !x.hears term || precedes n x.next || x.known.contains (n, tag) || x.holes.any (fun h => h.1 == n) then s
  else (s.updComm d c fun x => { x with known := x.known ++ [(n, tag)] }).commGo d c

/-- R441: a number becomes a hole: a post of its pair completes with ERR, and the member passes it in its turn. -/
def State.onHole (s : State) (d c : Nat) (term : Word) (tag : Option Word) (n : Word) : State :=
  let x := s.commOf d c
  if !x.hears term || precedes n x.next || x.holes.any (fun h => h.1 == n) then s
  else
    let s1 := s.updComm d c fun x => { x with holes := x.holes ++ [(n, tag)], known := x.known.filter fun k => k.1 != n }
    let s2 := match tag.bind (s1.collOf d c) with
      | some y => if y.running then s1 else s1.collEnd d y true
      | none => s1
    s2.commGo d c

/-- R441: the cancelling member's `coll.cancel` completes. -/
def State.onReply (s : State) (d c : Nat) (term tag : Word) (status : Nat) : State :=
  if !(s.commOf d c).hears term then s
  else match (s.commOf d c).cancels.find? fun x => x.tag == tag with
    | none => s
    | some x => (s.updComm d c fun y => { y with cancels := y.cancels.erase x }).answerCancel x (BitVec.ofNat 32 status)

/-! ## Data movement (R377, R378, R440) -/

/-- The elements of rows read one after another. -/
def State.readElems (s : State) (u o bits : Nat) : List Row → State × List Nat × Eng
  | [] => (s, [], .ok 0)
  | r :: rest =>
    let span := rowSpan bits r.count r.start
    match s.engSpan u o 1 (lineFuel span) r.va span with
    | (s1, v, m, e) =>
      if m = span ∧ e.done then
        match State.readElems s1 u o bits rest with
        | (s2, vs, e2) => (s2, (List.range r.count).map (fun k => r.elem bits v k) ++ vs, e2)
      else (s1, [], e)

/-- R144, R146: a collective of a die takes its range locks, where they are free. -/
def State.collLock (s : State) (d : Nat) (x : Coll) : Option State :=
  if x.locked then some s
  else
    let ls := s.collLocks d x
    if s.locksFree ls then some ((s.takeLocks ls).updColl d x.comm x.tag fun y => { y with locked := true }) else none

/-- This member takes its locks and reads its source into the exchange of number `n`, unless it has; a fault makes its part
fail. -/
def State.contributeColl (s : State) (d c : Nat) (n : Word) (x : Coll) : State :=
  if (s.commOf d c).sent.any fun k => k.1 == n then s
  else match s.collLock d x with
    | none => s
    | some s0 =>
      match s0.readElems x.uid x.lockOp (elemBits x.src.elem) x.src.rowsOf with
      | (s1, _, .wait) => s1
      | (s1, vs, e) =>
        ((s1.freeSource x.uid x.lockOp).taken (.engine x.uid x.lockOp)).updComm d c fun y => { y with sent := y.sent ++ [(n, !e.done, if e.done then vs else [])] }

/-- R440: a member that receives GO moves the number's data. -/
def State.onGo (s : State) (d c : Nat) (term n : Word) : State :=
  let x := s.commOf d c
  if !x.hears term || x.next != n || x.goGot.contains n then s
  else match x.known.find? fun k => k.1 == n with
    | none => s
    | some (_, tag) =>
      match s.collOf d c tag with
      | none => s
      | some y =>
        ((s.updComm d c fun x => { x with goGot := x.goGot ++ [n] }).updColl d c tag fun y => { y with running := true }).contributeColl d c n y

/-- R378: one combination of two elements. -/
def combine (elem red a b : Nat) : Nat :=
  if elem = 9 then
    let x : Word := BitVec.ofNat 32 a
    let y : Word := BitVec.ofNat 32 b
    (if red = 0 then x + y else if red = 1 then smaxW x y else sminW x y).toNat
  else
    let f := elemFmt elem
    if red = 0 then f.encode 0 false (Fp.add 0 (f.decode a) (f.decode b))
    else
      let x := toF32 0 (f.decode a)
      let y := toF32 0 (f.decode b)
      f.encode 0 false (f32 (if red = 1 then fmaxW x y else fminW x y))

/-- R378: values combined two at a time in an order that nothing fixes. -/
def combineAll (f : Nat → Nat → Nat) (draw : Nat) : Nat → List Nat → Nat
  | _, [] => 0
  | _, [x] => x
  | 0, x :: _ => x
  | fuel + 1, xs =>
    let i := Config.reduceOrder draw (2 * fuel) % xs.length
    let ys := xs.eraseIdx i
    let j := Config.reduceOrder draw (2 * fuel + 1) % ys.length
    combineAll f draw fuel (ys.eraseIdx j ++ [f (xs.getD i 0) (ys.getD j 0)])

/-- R377: the members whose part a member's collective needs: of a broadcast the root's, of a reduce away from the root its own
alone, else all. -/
def Coll.needs (x : Coll) (rank k : Nat) : Bool :=
  if x.opn = 3 then k == x.root else if x.opn = 4 && rank != x.root then k == rank else true

/-- R433: the request for the part of a member of another module in number `n`. -/
def partAsk (d c : Nat) (n : Word) (k : Nat) (a : BitVec 12) : Ask :=
  { who := .part d c n k, kind := 64, addr := 2 ^ 51 + a.toNat / 4 * 2 ^ 40, n := 0 }

/-- R433, R443: the part of a member of another module: failed where its completion was poison or an error, or where the member
says so; its elements are the member's (log 7). -/
def State.farPart (s : State) (d c : Nat) (n : Word) (k e : Nat) (a : BitVec 12) : Option (Bool × List Nat) :=
  let i := c * 2 ^ 32 + n.toNat
  (s.answerTo (partAsk d c n k a)).map fun v =>
    if v.isNone || Config.peerPartFails i k then (true, []) else (false, (List.range e).map fun j => Config.peerElem i k j)

/-- The parts of number `n` in rank order, each failed or not and its elements; those that are not needed are empty. None while
one is missing: a member of this module has not put it in, or a peer has not answered. -/
def State.contributions (s : State) (d c : Nat) (n : Word) (x : Coll) (rank : Nat) (members : List (BitVec 12)) : Option (List (Bool × List Nat)) :=
  members.zipIdx.mapM fun m =>
    if !x.needs rank m.2 then some (false, [])
    else if s.isLocalMember m.1 then ((s.commOf (m.1.toNat % 4) c).sent.find? fun k => k.1 == n).map fun k => k.2
    else s.farPart d c n m.2 x.src.elems m.1

/-- R433: the parts of members of other modules are asked for. -/
def State.askParts (s : State) (d c : Nat) (n : Word) (x : Coll) (rank : Nat) (members : List (BitVec 12)) : State :=
  (members.zipIdx.filter fun m => x.needs rank m.2 && !s.isLocalMember m.1).foldl (fun s m => s.ask (partAsk d c n m.2 m.1)) s

/-- R377: what the destination of rank `r` holds. -/
def Coll.result (x : Coll) (r draw : Nat) (ps : List (List Nat)) : List Nat :=
  let e := x.src.elems
  let p := ps.length
  let bits := elemBits x.src.elem
  let at_ := fun (k j : Nat) => (ps.getD k []).getD j 0 % 2 ^ bits
  let reduced := fun (j : Nat) => combineAll (combine x.src.elem x.red) (draw + j) p ((List.range p).map fun k => at_ k j)
  match x.opn with
  | 0 => (List.range e).map reduced
  | 1 => (List.range (e / p)).map fun j => reduced (r * (e / p) + j)
  | 2 => (List.range p).flatMap fun k => (List.range e).map fun j => at_ k j
  | 3 => (List.range e).map fun j => at_ x.root j
  | 4 => if r = x.root then (List.range e).map reduced else []
  | _ => (List.range p).flatMap fun k => (List.range (e / p)).map fun j => at_ k (r * (e / p) + j)

/-- Elements laid into the rows of a tensor. -/
def rowPieces (bits : Nat) : List Row → List Nat → List Piece
  | [], _ => []
  | r :: rest, vs => r.pieces bits r.count ((vs.take r.count).foldr (fun x n => x + 2 ^ bits * n) 0) ++ rowPieces bits rest (vs.drop r.count)

/-- R378, R440, R443: the running collective of a communicator completes on this die: the destination is written, the
arrival is sent, and the member passes the number. -/
def execCollectiveLocalCompletion (d c : Nat) (s : State) : Out1 :=
  let x := s.commOf d c
  match (s.dieOf d).colls.find? fun y => y.comm == c && y.running with
  | none => .next s
  | some y =>
    let n := x.next
    let s1 := s.contributeColl d c n y
    let y := { y with locked := y.locked || ((s1.commOf d c).sent.any fun k => k.1 == n) }
    let s1 := s1.askParts d c n y x.rank x.members
    match s1.contributions d c n y x.rank x.members with
    | none => .next s1
    | some ps =>
      let fin := fun (s : State) (err : Bool) => (((s.collEnd d y err).pass1 d c n).commGo d c)
      if ps.any fun p => p.1 then .next (fin s1 true)
      else
        let out := y.result x.rank s1.draw (ps.map fun p => p.2)
        let pieces := if out.isEmpty then [] else rowPieces (elemBits y.dst.elem) y.dst.rowsOf out
        match s1.writePieces y.uid y.lockOp (pieces.drop y.moved) with
        | (s2, k, .wait) => .next (s2.updColl d c y.tag fun z => { z with moved := z.moved + k })
        | (s2, _, e) => .next (fin { s2 with draw := s2.draw + out.length } (!e.done))

/-! ## Failover and failure (R442, R443) -/

/-- R443: the communicator fails on a die: every outstanding collective completes with ERR and V is cleared. A waiting
`coll.cancel` finds no pair outstanding. -/
def State.commFailDie (s : State) (d c : Nat) : State :=
  if !(s.commOf d c).v then s
  else
    let s1 := ((s.dieOf d).colls.filter fun y => y.comm == c).foldl (fun s y => s.collEnd d y true) s
    let s2 := (s.commOf d c).cancels.foldl (fun s x => s.answerCancel x 2) s1
    s2.updComm d c fun x => { x with v := false, cancels := [], known := [], holes := [], readySent := [], goGot := [], sent := [], held := []
                                     waitAssign := [], readyFrom := [], goSent := [], doneFrom := [], electAt := 0, reports := [], asked := 0 }

/-- R443: at every member on this module. -/
def State.commFail (s : State) (c : Nat) : State := [0, 1, 2].foldl (fun s d => s.commFailDie d c) s

/-- R443: a member of another module has become DOWN: every communicator of which it is one and of which a collective is
outstanding fails. -/
def State.peerLost (s : State) (a : Nat) : State :=
  let hit := [0, 1, 2].flatMap fun d => ((s.dieOf d).comms.filter fun c =>
    c.2.v && c.2.members.any (fun m => m.toNat / 4 == a) && (s.dieOf d).colls.any fun y => y.comm == c.1).map fun c => c.1
  hit.eraseDups.foldl (fun s c => s.commFail c) s

/-- R442: the member asks the standby for failover; where the standby is DOWN the communicator fails. -/
def State.askFailover (s : State) (d c : Nat) : State :=
  let x := s.commOf d c
  if s.memberDown x.stby then s.commFail c
  else
    let now := s.clock.toNat
    let s1 := (s.updComm d c fun x => { x with
      asked := now + 1, readySent := x.readySent.map fun k => (k.1, now), cancels := x.cancels.map fun k => { k with time := now } }).updDie d fun y =>
        { y with colls := y.colls.map fun z => if z.comm = c then { z with time := now } else z }
    s1.seqSend x.stby fun k => .failoverRequest k c x.term

/-- R442: a message of a member that has stayed unanswered for 1 ms, or its primary is DOWN and it has not asked for failover
within that time. -/
def State.unanswered (s : State) (d c : Nat) : Bool :=
  let x := s.commOf d c
  let old := fun (t : Nat) => decide (Config.cyclesPerMs ≤ s.clock.toNat - t)
  x.v && ((s.memberDown x.prim && (x.asked == 0 || old (x.asked - 1))) || x.readySent.any (fun k => old k.2 && !x.goGot.contains k.1) || x.cancels.any (fun k => old k.time)
    || (s.dieOf d).colls.any fun y => y.comm == c && old y.time && !(x.known.any fun k => k.2 == y.tag))

/-- R442, R443: 1 ms without an answer: a member turns to the standby; a standby whose COLLECT is unanswered fails the
communicator. -/
def execSequencerTimeout (d c : Nat) (s : State) : Out1 :=
  let x := s.commOf d c
  if x.electAt != 0 && decide (x.electAt + Config.cyclesPerMs ≤ s.clock.toNat + 1) then .next (s.commFail c)
  else if s.unanswered d c then .next (s.askFailover d c)
  else .next s

/-- R442 step 2: the standby raises TERM and sends COLLECT. -/
def State.elect (s : State) (d c : Nat) : State :=
  let x := s.commOf d c
  if !x.v || x.stby != s.memberAddr d || x.electAt != 0 then s
  else (s.updComm d c fun x => { x with term := x.term + 1, electAt := s.clock.toNat + 1, reports := [] }).seqSendAll x.members fun k =>
    .collect k c (x.term + 1)

/-- R442. -/
def State.onFailover (s : State) (d c : Nat) (term : Word) : State := if (s.commOf d c).hears term then s.elect d c else s

/-- R442 step 3: a member adopts the new term, whose primary is the standby, and reports its state. -/
def State.onCollect (s : State) (d c : Nat) (term : Word) : State :=
  let x := s.commOf d c
  if !x.hears term then s
  else
    let posted := ((s.dieOf d).colls.filter fun y => y.comm == c && !(x.known.any fun k => k.2 == y.tag)).map fun y => y.tag
    let r := x.readySent.map fun k => k.1
    (s.updComm d c fun x => { x with term := term, prim := x.stby, asked := 0 }).seqSend x.stby fun k =>
      .report k c (s.memberAddr d) term x.next x.known r x.goGot posted

/-- Numbers from `a` to `b`. -/
def numbersTo (a b : Word) : List Word := if precedes b a then [] else (List.range (min (b - a).toNat 512 + 1)).map fun k => a + BitVec.ofNat 32 k

/-- R442 step 4: the earliest NEXT that is reported. -/
def earliest (rs : List Report) (n : Word) : Word :=
  rs.foldl (fun m (r : Report) => if precedes r.next m then r.next else m) ((rs.head?.map fun r => r.next).getD n)

/-- R442 step 4: the latest number in any report. -/
def latest (rs : List Report) (base : Word) : Word :=
  (rs.flatMap fun r => (r.known.map fun k => k.1) ++ r.ready ++ r.gone ++ [r.next - 1]).foldl (fun m n => if precedes m n then n else m) (base - 1)

/-- R442 step 4: what is kept of number `n`: its assignment as the reports know it; a hole where none names it, and where a member
has passed it though nobody received its GO (log 7). -/
def merged (rs : List Report) (gone : List Word) (n : Word) : Word × Option Word × Bool :=
  let tag := ((rs.flatMap fun r => r.known).find? fun k => k.1 == n).map fun k => k.2
  (n, tag, tag.isNone || (!gone.contains n && rs.any fun r => precedes n r.next))

/-- R442 step 4: the reports are merged: known assignments stay, numbers that no report names become holes, GO is sent
again, and unnumbered pairs are numbered in order of arrival. -/
def State.merge (s : State) (d c : Nat) : State :=
  let x := s.commOf d c
  let rs := x.reports
  let base := earliest rs x.next
  let top := latest rs base
  let all := numbersTo base top
  let gone := ((rs.flatMap fun r => r.gone).filter all.contains).eraseDups
  let held := all.map (merged rs gone)
  let s1 := s.updComm d c fun x => { x with
    electAt := 0, reports := [], held := held, nextN := top + 1, waitAssign := [], goSent := gone
    readyFrom := (rs.flatMap fun r => (r.ready ++ r.gone).map fun n => (n, r.src)).eraseDups
    doneFrom := rs.flatMap fun r => (all.filter fun n => precedes n r.next).map fun n => (n, r.src) }
  let s2 := held.foldl (fun s h =>
    s.seqSendAll x.members fun k => match h.2.1, h.2.2 with
      | some t, false => .numbered k c x.term t h.1
      | t, _ => .hole k c x.term t h.1) s1
  let s3 := gone.foldl (fun s n => s.seqSendAll x.members fun k => .go k c x.term n) s2
  let s4 := (held.filter fun h => !h.2.2 && !gone.contains h.1).foldl (fun s h => s.goIfReady d c h.1) s3
  rs.foldl (fun s r => r.posted.foldl (fun s t => s.assign d c r.src t) s) s4

/-- R442 step 4: the standby takes a report; with the last one it becomes primary. -/
def State.onReport (s : State) (d c : Nat) (src : BitVec 12) (term next : Word) (known : List (Word × Word)) (sent gone posted : List Word) : State :=
  let x := s.commOf d c
  if !x.hears term || x.electAt = 0 || x.reports.any (fun r => r.src == src) then s
  else
    let s1 := s.updComm d c fun x => { x with
      reports := x.reports ++ [{ src := src, next := next, known := known, ready := sent, gone := gone, posted := posted }] }
    if x.members.all fun m => m == src || x.reports.any fun r => r.src == m then s1.merge d c else s1

/-! ## Messages from other modules (R430, R437) -/

def execAssignNum (d c : Nat) (src : BitVec 12) (term tag : Word) (s : State) : Out1 := .next (s.inMsg src fun s => s.onAssign d c src term tag)
def execNumbered (d c : Nat) (frm : BitVec 12 × Word) (tag n : Word) (s : State) : Out1 := .next (s.inMsg frm.1 fun s => s.onNumbered d c frm.2 tag n)
def execCancel (d c : Nat) (src : BitVec 12) (term tag : Word) (s : State) : Out1 := .next (s.inMsg src fun s => s.onCancel d c src term tag)
def execReply (d c : Nat) (frm : BitVec 12 × Word) (tag : Word) (status : Nat) (s : State) : Out1 :=
  .next (s.inMsg frm.1 fun s => s.onReply d c frm.2 tag status)
def execHole (d c : Nat) (frm : BitVec 12 × Word) (tag : Option Word) (n : Word) (s : State) : Out1 :=
  .next (s.inMsg frm.1 fun s => s.onHole d c frm.2 tag n)
def execReady (d c : Nat) (src : BitVec 12) (term n : Word) (s : State) : Out1 := .next (s.inMsg src fun s => s.onReady d c src term n)
def execGo (d c : Nat) (frm : BitVec 12 × Word) (n : Word) (s : State) : Out1 := .next (s.inMsg frm.1 fun s => s.onGo d c frm.2 n)
def execDone (d c : Nat) (src : BitVec 12) (term n : Word) (s : State) : Out1 := .next (s.inMsg src fun s => s.onDone d c src term n)
def execCollect (d c : Nat) (frm : BitVec 12 × Word) (s : State) : Out1 := .next (s.inMsg frm.1 fun s => s.onCollect d c frm.2)
def execReport (d c : Nat) (src : BitVec 12) (term next : Word) (known : List (Word × Word)) (sent gone posted : List Word) (s : State) : Out1 :=
  .next (s.inMsg src fun s => s.onReport d c src term next known sent gone posted)
def execFailoverRequest (d c : Nat) (frm : BitVec 12 × Word) (s : State) : Out1 := .next (s.inMsg frm.1 fun s => s.onFailover d c frm.2)

end Sys2Proof.Machine
end

