-- ==== Sys2Proof/Machine/Matrix.lean ====
section
/-! DEFINITION. Accumulator tiles and matrix passes: issue, the engine's grant, the checks of a handle, the pass itself
(R366 to R372, R397, R398, R461). -/

namespace Sys2Proof.Machine

/-! ## Issue (R366, R367, R369, R370, R371, R397) -/

/-- R371: the latch is full and its key matches. -/
def Latch.hit (q : Latch) (sl : BitVec 8) (a : BitVec 7) (f : BitVec 3) (c : BitVec 2) : Bool :=
  q.full && q.va == a && q.fmt == f && q.asc == c && sl &&& ~~~q.slices == 0

/-- R371: the A rows of an `mma` at issue: from the latch where its key matches, else from the registers. -/
def Group.aRows (g : Group) (sl : BitVec 8) (a : BitVec 7) (f : BitVec 3) (c : BitVec 2) : Sparse Word :=
  if g.latch.hit sl a f c then g.latch.data else g.regRows sl a f c

/-- R371: the latch after an `mma`. -/
def Group.relatch (g : Group) (sl : BitVec 8) (a : BitVec 7) (f : BitVec 3) (c : BitVec 2) (r : Bool) (rows : Sparse Word) : Group :=
  { g with latch := if r then { full := true, slices := sl, va := a, fmt := f, asc := c, data := rows } else {} }

/-- R370, R371: an `mma` reads A at issue and leaves the latch as its `.r` says. -/
def Group.captureA (g : Group) (x : RqEntry) : Instr → Group × RqEntry
  | .mma _ _ a _ f r _ _ c =>
    let rows := g.aRows x.slices a f c
    (g.relatch x.slices a f c (r == 1) rows, { x with rowsA := rows, latched := g.latch.hit x.slices a f c })
  | _ => (g, x)

/-- A path's tile instruction takes an entry and a reservation, or raises PROT. -/
def State.tilePush (s : State) (i : Instr) (sl : BitVec 8) (lanes : Word) (v : Word) : State :=
  let u := s.run.uid
  let k := s.run.grp
  if s.tileBad u i v then s.trapAt sl .prot
  else
    let w := (encode i).getD 0
    let g := s.curGroup
    let x0 : RqEntry := ({ insn := w, orig := w, ref := true, slices := sl, lanes := lanes, act := lanes, pc := (g.pathOf sl).pc, rm := g.fmode
                           cls := some .tl, op := g.nextOp } : RqEntry).setDesc v
    let x := (g.captureA x0 i).2
    (s.updCur fun g =>
      let g1 := (g.captureA x0 i).1.updCounters fun c => c.issue .tl g.nextOp
      ({ (g1.setQueue (g1.queue ++ [x])) with nextOp := g1.nextOp + 1 } : Group).stepPast sl).reserve u k x

/-- Issue of a tile instruction: `act` gives a path's lanes and `r` its descriptor register. A full counter or a full
reservation table holds it back; in a transaction it ends with cause UNSUP. -/
def State.tileIssue (s : State) (e : Bool) (i : Instr) (r : BitVec 6) (act : BitVec 8 → Word) : State :=
  s.unsup fun s =>
    let g := s.curGroup
    let n := ((g.issuers s.run.slices).filter fun sl => act sl != 0).length
    if n = 0 then s.retire e
    else if g.ctrFull .tl n || g.queueFull n || !s.tableRoom s.run.uid n then s
    else ((s.eachPath fun sl s =>
      if act sl = 0 then s.updCur fun g => g.stepPast sl
      else s.tilePush i sl (act sl) (g.sreg (lowSlice sl) r.toNat)).tally e).advanceAfter s [r.toNat]

/-- R369, R370, R372. -/
def execMma (e : Bool) (k : BitVec 3) (a : BitVec 7) (x : BitVec 6) (f : BitVec 3) (r l z : BitVec 1) (c : BitVec 2) (s : State) : Out1 :=
  .next (s.tileIssue e (.mma e k a x f r l z c) x fun sl => s.curGroup.act sl k.toNat)

/-- R367. -/
def execAccxRd (e : Bool) (k : BitVec 3) (a : BitVec 7) (x : BitVec 6) (w : BitVec 2) (s : State) : Out1 :=
  .next (s.tileIssue e (.accxRd e k a x w) x fun sl => s.curGroup.act sl k.toNat)

/-- R367. -/
def execAccxWr (e : Bool) (k : BitVec 3) (a : BitVec 7) (x : BitVec 6) (w : BitVec 2) (s : State) : Out1 :=
  .next (s.tileIssue e (.accxWr e k a x w) x fun sl => s.curGroup.act sl k.toNat)

/-- R367. -/
def execAccxRdz (e : Bool) (k : BitVec 3) (a : BitVec 7) (x : BitVec 6) (w : BitVec 2) (s : State) : Out1 :=
  .next (s.tileIssue e (.accxRdz e k a x w) x fun sl => s.curGroup.act sl k.toNat)

/-- R366. -/
def execAccAlloc (e : Bool) (d a : BitVec 6) (s : State) : Out1 :=
  .next (s.tileIssue e (.accAlloc e d a) a fun sl => s.curGroup.liveLanes sl)

/-- R366. -/
def execAccFree (e : Bool) (a : BitVec 6) (s : State) : Out1 :=
  .next (s.tileIssue e (.accFree e a) a fun sl => s.curGroup.liveLanes sl)

/-- R366. -/
def execAccZero (e : Bool) (a : BitVec 6) (s : State) : Out1 :=
  .next (s.tileIssue e (.accZero e a) a fun sl => s.curGroup.liveLanes sl)

/-! ## Tiles -/

def tileKey (tile row col : Nat) : Nat := tile * 16384 + row * 512 + col
def Engine.tileAt (e : Engine) (tile row col : Nat) : Word := Sparse.get 0 e.tiles (tileKey tile row col)
def Engine.setRow (e : Engine) (tile row col n : Nat) (f : Nat → Word) : Engine :=
  { e with tiles := Sparse.replace 0 e.tiles (tileKey tile row col) n f }

/-- R366: the tile that an `acc.alloc` takes. -/
def Engine.freeTile (e : Engine) (want : Nat) : Option Nat :=
  let free := fun k => Sparse.get 0 e.owner k == 0
  if want < 64 then (if free want then some want else none) else (List.range 64).find? free

/-- R366, R367: what a tile instruction other than `mma` does when it is performed. -/
def State.tilePerform (s : State) (u g eng : Nat) (x : RqEntry) (i : Instr) : State :=
  let v := x.desc.toNat
  let tile := v / 65536 % 256
  let col := v % 512
  let ls := laneList x.lanes
  let own := (s.teamOf u).tileOwner u
  let rd := fun (a : BitVec 7) (w : BitVec 2) =>
    s.updGroup u g fun y => (List.range (accxCols w)).foldl (fun y j => y.writeV x.lanes (a.toNat + j) fun l => (s.engineOf eng).tileAt tile l (col + j)) y
  match i with
  | .accxRd _ _ a _ w => rd a w
  | .accxRdz _ _ a _ w => (rd a w).updEngine eng fun e => ls.foldl (fun e l => e.setRow tile l col (accxCols w) fun _ => 0) e
  | .accxWr _ _ a _ w =>
    let y := s.groupOf u g
    s.updEngine eng fun e => ls.foldl (fun e l => e.setRow tile l col (accxCols w) fun j => y.vreg (a.toNat + j) l) e
  | .accAlloc _ d _ =>
    match (s.engineOf eng).freeTile v with
    | some k => (s.updEngine eng fun e => { e with owner := Sparse.insert e.owner k own }).updGroup u g fun y =>
        y.atOp x.op fun y => y.writeS x.slices d.toNat fun _ => BitVec.ofNat 32 k
    | none => s.updGroup u g fun y => y.atOp x.op fun y => y.writeS x.slices d.toNat fun _ => 0xFFFFFFFF
  | .accFree .. => s.updEngine eng fun e => { e with owner := Sparse.erase e.owner v }
  | .accZero .. => s.updEngine eng fun e => e.setRow v 0 0 16384 fun _ => 0
  | _ => s

/-! ## The pass (R371, R372) -/

/-- R369: the scale byte of block `b` of a lane. -/
def aScale (c : BitVec 2) (x : Word) (b : Nat) : Nat :=
  if c = 0 then 127 else if c = 1 then x.toNat / 256 ^ b % 256 else x.toNat % 256

/-- Element `k` of a lane's A row. -/
def aElem (rows : Sparse Word) (bits l k : Nat) : Nat :=
  elemOf bits (Sparse.get 0 rows (k * bits / 32 * 32 + l)) (k % (32 / bits))

/-- R369: whether a format's elements are integers. -/
def intFmt (f : Nat) : Bool := f == 3 || f == 4

/-- R359: weight (k, n) of a residency. -/
def Engine.weight (e : Engine) (x : Slot) (slot k n : Nat) : Nat :=
  let at_ := fun (j : Nat) => (Sparse.get 0 e.weights (j * 32768 + k * 512 + n)).toNat
  if wideElem x.elem then at_ slot + 256 * at_ (slot + 1) else at_ slot

/-- R372: one element of the result of a lane, and whether it was clamped. -/
def Engine.element (e : Engine) (x : Slot) (slot : Nat) (f : BitVec 3) (c : BitVec 2) (rows : Sparse Word) (prior : Word) (l n : Nat) : Word × Bool :=
  let ab := elemBits f.toNat
  if intFmt f.toNat then
    let sum := (List.range 64).foldl (fun (t : Int) k =>
      t + elemInt true ab (aElem rows ab l k) * elemInt true (elemBits x.elem) (e.weight x slot k n)) prior.toInt
    intClamp (-2 ^ 31) (2 ^ 31 - 1) sum
  else
    let sc := Sparse.get 0 rows (mmaRow f * 32 + l)
    let term := fun (k : Nat) =>
      Fp.mul (((elemFmt f.toNat).decode (aElem rows ab l k)).scale (aScale c sc (k / 32)))
        (((elemFmt x.elem).decode (e.weight x slot k n)).scale
          (if x.tid.sbsz = 1 then (Sparse.get 0 e.scales (slot * 1024 + k / 32 * 512 + n)).toNat else 127))
    (sumRule ((List.range 64).map term ++ [f32 prior]), false)

/-- R372: the rows of a pass are written, and its clamped lanes set SATF, but for flags cleared since its issue (R245). -/
def State.pass (s : State) (u g eng slot : Nat) (x : RqEntry) (f : BitVec 3) (z : Bool) (c : BitVec 2) : State :=
  let e := s.engineOf eng
  let y := e.slot slot
  let v := x.desc.toNat
  let tile := v / 65536 % 256
  let n := (v / 2 ^ 24 % 32 + 1) * 16
  let res := (laneList x.lanes).map fun l =>
    (l, (List.range n).map fun j => e.element y slot f c x.rowsA (if z then 0 else e.tileAt tile l j) l j)
  let sat := wordOfBits fun l => res.any fun p => p.1 == l && p.2.any fun q => q.2
  ((s.count (s.teamOf u).part 0x30 1).updEngine eng fun e => res.foldl (fun e p => e.setRow tile p.1 0 n fun j => (p.2.getD j (0, false)).1) e).updGroup u g fun q =>
    q.setSat (sat &&& ~~~x.satOff)

/-! ## The grant (R368, R370, R398) -/

/-- The entry of a reservation, at either level of its group. -/
def State.entryOf (s : State) (r : Resv) : Option RqEntry :=
  (s.groupOf r.uid r.grp).entries.find? fun x => x.op == r.op && x.tileOp.isSome && !x.pipe

/-- The slot that an `mma` entry waits for. -/
def State.waitsSlot (s : State) (eng : Nat) (r : Resv) (x : RqEntry) : Bool :=
  match x.instr with
  | some (.mma ..) =>
    let h := x.desc.toNat % 65536
    (s.engineOf eng).valid (s.teamOf r.uid).vf h && (s.slotOf eng (h / 256)).state == .loading
  | _ => false

/-- R366, R368, R398: whether a reservation may be granted, behind `before`. Those of a team whose save has begun are withdrawn
(R399, R418). -/
def State.eligible (s : State) (eng : Nat) (before : List Resv) (r : Resv) : Bool :=
  match s.entryOf r with
  | none => false
  | some x =>
    let whole := match x.instr with | some (.accFree ..) => true | some (.accZero ..) => true | _ => false
    !(s.teamOf r.uid).saving && !s.waitsSlot eng r x && !(before.any fun b => b.tile == r.tile && decide (r.tile < 64) && (whole || (b.uid == r.uid && b.grp == r.grp)))

/-- R398: the class of a reservation: of one older than 8 µs, class 3. -/
def Resv.cls (r : Resv) (now : Nat) : Nat := if 8 * Config.cyclesPerUs < now - r.time then 3 else r.prio

/-- The reservations with those before each. -/
def withBefore : List Resv → List Resv → List (List Resv × Resv)
  | _, [] => []
  | b, r :: rest => (b, r) :: withBefore (b ++ [r]) rest

/-- R398: the reservation that a free engine grants: the highest class, then the oldest; while a granted pass waits for
its reload, only that one. -/
def State.nextGrant (s : State) (eng : Nat) : Option Resv :=
  let e := s.engineOf eng
  let now := s.clock.toNat
  match e.resv.find? fun r => r.granted with
  | some r => match s.entryOf r with
    | some x => if s.waitsSlot eng r x then none else some r
    | none => none
  | none =>
    let pinned := e.slots.any fun x => x.2.pin && x.2.state == .loading && !x.2.counted
    if e.out || e.scrubBy != 0 || pinned then none
    else
      let ok := ((withBefore [] e.resv).filter fun p => s.eligible eng p.1 p.2).map fun p => p.2
      ok.foldl (fun best r => match best with
        | none => some r
        | some b => if b.cls now < r.cls now then some r else some b) none

def State.dropResv (s : State) (eng : Nat) (r : Resv) : State := s.updEngine eng fun e => { e with resv := e.resv.erase r }

/-- What R370's table says of a slot at the grant of an `mma`. -/
inductive HandleCheck where
  | sres (reason : Nat)
  | reload
  | pass
deriving DecidableEq, Repr

/-- R370. -/
def handleCheck (e : Engine) (vdev h : Nat) (l granted : Bool) (f : BitVec 3) (n : Nat) : HandleCheck :=
  if !e.valid vdev h then .sres 1
  else
    let x := e.slot (h / 256)
    let last := if intFmt f.toNat != intFmt x.elem then HandleCheck.sres 5 else if x.n < n then .sres 6 else .pass
    if x.state = .failed then (if l && !granted then .reload else .sres 4)
    else if granted then last
    else if x.stale then (if l then .reload else .sres 3)
    else if x.state = .evicted then .reload
    else last

/-- R459: the checker of a 64-column block of an engine, in `misfire` and in the engine's record of mismatches. -/
def engineUnit (eng blk : Nat) : Nat := 6144 + eng * 8 + blk

/-- R459, R468: whether a check of an engine's pass of `n` columns fails now, and that of which 64-column block. -/
def State.checkEngine (s : State) (u eng n : Nat) : State × Option Nat :=
  match (List.range ((n + 63) / 64)).find? fun b => s.misfire.contains (engineUnit eng b) with
  | some b => ({ s with misfire := s.misfire.erase (engineUnit eng b) }, some b)
  | none =>
    if (s.partOf (s.teamOf u).part).test then
      let r := s.injDraw (eng / 16) 0
      (r.1, if r.2 then some 0 else none)
    else (s, none)

/-- R460, R461: a mismatch of a block's checker would be a repeat. -/
def State.engineRepeat (s : State) (eng blk : Nat) : Bool :=
  let last := Sparse.get 0 (s.engineOf eng).lastMis blk
  last != 0 && decide (s.clock.toNat + 1 - last < 2 ^ (s.pipecfg.toNat % 32))

/-- R461, R463: a mismatch of an engine's pass is counted and recorded. -/
def State.engineMismatch (s : State) (u eng blk : Nat) : State :=
  let now := s.clock.toNat
  let s1 := (s.count (s.teamOf u).part 0x40 1).updEngine eng fun e => { e with lastMis := Sparse.set 0 e.lastMis blk (now + 1) }
  let s2 := (List.range 4).foldl (fun s k => s.updCore (eng * 4 + k) fun c => { c with mism := min (c.mism + 1) 0xFFFF }) s1
  { (s2.postFault { elem := BitVec.ofNat 32 (eng / 16 * 2 ^ 30 + eng % 16 * 4 * 2 ^ 24 + Config.engineUnit s2.draw % 32), kind := 9
                    count := if s.engineRepeat eng blk then 2 else 1 }) with draw := s2.draw + 1 }

/-- R461: a repeat takes the engine out of service. -/
def State.engineOut (s : State) (eng : Nat) : State :=
  let s1 := s.updEngine eng fun e => { e with out := true, resv := [] }
  let us := (s1.teams.filter fun t => t.2.core / 4 == eng && t.2.place == .resident).map fun t => t.1
  ((us.flatMap s1.clusterOf).eraseDups.foldl (fun s u => s.psaveTeam u) s1).toShadows eng

/-- R372, R461: a granted pass of `n` columns is performed and checked. A mismatch reruns it from the same rows, and the rerun
is checked in its turn; a repeat leaves the rows, and the pass stands in its entry with PIPE. Where the checker of another block
fails in a rerun, which is no repeat, it is rerun again. -/
def State.runPass (s : State) (r : Resv) (eng n : Nat) (x : RqEntry) (f : State → State) : Nat → State
  | 0 => (f s).endTile r.uid r.grp x
  | fuel + 1 =>
    match s.checkEngine r.uid eng n with
    | (s0, none) => (f s0).endTile r.uid r.grp x
    | (s0, some blk) =>
      let s1 := s0.engineMismatch r.uid eng blk
      if s0.engineRepeat eng blk then (s1.setEntry r.uid r.grp { x with pipe := true }).engineOut eng
      else State.runPass s1 r eng n x f fuel

/-- R370, R398: the engine, free, grants one reservation. -/
def execEngineGrant (eng : Nat) (s : State) : Out1 :=
  match s.nextGrant eng with
  | none => .next s
  | some r =>
    match s.entryOf r with
    | none => .next s
    | some x =>
      let s1 := s.dropResv eng r
      match x.instr with
      | some (.mma _ _ _ _ f _ l z c) =>
        let h := x.desc.toNat % 65536
        let n := (x.desc.toNat / 2 ^ 24 % 32 + 1) * 16
        match handleCheck (s.engineOf eng) (s.teamOf r.uid).vf h (l == 1) r.granted f n with
        | .sres reason => .next (s1.tileTrap r.uid r.grp x .sres (BitVec.ofNat 64 (reason * 65536 + h)))
        | .reload => .next ((s.updEngine eng fun e => { e with resv := e.resv.map fun q => if q = r then { q with granted := true } else q }).reload eng (h / 256))
        | .pass => .next (s1.runPass r eng n x (fun s => s.pass r.uid r.grp eng (h / 256) x f (z == 1) c) 9)
      | some ins => .next ((s1.tilePerform r.uid r.grp eng x ins).endTile r.uid r.grp x)
      | none => .next s1

end Sys2Proof.Machine
end

