-- ==== Sys2Proof/Machine/Replay.lean ====
section
/-! DEFINITION. Walks of the engines, the host's ATS, the answers to held accesses, the registers of the trap queue, and
the completion of accesses (R36, R37, R40, R43 to R52, R208, R411, R488). -/

namespace Sys2Proof.Machine

/-! ## Held accesses and their release (R50, R52) -/

/-- `f` acts on every group of every team. -/
def State.mapGroups (s : State) (f : Nat → Team → Nat → Group → Group) : State :=
  { s with teams := s.teams.map fun t => (t.1, { t.2 with groups := t.2.groups.map fun g => (g.1, f t.1 t.2 g.1 g.2) }) }

/-- R50: an entry released for another translation. -/
def RqEntry.retry (x : RqEntry) (tag : Nat) : RqEntry :=
  if x.held ∧ x.tag = tag then
    { x with held := false, tag := 0, lane := x.lane.map fun r => if r.2.code = 6 then (r.1, { r.2 with code := 0, kind := 0, acc := 0 }) else r }
  else x

/-- R50: an entry whose lanes take PROT. -/
def RqEntry.fail (x : RqEntry) (tag : Nat) : RqEntry :=
  if x.held ∧ x.tag = tag then
    { x with held := false, tag := 0, lane := x.lane.map fun r => if r.2.code = 6 then (r.1, { r.2 with code := 7, failed := true }) else r }
  else x

/-- Groups of resident teams of a partition, with their queues tried again. -/
def State.pumpPart (s : State) (part : Nat) : State :=
  (s.teams.filter fun t => t.2.part == part && t.2.place == .resident).foldl (fun s t =>
    (t.2.groups.filter fun g => !(g.2.queue.isEmpty)).foldl (fun s g => s.pump t.1 g.1) s) s

/-- Copies and fills stalled under a tag: `f` says what becomes of a copy, `g` of a slot. -/
def State.onStalled (s : State) (part tag : Nat) (f : CopyState) (g : State → Nat → Nat → State) : State :=
  let s1 : State := { s with teams := s.teams.map fun t =>
    if t.2.part = part then (t.1, { t.2 with ring := t.2.ring.map fun r => if r.2.state = .issued tag then (r.1, { r.2 with state := f }) else r }) else t }
  let slots := s1.engines.flatMap fun e => (e.2.slots.filter fun x => x.2.state == .loading && x.2.stall == tag && x.2.part == part && !x.2.upper).map fun x => (e.1, x.1)
  slots.foldl (fun s x => g s x.1 x.2) s1

/-- A tag's records are answered. -/
def State.dropTag (s : State) (part tag : Nat) : State :=
  s.updPart part fun p => { p with
    tqPosted := p.tqPosted.filter fun r => r.tag != tag, tqStalled := p.tqStalled.filter fun r => r.tag != tag
    tqWait := p.tqWait.filter fun r => r.fatal || r.tag != tag }

/-- R50: what is held under a tag is released, to be tried again. -/
def State.retryTag (s : State) (part tag : Nat) : State :=
  let s1 := (s.dropTag part tag).mapGroups fun _ t _ g =>
    if t.part = part then
      { g with rq := g.rq.map fun x => x.retry tag
               paths := g.paths.map fun p => if p.stop = .fetch tag then { p with stop := .ready } else p
               frame := if g.frame.stop = .fetch tag then { g.frame with stop := .ready } else g.frame }
    else g
  s1.onStalled part tag (.issued 0) fun s e k => s.setSlots e k fun x => { x with stall := 0 }

/-- R50, R351, R361: what is held under a tag fails; `va` is its record's address. -/
def State.failTag (s : State) (part tag : Nat) (va : DWord) : State :=
  let s1 := (s.dropTag part tag).mapGroups fun _ t _ g =>
    if t.part = part then
      { g with rq := g.rq.map fun x => x.fail tag
               paths := g.paths.map fun p => if p.stop = .fetch tag then { p with stop := .fetchFail va } else p
               frame := if g.frame.stop = .fetch tag then { g.frame with stop := .fetchFail va } else g.frame }
    else g
  s1.onStalled part tag (.moved true) fun s e k => s.fillFail e k

/-- R50: the tags all of whose records have been posted with SEQ up to `n`, each with its first record's address. -/
def Part.answered (p : Part) (n : Nat) : List (Nat × DWord) :=
  ((p.tqPosted.map fun r => r.tag).eraseDups.filter fun t =>
    (p.tqPosted.all fun r => r.tag != t || decide (r.seq ≤ n)) && !((p.tqStalled ++ p.tqWait).any fun r => !r.fatal && r.tag == t)).map fun t =>
      (t, ((p.tqPosted.find? fun r => r.tag == t).map fun r => r.va).getD 0)

/-- R50: RETRY up to sequence number `n`. -/
def State.replayRetry (s : State) (part n : Nat) : State :=
  (((s.partOf part).answered n).foldl (fun s t => s.retryTag part t.1) s).pumpPart part

/-- R50: FAIL up to sequence number `n`. -/
def State.replayFail (s : State) (part n : Nat) : State :=
  (((s.partOf part).answered n).foldl (fun s t => s.failTag part t.1 t.2) s).pumpPart part

/-! ## The trap queue's registers (R45 to R48) -/

/-- R47: every stalled producer fails, and records that wait for their slot meet EN = 0. -/
def State.failStalled (s : State) (part : Nat) : State :=
  let p := s.partOf part
  let s1 := (p.tqStalled ++ p.tqWait).foldl (fun s r => if r.fatal then s.updPart part Part.loseFatal else s.failTag part r.tag r.va) s
  (s1.updPart part fun p => { p with tqStalled := [], tqWait := [] }).pumpPart part

/-- R46: a TQHEAD write is taken between TQHEAD and TQTAIL. -/
def execTqheadWrite (part : Nat) (v : Word) (s : State) : Out1 :=
  .next (s.updPart part fun p =>
    if (v - p.tqHead).toNat ≤ (p.tqTail - p.tqHead).toNat then { p with tqHead := v } else { p with tqBadHead := true })

/-- R45, R47: TQCTL: EN in bit 0, LOG2SIZE in bits 5..1, its reserved values ignored. -/
def execTqctlWrite (part : Nat) (v : Word) (s : State) : Out1 :=
  let n := v.toNat / 2 % 32
  let s1 := s.updPart part fun p => { p with tqEn := v.getLsbD 0, tqLog2 := if 6 ≤ n ∧ n ≤ 16 then n else p.tqLog2 }
  .next (if v.getLsbD 0 then s1 else s1.failStalled part)

/-- A record whose slot cannot be written: a replayable one fails, a fatal one is lost (R47). -/
def State.recordFails (s : State) (part : Nat) (r : TrapRec) : State :=
  if r.fatal then s.updPart part Part.loseFatal else (s.failTag part r.tag r.va).pumpPart part

/-- R47: the oldest record that waits for its slot is written, or, with none, the oldest stalled record is posted once the
free count exceeds 2; a slot that faults makes it fail. The oldest trace record that waits is written too. -/
def execStalledRecordPost (part : Nat) (s0 : State) : Out1 :=
  let s := s0.flushTrace part
  let p := s.partOf part
  let try_ := fun (r : TrapRec) (drop : Part → Part) => match s.writeRecord r with
    | (s1, .posted) => s1.updPart part drop
    | (s1, .failed) => (s1.updPart part drop).recordFails part r
    | (s1, .stalled) => s1
  .next (match p.tqWait, p.tqStalled with
  | r :: rest, _ => try_ r fun p => { p with tqWait := rest }
  | [], r :: rest => if p.tqFree ≤ 2 then s else try_ r fun p => { p with tqStalled := rest }
  | [], [] => s)

/-! ## Walks (R37, R485) -/

/-- R37: a walk's fault reaches every lane that waits for the walk, as a fault of its own kind of access (R49). -/
def RqEntry.walkFault (x : RqEntry) (id : Nat) (f : Flt) : RqEntry :=
  match x.memOp with
  | some op =>
    let f' := { f with acc := if f.acc = 4 ∨ f.acc = 5 then f.acc else op.acc.code }
    { x with lane := x.lane.map fun r => if r.2.walk = id then (r.1, r.2.withFault f' r.2.fva.toNat) else r }
  | none => x

/-- R37: the walk to which an engine of a die comes next: round-robin among the partitions with a queued walk that may have
an engine, in arrival order within one; with none, a walk that has waited on its engine for a held line. -/
def State.nextWalk (s : State) (die : Nat) : Option Walk :=
  let d := s.dieOf die
  let turn := fun (w : Walk) => (w.part + 32 - d.walkRR) % 32
  (leastBy turn (d.walks.filter fun w => w.state == .queued && s.engineFree die w.part)).orElse fun _ =>
    d.walks.find? fun w => w.state == .engine

/-- R37: a walk keeps its engine and waits; it goes behind the others. -/
def State.walkWaits (s : State) (die : Nat) (w : Walk) (x : WalkState) : State :=
  s.updDie die fun d => { d with walks := (d.walks.filter fun v => v.id != w.id) ++ [{ w with state := x }] }

/-- R37: a walk of a die is granted an engine and walks the tables; its translation fills the TLBs, or its fault reaches the
lanes and the agents that it serves. -/
def execWalkEngineGrant (die : Nat) (s : State) : Out1 :=
  match s.nextWalk die with
  | none => .next s
  | some w =>
    let s0 := s.updDie die fun d => { d with walkRR := w.part + 1 }
    let fin := fun (s : State) => s.updDie die fun d => { d with walks := d.walks.filter fun v => v.id != w.id }
    match s0.walk die w.part w.asid w.vf w.va w.acc .access with
    | (s1, .ok t) => .next (match w.core with | some c => (fin s1).tlbFill c t | none => (fin s1).tlbFillDie die t)
    | (s1, .held) => .next (s1.walkWaits die w .engine)
    | (s1, .ats) => .next (s1.walkWaits die w .ats)
    | (s1, .fault f) =>
      let fails := w.agents.map fun a =>
        ({ who := a, part := w.part, asid := w.asid, page := w.va / 65536, code := f.code, kind := f.kind, acc := f.acc, ppa := f.ppa } : XlFail)
      .next (((fin s1).updDie die fun d => { d with xlFails := d.xlFails ++ fails }).mapGroups fun _ t _ g =>
        if t.core / 64 = die then
          g.onEntries fun x => x.walkFault w.id f
        else g)

/-! ## ATS and page requests (R40) -/

/-- R380: the partition of a function; none for the physical function and for a function of no partition. -/
def State.partOfFn (s : State) (fn : Nat) : Option Nat :=
  (s.parts.find? fun p => p.2.valid && decide (fn < 96) && p.2.vfmask.getLsbD fn).map fun p => p.1

/-- Walks that wait for the host are taken up again, and nodes whose arguments it holds start. -/
def State.atsRelease (s : State) : State :=
  let s1 : State := { s with dies := s.dies.map fun d => (d.1, { d.2 with
    walks := d.2.walks.map fun w => if w.state = .ats then { w with state := .engine } else w }) }
  s1.launches.foldl (fun s l => (s.startNodes l.1).launchCheck l.1) s1

/-- R40: the size at which a completion is held: the largest power of two, from 4 KiB to 1 GiB, that does not exceed the range
of 2^`n` bytes granted and to which the range is aligned, before and after translation. -/
def atsLog2 (n io hpa : Nat) : Nat :=
  ((List.range 31).reverse.find? fun k => decide (12 ≤ k) && decide (k ≤ n) && io % 2 ^ k == 0 && hpa % 2 ^ k == 0).getD 12

/-- R40: the entry that an answer of the host's ATS makes in an L2 TLB; a denied one permits neither read nor write. -/
def State.atsEntry (s : State) (fn asid ioPage log2 hpa : Nat) (r w : Bool) : Tlb :=
  let n := atsLog2 log2 (ioPage * 4096) hpa
  { part := (s.partOfFn fn).getD 32, asid := asid, va := ioPage * 4096 / 2 ^ n, log2 := n, dpa := 2 ^ 50 + hpa % 2 ^ 50 / 2 ^ n * 2 ^ n
    r1 := true, w1 := true, x1 := true, r2 := r, w2 := w, x2 := r, d := true, ats := true, vf := fn, io := ioPage * 4096 }

/-- R40: a Translation Completion. It grants the 2^`log2` bytes from a host address on with the permissions `r` and `w`, neither
being a denial, and enters the L2 TLB of each die that asked; or it names no address: the page is not present, and a page
request is issued, of which a function has up to 256. With 256 outstanding, none is issued and the walk asks again (log 71). -/
def execAtsTranslationCompletion (fn asid ioPage log2 : Nat) (grant : Option Nat) (r w : Bool) (s : State) : Out1 :=
  let asked := (s.vdevOf fn).atsAsked.filter fun x => x.2 == (asid, ioPage)
  let s0 := s.updVdev fn fun v => { v with atsAsked := v.atsAsked.filter fun x => x.2 != (asid, ioPage) }
  match grant with
  | some hpa => .next (asked.foldl (fun s x => s.tlbFillDie x.1 (s.atsEntry fn asid ioPage log2 hpa r w)) s0).atsRelease
  | none =>
    if 256 ≤ (s0.vdevOf fn).pri.length then .next s0.atsRelease
    else
      let s1 := s0.updVdev fn fun v => { v with
        atsNo := if v.atsNo.contains (asid, ioPage) then v.atsNo else v.atsNo ++ [(asid, ioPage)]
        pri := if v.pri.contains ioPage then v.pri else v.pri ++ [ioPage] }
      .next ({ s1 with out := s1.out ++ [Out.pageReq fn ioPage] }.atsRelease)

/-- Ranges of `n` and `len` bytes that meet. -/
def rangeMeets (a n base len : Nat) : Bool := decide (a < base + len) && decide (base < a + n)

/-- The partition for which an outbound request has been made. -/
def State.askPart (s : State) (a : Asker) : Option Nat :=
  match a with
  | .lane u .. => some (s.teamOf u).part
  | .engine u _ => some (s.teamOf u).part
  | .fetch u _ => some (s.teamOf u).part
  | .fill e k => some (s.slotOf e k).part
  | .walk _ p _ => some p
  | .ring p => some p
  | .front fn => s.partOfFn fn
  | .port fn => s.partOfFn fn
  | .part d c _ _ => some (Sparse.get {} (s.dieOf d).comms c).part
  | _ => none

/-- R75, R213: a line is held that a core of the partition, or any core for the partition's parcels, would write back. -/
def State.partStuck (s : State) (part : Nat) : Bool :=
  s.cores.any fun c => c.2.l1.any fun x => x.2.dirty != 0 && s.blocked x.2.line noTeam 0
    && ((s.partOf part).has (c.1 / 4) || s.ownerOf (parcelOf (x.2.line * 128)) == part)

/-- R38: an access of the partition that has been translated is still on its way. -/
def State.inFlight (s : State) (part : Nat) : Bool :=
  s.peers.any (fun p => p.2.out.any fun o => s.askPart o.ask.who == some part)
    || s.teams.any (fun t => t.2.part == part && t.2.groups.any fun g => g.2.tx.writes.any fun w => match w.key with | .mem _ => true | _ => false)
    || s.partStuck part

/-- R38, R40: Invalidate Requests of a function are completed once no access of its partition is on its way. -/
def State.atsInvTry (s : State) (fn : Nat) : State :=
  if s.parts.any fun p => p.2.vfmask.getLsbD fn && s.inFlight p.1 then s
  else
    let s1 := s.updVdev fn fun v => { v with atsInv := [] }
    { s1 with out := s1.out ++ (s.vdevOf fn).atsInv.map fun x => Out.atsInvDone fn x.1 x.2 }

/-- R38, R40: translations to host addresses in the range are dropped from every TLB and walk cache, held lanes translate
again, and the request is completed under R38. -/
def execAtsInvalidateRequest (fn base len : Nat) (s : State) : Out1 :=
  let hit := fun (t : Tlb) => t.dpa / 2 ^ 50 % 4 == 1 && !t.st2 && rangeMeets t.io (2 ^ t.log2) base len
  let s1 : State := { (s.updVdev fn fun v => { v with atsInv := v.atsInv ++ [(base, len)] }) with
    dies := s.dies.map fun d => (d.1, { d.2 with
      l2tlb := d.2.l2tlb.filter fun t => !hit t, wcache := d.2.wcache.filter fun x => !(s.partOf x.part).vfmask.getLsbD fn })
    cores := s.cores.map fun c => (c.1, { c.2 with tlb := c.2.tlb.filter fun t => !hit t }) }
  .next (s1.atsInvTry fn)

/-- R40: the record tells of a page that the host was asked for. -/
def TrapRec.ofPage (r : TrapRec) (fn page : Nat) : Bool := !r.fatal && r.kind == 2 && r.vf == fn && r.io == page

/-- R40: one of the records of a tag is answered by the host's page response: with the last of the tag, what is held under it
is tried again; or it fails. -/
def State.pageAnswer (s : State) (part fn page tag : Nat) (va : DWord) (ok : Bool) : State :=
  if !ok then s.failTag part tag va
  else
    let s1 := s.updPart part fun p =>
      let keep := fun (r : TrapRec) => !(r.tag == tag && r.ofPage fn page)
      { p with tqPosted := p.tqPosted.filter keep, tqStalled := p.tqStalled.filter keep, tqWait := p.tqWait.filter keep }
    let p := s1.partOf part
    if (p.tqPosted ++ p.tqStalled ++ p.tqWait).any fun r => !r.fatal && r.tag == tag then s1 else s1.retryTag part tag

/-- R40: the host's page response: what was held for the page (entries, fetches, copies, fills) is tried again, or fails. -/
def execPageResponse (fn ioPage : Nat) (ok : Bool) (s : State) : Out1 :=
  let s1 := s.updVdev fn fun v => { v with pri := v.pri.filter fun p => p != ioPage }
  let hit := (s1.parts.flatMap fun p => ((p.2.tqPosted ++ p.2.tqStalled ++ p.2.tqWait).filter fun r => r.ofPage fn ioPage).map fun r => (p.1, r.tag, r.va))
  let s2 := hit.foldl (fun s x => s.pageAnswer x.1 fn ioPage x.2.1 x.2.2 ok) s1
  .next ((hit.map fun p => p.1).eraseDups.foldl (fun s p => s.pumpPart p) s2)

/-! ## Completion of accesses (R169, R208) -/

/-- R208, R406: the counters that a path's `wait` tests: the handler's for the paths of the handler. -/
def Group.countersOf (g : Group) (p : Path) : Counters :=
  if g.atTrap && p.slices &&& g.frame.slices != 0 then g.tctr else g.ctr

/-- R206, R208: paths whose counters have fallen far enough go on; a couple joins when nothing holds it back any more. -/
def Group.resume (g : Group) : Group :=
  let g1 : Group := { g with paths := g.paths.map fun p =>
      match p.stop with
      | .wait l s c t => if (g.countersOf p).meets l s c t then { p with stop := .ready } else p
      | _ => p }
  if g.atTrap then g1 else g1.joinCouple

/-- R169, R287: what has returned for a group's accesses takes its effect: its lanes go on as far as they can. With the last
operation of its exited groups a team ends. -/
def execMemoryAccessCompletion (uid grp : Nat) (s : State) : Out1 :=
  let s1 := (s.pump uid grp).updGroup uid grp Group.resume
  .next (if (s1.groupOf uid grp).finished then s1.settle uid else s1)

end Sys2Proof.Machine
end

