-- ==== Sys2Proof/Machine/World.lean ====
section
/-! DEFINITION. Teams on cores: the scrub, admission, the world switch, save and restore, sealed images, and the border
controller (R126 to R129, R152 to R155, R193 to R199, R389, R391, R395, R396, R415 to R424, R456, R487, R489). -/

namespace Sys2Proof.Machine

/-! ## Sealed images (R421 to R423) -/

/-- R421: the authenticated bytes of an image's header as one number. -/
def Seal.header (x : Seal) (t : Team) : Nat :=
  0x5A370001 + x.part * 2 ^ 32 + x.vf * 2 ^ 40 + x.len * 2 ^ 64
    + (t.core / 64 * 2 ^ 30 + t.core % 64 * 2 ^ 24 + t.slot * 2 ^ 21 + bit t.cl 20) * 2 ^ 96 + x.nonce.toNat * 2 ^ 128

/-- The tag of an image under the key of its partition. -/
def State.imageTag (s : State) (u : Nat) (x : Seal) : Option (BitVec 128) :=
  (s.partOf x.part).key.map fun k => Config.gcmTag (Config.sealKey k) x.nonce (x.header (s.teamOf u)) u

/-- R421, R422: a saved team's image is sealed and leaves the die; with the counter used up the team is aborted instead. -/
def State.sealImage (s : State) (u : Nat) : State :=
  let t := s.teamOf u
  let die := t.core / 64
  let n := Sparse.get 0 (s.partOf t.part).nonce die
  if !t.away || t.image.sealed.isSome then s
  else if 2 ^ 64 ≤ n then s.abortTeam u
  else
    let nonce : BitVec 96 := BitVec.ofNat 96 (n * 2 ^ 32 + die * 2 ^ 30)
    let x : Seal := { nonce := nonce, tag := 0, part := t.part, vf := t.vf, len := t.spSize * 256 + 1024 }
    let s1 := s.updPart t.part fun p => { p with nonce := Sparse.set 0 p.nonce die (n + 1), latest := Sparse.set 0 p.latest u nonce }
    let tag := (s1.imageTag u x).getD 0
    s1.updTeam u fun t => { t with image := { t.image with sealed := some { x with tag := tag } } }

/-- R423: a sealed image is accepted: its tag, its partition and function, and its nonce the latest of the team. -/
def State.sealOk (s : State) (u : Nat) : Bool :=
  let t := s.teamOf u
  match t.image.sealed with
  | none => true
  | some x => x.part == t.part && x.vf == t.vf && Sparse.get 0 (s.partOf t.part).latest u == x.nonce && s.imageTag u x == some x.tag

/-! ## The scrub (R152 to R154) -/

/-- The tiles of a saved team, or of the saved cluster launch that it heads, go into its image. -/
def State.tilesOut (s : State) (u : Nat) : State :=
  let t := s.teamOf u
  let e := s.engineOf (t.core / 4)
  let nos := (e.owner.filter fun o => o.2 == t.tileOwner u).map fun o => o.1
  if nos.isEmpty || (t.cl && t.clHead != u) then s
  else
    let held := e.tiles.filter fun x => nos.contains (x.1 / 16384)
    (s.updEngine (t.core / 4) fun e => { e with
      owner := e.owner.filter fun o => o.2 != t.tileOwner u, tiles := e.tiles.filter fun x => !nos.contains (x.1 / 16384) }).updTeam u fun t =>
        { t with image := { t.image with tiles := held, tileNos := nos } }

/-- R152, R363: an engine changes hands: records to the residency shadows, weights and tiles zeroed, the incoming
device's records back. -/
def State.scrubEngine (s : State) (eng vdev : Nat) : State :=
  let mine := s.teams.filter fun t => t.2.away && t.2.core / 4 == eng
  let s1 := (mine.foldl (fun s t => s.tilesOut t.1) s).toShadows eng
  (s1.updEngine eng fun e => { e with weights := [], scales := [], tiles := [], owner := [], vdev := vdev }).fromShadows eng vdev

/-- R152: a core's part of the scrub: contexts of others leave its shadow store, L1 is written back and emptied, scratchpad
and tables are zeroed. -/
def State.scrubCore (s : State) (core vdev : Nat) : State :=
  let out := s.teams.filter fun t => t.2.away && t.2.core == core && t.2.vf != vdev
  ((out.foldl (fun s t => s.sealImage t.1) s).l1Invalidate core fun _ => true).updCore core fun c => { c with
    sp := [], bufs := [], tids := [], locks := [] }

/-- R152, R153: the scrub of a core assigned to a virtual device begins, for the core and for its engine, each where another
device ran on it last. -/
def State.scrubStart (s : State) (core vdev : Nat) : State :=
  let c := s.coreOf core
  let mine := !(c.scrubDone && c.scrubVdev == vdev)
  let eng := (s.engineOf (core / 4)).vdev != vdev
  if !mine && !eng then s
  else
    let s1 := (if mine then s.scrubCore core vdev else s).updCore core fun c => { c with
      scrubDone := false, scrubbing := true, scrubFor := vdev }
    if eng then (s1.scrubEngine (core / 4) vdev).updEngine (core / 4) fun e => { e with scrubBy := core + 1 } else s1

/-- R153: the scrub of a core finishes, and that of the engine with it. -/
def State.scrubEnd (s : State) (core : Nat) : State :=
  if (s.coreOf core).scrubbing then
    (s.updCore core fun c => { c with scrubbing := false, scrubDone := true, scrubVdev := c.scrubFor }).updEngine (core / 4) fun e =>
      { e with scrubBy := if e.scrubBy = core + 1 then 0 else e.scrubBy }
  else s

/-- R154: a write of the scrub did not verify: the core stays held, and a record goes to firmware (log 48). -/
def State.scrubFailed (s : State) (core : Nat) : State :=
  if (s.coreOf core).scrubbing then
    let s1 := s.updCore core fun c => { c with scrubbing := false, scrubFail := true }
    { (s1.postFault { elem := BitVec.ofNat 32 (core / 64 * 2 ^ 30 + core % 64 * 2 ^ 24), kind := Config.scrubFailKind s1.draw }) with
      draw := s1.draw + 1 }
  else s

def execScrubComplete (core : Nat) (s : State) : Out1 := .next (s.scrubEnd core)

/-! ## Room (R18, R126, R127, R137, R195, R489) -/

/-- What a team receives on a core. -/
structure Room where
  slot : Nat
  base : Nat
  buf  : Nat
  tid  : Nat
  quarters : List Nat
deriving DecidableEq, Repr

/-- R128: teams whose allocation on a core stands: on it, or ended while a team of their cluster launch is not. -/
def State.occupants (s : State) (core : Nat) : List Team :=
  (s.teams.filter fun t => t.2.core == core && (t.2.onCore
    || (t.2.cl && (t.2.place == .done || t.2.place == .aborted) && (s.clusterOf t.1).any fun u => (s.teamOf u).onCore))).map fun t => t.2

/-- The lowest place for `n` units below `cap` beside the ranges in use. -/
def firstGap (cap n : Nat) (used : List (Nat × Nat)) : Option Nat :=
  let ok := fun b => decide (b + n ≤ cap) && used.all fun r => decide (b + n ≤ r.1) || decide (r.1 + r.2 ≤ b)
  ((0 :: used.map fun r => r.1 + r.2).filter ok).foldl (fun m b => match m with | some x => some (min x b) | none => some b) none

/-- R195, R460: groups of `bs` blocks are placed in turn on the quarter, not quarantined, with the fewest groups. -/
def placeGroups (quar : BitVec 4) : List Nat → List (Nat × Nat) → Option (List Nat)
  | [], _ => some []
  | b :: bs, load =>
    let fits := [0, 1, 2, 3].filter fun q => !quar.getLsbD q && decide ((load.getD q (0, 0)).1 < 16) && decide ((load.getD q (0, 0)).2 + b ≤ 128)
    let best := fits.foldl (fun (m : Option Nat) q => match m with
      | some x => if (load.getD q (0, 0)).1 < (load.getD x (0, 0)).1 then some q else some x
      | none => some q) none
    match best with
    | none => none
    | some q =>
      match placeGroups quar bs (load.set q ((load.getD q (0, 0)).1 + 1, (load.getD q (0, 0)).2 + b)) with
      | some qs => some (q :: qs)
      | none => none

/-- R195: a team's needs fit a core at once: a slot, its scratchpad with its ring, its table entries, and its groups of
the given blocks; and the core and its engine may be used (R154, R460, R461, R465). -/
def State.room (s : State) (core spSize bufs tids : Nat) (blocks : List Nat) : Option Room :=
  let c := s.coreOf core
  let ts := s.occupants core
  let here := ts.flatMap fun t => t.groups.map fun g => (g.2.quarter, g.2.budget / 8)
  let load := [0, 1, 2, 3].map fun q =>
    let mine := here.filter fun g => g.1 == q
    (mine.length, mine.foldl (fun n g => n + g.2) 0)
  if c.withdrawn || (s.engineOf (core / 4)).out || c.scrubbing || c.scrubFail || s.releaseStuck core || decide (64 < here.length + blocks.length) then none
  else match (List.range 8).find? fun k => !ts.any fun t => t.slot == k, firstGap 1280 (spSize + 4) (ts.map fun t => (t.spBase, t.spSize + 4)),
      firstGap 64 bufs (ts.map fun t => (t.bufBase, t.bufCnt)), firstGap 64 tids (ts.map fun t => (t.tidBase, t.tidCnt)),
      placeGroups c.quar blocks load with
    | some k, some b, some f, some i, some qs => some { slot := k, base := b, buf := f, tid := i, quarters := qs }
    | _, _, _, _, _ => none


/-- R465: a test team on a core that a tenant's team is to have is abandoned. -/
def State.abandonTest (s : State) (core : Nat) : State :=
  if (s.coreOf core).testing then
    { s.updCore core fun c => { c with testing := false, testFails := 0 } with iftAband := (s.iftAband + 1) % 4096 }
  else s

/-- R153: a core is scrubbed for a virtual device, and its engine in its hands and scrubbed. -/
def State.prepared (s : State) (core vdev : Nat) : Bool :=
  let c := s.coreOf core
  c.scrubDone && c.scrubVdev == vdev && (s.engineOf (core / 4)).vdev == vdev && (s.engineOf (core / 4)).scrubBy == 0

/-- R489: the lowest private slot that no live team of the partition with the same LPBASE holds. -/
def State.freePslot (s : State) (part : Nat) (lpBase : DWord) (also : List Nat) : Option Nat :=
  let used := (s.teams.filter fun t => t.2.part == part && t.2.lpBase == lpBase && (t.2.onCore || t.2.place == .saved)).map fun t => t.2.pslot
  firstFrom (fun k => !used.contains k && !also.contains k) 1536 0

/-- R489: as many free private slots as a unit has teams, the lowest first; none where there are too few. -/
def State.freePslots (s : State) (part : Nat) (lpBase : DWord) : Nat → List Nat → Option (List Nat)
  | 0, got => some got
  | n + 1, got => match s.freePslot part lpBase got with
    | some k => State.freePslots s part lpBase n (got ++ [k])
    | none => none

/-! ## Work (R395) -/

/-- A launch has a team of a started node that waits for admission. -/
def Launch.waiting (l : Launch) : Bool := l.nodes.any fun n => n.started && !n.reading && !n.done && decide (n.admitted < n.teams)

/-- R395: a function has admissible work: teams to admit, or saved teams that are ready. -/
def State.waiting (s : State) (part fn : Nat) : Bool :=
  !(s.partOf part).hold
    && (s.launches.any (fun l => match l.2 with | some x => x.part == part && x.fn == fn && x.waiting | none => false)
      || s.teams.any fun t => t.2.part == part && t.2.vf == fn && t.2.place == .saved && t.2.ready)

def State.busyFn (s : State) (part fn : Nat) : Bool :=
  s.waiting part fn || s.teams.any fun t => t.2.part == part && t.2.vf == fn && t.2.onCore

/-- R395: a function has the partition's slice. -/
def State.mayRun (s : State) (part fn : Nat) : Bool :=
  let p := s.partOf part
  p.valid && !p.hold && p.cur == fn

/-- R152, R153: cores that are not ready for a function begin their scrub, unless another device's team stands on their
cluster or a writeback of theirs has to wait. -/
def State.prepare (s : State) (cores : List Nat) (fn : Nat) : State :=
  if s.teams.any fun t => t.2.onCore && t.2.vf != fn && cores.any fun c => c / 4 == t.2.core / 4 then s
  else cores.foldl (fun s c =>
    if s.prepared c fn || (s.coreOf c).scrubbing || s.releaseStuck c then s else s.scrubStart c fn) s

/-! ## Admission (R194, R195, R198, R389, R391) -/

/-- The groups of a node's team: lanes and role of each. -/
def Node.shape (n : Node) : List (Nat × Bool) := (List.range n.groups).map fun g => (min 32 (n.lanes - 32 * g), decide (n.g0 ≤ g))

def Node.budgets (n : Node) : List Nat := n.shape.map fun x => if x.2 then n.regs1 else n.regs0

/-- R193, R194: a group as it starts. -/
def Node.group (n : Node) (g quarter : Nat) : Group :=
  let sh := n.shape.getD g (0, false)
  let slices := (sh.1 + 3) / 4
  let live : BitVec 8 := BitVec.ofNat 8 (2 ^ slices - 1)
  { live := live, nslice := slices, role := sh.2, budget := if sh.2 then n.regs1 else n.regs0, quarter := quarter
    lanes := BitVec.ofNat 32 (2 ^ sh.1 - 1), paths := [{ slices := live, pc := n.entry }] }

/-- The `k`-th team of a node, X fastest, then Y, then Z. -/
def Node.place (n : Node) (k : Nat) : Nat × Nat × Nat := (k % n.x, k / n.x % n.y, k / n.x / n.y)

/-- Entries of a table range, numbered from 0. -/
def Sparse.slice {α : Type} (m : Sparse α) (lo n : Nat) : Sparse α :=
  (m.filter fun x => decide (lo ≤ x.1) && decide (x.1 < lo + n)).map fun x => (x.1 - lo, x.2)

/-- Entries numbered from 0 put at `lo`, in place of what stood in the range. -/
def Sparse.splice {α : Type} (m : Sparse α) (lo n : Nat) (x : Sparse α) : Sparse α :=
  x.foldl (fun m y => Sparse.insert m (lo + y.1) y.2) (Sparse.without m lo n)

/-- R139: a team's buffer entries at its launch. -/
def launchBufs (n slot : Nat) : Sparse Buf := if slot = 0 then [] else (List.range n).map fun k => (k, { owner := slot })

/-- R389: a team starts on a core: its window and tables, its arguments in its scratchpad, its barriers. -/
def State.startTeam (s : State) (u head : Nat) (l : Launch) (id k : Nat) (n : Node) (core : Nat) (r : Room) (pslot : Nat) : State :=
  let pos := n.place n.admitted
  let p := s.partOf l.part
  let rank := if n.cl then pos.1 % 4 else core % 4
  let ng := n.groups
  let t : Team := {
    place := .resident, part := l.part, vf := l.fn, asid := l.asid, prio := l.prio, launch := id, node := k
    x := pos.1, y := pos.2.1, z := pos.2.2, core := core, slot := r.slot, lanes := n.lanes, ngroup := ng, entry := n.entry
    cl := n.cl, rank := rank, clHead := head, spBase := r.base, spSize := (n.scratch + 255) / 256, wincs := p.grant, pslot := pslot
    lpSize := n.lpSize, lpBase := n.lpBase, bufBase := r.buf, bufCnt := n.bufs, tidBase := r.tid, tidCnt := n.tensor
    regs0 := n.regs0, regs1 := n.regs1, g0 := n.g0, why := 0
    groups := (List.range ng).map fun g => (g, n.group g (r.quarters.getD g 0)) }
  let s1 : State := { s.acquireCore core with teams := Sparse.set {} s.teams u t }
  let s2 := s1.updCore core fun c => { c with
    sp := Mem.writeNat c.sp (r.base * 256) (n.argLen * 16) n.args
    bufs := Sparse.splice c.bufs r.buf n.bufs (launchBufs n.bufs r.slot)
    bars := (List.range 4).foldl (fun m b => Sparse.set {} m (r.slot * 4 + b) { exp := ng }) c.bars }
  let s3 := if n.cl then s2.updCore core fun c => { c with bars := Sparse.set {} c.bars (32 + r.slot) { exp := 4 * ng } } else s2
  s3.updLaunch id fun l => l.updNode k fun n => { n with admitted := n.admitted + 1 }

/-- What an admission needs of the cores: the room on each, none where one has none. -/
def State.rooms (s : State) (n : Node) : List Nat → Option (List (Nat × Room))
  | [] => some []
  | c :: cs =>
    match s.room c ((n.scratch + 255) / 256) n.bufs n.tensor (n.budgets.map fun b => b / 8), State.rooms s n cs with
    | some r, some rs => some ((c, r) :: rs)
    | _, _ => none

def Node.coresFor (n : Node) (core : Nat) : List Nat := if n.cl then (List.range 4).map fun k => core / 4 * 4 + k else [core]

/-- R391: the first node in the order of starting whose next team, or cluster unit, fits the core. -/
def State.admissible (s : State) (l : Launch) (core : Nat) : Option (Nat × Node × List (Nat × Room)) :=
  l.order.findSome? fun k =>
    let n := l.nodes.getD k {}
    if n.started && !n.reading && !n.done && decide (n.admitted < n.teams) && (s.freePslots l.part n.lpBase (n.coresFor core).length []).isSome then
      (s.rooms n (n.coresFor core)).map fun rs => (k, n, rs)
    else none

/-- R389, R391, R395: the next team of a launch that fits is admitted to a core, or the core is made ready for it. -/
def execTeamAdmission (launch core : Nat) (s : State) : Out1 :=
  .next (match s.launchOf launch with
  | none => s
  | some l =>
    if !(s.partOf l.part).has (core / 4) || !s.mayRun l.part l.fn || decide (Config.nCores ≤ core) then s
    else match s.admissible l core with
      | none => s
      | some (k, n, rs) =>
        let cores := n.coresFor core
        let s0 := cores.foldl State.abandonTest s
        if !cores.all (fun c => s0.prepared c l.fn) then s0.prepare cores l.fn
        else if s0.teams.any fun t => t.2.onCore && t.2.vf != l.fn && t.2.core / 4 == core / 4 then s0
        else
          let head := s0.nextUid
          let s1 := rs.foldl (fun s x =>
            match s.launchOf launch with
            | none => s
            | some l =>
              let n := l.nodes.getD k {}
              match s.freePslot l.part n.lpBase [] with
              | none => s
              | some ps => { s.startTeam s.nextUid head l launch k n x.1 x.2 ps with nextUid := s.nextUid + 1 }) s0
          s1)

/-! ## The world switch and the end of LEFT (R395, R416, R417) -/

/-- R416: PREQ rises for a team and its cluster launch; with DEADLINE = 0 PSAVE is taken at once. -/
def State.requestSave (s : State) (u why : Nat) : State :=
  let t := s.teamOf u
  if t.place ≠ .resident ∨ t.req then s
  else
    let d := (s.partOf t.part).deadline.toNat
    let us := s.clusterOf u
    let s1 := us.foldl (fun s v => s.updTeam v fun t =>
      if t.place == .resident then { t with req := true, why := why, deadline := s.clock.toNat + d } else t) s
    if d = 0 then us.foldl (fun s v => s.psaveTeam v) s1 else s1

/-- R477: a plug-in is disabled and recorded; round-robin resumes. -/
def State.disablePlugin (s : State) (part : Nat) : State :=
  match (s.partOf part).plugin with
  | some g => if g.disabled then s
    else (s.updPart part fun p => { p with plugin := some { g with disabled := true } }).postFault { elem := BitVec.ofNat 32 part, kind := 11 }
  | none => s

/-- R477: what an enabled plug-in's SELECT returns (log 61), kept where it names a function of the partition with
admissible work; else the plug-in is disabled and `rr` stands. -/
def State.selectNext (s : State) (part rr : Nat) : State × Nat :=
  match (s.partOf part).plugin with
  | none => (s, rr)
  | some g =>
    if g.disabled then (s, rr)
    else
      let v := Config.pluginSelect s.draw
      let s1 := { s with draw := s.draw + 1 }
      if v < 96 && (s.partOf part).vfmask.getLsbD v && s.waiting part v then (s1, v) else (s1.disablePlugin part, rr)

/-- R395: a slice of QUANTUM ends, or its function has no work left; where another function has, the next of them in turn, or
the one that the partition's plug-in selects, receives the slice, and PREQ rises for the outgoing teams. -/
def execWorldSwitchQuantumExpiry (part : Nat) (s : State) : Out1 :=
  let p := s.partOf part
  let others := (List.range 96).filter fun v => p.vfmask.getLsbD v && v != p.cur && s.waiting part v
  let next := match others.find? fun v => decide (p.cur < v) with | some v => some v | none => others.head?
  .next (match next with
  | none => s
  | some rr =>
    if s.clock.toNat < p.sliceEnd ∧ s.busyFn part p.cur then s
    else
      let c := s.selectNext part rr
      let s1 := c.1.updPart part fun p => { p with cur := c.2, sliceEnd := s.clock.toNat + p.quantum * Config.cyclesPerUs }
      let out := (s.teams.filter fun t => t.2.part == part && t.2.vf != c.2 && t.2.place == .resident).map fun t => t.1
      out.foldl (fun s u => s.requestSave u 1) s1)

/-- R417: LEFT has reached 0. -/
def execPsaveDeadlineExpiry (u : Nat) (s : State) : Out1 :=
  let t := s.teamOf u
  .next (if t.req && t.place == .resident && decide (t.deadline ≤ s.clock.toNat) then (s.clusterOf u).foldl (fun s v => s.psaveTeam v) s else s)

/-! ## Saving (R399, R416, R418 to R420, R424) -/

/-- R416, R418: a team is ready to be saved: stopped, with no granted tile operation, no copy or fill that goes on, and no
arrival on its way. -/
def State.savable (s : State) (u : Nat) : Bool :=
  let t := s.teamOf u
  let e := s.engineOf (t.core / 4)
  (t.place == .stopping || (t.place == .resident && t.req && t.groups.all fun g => g.2.stopped))
    && !(e.resv.any fun r => r.uid == u && r.granted)
    && t.ring.all (fun r => match r.2.state with | .posted => true | .issued k => k != 0 | .moved _ => false)
    && !(e.slots.any fun x => x.2.state == .loading && x.2.uid == u && x.2.counted && x.2.stall == 0 && !x.2.upper)
    && !(s.arrivals.any fun a => a.2.1 == u)

def LineKey.onCore : LineKey → Bool
  | .mem _ => false
  | .chip _ _ => false
  | _ => true

/-- R424, R290, R291: sleepers at the core's scratchpad controller: a transaction is woken, its attempt over (R476) and its WAIT
bits cleared; a path keeps what it waits for. Their entries there go. -/
def State.sleepersOut (s : State) (u : Nat) : State :=
  let t := s.teamOf u
  let s1 := t.groups.foldl (fun s g =>
    if g.2.sleep.isSome && s.wakes.any fun w => w.uid == u && w.grp == g.1 && w.key.onCore then
      ((((s.txAttempt u g.1).dropWakes u g.1).dropRegs u g.1).updGroup u g.1 fun x => x.restart true)
    else s) s
  { s1 with wakes := s1.wakes.filter fun w => !(w.uid == u && (w.key.onCore || (s1.groupOf u w.grp).sleep.isNone)) }

/-- R395, R424: a group has something to do once its team is restored: it does not sleep, or it is restored woken. -/
def Group.waking (g : Group) : Bool :=
  g.live != 0 && (!g.asleep || g.paths.any fun p => match p.stop with | .asleep _ (.buf ..) _ _ => true | _ => false)

/-- R419: bytes of a team's context in the three parts of a shadow store: registers; scratchpad; group, table and replay state,
by the counts of log 77. -/
def Team.imageBytes (t : Team) : Nat × Nat × Nat :=
  let gs := t.groups.map fun g => g.2
  let rqs := gs.flatMap fun g => g.rq ++ g.trq
  (gs.foldl (fun n g => n + g.budget * 128) 0, t.spSize * 256 + 1024,
    gs.length * 2304 + t.bufCnt * 16 + t.tidCnt * 64 + rqs.foldl (fun n x => n + 64 + 24 * x.lane.length) 0)

/-- R419: the contexts in a core's shadow store exceed it. -/
def State.shadowOver (s : State) (core : Nat) : Bool :=
  let ts := (s.teams.filter fun t => t.2.away && t.2.core == core && t.2.image.sealed.isNone).map fun t => t.2.imageBytes
  decide (512 * 1024 < ts.foldl (fun n x => n + x.1) 0) || decide (320 * 1024 < ts.foldl (fun n x => n + x.2.1) 0)
    || decide (192 * 1024 < ts.foldl (fun n x => n + x.2.2) 0)

/-- A team's fetches. -/
def Asker.fetchOf (a : Asker) (u : Nat) : Bool := match a with | .fetch v _ => v == u | _ => false

/-- R418 to R420: a team's context enters the shadow store of its core; its dirty bytes are written back, and it will fetch anew.
One that does not fit leaves as a sealed image. -/
def State.saveTeam (s : State) (u : Nat) : State :=
  let s1 := (((s.psaveTeam u).sleepersOut u).forget fun a => a.fetchOf u).releaseCore (s.teamOf u).core
  let t := s1.teamOf u
  let c := s1.coreOf t.core
  let lo := t.spBase * 256
  let n := t.spSize * 256 + 1024
  let mine := fun (l : Lock) => decide (lo ≤ l.base) && decide (l.base < lo + n)
  let im : Image := {
    bars := Sparse.slice c.bars (t.slot * 4) 4, cbar := Sparse.get {} c.bars (32 + t.slot)
    bufs := Sparse.slice c.bufs t.bufBase t.bufCnt, tids := Sparse.slice c.tids t.tidBase t.tidCnt
    locks := (c.locks.filter mine).map fun l => { l with base := l.base - lo }
    sp := Sparse.slice c.sp lo n }
  let s2 := s1.updCore t.core fun c => { c with
    locks := c.locks.filter fun l => !mine l, bufs := Sparse.without c.bufs t.bufBase t.bufCnt, tids := Sparse.without c.tids t.tidBase t.tidCnt }
  let s3 := s2.updEngine (t.core / 4) fun e => { e with resv := e.resv.filter fun r => r.uid != u }
  let s4 := s3.updTeam u fun t => { t with
    place := if t.onCore then .saved else t.place, kept := !t.onCore, image := im, ready := t.groups.any fun g => g.2.waking }
  if s4.shadowOver t.core then s4.sealImage u else s4

/-- R128, R418: a stopped team is saved with its cluster launch, the allocation of teams that have ended included;
residencies among `which` may be evicted (R363). -/
def execContextSave (u : Nat) (which : List Nat) (s : State) : Out1 :=
  let t := s.teamOf u
  let us := (s.clusterOf u).filter fun v => (s.teamOf v).onCore
  let ended := (s.clusterOf u).filter fun v => t.cl && ((s.teamOf v).place == .done || (s.teamOf v).place == .aborted)
  .next (if us.contains u && us.all (fun v => s.savable v && !s.releaseStuck (s.teamOf v).core) then
    ((us ++ ended).foldl (fun s v => s.saveTeam v) s).evict (t.core / 4) t.vf which
  else s)

/-! ## Restoring (R199, R423, R424, R456, R487) -/

/-- R424: a path asleep on an entry sleeps on it where it now stands; on a buffer entry it is woken, and looks again. -/
def State.pathBack (s : State) (u g : Nat) (p : Path) (old new : Team) : State :=
  match p.stop with
  | .asleep _ (.bar _ k) want _ =>
    let head := s.teamOf new.clHead
    let key : LineKey := if 32 ≤ k then .bar head.core (32 + head.slot) else .bar new.core (k - old.slot * 4 + new.slot * 4)
    s.pathSleep u g p.slices key want
  | .asleep _ (.buf _ k) want _ =>
    let key : LineKey := .buf new.core (k - old.bufBase + new.bufBase)
    let s1 := s.updGroup u g Group.slept
    if s1.phaseOf key == want then s1.pathSleep u g p.slices key want
    else (s1.updGroup u g fun x => { x with paths := x.paths.map fun q => if q.slices = p.slices then { q with stop := .ready } else q }).waitAcquire
      key new.core
  | _ => s

/-- A group of a restored team: it goes on where it stood; walks that had been asked for are asked for again, and the latched
half of CLOCK is gone (R264: the first read since the restore is of the live half). -/
def Group.back (g : Group) (quarter : Nat) : Group :=
  let again := fun (x : RqEntry) => { x with
    pipe := x.pipe && x.tileOp.isNone, lane := x.lane.map fun r => (r.1, { r.2 with walk := 0 }) }
  { g with
    quarter := quarter, clockLatch := none, rq := g.rq.map again, trq := g.trq.map again
    paths := g.paths.map fun p => if p.stop = .yielded then { p with stop := .ready } else p }

/-- R487: a saved team's context is put on a core; what a read of CLOCKL captured is gone (log 85). -/
def State.putTeam (s : State) (u core : Nat) (r : Room) : State :=
  let old := s.teamOf u
  let im := old.image
  let n := old.spSize * 256 + 1024
  let new : Team := { old with
    place := if old.kept then old.place else .resident, kept := false, core := core, slot := r.slot, spBase := r.base, bufBase := r.buf, tidBase := r.tid
    rank := if old.cl then old.rank else core % 4, wincs := (s.partOf old.part).grant, req := false, why := 0, image := {}, ready := false
    groups := old.groups.map fun g => (g.1, g.2.back (r.quarters.getD g.1 0)) }
  let s1 := { s.acquireCore core with teams := Sparse.set {} s.teams u new }
  s1.updCore core fun c => { c with
    sp := Sparse.splice c.sp (r.base * 256) n im.sp
    bars := Sparse.splice (if old.cl then Sparse.set {} c.bars (32 + r.slot) im.cbar else c.bars) (r.slot * 4) 4 im.bars
    bufs := Sparse.splice c.bufs r.buf old.bufCnt (im.bufs.map fun b => (b.1, { b.2 with owner := r.slot }))
    tids := Sparse.splice c.tids r.tid old.tidCnt im.tids
    locks := c.locks ++ im.locks.map fun l => { l with base := l.base + r.base * 256 } }

/-- The groups of a restored team sleep again or go on, and collectives that have completed arrive. -/
def State.wakeTeam (s : State) (u : Nat) (old : Team) : State :=
  let new := s.teamOf u
  let s1 := new.groups.foldl (fun s g => g.2.paths.foldl (fun s p => s.pathBack u g.1 p old new) s) s
  let s2 := old.image.colls.foldl (fun s a => s.applyArrival u a.1 a.2.1 a.2.2) s1
  new.groups.foldl (fun s g => s.pump u g.1) s2

/-- Room for a saved team on a core. -/
def State.roomFor (s : State) (u core : Nat) : Option Room :=
  let t := s.teamOf u
  s.room core t.spSize t.bufCnt t.tidCnt (t.groups.map fun g => g.2.budget / 8)

def State.roomsFor (s : State) : List (Nat × Nat) → Option (List (Nat × Nat × Room))
  | [] => some []
  | (u, c) :: xs =>
    match s.roomFor u c, State.roomsFor s xs with
    | some r, some rs => some ((u, c, r) :: rs)
    | _, _ => none

/-- R419, R456, R487: a saved team, with its cluster launch, fits a core, its rank k core k of the cluster: there is room on each,
and its tiles' numbers are free on the engine or its own. -/
def State.fits (s : State) (u core : Nat) : Bool :=
  let t := s.teamOf u
  let us := (s.clusterOf u).filter fun v => (s.teamOf v).away
  let head := s.teamOf (if t.cl then t.clHead else u)
  let held := fun (k : Nat) => ((s.engineOf k).owner.filter fun o => o.2 == t.tileOwner u).map fun o => o.1
  let nos := head.image.tileNos ++ (if t.core / 4 = core / 4 then [] else held (t.core / 4))
  (s.roomsFor (us.map fun v => (v, if t.cl then core / 4 * 4 + (s.teamOf v).rank else core))).isSome
    && nos.all fun k => Sparse.get 0 (s.engineOf (core / 4)).owner k == 0

/-- R456: the tiles of an image return to their numbers on an engine, with what they held. -/
def State.tilesIn (s : State) (u eng : Nat) : State :=
  let t := s.teamOf u
  let im := t.image
  (s.updEngine eng fun e => { e with
    owner := im.tileNos.foldl (fun m k => Sparse.set 0 m k (t.tileOwner u)) e.owner
    tiles := im.tiles.foldl (fun m x => Sparse.set 0 m x.1 x.2) (e.tiles.filter fun x => !im.tileNos.contains (x.1 / 16384)) }).updTeam u fun t =>
      { t with image := { t.image with tiles := [], tileNos := [] } }

/-- R487, R423: a saved team, with its cluster launch, is restored on a core with room, or the core is made ready for it.
An image that leaves its core is sealed; one that is refused aborts its team. -/
def execContextRestore (u core : Nat) (s : State) : Out1 :=
  let t := s.teamOf u
  let us := (s.clusterOf u).filter fun v => (s.teamOf v).away
  let at_ := us.map fun v => (v, if t.cl then core / 4 * 4 + (s.teamOf v).rank else core)
  let cores := at_.map fun x => x.2
  let head := if t.cl then t.clHead else u
  .next (if t.place ≠ .saved || !(us.any fun v => (s.teamOf v).ready) || !(s.partOf t.part).has (core / 4) || !s.mayRun t.part t.vf
      || decide (Config.nCores ≤ core) || (s.clusterOf u).any (fun v => (s.teamOf v).onCore) then s
  else match s.roomsFor at_ with
    | none => s
    | some _ =>
      let s0 := cores.foldl State.abandonTest s
      if !cores.all (fun c => s0.prepared c t.vf) then s0.prepare cores t.vf
      else if s0.teams.any fun x => x.2.onCore && x.2.vf != t.vf && x.2.core / 4 == core / 4 then s0
      else
        let s1 := at_.foldl (fun s x => if (s.teamOf x.1).core = x.2 then s else s.sealImage x.1) s0
        let s2 := if t.core / 4 = core / 4 then s1 else s1.tilesOut head
        let eng := s2.engineOf (core / 4)
        if !(us.all s2.sealOk) then s2.abortTeam u
        else if (s2.teamOf head).image.tileNos.any fun k => Sparse.get 0 eng.owner k != 0 then s2
        else match s2.roomsFor at_ with
          | none => s2
          | some rs =>
            let s3 := s2.tilesIn head (core / 4)
            let olds := rs.map fun x => (x.1, s3.teamOf x.1)
            let s4 := rs.foldl (fun s x => s.putTeam x.1 x.2.1 x.2.2) s3
            olds.foldl (fun s x => s.wakeTeam x.1 x.2) s4)

/-! ## The border controller (R396) -/

/-- Clusters that hold a partition's teams. -/
def State.clustersHeld (s : State) (part : Nat) : Nat :=
  ((s.teams.filter fun t => t.2.part == part && t.2.onCore).map fun t => t.2.core / 4).eraseDups.length

/-- R396: every 100 µs SHARE is measured, the mean over the window in quarters of a cluster. -/
def execShareMeasurement (s : State) : Out1 :=
  let win := s.clock.toNat - s.shareAt
  .next (if win < 100 * Config.cyclesPerUs then s
  else { s with
    shareAt := s.clock.toNat
    parts := s.parts.map fun p => (p.1, { p.2 with share := min 255 (4 * p.2.shareAcc / win), shareAcc := 0 }) })

/-- R396: the function of a team of a partition that waits, to be admitted or restored, and fits a core of the cluster. -/
def State.waiter (s : State) (part cl : Nat) : Option Nat :=
  let cores := (List.range 4).map fun k => cl * 4 + k
  if (s.partOf part).hold then none
  else (s.launches.findSome? fun l => match l.2 with
      | some x => if x.part == part && x.waiting && cores.any fun c => (s.admissible x c).isSome then some x.fn else none
      | none => none).orElse fun _ =>
    (s.teams.find? fun t => t.2.part == part && t.2.place == .saved && t.2.ready && cores.any fun c => s.fits t.1 c).map fun t => t.2.vf

def State.partWaits (s : State) (part cl : Nat) : Bool := (s.waiter part cl).isSome

/-- R152, R396: a cluster changes hands: its cores and its engine are scrubbed for the function whose team waits for it; a core of
which a writeback has to wait is scrubbed before that team comes to it (R153). -/
def State.handOn (s : State) (cl fn : Nat) : State :=
  s.prepare ((List.range 4).map fun k => cl * 4 + k) fn

/-- R396: the decision on a cluster that its last team has left. -/
def State.border (s : State) (cl : Nat) : State :=
  let at_ : BitVec 48 := 1#48 <<< cl
  if s.teams.any fun t => t.2.onCore && t.2.core / 4 == cl then s
  else match s.parts.find? fun p => p.2.valid && p.2.homecl.getLsbD cl with
    | none => s
    | some (o, owner) =>
      if owner.lent.getLsbD cl then
        match s.waiter o cl with
        | some fn => ({ s with parts := s.parts.map fun p => (p.1, { p.2 with
            lent := if p.1 = o then p.2.lent &&& ~~~at_ else p.2.lent, borrowed := p.2.borrowed &&& ~~~at_ }) } : State).handOn cl fn
        | none => s
      else if owner.lend && !s.partWaits o cl then
        let cand := s.parts.filter fun p => p.2.valid && p.1 != o && p.2.borrow && s.partWaits p.1 cl
        let best := cand.foldl (fun (b : Option (Nat × Part)) p => match b with
          | some q => if p.2.share * max 1 q.2.target < q.2.share * max 1 p.2.target then some p else b
          | none => some p) none
        match best with
        | none => s
        | some (b, _) =>
          ((s.updPart o fun p => { p with lent := p.lent ||| at_ }).updPart b fun p => { p with borrowed := p.borrowed ||| at_ }).handOn cl
            ((s.waiter b cl).getD 127)
      else s

end Sys2Proof.Machine
end

