-- ==== Sys2Proof/Machine/Front.lean ====
section
/-! DEFINITION. The front end: notifies, queue control and the commands of the rings (R38, R50, R380 to R394). -/

namespace Sys2Proof.Machine

/-! ## Queues (R381, R382) -/

/-- R381: what a notify does, ignored while the queue is not enabled. -/
def State.notified (s : State) (fn q : Nat) (v : Word) : State :=
  let x := s.queueOf fn q
  let tail := v.toNat % 65536
  if !x.en || !s.bootDone then s
  else if 2 ^ x.log2 < (tail + 65536 - x.head) % 65536 then s.haltQueue fn q 9
  else s.updQueue fn q fun x => { x with tail := tail, nopf := v.getLsbD 31, ahead := if v.getLsbD 31 then [] else x.ahead }

/-- R187, R381: a notify is a posted write: it takes effect behind those that its function sent before it. -/
def execNotify (fn q : Nat) (v : Word) (s : State) : Out1 :=
  .next (if (s.vdevOf fn).hostq.all fun r => r.ro then s.notified fn q v
  else s.updVdev fn fun x => { x with hostq := x.hostq ++ [{ kind := 3, off := q, x := v.setWidth 4096 }] })

/-- R382, R10: a QCTL write; EN from 0 to 1 resets the queue, and with EN = 1 LOG2SIZE and ASID stay. -/
def execQctlWrite (fn q : Nat) (v : Word) (s : State) : Out1 :=
  let n := v.toNat
  let prio := n / 2 ^ 28 % 8
  let lg := n / 2 ^ 24 % 16
  let s1 : State := if v.getLsbD 31 && !(s.queueOf fn q).en then
      { s.farDone (.front fn) with wakes := s.wakes.filter fun w => !(w.uid == queueAgent fn && w.grp == q) } else s
  .next (s1.updQueue fn q fun x =>
    let x1 := { x with
      en := v.getLsbD 31, prio := if prio < 4 then prio else x.prio
      log2 := if x.en ∨ lg < 4 ∨ 12 < lg then x.log2 else lg, asid := if x.en then x.asid else n % 65536 }
    if v.getLsbD 31 && !x.en then
      { x1 with head := 0, tail := 0, halt := false, err := 0, ahead := []
                busy := x.busy.filter fun b => match b with | .launch .. => true | _ => false }
    else x1)

/-! ## Reading commands (R384 to R386) -/

/-- Word `k` of a command or of a table read as one number. -/
def wordAt (w k : Nat) : Nat := w / 2 ^ (32 * k) % 2 ^ 32
def dwordAt (w k : Nat) : Nat := w / 2 ^ (32 * k) % 2 ^ 64

/-- R382: where a ring's slot lies; the physical function's ring is local or in host memory. -/
def State.ringAddr (s : State) (fn : Nat) (x : Queue) : State × Fe Nat :=
  let a := x.base.toNat + 64 * (x.head % 2 ^ x.log2)
  if fn = 127 then (if a / 2 ^ 50 % 4 = 2 then (s, .fault) else s.pfAddr a .read)
  else match s.partOfFn fn with
    | none => (s, .fault)
    | some p =>
      match s.ppaXl 0 p fn a .read with
      | (s1, .ok d) => (s1, .ok d)
      | (s1, .error (.fault _)) => (s1, .fault)
      | (s1, .error _) => (s1, .wait)

/-- R385: whether a queue reads a command now. -/
def Queue.reads (x : Queue) : Bool :=
  x.en && !x.halt && !(x.busy.any fun b => match b with | .waiteq .. => true | _ => false)

/-- The INDIRECT whose buffer is being run: its number, the next command's place, and the bytes left. -/
def Queue.buffer (x : Queue) : Option (Nat × Nat × Nat) :=
  x.busy.findSome? fun b => match b with | .indirect k a n => if n = 0 then none else some (k, a, n) | _ => none

/-- The next command of a queue, if there is one, with the INDIRECT it stands in or 0 (R386: an earlier reading of its
chunk may be the one executed). -/
def State.nextCmd (s : State) (fn q : Nat) : State × Option (Fe (Nat × Nat)) :=
  let x := s.queueOf fn q
  let with1 := fun (k : Nat) (r : State × Fe Nat) => match r with
    | (s1, .ok w) => (s1, some (Fe.ok (w, k)))
    | (s1, .fault) => (s1, some .fault)
    | (s1, .wait) => (s1, some .wait)
  if !x.reads then (s, none)
  else match x.buffer with
    | some (k, a, _) =>
      let again := s.feRead ((s.partOfFn fn).getD 0) x.asid fn a 4
      match x.ahead.find? fun c => c.1 == a with
      | some c => if Config.prefetchOld s.draw then ({ s with draw := s.draw + 1 }, some (.ok (c.2, k)))
        else with1 k ({ again.1 with draw := s.draw + 1 }, again.2)
      | none => with1 k again
    | none =>
      if x.head = x.tail then (s, none)
      else match s.ringAddr fn x with
        | (s1, .ok a) => with1 0 (s1.feLine fn a 64)
        | (s1, .fault) => (s1, some .fault)
        | (s1, .wait) => (s1, some .wait)

/-- The command has been read: the queue stands behind it. -/
def State.pastCmd (s : State) (fn q : Nat) : State :=
  s.updQueue fn q fun x => match x.buffer with
    | some (k, a, n) => { x with
        ahead := x.ahead.filter fun c => c.1 != a
        busy := x.busy.map fun b => if b = .indirect k a n then .indirect k (a + 64) (n - 64) else b }
    | none => { x with head := (x.head + 1) % 65536 }

/-- R386: chunks of the buffer up to 4 KiB ahead are read; one whose reading faults is not kept. -/
def State.readAhead (s : State) (fn q : Nat) : State :=
  match (s.queueOf fn q).buffer with
  | none => s
  | some (_, a, n) =>
    (List.range (min (n / 64) 64)).foldl (fun s j =>
      let c := a + 64 * j
      let x := s.queueOf fn q
      if x.ahead.any fun d => d.1 == c then s
      else match s.feRead ((s.partOfFn fn).getD 0) x.asid fn c 4 with
        | (s1, .ok w) => s1.updQueue fn q fun x => { x with ahead := x.ahead ++ [(c, w)] }
        | (s1, _) => s1) s

/-- R385: the bits that a command uses; none for a reserved OPC. -/
def cmdBits (op : Nat) : Option Nat :=
  let head := (2 ^ 9 - 1) * 2 ^ 23
  let w := fun k n => (2 ^ (32 * n) - 1) * 2 ^ (32 * k)
  let b := fun k lo n => (2 ^ n - 1) * 2 ^ (32 * k + lo)
  match op with
  | 0 => some head
  | 1 => some (head + w 2 2 + b 4 0 12)
  | 2 => some (head + w 2 3)
  | 3 => some (head + w 2 4 + b 6 0 1)
  | 4 => some (head + w 2 3)
  | 5 => some head
  | 6 => some (head + b 2 0 2 + b 2 8 5 + b 3 0 16 + w 4 4)
  | 7 => some (head + b 2 0 1 + b 2 8 5 + w 4 2)
  | 0x10 => some (head + b 2 0 5 + w 4 2)
  | 0x11 => some (head + b 2 0 5)
  | _ => none

/-- R384: every earlier command has completed, but the INDIRECT that holds this one. -/
def Queue.clear (x : Queue) (ind : Nat) : Bool := x.busy.all fun b => match b with | .indirect k _ _ => k == ind | _ => false

def cmdOp (w : Nat) : Nat := w / 2 ^ 24 % 256

/-- R384, R385: the next command is read; where `want` says it is this step's, it starts, by `body` from its words and
its INDIRECT. A fault of the reading and a reserved OPC halt the queue whichever step meets them.
R481: the queues open at the end of start-up. -/
def State.front (s : State) (fn q : Nat) (want : Nat → Bool) (body : State → Nat → Nat → State) : State :=
  match (if s.bootDone then s.nextCmd fn q else (s, none)) with
  | (_, none) => s
  | (s1, some .wait) => s1
  | (s1, some .fault) => (s1.pastCmd fn q).haltQueue fn q 3
  | (s1, some (.ok (w, ind))) =>
    let op := cmdOp w
    match cmdBits op with
    | none => (s1.pastCmd fn q).haltQueue fn q 1
    | some bits =>
      if !want w then s
      else if (w.testBit 23 || (decide (3 ≤ op) && decide (op ≤ 5))) && !(s1.queueOf fn q).clear ind then s
      else
        let s2 := s1.pastCmd fn q
        if w ||| bits ≠ bits then s2.haltQueue fn q 1 else (body s2 w ind).readAhead fn q

def isOp (op w : Nat) : Bool := cmdOp w == op

/-- A command that has to wait has not started: its queue stands as before it was read. -/
def State.unread (s s0 : State) (fn q : Nat) : State := s.updQueue fn q fun _ => s0.queueOf fn q

/-- The command completes at once. -/
def State.cmdDone (s : State) (fn q ind : Nat) : State := (s.updQueue fn q fun x => x.count ind).taken (.front fn)

/-- R385 cause 8: a command that needs the queue's process; `f` has its partition and ASID. `s0` is the state before the
command was read. -/
def State.withProc (s0 s : State) (fn q : Nat) (f : State → Nat → Nat → State) : State :=
  let asid := (s.queueOf fn q).asid
  if fn = 127 then f s 0 0
  else match s.partOfFn fn with
    | none => s.haltQueue fn q 3
    | some p =>
      match s.unfilled 0 p asid (s.s1Root 0 p asid fn 0) with
      | (s1, .ok _) => f s1 p asid
      | (s1, .error (.fault e)) => s1.haltQueue fn q (if e.code = .pf ∧ e.kind = 0 then 8 else 3)
      | (s1, .error _) => s1.unread s0 fn q

/-! ## Simple commands (R385) -/

/-- R385: completes at once. -/
def execNopCommand (fn q : Nat) (s : State) : Out1 := .next (s.front fn q (isOp 0) fun s _ ind => s.cmdDone fn q ind)

/-- R385, R386: a buffer of commands; its bytes may be read ahead from now on. -/
def execIndirect (fn q : Nat) (s : State) : Out1 :=
  .next (s.front fn q (isOp 2) fun s1 w ind =>
    let a := dwordAt w 2
    let n := wordAt w 4
    if ind ≠ 0 then s1.haltQueue fn q 6
    else if a % 64 ≠ 0 ∨ n % 64 ≠ 0 ∨ n < 64 ∨ 2 ^ 20 < n then s1.haltQueue fn q 7
    else s.withProc s1 fn q fun s _ _ => s.updQueue fn q fun x =>
      { x with busy := x.busy ++ [.indirect x.nextInd a n], nextInd := x.nextInd + 1 })

/-- R385: a write that is a release at pod scope. While its line is held the command has not started. -/
def execSignal (fn q : Nat) (s : State) : Out1 :=
  .next (s.front fn q (isOp 3) fun s1 w ind =>
    let a := dwordAt w 2
    let n := if w.testBit (6 * 32) then 8 else 4
    if a % n ≠ 0 then s1.haltQueue fn q 1
    else s.withProc s1 fn q fun s1 p asid =>
      match s1.feAddr p asid fn a .write with
      | (s2, .wait) => s2.unread s fn q
      | (s2, .fault) => s2.haltQueue fn q 3
      | (s2, .ok d) =>
        let v := dwordAt w 4 % 2 ^ (8 * n)
        if !isLocal d then (match s2.outWrite (.front fn) d n v with
          | (s3, .ok _) => s3.cmdDone fn q ind
          | (s3, .fault) => s3.haltQueue fn q 3
          | (s3, .wait) => s3.unread s fn q)
        else if s2.blocked (d / 128) noTeam 0 then s2.unread s fn q
        else (s2.writeHome d n v fn 3 1 noTeam 0).cmdDone fn q ind)

/-- The word that a WAITEQ looks at, and the line of local memory on which it lies. -/
def State.waitWord (s : State) (fn a p asid : Nat) : State × Option Nat × Fe Nat :=
  match s.feAddr p asid fn a .read with
  | (s1, .ok d) => let r := s1.feLine fn d 4; (r.1, if isLocal d then some (d / 128) else none, r.2)
  | (s1, .wait) => (s1, none, .wait)
  | (s1, .fault) => (s1, none, .fault)

def isWaiteq (b : CmdWait) : Bool := match b with | .waiteq .. => true | _ => false

/-- The WAITEQ of a queue that has started: its address, value and sleep. -/
def Queue.waiteq (x : Queue) : Option (Nat × Word × Option Sleep) :=
  x.busy.findSome? fun b => match b with | .waiteq a v _ z => some (a, v, z) | _ => none

/-- R219, R220, R385: a WAITEQ whose word is not equal sleeps on its line; where no entry holds it, and for a word that is not
in local memory, it is overflowed (log 74). -/
def State.waiteqSleep (s : State) (fn q : Nat) (line : Option Nat) : State :=
  let r := match line with
    | some l => s.addWake (.mem l) (queueAgent fn) q
    | none => (s, false)
  r.1.updQueue fn q fun x => { x with busy := x.busy.map fun b => match b with
    | .waiteq a v k _ => .waiteq a v k (some { since := s.clock.toNat, ovf := !r.2 })
    | b => b }

/-- R385: a WAITEQ reads its word: it ends when the word is equal, else it sleeps. -/
def State.waiteqLook (s : State) (fn q a : Nat) (v : Word) (p asid : Nat) : State :=
  match s.waitWord fn a p asid with
  | (s1, line, .ok w) => (if w = v.toNat then s1.updQueue fn q fun x => x.complete isWaiteq else s1.waiteqSleep fn q line).taken (.front fn)
  | (s1, _, .wait) => s1
  | (s1, _, .fault) => (s1.updQueue fn q fun x => { x with busy := x.busy.filter fun b => !isWaiteq b }).haltQueue fn q 3

/-- R220: a sleep has overflowed and 4 µs have passed. -/
def Sleep.late (x : Sleep) (now : Nat) : Bool := x.ovf && decide (x.since + 4 * Config.cyclesPerUs ≤ now)

/-- R385: the wait starts, or one that is awake, or whose overflow timer has run out, reads its word again. -/
def execWaiteq (fn q : Nat) (s : State) : Out1 :=
  let x := s.queueOf fn q
  .next (match x.waiteq with
  | some (a, v, z) =>
    if z.all fun y => y.late s.clock.toNat then (s.wakeQueue fn q).waiteqLook fn q a v ((s.partOfFn fn).getD 0) x.asid else s
  | none =>
    s.front fn q (isOp 4) fun s1 w ind =>
      let a := dwordAt w 2
      let v := BitVec.ofNat 32 (wordAt w 4)
      if a % 4 ≠ 0 then s1.haltQueue fn q 1
      else s.withProc s1 fn q fun s2 p asid =>
        (s2.updQueue fn q fun x => { x with busy := x.busy ++ [.waiteq a v ind none] }).waiteqLook fn q a v p asid)

/-- R386: with every earlier command complete, what has been read ahead is discarded. -/
def execQfence (fn q : Nat) (s : State) : Out1 :=
  .next (s.front fn q (isOp 5) fun s _ ind => (s.updQueue fn q fun x => { x with ahead := [] }).cmdDone fn q ind)

/-! ## Invalidation and replay (R38, R50, R125) -/

/-- R38, R125: translations that `hit` names leave every TLB, with the walk-cache entries that `pde` names and the ATS
translations of the ASIDs that `proc` names; the lines that its cores hold, and those of its
parcels on any core, are written back and go. -/
def State.invalidate (s : State) (part : Nat) (hit : Tlb → Bool) (pde : Pde → Bool) (proc : Nat → Bool) : State :=
  let p := s.partOf part
  let s1 : State := { s with
    dies := s.dies.map fun d => (d.1, { d.2 with
      l2tlb := d.2.l2tlb.filter fun t => !(t.part == part && if t.ats then proc t.asid else hit t), wcache := d.2.wcache.filter fun x => !(x.part == part && pde x) })
    cores := s.cores.map fun c => (c.1, { c.2 with tlb := c.2.tlb.filter fun t => !(t.part == part && hit t) }) }
  (List.range Config.nCores).foldl (fun s c => s.l1Invalidate c fun l => p.has (c / 4) || s1.ownerOf (parcelOf (l * 128)) == part) s1

/-- R38, R41: the translations of a partition's pages in a range that peers have asked for are invalidated. -/
def State.peerInvalidate (s : State) (part base len : Nat) : State :=
  let hit := fun (x : Nat × Nat × Nat) => x.1 == part && rangeMeets x.2.1 (2 ^ x.2.2) base len
  { s with
    out := s.out ++ s.peers.flatMap fun p => (p.2.asked.filter hit).map fun x => Out.peerInval p.1 part x.2.1 x.2.2
    peers := s.peers.map fun p => (p.1, { p.2 with asked := p.2.asked.filter fun x => !hit x }) }

/-- R385: an ASID that one of a function's 32 queues holds. -/
def Vdev.holdsAsid (v : Vdev) (asid : Nat) : Bool := (List.range 32).any fun q => (Sparse.get {} v.queues q).asid == asid

/-- R385: the operands of an INVAL, its causes of refusal, and what it does once nothing of the partition is in flight. -/
def State.inval (s0 s : State) (fn q w ind : Nat) (f : State → Nat → State) : State :=
  let kind := wordAt w 2 % 4
  let named := wordAt w 2 / 256 % 32
  let go := fun (s : State) (part : Nat) => if s.inFlight part then s.unread s0 fn q else (f s part).cmdDone fn q ind
  if kind = 3 then s.haltQueue fn q 1
  else if fn = 127 then go s named
  else if named ≠ 0 then s.haltQueue fn q 1
  else if kind ≠ 0 ∨ !(s.vdevOf fn).holdsAsid (wordAt w 3 % 65536) then s.haltQueue fn q 2
  else s0.withProc s fn q fun s p _ => go s p

def isInval (ks : List Nat) (w : Nat) : Bool := isOp 6 w && ks.contains (wordAt w 2 % 4)

/-- R38: by partition, ASID and virtual range. Walk-cache entries of stage 1 do not show their range: all of the ASID go. -/
def execInvalStage1 (fn q : Nat) (s : State) : Out1 :=
  .next (s.front fn q (isInval [0, 3]) fun s1 w ind => s.inval s1 fn q w ind fun s p =>
    let asid := wordAt w 3 % 65536
    s.invalidate p (fun t => !t.st2 && t.asid == asid && rangeMeets (t.va * 2 ^ t.log2) (2 ^ t.log2) (dwordAt w 4) (dwordAt w 6))
      (fun x => !x.st2 && x.asid == asid) fun a => a == asid)

/-- R38: by partition and PPA range. A combined translation does not show its PPA, so every one of the partition goes. -/
def execInvalStage2 (fn q : Nat) (s : State) : Out1 :=
  .next (s.front fn q (isInval [1]) fun s1 w ind => s.inval s1 fn q w ind fun s p =>
    if dwordAt w 6 = 0 then s
    else (s.invalidate p (fun _ => true) (fun _ => true) fun _ => true).peerInvalidate p (dwordAt w 4) (dwordAt w 6))

/-- R38: a whole partition. -/
def execInvalPartition (fn q : Nat) (s : State) : Out1 :=
  .next (s.front fn q (isInval [2]) fun s1 w ind => s.inval s1 fn q w ind fun s p =>
    (s.invalidate p (fun _ => true) (fun _ => true) fun _ => true).peerInvalidate p 0 (2 ^ 64))

/-- R385, R50: the partition and the sequence number of a REPLAY. -/
def State.replay (s : State) (fn q w ind : Nat) (f : State → Nat → Nat → State) : State :=
  let named := wordAt w 2 / 256 % 32
  if fn = 127 then (f s named (dwordAt w 4)).cmdDone fn q ind
  else if named ≠ 0 then s.haltQueue fn q 1
  else match s.partOfFn fn with
    | none => s.haltQueue fn q 3
    | some p => (f s p (dwordAt w 4)).cmdDone fn q ind

def execReplayRetry (fn q : Nat) (s : State) : Out1 :=
  .next (s.front fn q (fun w => isOp 7 w && !w.testBit 64) fun s w ind => s.replay fn q w ind fun s p n => s.replayRetry p n)

def execReplayFail (fn q : Nat) (s : State) : Out1 :=
  .next (s.front fn q (fun w => isOp 7 w && w.testBit 64) fun s w ind => s.replay fn q w ind fun s p n => s.replayFail p n)

/-! ## LAUNCH (R387 to R392) -/

/-- Blocks of 64 bytes at the given addresses. -/
def State.feBlocks (s : State) (part asid fn : Nat) : List Nat → State × Fe (List Nat)
  | [] => (s, .ok [])
  | a :: rest =>
    match s.feRead part asid fn a 4 with
    | (s1, .ok w) =>
      match State.feBlocks s1 part asid fn rest with
      | (s2, .ok ws) => (s2, .ok (w :: ws))
      | r => r
    | (s1, .fault) => (s1, .fault)
    | (s1, .wait) => (s1, .wait)

/-- R388: successors of a node's block. -/
def nodeSucc (w : Nat) : List (Bool × Nat) :=
  (List.range (wordAt w 7 % 8)).map fun k => ((wordAt w (8 + k)).testBit 31, wordAt w (8 + k) % 4096)

/-- R388, R390: a reserved field of a node is not zero. -/
def nodeBad (w : Nat) : Bool :=
  wordAt w 3 / 65536 != 0 || wordAt w 6 / 2 ^ 24 != 0 || wordAt w 7 / 8 != 0 || wordAt w 15 != 0
    || (List.range 7).any fun k => if k < wordAt w 7 % 8 then wordAt w (8 + k) / 4096 % 2 ^ 19 != 0 else wordAt w (8 + k) != 0

/-- R390: nodes that no longer wait for an edge are taken away, as often as there are nodes; what is left is a cycle. -/
def acyclic (succ : List (List Nat)) : Nat → List Nat → Bool
  | 0, left => left.isEmpty
  | fuel + 1, left =>
    let next := left.filter fun v => left.any fun u => (succ.getD u []).contains v
    if next.isEmpty then true else if next.length = left.length then false else acyclic succ fuel next

/-- R390: the graph is refused with ERR 4. -/
def graphBad (ws : List Nat) : Bool :=
  let n := ws.length
  let succ := ws.map fun w => (nodeSucc w).map fun e => e.2
  let all := succ.flatten
  ws.any nodeBad || all.any (fun v => decide (n ≤ v))
    || (ws.zipIdx.any fun x => wordAt x.1 6 % 65536 != (all.filter fun v => v == x.2).length)
    || !acyclic succ (n + 1) (List.range n)

/-- R387, R390: a kernel descriptor refused for a node with ERR 5. -/
def kernelBad (w k : Nat) : Bool :=
  let lanes := wordAt k 2 / 65536 % 2048
  let g := (lanes + 31) / 32
  let g0 := wordAt k 2 / 256 % 64
  let r0 := wordAt k 3 % 256
  let r1 := wordAt k 3 / 65536 % 256
  let x := wordAt w 2 % 65536
  let y := wordAt w 2 / 65536
  let z := wordAt w 3 % 65536
  let argn := wordAt w 6 / 65536 % 256
  let regBad := fun r => r % 8 != 0 || decide (r < 8) || decide (128 < r)
  let grid := [wordAt k 9 % 65536, wordAt k 9 / 65536, wordAt k 10 % 65536]
  wordAt k 2 / 2 ^ 27 % 16 != 0 || wordAt k 2 / 2 ^ 14 % 4 != 0 || wordAt k 2 % 256 != 0
    || wordAt k 3 / 2 ^ 24 != 0 || wordAt k 3 / 256 % 256 != 0 || wordAt k 4 / 2 ^ 19 != 0 || wordAt k 5 / 2 ^ 14 != 0
    || wordAt k 8 / 2 ^ 17 != 0 || wordAt k 10 / 65536 != 0 || k / 2 ^ 352 != 0
    || dwordAt k 0 % 4 != 0 || decide (lanes = 0) || decide (1024 < lanes) || decide (g0 = 0) || decide (g < g0)
    || regBad r0 || (if g0 = g then r1 != 0 else regBad r1)
    || wordAt k 4 % 256 != 0 || decide (326656 < wordAt k 4 % 2 ^ 19) || decide (64 < wordAt k 5 % 128) || decide (64 < wordAt k 5 / 128 % 128)
    || dwordAt k 6 % 65536 != 0 || decide (levelOf (dwordAt k 6) ≠ .global)
    || decide (x = 0) || decide (y = 0) || decide (z = 0) || (wordAt k 2 / 2 ^ 31 == 1 && x % 4 != 0)
    || decide (16 < argn) || dwordAt w 4 % 16 != 0 || decide (wordAt k 4 % 2 ^ 19 < argn * 16)
    || (grid != [0, 0, 0] && (grid.contains 0 || grid != [x, y, z]))

/-- R387, R388: a node with its kernel. -/
def nodeOf (w k : Nat) : Node :=
  { entry := BitVec.ofNat 64 (dwordAt k 0), cl := (wordAt k 2).testBit 31, lanes := wordAt k 2 / 65536 % 2048, g0 := wordAt k 2 / 256 % 64
    regs0 := wordAt k 3 % 256, regs1 := wordAt k 3 / 65536 % 256, scratch := wordAt k 4 % 2 ^ 19
    bufs := wordAt k 5 % 128, tensor := wordAt k 5 / 128 % 128, lpBase := BitVec.ofNat 64 (dwordAt k 6), lpSize := wordAt k 8 % 2 ^ 17
    x := wordAt w 2 % 65536, y := wordAt w 2 / 65536, z := wordAt w 3 % 65536
    argsAt := BitVec.ofNat 64 (dwordAt w 4), argLen := wordAt w 6 / 65536 % 256
    succ := nodeSucc w, c := wordAt w 6 % 65536 }

/-- R390 to R392: the whole graph and its descriptors are read and checked; then nodes that wait for nothing start. -/
def execLaunch (fn q : Nat) (s : State) : Out1 :=
  .next (s.front fn q (isOp 1) fun s1 w ind =>
    let a := dwordAt w 2
    if a % 64 ≠ 0 then s1.haltQueue fn q 1
    else if fn = 127 then s1.haltQueue fn q 8
    else s.withProc s1 fn q fun s1 p asid =>
      match s1.feBlocks p asid fn ((List.range (wordAt w 4 % 4096 + 1)).map fun k => a + 64 * k) with
      | (s2, .wait) => s2.unread s fn q
      | (s2, .fault) => s2.haltQueue fn q 3
      | (s2, .ok ws) =>
        match s2.feBlocks p asid fn (ws.map fun w => dwordAt w 0 / 64 * 64) with
        | (s3, .wait) => s3.unread s fn q
        | (s3, .fault) => s3.haltQueue fn q 3
        | (s3, .ok ks) =>
          if graphBad ws then s3.haltQueue fn q 4
          else if ws.any (fun w => dwordAt w 0 % 64 != 0) || (ws.zip ks).any fun x => kernelBad x.1 x.2 then s3.haltQueue fn q 5
          else
            let id := s3.nextLaunch
            let l : Launch := { fn := fn, q := q, part := p, asid := asid, prio := (s3.queueOf fn q).prio
                                nodes := (ws.zip ks).map fun x => nodeOf x.1 x.2 }
            let s4 : State := { s3 with launches := Sparse.set none s3.launches id (some l), nextLaunch := id + 1 }
            let s5 := s4.updQueue fn q fun x => { x with busy := x.busy ++ [.launch id ind] }
            (s5.startNodes id).launchCheck id)

/-! ## Partitions (R385, R394) -/

/-- R394: a descriptor refused for partition `p`. -/
def State.descBad (s : State) (p d : Nat) : Bool :=
  let old := s.partOf p
  let grant := fun (w : Nat) => (w % 512, w / 65536 % 1024)
  let g := grant (wordAt d 9)
  let vf := d / 2 ^ 192 % 2 ^ 96
  let others := s.parts.filter fun x => x.2.valid && x.1 != p
  decide (24 ≤ p) || (old.valid && !old.rst)
    || wordAt d 0 / 32 % 2 ^ 26 != 0 || wordAt d 0 % 32 != p || wordAt d 1 != 0 || d / 2 ^ 512 != 0
    || dwordAt d 2 % 4096 != 0 || decide (2 ^ 52 ≤ dwordAt d 2) || !dpaOk (dwordAt d 2) || decide (2 ^ 48 ≤ dwordAt d 4)
    || wordAt d 9 / 2 ^ 26 != 0 || wordAt d 9 / 512 % 128 != 0 || decide (512 < g.2) || decide (512 < g.1 + g.2)
    || wordAt d 11 / 65536 != 0 || decide (wordAt d 11 = 0) || wordAt d 12 / 64 % 2 ^ 24 != 0 || decide (48 < wordAt d 12 % 64)
    || dwordAt d 13 % 16 != 0 || decide (2 ^ 48 ≤ dwordAt d 13) || wordAt d 15 / 65536 != 0
    || others.any fun x =>
      let h := grant x.2.grant.toNat
      x.2.homecl.toNat &&& dwordAt d 4 != 0 || x.2.vfmask.toNat &&& vf != 0
        || (decide (g.1 < h.1 + h.2) && decide (h.1 < g.1 + g.2) && g.2 != 0 && h.2 != 0)

/-- R152, R394, R421: a descriptor is installed: a new key, and, of its chip scratchpad grant, what it did not hold zeroed. -/
def State.installPart (s : State) (p d : Nat) : State :=
  let valid := (wordAt d 0).testBit 31
  let old := s.partOf p
  let held := fun (a : Nat) => decide (old.grant.toNat % 512 * 65536 ≤ a) && decide (a < (old.grant.toNat % 512 + old.grant.toNat / 65536 % 1024) * 65536)
  let lo := wordAt d 9 % 512 * 65536
  let hi := lo + wordAt d 9 / 65536 % 1024 * 65536
  let s1 : State := { s with
    nkeys := s.nkeys + 1
    dies := s.dies.map fun x => (x.1, { x.2 with cs := x.2.cs.filter fun b => held b.1 || decide (b.1 < lo) || decide (hi ≤ b.1) }) }
  s1.updPart p fun x => { x with
    valid := valid, rst := false, s2root := BitVec.ofNat 64 (dwordAt d 2), homecl := BitVec.ofNat 48 (dwordAt d 4)
    vfmask := BitVec.ofNat 96 (d / 2 ^ 192), grant := if valid then BitVec.ofNat 32 (wordAt d 9) else 0
    deadline := BitVec.ofNat 32 (wordAt d 10), quantum := wordAt d 11, lend := (wordAt d 12).testBit 31, borrow := (wordAt d 12).testBit 30
    target := wordAt d 12 % 64, pctx := BitVec.ofNat 64 (dwordAt d 13), nasid := wordAt d 15
    descBytes := (List.range 128).map fun k => BitVec.ofNat 8 (d / 256 ^ k)
    key := some s.nkeys, nonce := [], latest := [], cur := 127, sliceEnd := 0 }

/-- R394: PARTCFG, of the physical function only. -/
def execPartcfg (fn q : Nat) (s : State) : Out1 :=
  .next (s.front fn q (isOp 0x10) fun s1 w ind =>
    let p := wordAt w 2 % 32
    let a := dwordAt w 4
    if fn ≠ 127 then s1.haltQueue fn q 2
    else if a % 128 ≠ 0 then s1.haltQueue fn q 11
    else match s1.feRead 0 0 127 a 8 with
      | (s2, .wait) => s2.unread s fn q
      | (s2, .fault) => s2.haltQueue fn q 3
      | (s2, .ok d) => if s2.descBad p d then s2.haltQueue fn q 11 else (s2.installPart p d).cmdDone fn q ind)

/-- R385, R414, R421, R467: every team of a partition is aborted with what waits of its launches, its cores and engines are
scrubbed, its key is destroyed, and a change of INJPART takes effect. -/
def State.resetPart (s : State) (p : Nat) : State :=
  let us := (s.teams.filter fun t => t.2.part == p).map fun t => t.1
  let s1 := us.foldl (fun s u => s.stopTeam u) s
  let s2 := s1.launches.foldl (fun s l => match l.2 with
    | some x => if x.part = p then
        (s.updLaunch l.1 fun l => { l with abandoned := true, nodes := l.nodes.map fun n => { n with done := true } }).launchCheck l.1
      else s
    | none => s) s1
  let s3 := (List.range Config.nCores).foldl (fun s c =>
    if (s.partOf p).has (c / 4) then (s.scrubStart c 127).scrubEnd c else s) s2
  s3.updPart p fun x => { x with rst := true, key := none, test := s3.injpart.getLsbD p, cur := 127 }

/-- R75, R385: PARTRST, of the physical function only, once every line that its cores have to write back may be written. -/
def execPartrst (fn q : Nat) (s : State) : Out1 :=
  .next (s.front fn q (isOp 0x11) fun s1 w ind =>
    let p := wordAt w 2 % 32
    if fn ≠ 127 then s1.haltQueue fn q 2
    else if s1.partStuck p then s1.unread s fn q
    else (s1.resetPart p).cmdDone fn q ind)

end Sys2Proof.Machine
end

