-- ==== Sys2Proof/Machine/HostPort.lean ====
section
/-! DEFINITION. The host port and the UALink ports: BAR4 accesses, AtomicOps and function level reset, inbound requests of
peers with their replay-reply cache, translation queries, and completions of outbound requests (R41, R42, R186 to R191,
R426 to R435). -/

namespace Sys2Proof.Machine

/-! ## Accesses by PPA (R41, R427) -/

/-- The bytes `a` to `a + n - 1` by line: first byte and length of each piece. -/
def cuts (a n : Nat) : List (Nat × Nat) :=
  if n = 0 then []
  else (List.range ((a % 128 + n + 127) / 128)).map fun k =>
    let lo := max a ((a / 128 + k) * 128)
    (lo, min (a + n) ((a / 128 + k + 1) * 128) - lo)

/-- R29, R30, R34, R35: pieces at PPAs of a partition, translated by its stage 2 for an access from outside. -/
def State.ppaAll (s : State) (part vf : Nat) (acc : Acc) : List (Nat × Nat) → State × Except NoWalk (List (Nat × Nat))
  | [] => (s, .ok [])
  | x :: rest =>
    match s.ppaXl 0 part vf x.1 acc with
    | (s1, .error e) => (s1, .error e)
    | (s1, .ok d) =>
      match State.ppaAll s1 part vf acc rest with
      | (s2, .error e) => (s2, .error e)
      | (s2, .ok ds) => (s2, .ok ((d, x.2) :: ds))

/-- A piece lies on a line that is held. -/
def State.anyHeld (s : State) (ds : List (Nat × Nat)) : Bool := ds.any fun x => isLocal x.1 && s.blocked (x.1 / 128) noTeam 0

/-- R433: the requests to peers that the pieces of an access at class-0b10 addresses come to. -/
def outerAsks (who : Asker) (kind op y : Nat) : Nat → List (Nat × Nat) → List Ask
  | _, [] => []
  | x, (d, n) :: rest =>
    (if d / 2 ^ 50 % 4 ≠ 2 then []
    else if kind = 2 then [{ who := who, kind := 2 + op, addr := d, n := n, x := [BitVec.ofNat 128 (x % 2 ^ (8 * n) + 2 ^ 64 * (y % 2 ^ (8 * n)))] }]
    else (natCuts (n + 1) d n).map fun c =>
      { who := who, kind := kind, addr := c.1, n := c.2
        x := if kind = 1 then operandWords c.2 (x / 2 ^ (8 * (c.1 - d)) % 2 ^ (8 * c.2)) else [] })
      ++ outerAsks who kind op y (x / 2 ^ (8 * n)) rest

/-- An access of `n` bytes of one line at a DPA from outside: read 0, write 1, atomic 2. None where a line read is poisoned, or
a peer's completion is. -/
def State.outer (s : State) (who : Asker) (kind d n op x y vdev : Nat) : State × Option Nat :=
  if isLocal d then
    match kind with
    | 0 => s.readHome d n vdev 3 0
    | 1 => (s.writeHome d n x vdev 3 1 noTeam 0, some 0)
    | _ =>
      match s.readHome d n vdev 3 2 with
      | (s1, none) => (s1, none)
      | (s1, some old) => (s1.writeHome d n (aopNew op old (x % 2 ^ (8 * n)) (y % 2 ^ (8 * n))) vdev 3 2 noTeam 0, some old)
  else if d / 2 ^ 50 % 4 = 2 then (match s.far (outerAsks who kind op y x [(d, n)]) with
    | (s1, .ok v) => (s1, some v)
    | (s1, _) => (s1, none))
  else match kind with
    | 0 => (s, some (s.hostRead d n))
    | 1 => (s.hostWrite d n x, some 0)
    | _ => (s.hostWrite d n (aopNew op (s.hostRead d n) (x % 2 ^ (8 * n)) (y % 2 ^ (8 * n))), some (s.hostRead d n))

/-- The pieces of an access one after the other, the lowest bytes first. -/
def State.outerAll (s : State) (who : Asker) (kind op y vdev : Nat) : Nat → List (Nat × Nat) → State × Option Nat
  | _, [] => (s, some 0)
  | x, (d, n) :: rest =>
    match s.outer who kind d n op x y vdev with
    | (s1, none) => (s1, none)
    | (s1, some v) =>
      match State.outerAll s1 who kind op y vdev (x / 2 ^ (8 * n)) rest with
      | (s2, none) => (s2, none)
      | (s2, some w) => (s2, some (v + 2 ^ (8 * n) * w))

/-- An access from outside: its requests to peers are sent, and with their completions all of it is performed; none while one is
outstanding. -/
def State.outerNow (s : State) (who : Asker) (kind op x y vdev : Nat) (ds : List (Nat × Nat)) : State × Option (Option Nat) :=
  let ks := outerAsks who kind op y x ds
  let s1 := ks.foldl State.ask s
  if ks.any fun k => (s1.answerTo k).isNone then (s1, none)
  else match s1.outerAll who kind op y vdev x ds with
    | (s2, v) => (s2.taken who, some v)

def kindAcc (k : Nat) : Acc := if k = 0 then .read else if k = 1 then .write else .atomic

/-! ## The host port (R186, R187, R426, R427) -/

/-- R426: sizes that the port's packets have: reads up to 4,096 bytes, writes up to 512, AtomicOps as R338 lists. -/
def HostReq.fits (r : HostReq) : Bool :=
  decide (r.off + r.n ≤ 2 ^ 40) && match r.kind with
    | 0 => decide (r.n ≤ 4096)
    | 1 => decide (r.n ≤ 512)
    | _ => r.n == aopBytes r.op && decide (r.off % r.n = 0) && aopHost r.op

def State.hostAnswer (s : State) (fn : Nat) (r : HostReq) (v : Option Nat) : State :=
  if r.kind = 1 then s
  else { s with out := s.out ++ [.hostRead fn r.off v.isSome (BitVec.ofNat 32768 (v.getD 0))] }

/-- R427: one request of the host through BAR4, or a notify. The second component says that it waits: for a held line or for
the host's ATS. A read or AtomicOp that fails, and one that meets a poisoned line, receives an Unsupported Request; a
failing write is discarded. -/
def State.hostServe (s : State) (fn : Nat) (r : HostReq) : State × Bool :=
  if r.kind = 3 then (s.notified fn r.off (r.x.setWidth 32), false)
  else match s.partOfFn fn with
  | none => (s.hostAnswer fn r none, false)
  | some p =>
    if !r.fits then (s.hostAnswer fn r none, false)
    else match s.ppaAll p fn (kindAcc r.kind) (cuts r.off r.n) with
      | (s1, .error (.fault _)) => (s1.hostAnswer fn r none, false)
      | (s1, .error _) => (s1, true)
      | (s1, .ok ds) =>
        if s1.anyHeld ds then (s1, true)
        else match s1.outerNow (.port fn) r.kind r.op r.x.toNat r.y.toNat fn ds with
          | (s2, none) => (s2, true)
          | (s2, some v) => (s2.hostAnswer fn r v, false)

/-- R186, R187: whether a request stays behind an earlier one `e` of its function: a posted write behind every posted write,
unless it carries Relaxed Ordering; a notify behind those that do not carry it; a read or AtomicOp behind every posted write. -/
def HostReq.behind (r e : HostReq) : Bool :=
  match r.kind with
  | 1 => !r.ro && (e.kind == 1 || e.kind == 3)
  | 3 => (e.kind == 1 && !e.ro) || e.kind == 3
  | _ => e.kind == 1 || e.kind == 3

/-- R186: a request arrives: it is performed, or waits at the port. -/
def State.hostArrive (s : State) (fn : Nat) (r : HostReq) : State :=
  let wait := fun (s : State) => s.updVdev fn fun v => { v with hostq := v.hostq ++ [r] }
  if (s.vdevOf fn).hostq.any r.behind then wait s
  else match s.hostServe fn r with
    | (s1, false) => s1
    | (s1, true) => wait s1

/-- The waiting requests of a function are tried again in their order; those that still wait stay. -/
def State.hostRetry (s : State) (fn : Nat) : State :=
  let r := (s.vdevOf fn).hostq.foldl (fun (a : State × List HostReq) r =>
    if a.2.any r.behind then (a.1, a.2 ++ [r])
    else match a.1.hostServe fn r with
      | (s1, false) => (s1, a.2)
      | (s1, true) => (s1, a.2 ++ [r])) (s, [])
  r.1.updVdev fn fun v => { v with hostq := r.2 }

def execHostBar4Read (fn off n : Nat) (s : State) : Out1 := .next (s.hostArrive fn { kind := 0, off := off, n := n })
def execHostBar4Write (fn off n : Nat) (v : BitVec 4096 × Bool) (s : State) : Out1 :=
  .next (s.hostArrive fn { kind := 1, off := off, n := n, x := v.1, ro := v.2 })
def execHostAtomicop (fn off n : Nat) (op : BitVec 4) (x y : DWord) (s : State) : Out1 :=
  .next (s.hostArrive fn { kind := 2, off := off, n := n, op := op.toNat, x := x.setWidth 4096, y := y })

/-- What a reset of the whole device leaves: what is kept persistently (R112, R115, R430, R460 to R462, R477), the world outside,
and the counters of this model's own draws. -/
def State.coldReset (s : State) : State :=
  { State.reset with
    plan := s.plan, site := s.site, draw := s.draw, out := s.out, host := s.host, misfire := s.misfire, broken := s.broken
    nkeys := s.nkeys, nextUid := s.nextUid, nextLaunch := s.nextLaunch
    drops := s.drops, unusable := s.unusable, faults := s.faults, storedAcc := s.storedAcc, ownerKeys := s.ownerKeys
    stks := (s.stks.map fun t => (t.1, ({ repairs := t.2.repairs } : Stack))).filter fun t => t.2 != {}
    cores := (s.cores.map fun c => (c.1, ({ quar := c.2.quar, withdrawn := c.2.withdrawn } : Core))).filter fun c => c.2 != {}
    engines := (s.engines.map fun e => (e.1, ({ out := e.2.out } : Engine))).filter fun e => e.2 != {} }

/-- R426: of a virtual function: its queues are disabled and what they read ahead goes; teams run on. Of the physical
function: the whole device is reset and started again. -/
def execFunctionLevelReset (fn : Nat) (s : State) : Out1 :=
  if fn = 127 then
    let down := ((List.range Config.nStacks).filter fun k => (s.stackOf k).linkDown).foldl (fun n k => n + 2 ^ k) 0
    .next { s.coldReset with plan := .own (.startUp (BitVec.ofNat 32 down) false) :: s.plan }
  else .next ((s.farDone (.front fn)).updVdev fn fun v => { v with queues := v.queues.map fun q => (q.1, { q.2 with en := false, ahead := [] }) })

/-! ## Inbound requests of peers (R41, R190, R191, R430 to R434) -/

def State.peerAnswer (s : State) (src tag : Nat) (ok : Bool) (v : Nat) : State :=
  { s with out := s.out ++ [.peerReply src tag ok (BitVec.ofNat 2048 v)] }

/-- R41, R49: the fatal record of kind 9. -/
def State.peerRecord (s : State) (src part off : Nat) (code : Trap) (acc : Acc) : State :=
  (s.postRecord { fatal := true, code := code.code, kind := 9, acc := acc.code, part := part, vf := src % 128, va := BitVec.ofNat 64 off
                  peer := src / 128 % 8 }).1

/-- R432: what an inbound request comes to before it is performed. -/
inductive Inb where
  | refused
  | failed (part : Nat) (code : Trap)
  | wait
  | at_ (part : Nat) (ds : List (Nat × Nat))
deriving DecidableEq, Repr

/-- The kind of a request: `op` holds 16 for a read, 17 for a write, 18 for a translation query (here a read), else the
atomic. -/
def Inbound.kind (r : Inbound) : Nat := if r.op = 16 ∨ r.op = 18 then 0 else if r.op = 17 then 1 else 2

/-- R429: the forms that the ports implement: 1 to 256 bytes in one 256-byte block, a power of two aligned to itself; atomics
of 4 and 8 bytes. -/
def Inbound.fits (r : Inbound) : Bool :=
  if r.op = 18 then true
  else if r.kind = 2 then r.n == aopBytes r.op && decide (r.off % r.n = 0)
  else decide (0 < r.n) && decide (r.off % 256 + r.n ≤ 256)
    && ((List.range 9).all fun k => r.n != 2 ^ k || decide (r.off % 2 ^ k = 0))

/-- The permission that step 3 of R432 asks of an entry. -/
def Inbound.may (r : Inbound) (e : Pat) : Bool :=
  if r.op = 18 then e.rd || e.wr || e.at_ else if r.kind = 0 then e.rd else if r.kind = 1 then e.wr else e.at_

/-- R431: a peer access entry, of which nothing is in force where its line is lost (log 16). -/
def State.patOf (s : State) (src off : Nat) : Pat :=
  let k := 16 * src + off / 2 ^ 36 % 16
  if s.resLost (patBase + 16 * k) then {} else Sparse.get {} s.pats k

/-- R432: the checks of an inbound request, in their order. The record of a failure at steps 2 and 3 has the code PROT; of
one at step 4, the walk's own code (log 75). -/
def State.inbound (s : State) (src : Nat) (r : Inbound) : State × Inb :=
  let e := s.patOf src r.off
  let o := r.off % 2 ^ 36
  if !e.v then (s, .refused)
  else if (e.size + 1) * 65536 ≤ o ∨ !r.may e then (s, .failed e.part .prot)
  else match s.ppaAll e.part 127 (kindAcc r.kind) (cuts (e.pbase.toNat + o) (if r.op = 18 then 1 else r.n)) with
    | (s1, .error (.fault f)) => (s1, .failed e.part f.code)
    | (s1, .error _) => (s1, .wait)
    | (s1, .ok ds) => if r.op ≠ 18 && s1.anyHeld ds then (s1, .wait) else (s1, .at_ e.part ds)

/-- R41: the answer of a translation query is recorded, as one of a 64 KiB page (log 75). -/
def State.recordQuery (s : State) (src part off : Nat) : State :=
  let e := s.patOf src off
  let x := (part, (e.pbase.toNat + off % 2 ^ 36) / 65536 * 65536, 16)
  s.updPeer src fun p => if p.asked.contains x then p else { p with asked := p.asked ++ [x] }

/-- R190, R191: the answer to a request; a write's or atomic's is cached. -/
def State.inbAnswer (s : State) (src : Nat) (r : Inbound) (ok : Bool) (v : Nat) : State :=
  (if r.kind = 0 then s
  else s.updPeer src fun p => { p with
    cache := p.cache ++ [{ tag := r.tag, data := BitVec.ofNat 64 v, ok := ok, time := s.clock.toNat }] }).peerAnswer src r.tag ok v

/-- One inbound request performed or answered with an error; true where it waits for a held line, for ATS or for a
peer. -/
def State.inbServe (s : State) (src : Nat) (r : Inbound) : State × Bool :=
  if !r.fits then (s.inbAnswer src r false 0, false)
  else match s.inbound src r with
    | (s1, .refused) => ((s1.reject src).inbAnswer src r false 0, false)
    | (s1, .failed p c) => ((s1.peerRecord src p r.off c (kindAcc r.kind)).inbAnswer src r false 0, false)
    | (s1, .wait) => (s1, true)
    | (s1, .at_ p ds) =>
      if r.op = 18 then ((s1.recordQuery src p r.off).inbAnswer src r true (ds.headD (0, 0)).1, false)
      else match s1.outerNow (.inbound src) r.kind r.op r.x.toNat r.y.toNat 127 ds with
        | (s2, none) => (s2, true)
        | (s2, some none) => (s2.inbAnswer src r false 0, false)
        | (s2, some (some v)) => (s2.inbAnswer src r true v, false)

/-- R191: a reply's life is over 1 ms after it was first sent. -/
def State.liveCache (s : State) (src : Nat) : List Cached :=
  (s.peerOf src).cache.filter fun c => decide (s.clock.toNat < c.time + Config.cyclesPerMs)

/-- R191: a write or atomic may be applied now. -/
def State.inbRoom (s : State) (src : Nat) (r : Inbound) : Bool := r.kind == 0 || decide ((s.liveCache src).length < 256)

/-- R191: a request of a source whose turn it is: a live tag receives the cached reply, else it is performed where the cache
has room for its reply; true where it waits. -/
def State.inbTry (s : State) (src : Nat) (r : Inbound) : State × Bool :=
  match (if r.kind = 0 then none else (s.liveCache src).find? fun c => c.tag == r.tag) with
  | some c => (s.peerAnswer src r.tag c.ok c.data.toNat, false)
  | none => if s.inbRoom src r then s.inbServe src r else (s, true)

/-- R190: a request stays behind an earlier one `e` of its source to a line that it touches too (log 63). -/
def Inbound.behind (r e : Inbound) : Bool :=
  decide (r.off / 128 ≤ (e.off + max e.n 1 - 1) / 128) && decide (e.off / 128 ≤ (r.off + max r.n 1 - 1) / 128)

/-- R190, R191, R430, R434: a request arrives from a source, of which at most 64 are queued. -/
def State.inbArrive (s : State) (src : Nat) (r : Inbound) : State :=
  let wait := fun (s : State) => s.updPeer src fun p => { p with inq := p.inq ++ [r] }
  if s.accNone then s
  else if src = s.accid ∨ 64 ≤ (s.peerOf src).inq.length then (s.reject src).peerAnswer src r.tag false 0
  else if (s.peerOf src).inq.any r.behind then wait s
  else match s.inbTry src r with
    | (s1, false) => s1
    | (s1, true) => wait s1

def execUalinkInboundRead (src tag off n : Nat) (s : State) : Out1 :=
  .next (s.inbArrive src { tag := tag, off := off, n := n, op := 16 })
def execUalinkInboundWrite (src tag off n : Nat) (v : BitVec 2048) (s : State) : Out1 :=
  .next (s.inbArrive src { tag := tag, off := off, n := n, op := 17, x := v })
def execUalinkInboundAtomic (src tag off n : Nat) (op : BitVec 4) (x y : DWord) (s : State) : Out1 :=
  .next (s.inbArrive src { tag := tag, off := off, n := n, op := op.toNat, x := x.setWidth 2048, y := y })

/-- R191: the waiting requests of a source are tried again in their order; those that still wait stay. -/
def State.drainInq (s : State) (src : Nat) : State :=
  let r := (s.peerOf src).inq.foldl (fun (a : State × List Inbound) r =>
    if a.2.any r.behind then (a.1, a.2 ++ [r])
    else match a.1.inbTry src r with
    | (s1, false) => (s1, a.2)
    | (s1, true) => (s1, a.2 ++ [r])) (s, [])
  r.1.updPeer src fun p => { p with inq := r.2 }

/-- R191: replies whose life is over leave the cache, and waiting requests take their place. -/
def execReplayReplyCacheExpiry (src : Nat) (s : State) : Out1 :=
  .next ((s.updPeer src fun p => { p with cache := s.liveCache src }).drainInq src)

/-- R41: a query of a stage-2 translation of an exported region, under the same checks. -/
def execPeerTranslationQuery (src off : Nat) (s : State) : Out1 :=
  .next (s.inbArrive src { tag := 0, off := off, n := 0, op := 18 })

/-! ## Completions of outbound requests (R42, R433) -/

/-- R173: the further lanes of an atomic, each with what the lower ones have left. -/
def Group.olds (g : Group) (m : MemOp) : List (Nat × Nat) → Nat → List ((Nat × Nat) × Nat)
  | [], _ => []
  | p :: ps, old =>
    (p, old) :: g.olds m ps (match (g.rq ++ g.trq).find? fun x => x.op == p.1 && !x.pipe with
      | some x => let c := (x.recOf p.2).operands m.n; aopNew m.fn old c.1 c.2
      | none => old)

/-- `f` acts on the record of a lane of operation `op` in its entry, and the further lanes of an atomic follow: each receives
what the lower ones have left (R173, R298), or fails as the first did. -/
def State.updSent (s : State) (u g op lane : Nat) (mates : List (Nat × Nat)) (f : MemOp → LaneRec → LaneRec) : State :=
  let y := s.groupOf u g
  match (y.rq ++ y.trq).find? fun x => x.op == op && !x.pipe with
  | none => s
  | some x =>
    match x.memOp with
    | none => s
    | some m =>
      let old := x.recOf (lane % 32)
      let r := f m old
      let c := old.operands m.n
      let olds := if m.acc = .atomic && r.got then y.olds m mates (aopNew m.fn r.value c.1 c.2) else []
      s.updGroup u g fun y => y.onEntries fun x =>
        if x.pipe then x
        else mates.foldl (fun z p =>
          if z.op ≠ p.1 then z
          else match olds.find? fun q => q.1 == p with
            | some q => z.updRec p.2 fun r => { (if m.ret then r.setValue q.2 else r) with sent := false, got := true }
            | none => z.updRec p.2 (f m)) (if x.op = op then x.setRec (lane % 32) r else x)

/-- A lane whose request fails raises PEER; it goes on once its entry is performed. -/
def peerFail (m : MemOp) (r : LaneRec) : LaneRec := { r with sent := false, code := 11, kind := 0, acc := m.acc.code }

/-- What a completion's data does to its lane, the `k`-th word of a wide lane-private access or all of it; `more`: another request
of the lane is outstanding. -/
def LaneRec.completed (r : LaneRec) (m : MemOp) (k : Nat) (more : Bool) (v : BitVec 2048) : LaneRec :=
  let split := decide (levelOf r.addr.toNat = .lanePriv) && decide (4 < m.n)
  let w := v.setWidth 32
  let r1 : LaneRec :=
    if !m.ret then r
    else if !split then r.setValue (v.toNat % 2 ^ (8 * m.n))
    else match k with
      | 0 => { r with d0 := w }
      | 1 => { r with d1 := w }
      | 2 => { r with d2 := w }
      | _ => { r with d3 := w }
  if more then r1 else { r1 with sent := false, got := r.code == 0 }

/-- R433: a request of a lane is outstanding beside the one that has come back. -/
def State.laneAwaits (s : State) (u g op lane : Nat) : Bool :=
  s.peers.any fun p => p.2.out.any fun o => match o.ask.who with
    | .lane v h q l _ => v == u && h == g && q == op && l % 32 == lane % 32
    | _ => false

/-- R433: a request is completed, with data or, none, with poison or an error: its lane receives it or raises PEER, and goes on;
any other asker finds it when it looks again. -/
def State.answered (s : State) (o : Outbound) (v : Option (BitVec 2048)) : State :=
  match o.ask.who with
  | .lane u g op lane mates =>
    let more := s.laneAwaits u g op lane
    s.updSent u g op lane mates (match v with | some w => fun m r => r.completed m (lane / 32) more w | none => peerFail)
  | .gone => s
  | _ => { s with answers := s.answers ++ [{ ask := o.ask, v := v.map fun w => w.toNat % 2 ^ (8 * o.ask.n) }] }

/-- The group whose lane a request was made for goes on. -/
def State.resumed (s : State) (o : Outbound) : State :=
  match o.ask.who with
  | .lane u g _ _ _ => s.pump u g
  | _ => s

/-- R433: a completion arrives: the peer is UP. An error completion leaves it so. -/
def execUalinkCompletion (dest tag : Nat) (ok : Bool) (v : BitVec 2048) (s : State) : Out1 :=
  let p := s.peerOf dest
  .next (match p.out.find? fun o => o.tag == tag with
  | none => s
  | some o =>
    if p.state = 2 then s
    else ((s.updPeer dest fun p => { p with state := 1, out := p.out.erase o }).answered o (if ok then some v else none)).resumed o)

/-- R191, R433, R443: a request has been outstanding for 1 ms: the peer is DOWN, everything outstanding to it completes with
poison, and communicators with a collective outstanding of which it is a member fail. -/
def execPeerRequestTimeout (dest : Nat) (s : State) : Out1 :=
  let p := s.peerOf dest
  .next (if p.state = 2 || !(p.out.any fun o => decide (o.time + Config.cyclesPerMs ≤ s.clock.toNat)) then s
  else
    let s1 := s.updPeer dest fun p => { p with state := 2, timeouts := min (p.timeouts + 1) 255, out := [] }
    let s2 := p.out.foldl (fun s o => s.answered o none) s1
    (p.out.foldl (fun s o => s.resumed o) s2).peerLost dest)

/-! ## Links (R429, R430) -/

/-- R429: the port's link is down, and nothing is sent over it. -/
def execUalinkLinkDown (port : Nat) (s : State) : Out1 := .next { s with links := s.links &&& ~~~(1#13 <<< port) }

/-- R429, R430: the link of a UALink port comes out of training, unless the device holds no identifier. -/
def execUalinkLinkUp (port : Nat) (s : State) : Out1 :=
  .next (if s.accNone ∨ port = 0 then s else { s with links := s.links ||| (1#13 <<< port) })

end Sys2Proof.Machine
end

