-- ==== Sys2Proof/Machine/LaneMem.lean ====
section
/-! DEFINITION. Memory instructions of the lane set (R329 to R338). -/

namespace Sys2Proof.Machine

/-- R329: the VM address of a lane: the pair s2b:s2b+1 of its slice plus the lane's signed offset. -/
def Group.vmAddr (g : Group) (a : BitVec 7) (b : BitVec 4) (l : Nat) : DWord :=
  g.spair (l / 4) (2 * b.toNat) + (g.vreg a.toNat l).signExtend 64

/-- R329: the VT address of a lane: its pointer pair. -/
def Group.vtAddr (g : Group) (a : BitVec 7) (l : Nat) : DWord := g.vreg (a.toNat + 1) l ++ g.vreg a.toNat l

/-- The four words from lane register `d` up, as captured data. -/
def Group.laneData (g : Group) (d : BitVec 7) (l : Nat) (addr : DWord) : LaneRec :=
  { addr := addr, d0 := g.vreg d.toNat l, d1 := g.vreg (d.toNat + 1) l, d2 := g.vreg (d.toNat + 2) l, d3 := g.vreg (d.toNat + 3) l }

/-- R333. -/
def execLd (e : Bool) (k : BitVec 3) (d a : BitVec 7) (b : BitVec 4) (z : BitVec 3) (s : State) : Out1 :=
  .next (s.memInstr e (.ld e k d a b z) [] (fun sl => s.curGroup.act sl k.toNat) fun g l => { addr := g.vmAddr a b l })

/-- R333. -/
def execSt (e : Bool) (k : BitVec 3) (d a : BitVec 7) (b : BitVec 4) (z : BitVec 3) (s : State) : Out1 :=
  .next (s.memInstr e (.st e k d a b z) [] (fun sl => s.curGroup.act sl k.toNat) fun g l => g.laneData d l (g.vmAddr a b l))

/-- R334. -/
def execLdAcq (e : Bool) (k : BitVec 3) (d a : BitVec 7) (z sc : BitVec 3) (s : State) : Out1 :=
  .next (s.memInstr e (.ldAcq e k d a z sc) [] (fun sl => s.curGroup.act sl k.toNat) fun g l => { addr := g.vtAddr a l })

/-- R334. -/
def execStRel (e : Bool) (k : BitVec 3) (d a : BitVec 7) (z sc : BitVec 3) (s : State) : Out1 :=
  .next (s.memInstr e (.stRel e k d a z sc) [] (fun sl => s.curGroup.act sl k.toNat) fun g l => g.laneData d l (g.vtAddr a l))

/-- R336, R337. -/
def execAtom (e : Bool) (k : BitVec 3) (d a : BitVec 7) (o : BitVec 4) (sc : BitVec 3) (s : State) : Out1 :=
  .next (s.memInstr e (.atom e k d a o sc) [] (fun sl => s.curGroup.act sl k.toNat) fun g l => g.laneData d l (g.vtAddr a l))

/-- R336, R337. -/
def execRed (e : Bool) (k : BitVec 3) (d a : BitVec 7) (o : BitVec 4) (sc : BitVec 3) (s : State) : Out1 :=
  .next (s.memInstr e (.red e k d a o sc) [] (fun sl => s.curGroup.act sl k.toNat) fun g l => g.laneData d l (g.vtAddr a l))

/-- R31, R37, R335: the translation for a lane's prefetch: from the TLBs, else by a walk that sets neither A nor D (log 76).
None, and nothing done, where it fails, or where it would have to wait: for a walk of its page, behind queued walks, or for an
engine. -/
def State.prefetchXl (s : State) (u va : Nat) : State × Option Tlb :=
  let t := s.teamOf u
  match s.tlbFind t.core t.part t.asid va .read with
  | some x => (s, some x)
  | none =>
    let ws := (s.dieOf (t.core / 64)).walks
    if !s.engineFree (t.core / 64) t.part || ws.any fun w => w.state == .queued || w.joins t.part t.asid va then (s, none)
    else match s.walk (t.core / 64) t.part t.asid t.vf va .read .prefetch with
      | (s1, .ok x) => if isLocal x.dpa then (s1.tlbFill t.core x, some x) else (s, none)
      | _ => (s, none)

/-- R335: the local DPA of a lane's prefetch; none where the lane is dropped. -/
def State.prefetchAt (s : State) (u g l : Nat) (va : Nat) : State × Option Nat :=
  if 2 ^ 52 ≤ va then (s, none)
  else match s.spot u g l va 1 .read with
    | .global [(ga, _)] =>
      match s.prefetchXl u ga with
      | (s1, some x) => (s1, if (x.check .read).isSome || !isLocal (x.at_ ga) then none else some (x.at_ ga))
      | (s1, none) => (s1, none)
    | _ => (s, none)

/-- The lines of a list of lanes' prefetches. -/
def State.prefetchLines (s : State) (u g : Nat) (at_ : Nat → Nat) : List Nat → State × List Nat
  | [] => (s, [])
  | l :: ls =>
    let r := s.prefetchAt u g l (at_ l)
    let q := State.prefetchLines r.1 u g at_ ls
    (q.1, r.2.toList.map (· / 128) ++ q.2)

/-- R335: level 0 fetches the line into L1 and L2, level 1 into L2 alone; in a transaction it is dropped (R332). It waits
while a line it would fetch, or a line that would make room for it, is locked. -/
def execPfx (e : Bool) (k : BitVec 3) (a : BitVec 7) (b : BitVec 4) (lv : BitVec 3) (s : State) : Out1 :=
  let g := s.curGroup
  let u := s.run.uid
  let core := s.curCore
  let act := g.act s.run.slices k.toNat
  let c := if g.inTx || act == 0 then (s, none) else s.checkOp [5]
  let r := c.1.prefetchLines u s.run.grp (fun l => (g.vmAddr a b l).toNat) (laneList act)
  if g.inTx then .next (s.retire e)
  else if let some n := c.2 then
    .next (((c.1.eachPath fun sl s => s.pipePush sl (.pfx e k a b lv) none (g.act sl k.toNat)).mismatch n).tally e)
  else if r.2.any fun x => r.1.blocked x u s.run.grp || (lv == 0 && r.1.l1Stuck core x) then .next r.1
  else .next ((r.2.foldl (fun s x =>
    if lv = 0 then (s.l1Load core x (BitVec.allOnes 128) s.curTeam.vf).1 else (s.readLine (core / 64) x s.curTeam.vf 0).1) r.1).retire e)

end Sys2Proof.Machine
end

