-- ==== Sys2Proof/Machine/ScalarMem.lean ====
section
/-! DEFINITION. Scalar memory instructions (R296 to R298). -/

namespace Sys2Proof.Machine

/-- R296: the pair plus the signed immediate. -/
def Group.immAddr (g : Group) (a : BitVec 6) (i : BitVec 12) (l : Nat) : DWord := g.spair (l / 4) a.toNat + i.signExtend 64

/-- The lanes that stand for the slices of a scalar access (R297). -/
def Group.sliceLanes (g : Group) (sl : BitVec 8) : Word := slicesLanes (sl &&& g.live)

/-- R296: in every issuing slice S[sd] := mem_read(addr, 4). -/
def execLdsB32 (e : Bool) (d a : BitVec 6) (i : BitVec 12) (s : State) : Out1 :=
  .next (s.memInstr e (.ldsB32 e d a i) [] s.curGroup.sliceLanes fun g l => { addr := g.immAddr a i l })

/-- R296. -/
def execLdsB64 (e : Bool) (d a : BitVec 6) (i : BitVec 12) (s : State) : Out1 :=
  .next (s.memInstr e (.ldsB64 e d a i) [] s.curGroup.sliceLanes fun g l => { addr := g.immAddr a i l })

/-- R296, R357: the data register is a single source operand. -/
def execStsB32 (e : Bool) (d a : BitVec 6) (i : BitVec 12) (s : State) : Out1 :=
  .next (s.memInstr e (.stsB32 e d a i) [d.toNat] s.curGroup.sliceLanes fun g l =>
    { addr := g.immAddr a i l, d0 := g.sreg (l / 4) d.toNat })

/-- R296. -/
def execStsB64 (e : Bool) (d a : BitVec 6) (i : BitVec 12) (s : State) : Out1 :=
  .next (s.memInstr e (.stsB64 e d a i) [] s.curGroup.sliceLanes fun g l =>
    { addr := g.immAddr a i l, d0 := g.sreg (l / 4) d.toNat, d1 := g.sreg (l / 4) (d.toNat + 1) })

/-- R298: slices are applied in ascending order; op 2 takes its operands from the pair sb:sb+1. -/
def execSatom (e : Bool) (d a b : BitVec 6) (o p : BitVec 3) (s : State) : Out1 :=
  .next (s.memInstr e (.satom e d a b o p) (if o = 2 then [] else [b.toNat]) s.curGroup.sliceLanes fun g l =>
    { addr := g.spair (l / 4) a.toNat, d0 := g.sreg (l / 4) b.toNat, d1 := g.sreg (l / 4) (b.toNat + 1) })

end Sys2Proof.Machine
end

