-- ==== Sys2Proof/Machine/Shake.lean ====
section
/-! DEFINITION. SHAKE256, by which firmware measures images, packages, descriptors and counter selections (R475, R477,
R479, R480). -/

namespace Sys2Proof.Machine

/-- Rotations of the 25 lanes, lane (x, y) at x + 5 y. -/
def kRot : List Nat := [0, 1, 62, 28, 27, 36, 44, 6, 55, 20, 3, 10, 43, 25, 39, 41, 45, 15, 21, 8, 18, 2, 61, 56, 14]

/-- Constants of the 24 rounds. -/
def kRound : List DWord :=
  [0x0000000000000001, 0x0000000000008082, 0x800000000000808A, 0x8000000080008000, 0x000000000000808B, 0x0000000080000001,
   0x8000000080008081, 0x8000000000008009, 0x000000000000008A, 0x0000000000000088, 0x0000000080008009, 0x000000008000000A]
  ++ [0x000000008000808B, 0x800000000000008B, 0x8000000000008089, 0x8000000000008003, 0x8000000000008002, 0x8000000000000080,
   0x000000000000800A, 0x800000008000000A, 0x8000000080008081, 0x8000000000008080, 0x0000000080000001, 0x8000000080008008]

/-- A lane of a Keccak state. -/
def kLane (a : List DWord) (x y : Nat) : DWord := a.getD (x % 5 + 5 * (y % 5)) 0

/-- One value for each lane. -/
def kLanes (f : Nat → Nat → DWord) : List DWord := (List.range 25).map fun i => f (i % 5) (i / 5)

def kTheta (a : List DWord) : List DWord :=
  let c := (List.range 5).map fun x => kLane a x 0 ^^^ kLane a x 1 ^^^ kLane a x 2 ^^^ kLane a x 3 ^^^ kLane a x 4
  let d := (List.range 5).map fun x => c.getD ((x + 4) % 5) 0 ^^^ (c.getD ((x + 1) % 5) 0).rotateLeft 1
  kLanes fun x y => kLane a x y ^^^ d.getD x 0

def kRhoPi (a : List DWord) : List DWord :=
  kLanes fun x y => (kLane a (x + 3 * y) x).rotateLeft (kRot.getD ((x + 3 * y) % 5 + 5 * x) 0)

def kChi (a : List DWord) : List DWord :=
  kLanes fun x y => kLane a x y ^^^ (~~~(kLane a (x + 1) y) &&& kLane a (x + 2) y)

/-- The permutation of 24 rounds. -/
def keccakF (a : List DWord) : List DWord :=
  kRound.foldl (fun a rc => match kChi (kRhoPi (kTheta a)) with | h :: t => (h ^^^ rc) :: t | [] => []) a

/-- Bytes, lowest first, as one number. -/
def bytesNat (bs : List Byte) : Nat := bs.foldr (fun b n => b.toNat + 256 * n) 0

/-- `n` bytes of a number, lowest first. -/
def natBytes (n v : Nat) : List Byte := (List.range n).map fun k => BitVec.ofNat 8 (v / 256 ^ k)

/-- SHAKE256's padding to blocks of 136 bytes. -/
def shakePad (bs : List Byte) : List Byte :=
  let gap := 135 - bs.length % 136
  if gap = 0 then bs ++ [0x9F] else bs ++ [0x1F] ++ List.replicate (gap - 1) 0 ++ [0x80]

/-- Blocks taken into the state one after another. -/
def kAbsorb : Nat → List Byte → List DWord → List DWord
  | 0, _, a => a
  | n + 1, bs, a =>
    let v := bytesNat (bs.take 136)
    kAbsorb n (bs.drop 136) (keccakF (a.mapIdx fun i x => if i < 17 then x ^^^ BitVec.ofNat 64 (v / 2 ^ (64 * i)) else x))

/-- The first `n` bytes, at most 136, of SHAKE256 of a message. -/
def shake256 (n : Nat) (bs : List Byte) : List Byte :=
  let p := shakePad bs
  let a := kAbsorb (p.length / 136) p (List.replicate 25 0)
  natBytes n (a.foldr (fun x m => x.toNat + 2 ^ 64 * m) 0)

/-- R477, R479, R480: the 512-bit digest. -/
def digest512 (bs : List Byte) : BitVec 512 := BitVec.ofNat 512 (bytesNat (shake256 64 bs))

end Sys2Proof.Machine
end

