-- ==== Sys2Proof/Machine/Debug.lean ====
section
/-! DEFINITION. In-field test, injectors, the trace ring's register, stall samples, debug stops and the counter banks'
registers (R465 to R476). -/

namespace Sys2Proof.Machine

/-! ## In-field test (R465, R466) -/

/-- R465: a tenant's team waits that may come to a core. -/
def State.wanted (s : State) (core : Nat) : Bool :=
  s.launches.any (fun l => match l.2 with
    | some x => (s.partOf x.part).has (core / 4) && !(s.partOf x.part).hold && (s.admissible x core).isSome
    | none => false)
  || s.teams.any fun t => t.2.place == .saved && t.2.ready && (s.partOf t.2.part).has (core / 4) && !(s.partOf t.2.part).hold
      && s.fits t.1 core

/-- R465: a core with no team on its cluster and none that waits for it. -/
def State.idleCore (s : State) (core : Nat) : Bool :=
  let c := s.coreOf core
  !c.withdrawn && !(s.engineOf (core / 4)).out && !c.scrubbing && !c.scrubFail && !(s.teams.any fun t => t.2.onCore && t.2.core / 4 == core / 4) && !s.wanted core && !s.releaseStuck core

/-- R465: a core of the library has failed twice. -/
def State.testFailed (s : State) (core : Nat) : State :=
  let s1 := s.postFault { elem := BitVec.ofNat 32 (core / 64 * 2 ^ 30 + core % 64 * 2 ^ 24), kind := 10 }
  { s1.updCore core fun c => { c with withdrawn := true, testing := false, testFails := 0 } with iftFail := min (s1.iftFail + 1) 255 }

/-! ## Link injectors (R469) -/

/-- R10, R469: a LINJCTL write; a non-zero ACTION arms. A UALink port has lanes 0 to 3. -/
def execLinkInjectorArm (port : Nat) (v : Word) (s : State) : Out1 :=
  let lane := v.toNat / 2 ^ 26 % 16
  let w := if 1 ≤ port ∧ 4 ≤ lane then (v &&& 0xC3FFFFFF) ||| (Sparse.get 0 s.linj port &&& 0x3C000000) else v
  .next (if port < 13 then { s with linj := Sparse.set 0 s.linj port w, linjCnt := Sparse.erase s.linjCnt port } else s)

/-- R469: flit NTH + 1 has been met: the injector has acted once, and clears ACTION. Its effect on the lane is repaired by
the link layer's replay. -/
def execLinkInjection (port : Nat) (s : State) : Out1 :=
  let v := Sparse.get 0 s.linj port
  .next (if v.toNat / 2 ^ 30 = 0 then s
  else { s with linj := Sparse.set 0 s.linj port (v &&& 0x3FFFFFFF), linjCnt := Sparse.set 0 s.linjCnt port (v.toNat % 2 ^ 20 + 1) })

/-! ## Fields (R10) -/

/-- A field of a register: its lowest bit, its width, its reserved encodings. -/
structure Field where
  lo  : Nat
  len : Nat
  bad : Nat → Bool := fun _ => false

/-- R10: a write takes effect field by field; a reserved encoding leaves its field, and other bits are reserved. -/
def setFields (fs : List Field) (old new : Word) : Word :=
  fs.foldl (fun w f =>
    let v := new.toNat / 2 ^ f.lo % 2 ^ f.len
    w ||| BitVec.ofNat 32 ((if f.bad v then old.toNat / 2 ^ f.lo % 2 ^ f.len else v) * 2 ^ f.lo)) 0

def zeroBad (v : Nat) : Bool := v == 0
def ovf (n v : Nat) : Bool := decide (n < v)

/-! ## The trace ring and stall samples (R470 to R472) -/

/-- R470: TRCTL. -/
def trCtlWrite (old v : Word) : Word :=
  setFields [{ lo := 31, len := 1 }, { lo := 26, len := 5, bad := fun n => n < 6 || ovf 16 n }, { lo := 22, len := 4 }, { lo := 8, len := 8 }] old v

/-- R470: a TRHEAD write is taken as a TQHEAD write is under R46; one that is ignored changes no status bit. -/
def execTrheadWrite (part : Nat) (v : Word) (s : State) : Out1 :=
  .next (s.updPart part fun p => if (v - p.trHead).toNat ≤ (p.trTail - p.trHead).toNat then { p with trHead := v } else p)

/-- The issue address of an operation of a group that its counters still hold. -/
def State.opPc (s : State) (u g op : Nat) : DWord :=
  let x := s.groupOf u g
  match (x.rq ++ x.trq).find? fun e => e.op == op && (e.cls.isSome || e.tileOp.isSome) with
  | some e => e.pc
  | none => match (s.teamOf u).ring.find? fun r => r.2.grp == g && r.2.op == op with
    | some r => r.2.pc
    | none => match (s.engines.flatMap fun e => e.2.slots).find? fun k => k.2.uid == u && k.2.grp == g && k.2.op == op && k.2.state == .loading with
      | some k => k.2.pc
      | none => match (s.dies.flatMap fun d => d.2.colls).find? fun c => c.uid == u && c.grp == g && c.op == op with
        | some c => c.pc
        | none => 0

/-- The oldest operation that a `wait` counts. -/
def Counters.oldest (c : Counters) : Option Nat :=
  (c.ld ++ c.st ++ c.cp ++ c.tl).foldl (fun m x => match m with | some o => some (min o x.1) | none => some x.1) none

/-- The lanes of a memory instruction of the slices `sl`, with their addresses (R296, R298, R329). -/
def Group.accessAt (g : Group) (sl : BitVec 8) : Instr → Word × (Nat → DWord)
  | .ld _ k _ a b _ => (g.act sl k.toNat, g.vmAddr a b)
  | .st _ k _ a b _ => (g.act sl k.toNat, g.vmAddr a b)
  | .ldAcq _ k _ a _ _ => (g.act sl k.toNat, g.vtAddr a)
  | .stRel _ k _ a _ _ => (g.act sl k.toNat, g.vtAddr a)
  | .atom _ k _ a _ _ => (g.act sl k.toNat, g.vtAddr a)
  | .red _ k _ a _ _ => (g.act sl k.toNat, g.vtAddr a)
  | .ldsB32 _ _ a i => (g.sliceLanes sl, g.immAddr a i)
  | .ldsB64 _ _ a i => (g.sliceLanes sl, g.immAddr a i)
  | .stsB32 _ _ a i => (g.sliceLanes sl, g.immAddr a i)
  | .stsB64 _ _ a i => (g.sliceLanes sl, g.immAddr a i)
  | .satom _ _ a _ _ _ => (g.sliceLanes sl, fun l => g.spair (l / 4) a.toNat)
  | _ => (0, fun _ => 0)

/-- R37, R207, R397, R403, R472: an instruction of a path finds no counter, replay entry, reservation entry or walk slot free. -/
def State.noRoom (s : State) (u g : Nat) (p : Path) (i : Instr) : Bool :=
  let x := s.groupOf u g
  match memOp i, tileOp i with
  | some op, _ =>
    let at_ := x.accessAt p.slices i
    (!x.inTx && x.ctrFull op.cls 1) || x.queueFull 1 || s.missStall u g op at_.1 at_.2
  | none, some _ => !x.inTx && (x.ctrFull .tl 1 || x.queueFull 1 || !s.tableRoom u 1)
  | none, none => false

/-- What keeps a path's next instruction from being issued (R472, reasons 1 and 7; log 25), where something does. -/
def State.readyReason (s : State) (u g : Nat) (p : Path) : Option (Nat × DWord) :=
  let x := s.groupOf u g
  match (s.fetchNow u g p.pc).2 with
  | none => some (7, p.pc)
  | some (.error _) => none
  | some (.ok w) => match decodeFor x.budget w with
    | .error _ => none
    | .ok i => match x.waitsFor p.slices i with
      | some _ => match x.interlocked p.slices i with
        | some pc => some (1, pc)
        | none => some (7, p.pc)
      | none => if s.noRoom u g p i then some (7, p.pc) else none

/-- R472: REASON and BLAME of a path of a group. -/
def State.sampleReason (s : State) (site u g : Nat) (p : Path) : Nat × DWord :=
  let x := s.groupOf u g
  let r := Sparse.get {} s.runs site
  if x.atTrap then (8, x.frame.pc)
  else if r.on && r.uid == u && r.grp == g && r.slices &&& p.slices != 0 then (s.readyReason u g p).getD (0, 0)
  else match x.sleep, p.stop with
    | some _, _ => (5, x.tx.start)
    | none, .asleep .. => (5, if x.inTx then x.tx.start else 0)
    | none, .wait .. => (3, match x.counters.oldest with | some o => s.opPc u g o | none => 0)
    | none, .couple => (4, 0)
    | none, .fetch _ => (6, p.pc)
    | none, .commit => (7, p.pc)
    | none, _ => match x.rq.find? fun e => e.held with
      | some e => (6, e.pc)
      | none => (s.readyReason u g p).getD (2, 0)

/-- R472: the quarter samples the next of its groups, and a record of KIND 0 tells of the path of its lowest slice. -/
def execStallSample (site : Nat) (s : State) : Out1 :=
  let core := site / 4
  let q := site % 4
  let here := (s.teams.filter fun t => t.2.core == core && t.2.onCore).flatMap fun t =>
    (t.2.groups.filter fun g => g.2.quarter == q && g.2.live != 0).map fun g => (t.2.slot * 32 + g.1, t.1, g.1)
  let least := fun (xs : List (Nat × Nat × Nat)) => xs.foldl (fun (m : Option (Nat × Nat × Nat)) x => match m with
    | some y => if x.1 < y.1 then some x else some y
    | none => some x) none
  let from_ := Sparse.get 0 (s.coreOf core).sample q
  let pick := match least (here.filter fun x => decide (from_ ≤ x.1)) with | some x => some x | none => least here
  .next (match pick with
  | none => s
  | some (k, u, g) =>
    let t := s.teamOf u
    let p := (t.group g).pathOf (1#8 <<< lowSlice (t.group g).live)
    let r := s.sampleReason site u g p
    (s.updCore core fun c => { c with sample := Sparse.set 0 c.sample q (k + 1) }).writeTrace t.part
      (t.traceRec g p.slices 0 r.1 0 p.pc r.2))

/-! ## Debug stops (R473) -/

/-- R473: DBGSTOP names groups by identity: those on the core, else those saved from it; each stops at its next
instruction. -/
def execDbgstop (part : Nat) (v : Word) (s : State) : Out1 :=
  let n := v.toNat
  let core := n / 2 ^ 30 * 64 + n / 2 ^ 24 % 64
  let mine := s.teams.filter fun t => t.2.part == part && t.2.core == core && t.2.slot == n / 2 ^ 21 % 8
  let on := mine.filter fun t => t.2.onCore
  let us := (if on.isEmpty then mine.filter fun t => t.2.place == .saved else on).map fun t => t.1
  .next (if v.getLsbD 0 then
    us.foldl (fun s u => s.updTeam u fun t => { t with
      groups := t.groups.map fun g => (g.1, if v.getLsbD 1 || g.1 == n / 2 ^ 16 % 32 then { g.2 with dbg := true } else g.2) }) s
  else s)

/-! ## Counter banks (R474 to R476) -/

/-- The number of a bank's owner: 128 for the physical function, else the virtual function plus one. -/
def ownerNo (fn : Nat) : Nat := if fn = 127 then 128 else fn + 1

/-- R475: a function that reaches the page of a partition: the physical function, or one of the partition's own. -/
def State.reaches (s : State) (fn part : Nat) : Bool := fn == 127 || (decide (fn < 96) && (s.partOf part).vfmask.getLsbD fn)

def State.updBank (s : State) (part bank : Nat) (f : Bank → Bank) : State :=
  s.updPart part fun p => { p with banks := Sparse.upd {} p.banks bank f }

/-- A write to a bank's register, ignored where the writer does not own the bank. -/
def State.ownBank (s : State) (fn part bank : Nat) (f : Bank → Bank) : State :=
  if s.reaches fn part && decide (bank < 4) && (Sparse.get {} (s.partOf part).banks bank : Bank).owner == ownerNo fn then s.updBank part bank f else s

/-- R475: a claim takes a bank that is FREE. -/
def execCtrClaim (fn part bank : Nat) (s : State) : Out1 :=
  .next (if s.reaches fn part && decide (bank < 4) && (Sparse.get {} (s.partOf part).banks bank : Bank).owner == 0 then
    s.updBank part bank fun b => { b with owner := ownerNo fn }
  else s)

/-- R475: the owner's release zeroes the bank. -/
def execCtrRelease (fn part bank : Nat) (s : State) : Out1 := .next (s.ownBank fn part bank fun _ => {})

/-- R475: catalogue revision of an event. -/
def eventRev (ev : Nat) : Nat := if eventListed ev then 1 else 0

/-- R475: what DIGEST is recomputed to: over the eight selections. -/
def Bank.digestNow (b : Bank) : BitVec 256 :=
  BitVec.ofNat 256 (bytesNat (shake256 32 ((List.range 8).flatMap fun k => natBytes 2 (b.event k) ++ natBytes 2 (eventRev (b.event k)))))

/-- R474, R475: the owner selects a counter's event, and DIGEST is recomputed; what a move had made of the counter is over. -/
def execCtrselWrite (fn part bank k : Nat) (v : Word) (s : State) : Out1 :=
  .next (s.ownBank fn part bank fun b =>
    if k < 8 then
      let c := { b with sel := Sparse.set 0 b.sel k (v &&& 0x8000FFFF), moved := Sparse.erase b.moved k }
      { c with digest := c.digestNow }
    else b)

/-- R10, R476: CAPSEL after a write: a reserved SOURCE leaves that field as it was. -/
def capKeep (old v : Word) : Word :=
  if 6 ≤ v.toNat % 16 then (v &&& 0x80001F00) ||| (old &&& 0xF) else v &&& 0x80001F0F

/-- R476: the owner selects a source, and the capture unit is empty. -/
def execCapselWrite (fn part bank : Nat) (v : Word) (s : State) : Out1 :=
  .next (s.ownBank fn part bank fun b =>
    { b with capSel := capKeep b.capSel v, capMin := 0xFFFFFFFF, capMax := 0, capCnt := 0, bins := [] })

/-- R474: CTRVAL of a counter as its owner reads it. -/
def Bank.value (b : Bank) (k : Nat) : Nat := if b.inv k then 0 else (Sparse.get 0 b.val k).toNat

/-- R474, R476: the word at an offset of a bank as its owner reads it, but for CTRCLAIM. -/
def Bank.word (b : Bank) (off : Nat) : Word :=
  let n := BitVec.ofNat 32
  if off = 0x04 then n ((if b.evset then 2 ^ 31 else 0) + (List.range 8).foldl (fun m k => m + (if b.inv k then 2 ^ k else 0)) 0)
  else if 0x08 ≤ off ∧ off < 0x28 then n (b.digest.toNat / 2 ^ (8 * (off - 8)))
  else if off = 0x28 then b.capSel
  else if off = 0x2C then b.capMin
  else if off = 0x30 then b.capMax
  else if off = 0x34 then b.capCnt
  else if 0x40 ≤ off ∧ off < 0x60 then Sparse.get 0 b.sel ((off - 0x40) / 4)
  else if 0x80 ≤ off ∧ off < 0xC0 then
    let k := (off - 0x80) / 8
    if off % 8 = 0 then n (b.value k) else n (b.value k / 2 ^ 32 + (if b.inv k then 2 ^ 31 else 0))
  else if 0xC0 ≤ off ∧ off < 0x100 then Sparse.get 0 b.bins ((off - 0xC0) / 4)
  else 0

end Sys2Proof.Machine
end

