-- ==== Sys2Proof/Machine/Firmware.lean ====
section
/-! DEFINITION. The firmware complex: policy plug-ins, the commands of the physical function's mailbox, export and import
of a partition, and attestation (R430, R433, R442, R443, R465, R477 to R480). -/

namespace Sys2Proof.Machine

/-! ## Arguments and memory (R478) -/

def State.fwArgOf (s : State) (k : Nat) : Nat := (Sparse.get 0 s.fwArg k).toNat
/-- The address in ARG1 (low half) and ARG2. -/
def State.fwAddr (s : State) : Nat := s.fwArgOf 1 + 2 ^ 32 * s.fwArgOf 2

/-- R478: a command's action has completed: BUSY falls and ERR tells. -/
def State.fwEnd (s : State) (err : Nat) : State := { s with fwBusy := false, fwErr := err }

/-- A range that firmware may address: local device memory, or the host's. -/
def fwRange (a n : Nat) : Bool :=
  decide (a + n ≤ 2 ^ 52) && dpaOk a && dpaOk (a + n - 1) && a / 2 ^ 50 % 4 != 2 && a / 2 ^ 50 == (a + n - 1) / 2 ^ 50

/-- A whole range lies in parcels of a partition. -/
def State.inPart (s : State) (part a n : Nat) : Bool :=
  isLocal a && (List.range ((a + n - 1) / 2 ^ 21 - a / 2 ^ 21 + 1)).all fun k => s.ownerOf (a / 2 ^ 21 + k) == part

/-- No line of a local range is held. -/
def State.rangeFree (s : State) (a n : Nat) : Bool :=
  !isLocal a || (List.range ((a + n - 1) / 128 - a / 128 + 1)).all fun k => !s.blocked (a / 128 + k) noTeam 0

/-- R40: the translations of the pages of a range of host memory for firmware. -/
def State.fwPages (s : State) (acc : Acc) : List Nat → State × Fe Unit
  | [] => (s, .ok ())
  | a :: rest =>
    match s.pfAddr a acc with
    | (s1, .ok _) => State.fwPages s1 acc rest
    | (s1, .fault) => (s1, .fault)
    | (s1, .wait) => (s1, .wait)

/-- R478: a range that firmware may access now, must not access, or has to wait for. -/
def State.fwReach (s : State) (a n : Nat) (acc : Acc) : State × Fe Unit :=
  if !fwRange a n then (s, .fault)
  else if isLocal a then (s, if s.rangeFree a n then .ok () else .wait)
  else s.fwPages acc ((List.range ((a + n - 1) / 4096 - a / 4096 + 1)).map fun k => max a ((a / 4096 + k) * 4096))

/-- Bytes read by firmware, line by line; none where a line is poisoned. -/
def State.fwRead (s : State) : Nat → Nat → Nat → State × Option (List Byte)
  | 0, _, _ => (s, some [])
  | fuel + 1, a, n =>
    if n = 0 then (s, some [])
    else
      let k := min n (128 - a % 128)
      match (if isLocal a then s.readDpa 0 a k 127 3 else (s, some (s.hostRead a k))) with
      | (s1, none) => (s1, none)
      | (s1, some v) =>
        match State.fwRead s1 fuel (a + k) (n - k) with
        | (s2, some bs) => (s2, some (natBytes k v ++ bs))
        | r => r

/-- Bytes written by firmware, line by line. -/
def State.fwWrite (s : State) : Nat → Nat → List Byte → State
  | 0, _, _ => s
  | fuel + 1, a, bs =>
    if bs.isEmpty then s
    else
      let k := min bs.length (128 - a % 128)
      let v := bytesNat (bs.take k)
      State.fwWrite (if isLocal a then s.writeHome a k v 127 3 1 noTeam 0 else s.hostWrite a k v) fuel (a + k) (bs.drop k)

/-- A command that reads `n` bytes at an address: refused where they cannot be addressed, waiting while a line of them is held
or the host's ATS is asked. -/
def State.fwFrom (s : State) (a n err : Nat) (f : State → List Byte → State) : State :=
  match s.fwReach a n .read with
  | (s1, .fault) => s1.fwEnd 2
  | (s1, .wait) => s1
  | (s1, .ok _) =>
    match s1.fwRead (n / 128 + 2) a n with
    | (s2, none) => s2.fwEnd err
    | (s2, some bs) => f s2 bs

/-- The same at the address of ARG1 and ARG2. -/
def State.fwWith (s : State) (n err : Nat) (f : State → List Byte → State) : State := s.fwFrom s.fwAddr n err f

/-- A command that writes what `f` gives at the address of ARG1 and ARG2, and ends. -/
def State.fwPut (s : State) (n : Nat) (f : State → State) : State :=
  match s.fwReach s.fwAddr n .write with
  | (s1, .fault) => s1.fwEnd 2
  | (s1, .wait) => s1
  | (s1, .ok _) => f s1

/-- A field of a byte list, lowest byte first. -/
def fieldOf (bs : List Byte) (lo n : Nat) : Nat := bytesNat ((bs.drop lo).take n)

/-! ## Plug-ins (R477) -/

/-- R477: a run of SELECT longer than 20 µs, or its fault. -/
def execPluginTimeout (part : Nat) (s : State) : Out1 := .next (s.disablePlugin part)

/-- R477: the body length of an image whose header names a partition. -/
def imageLen (part : Nat) (h : List Byte) : Option Nat :=
  let len := fieldOf h 8 4
  if fieldOf h 0 4 = 0x5A370B1E ∧ fieldOf h 4 1 = part ∧ fieldOf h 5 1 < 4 ∧ fieldOf h 6 2 = 0 ∧ len ≤ 61440
      ∧ fieldOf h 12 4 < len ∧ fieldOf h 16 48 = 0 then some len else none

/-- R477: the signature of an image under its key slot. -/
def State.imageSigned (s : State) (slot : Nat) (body sig : List Byte) : Bool :=
  let key := Sparse.get [] s.ownerKeys slot
  (slot == 0 || !key.isEmpty) && Config.mlDsaVerify slot (if slot = 0 then [] else key) (digest512 body) sig

/-- R465: the digest that a test kernel's image carries, where the image is one that Leovoette has signed (log 89). -/
def State.testImage (s : State) (image : List Byte) : Option (BitVec 512) :=
  match imageLen (fieldOf image 4 1) (image.take 64) with
  | some len =>
    if image.length = 64 + len + 3309 ∧ 64 ≤ len ∧ fieldOf image 5 1 = 0 ∧ s.imageSigned 0 (image.take (64 + len)) (image.drop (64 + len)) then
      some (BitVec.ofNat 512 (fieldOf image len 64))
    else none
  | none => none

/-- R465: a signed test kernel is assigned to an idle core, through a scrub for virtual device 127; or the results of the one that
runs there are compared: a mismatch runs it once more. -/
def execIftRun (core : Nat) (given : List Byte) (s : State) : Out1 :=
  let c := s.coreOf core
  .next (if decide (Config.nCores ≤ core) || !s.iftctl.getLsbD 31 then s
  else if !c.testing then
    match s.testImage given with
    | some d => if s.idleCore core then (s.scrubStart core 127).updCore core fun c => { c with testing := true, testFails := 0, testDigest := d } else s
    | none => s
  else if c.scrubbing then s
  else if digest512 given = c.testDigest then
    { s.updCore core fun c => { c with testing := false, testFails := 0 } with iftPass := (s.iftPass + 1) % 4096 }
  else if c.testFails = 0 then s.updCore core fun c => { c with testFails := 1 }
  else s.testFailed core)

/-- R477, R480: a verified image is loaded, and measured. -/
def State.loadPlugin (s : State) (part : Nat) (image : List Byte) : State :=
  s.updPart part fun p => { p with
    plugin := some { image := image }
    measure := digest512 (natBytes 64 p.measure.toNat ++ natBytes 64 (digest512 image).toNat) }

/-- R477, R478: command 0x01. -/
def execFwLoadPlugin (s : State) : Out1 :=
  let part := s.fwArgOf 0
  .next (if 24 ≤ part then s.fwEnd 2
  else if !(s.partOf part).valid then s.fwEnd 6
  else s.fwWith 64 5 fun s1 h =>
    match imageLen part h with
    | none => s1.fwEnd 5
    | some len => s1.fwWith (64 + len + 3309) 5 fun s2 bs =>
      let image := bs.take (64 + len)
      if s2.imageSigned (fieldOf h 5 1) image (bs.drop (64 + len)) then (s2.loadPlugin part image).fwEnd 0 else s2.fwEnd 5)

/-- R478: command 0x02. -/
def execFwUnloadPlugin (s : State) : Out1 :=
  let part := s.fwArgOf 0
  .next (if 24 ≤ part then s.fwEnd 2
  else if (s.partOf part).plugin.isNone then s.fwEnd 6
  else (s.updPart part fun p => { p with plugin := none }).fwEnd 0)

/-! ## Communicators and peers (R431, R433, R436, R442, R443) -/

/-- A member address that names a die. -/
def memberOk (a : Nat) : Bool := decide (a < 4096) && a % 4 != 3

/-- R436: the entry in 32 bytes, with its members still to be read; none where a field is out of range. -/
def commEntry (bs : List Byte) : Option (Nat × Comm) :=
  let w0 := fieldOf bs 0 8
  let w1 := fieldOf bs 8 8
  let w2 := fieldOf bs 16 8
  let nm1 := w2 / 2 ^ 32 % 4096
  if w0 / 2 ^ 48 % 1024 ≠ 0 ∨ w0 / 2 ^ 24 % 256 ≠ 0 ∨ w2 / 2 ^ 44 ≠ 0 ∨ w2 / 2 ^ 12 % 2 ^ 20 ≠ 0 ∨ 24 ≤ w0 / 2 ^ 58 % 32 ∨ nm1 = 0
      ∨ nm1 < w2 % 4096 ∨ !memberOk (w0 / 4096 % 4096) ∨ !memberOk (w0 % 4096) then none
  else some (w0 / 2 ^ 32 % 65536, {
    v := w0.testBit 63, part := w0 / 2 ^ 58 % 32, prim := BitVec.ofNat 12 (w0 / 4096), stby := BitVec.ofNat 12 w0
    term := BitVec.ofNat 32 (w1 / 2 ^ 32), next := BitVec.ofNat 32 w1, nextN := BitVec.ofNat 32 w1
    nm1 := nm1, rank := w2 % 4096, mlist := BitVec.ofNat 64 (fieldOf bs 24 8) })

/-- R442 step 5: an entry that says of a communicator in force what its own entry says, but for NEXT and another standby. -/
def Comm.restandby (c x : Comm) : Bool :=
  c.v && x.v && c.stby != x.stby && { x with stby := c.stby, next := c.next, nextN := c.nextN } ==
    ({ v := true, part := c.part, prim := c.prim, stby := c.stby, term := c.term, next := c.next, nextN := c.nextN, nm1 := c.nm1, rank := c.rank
       mlist := c.mlist, members := c.members } : Comm)

/-- R436: an entry takes its place; what was outstanding under its number fails. One that names a new standby (R442 step 5) takes
effect as that alone (log 7). -/
def State.installComm (s : State) (d c : Nat) (x : Comm) : State :=
  if (s.commOf d c).restandby x then s.updComm d c fun y => { y with stby := x.stby } else (s.commFailDie d c).updComm d c fun _ => x

/-- R436, R478: command 0x03. -/
def execFwInstallCommunicator (s : State) : Out1 :=
  let d := s.fwArgOf 0
  .next (if 3 ≤ d then s.fwEnd 2
  else s.fwWith 32 2 fun s1 bs =>
    match commEntry bs with
    | none => s1.fwEnd 2
    | some (c, x) =>
      let n := 2 * (x.nm1 + 1)
      let a := x.mlist.toNat
      let comms := (s1.dieOf d).comms
      if decide (4096 ≤ comms.length) && !comms.any fun e => e.1 == c then s1.fwEnd 2
      else s1.fwFrom a n 2 fun s2 ms =>
        let members := (List.range (x.nm1 + 1)).map fun k => fieldOf ms (2 * k) 2
        if members.all memberOk then (s2.installComm d c { x with members := members.map fun m => BitVec.ofNat 12 m }).fwEnd 0
        else s2.fwEnd 2)

/-- The die and the communicator that ARG0 names: COMM in bits 15..0, the die in bits 17..16. -/
def State.fwComm (s : State) : Option (Nat × Nat) :=
  let n := s.fwArgOf 0
  let d := n / 65536
  if 3 ≤ d ∨ !((s.dieOf d).comms.any fun e => e.1 == n % 65536) then none else some (d, n % 65536)

/-- R443, R478: command 0x04. -/
def execFwRemoveCommunicator (s : State) : Out1 :=
  .next (match s.fwComm with
  | none => s.fwEnd 2
  | some (d, c) => ((s.commFailDie d c).updDie d fun y => { y with comms := Sparse.erase y.comms c }).fwEnd 0)

/-- R431: an entry in 16 bytes; none where a field is out of range. -/
def patEntry (bs : List Byte) : Option Pat :=
  let w0 := fieldOf bs 0 8
  let w1 := fieldOf bs 8 8
  if w0 / 2 ^ 20 % 2 ^ 35 ≠ 0 ∨ w1 / 2 ^ 48 ≠ 0 ∨ w1 % 65536 ≠ 0 ∨ 24 ≤ w0 / 2 ^ 58 % 32 then none
  else some {
    v := w0.testBit 63, part := w0 / 2 ^ 58 % 32, rd := w0.testBit 57, wr := w0.testBit 56, at_ := w0.testBit 55, size := w0 % 2 ^ 20
    pbase := BitVec.ofNat 64 w1 }

/-- R431, R478: command 0x05: the accelerator in ARG0 bits 13..4, the region in bits 3..0. -/
def execFwWritePeerAccess (s : State) : Out1 :=
  let k := s.fwArgOf 0
  .next (if 2 ^ 14 ≤ k then s.fwEnd 2
  else s.fwWith 16 2 fun s1 bs =>
    match patEntry bs with
    | none => s1.fwEnd 2
    | some e => { s1 with pats := Sparse.set {} s1.pats k e }.fwEnd 0)

/-- R433, R435: command 0x06: a DOWN peer is re-admitted 1 ms after the last request to it. -/
def execFwReadmitPeer (s : State) : Out1 :=
  let a := s.fwArgOf 0
  .next (if 1024 ≤ a then s.fwEnd 2
  else if (s.peerOf a).state ≠ 2 then s.fwEnd 6
  else if s.clock.toNat < (s.peerOf a).lastSent + Config.cyclesPerMs then s
  else (s.updPeer a fun p => { p with state := 1, timeouts := 0 }).fwEnd 0)

/-- R442: command 0x07: failover at the standby. -/
def execFwOrderFailover (s : State) : Out1 :=
  .next (match s.fwComm with
  | none => s.fwEnd 2
  | some (d, c) => (s.elect d c).fwEnd 0)

/-! ## Attestation (R480) -/

/-- R480: the signed bytes of a report. -/
def State.reportBody (s : State) (part : Nat) (nonce : List Byte) : List Byte :=
  let p := s.partOf part
  natBytes 4 0x5A370A77 ++ natBytes 4 part ++ natBytes 8 s.clock.toNat ++ nonce ++ natBytes 64 Config.romDigest.toNat
    ++ natBytes 64 p.measure.toNat ++ natBytes 64 (digest512 p.descBytes).toNat

/-- R480: command 0x08. -/
def execFwAttestationReport (s : State) : Out1 :=
  let part := s.fwArgOf 3
  let a := s.fwAddr
  .next (if 24 ≤ part then s.fwEnd 2
  else if !(s.partOf part).valid then s.fwEnd 6
  else if !fwRange a 3549 || !s.inPart part a 3549 then s.fwEnd 2
  else s.fwWith 32 2 fun s1 nonce => s1.fwPut 3549 fun s2 =>
    let body := s2.reportBody part nonce
    let sig := (Config.mlDsaSign (digest512 body) ++ List.replicate 3309 0).take 3309
    (s2.fwWrite 64 a (body ++ sig)).fwEnd 0)

/-! ## Export, import and hold (R479) -/

/-- R479: a partition is quiescent. -/
def State.quiescent (s : State) (part : Nat) : Bool :=
  let p := s.partOf part
  p.valid
    && s.vdevs.all (fun v => !p.vfmask.getLsbD v.1 || v.2.queues.all fun q => !q.2.en && q.2.busy.isEmpty)
    && !(s.teams.any fun t => t.2.part == part && (t.2.onCore || t.2.place == .saved))
    && !(s.dies.any fun d => d.2.colls.any fun c => (s.teamOf c.uid).part == part)
    && (p.tqPosted ++ p.tqStalled ++ p.tqWait).all fun r => r.fatal

/-- R475, R479: how a package tells a bank's owner. -/
def Part.ownerWord (p : Part) (owner : Nat) : Nat :=
  if owner = 0 then 0
  else if owner = 128 then 2 ^ 30
  else 2 ^ 31 + (List.range (owner - 1)).foldl (fun n v => n + if p.vfmask.getLsbD v then 1 else 0) 0

/-- The 256 bytes of a bank in a package. -/
def Part.bankBytes (p : Part) (k : Nat) : List Byte :=
  let b : Bank := Sparse.get {} p.banks k
  natBytes 4 (p.ownerWord b.owner) ++ (List.range 63).flatMap fun j => natBytes 4 (b.word (4 * (j + 1))).toNat

/-- R473: BPCTL. -/
def Part.bpCtl (p : Part) : Nat := p.bpEn.toNat

/-- R479: the package of a partition. -/
def State.package (s : State) (part : Nat) : List Byte :=
  let p := s.partOf part
  let body := natBytes 4 0x5A370E58 ++ natBytes 4 (part + (if s.accNone then 0 else s.accid) * 65536) ++ natBytes 8 s.clock.toNat ++ List.replicate 16 0
    ++ (List.range 4).flatMap p.bankBytes
    ++ natBytes 4 p.trCtl.toNat ++ (List.range 4).flatMap (fun k => natBytes 8 (Sparse.get 0 p.bpAddr k).toNat) ++ natBytes 4 p.bpCtl
    ++ List.replicate 24 0
  body ++ natBytes 64 (digest512 body).toNat

/-- R479: the residency records of a partition's virtual devices are discarded. -/
def State.dropResidencies (s : State) (part : Nat) : State :=
  let of := fun (v : Nat) => decide (v < 96) && (s.partOf part).vfmask.getLsbD v
  { s with
    engines := s.engines.map fun e => (e.1, { e.2 with slots := e.2.slots.map fun x => if x.2.state != .free && of x.2.vdev then (x.1, x.2.freed) else x })
    vdevs := s.vdevs.map fun v => if of v.1 then (v.1, { v.2 with shadow := [] }) else v
    watch := s.watch.filter fun w => !of w.vdev
    shadowWatch := s.shadowWatch.filter fun w => !of w.vdev }

/-- R479: command 0x09: a quiescent partition's package is written, and the partition is reset and no longer VALID; as for
PARTRST, while a line that its cores would write back is held, it waits (R75). -/
def execExportPart (s : State) : Out1 :=
  let part := s.fwArgOf 0
  let a := s.fwAddr
  .next (if 24 ≤ part ∨ !fwRange a 1184 ∨ (isLocal a ∧ !s.inPart part a 1184) then s.fwEnd 2
  else if !s.quiescent part then s.fwEnd 7
  else if s.partStuck part then s
  else s.fwPut 1184 fun s1 =>
    (((s1.fwWrite 32 a (s1.package part)).dropResidencies part).resetPart part |>.updPart part fun p => { p with valid := false }).fwEnd 0)

/-- R475, R479: a bank as it stands in a package, on this device: its digest recomputed, and the counters whose event and
revision are others here. A DIGEST of 0 is that of a bank of which no counter has been selected. -/
def bankOf (owner : Nat) (bs : List Byte) : Bank :=
  let w := fun off => fieldOf bs off 4
  let sel : Sparse Word := (List.range 8).foldl (fun m k => Sparse.set 0 m k (BitVec.ofNat 32 (w (0x40 + 4 * k)) &&& 0x8000FFFF)) []
  let b : Bank := {
    owner := owner, sel := sel
    val := (List.range 8).foldl (fun m k => Sparse.set 0 m k (BitVec.ofNat 48 (fieldOf bs (0x80 + 8 * k) 6))) []
    capSel := capKeep 0 (BitVec.ofNat 32 (w 0x28)), capMin := BitVec.ofNat 32 (w 0x2C), capMax := BitVec.ofNat 32 (w 0x30), capCnt := BitVec.ofNat 32 (w 0x34)
    bins := (List.range 16).foldl (fun m j => Sparse.set 0 m j (BitVec.ofNat 32 (w (0xC0 + 4 * j)))) [] }
  let inv := fun k => (w (0x84 + 8 * k)).testBit 31
  let was := fieldOf bs 8 32
  let now := b.digestNow
  let other := was != 0 && now.toNat != was
  let seen := (List.range 8).any fun k => inv k != !eventListed (b.event k)
  { b with
    digest := now
    evset := (w 4).testBit 31 || now.toNat != was
    moved := (List.range 8).foldl (fun m k =>
      Sparse.set false m k (eventListed (b.event k) && (inv k || (other && !seen)))) [] }

/-- R479: the owner of a bank at its destination, from the word of the package. -/
def Part.ownerOfWord (p : Part) (w : Nat) : Option Nat :=
  match w / 2 ^ 30 % 4 with
  | 0 => some 0
  | 1 => some 128
  | 2 => (((List.range 96).filter fun v => p.vfmask.getLsbD v)[w % 128]?).map fun v => v + 1
  | _ => none

/-- R479: what a package holds is installed in a partition. -/
def Part.unpack (p : Part) (bs : List Byte) : Part :=
  let bank := fun (k : Nat) =>
    let w := (bs.drop (32 + 256 * k)).take 256
    match p.ownerOfWord (fieldOf w 0 4) with
    | none => ({} : Bank)
    | some 0 => {}
    | some o => bankOf o w
  { p with
    banks := (List.range 4).foldl (fun m k => Sparse.set {} m k (bank k)) []
    trCtl := trCtlWrite p.trCtl (BitVec.ofNat 32 (fieldOf bs 1056 4))
    bpAddr := (List.range 4).foldl (fun m k => Sparse.set 0 m k (BitVec.ofNat 64 (fieldOf bs (1060 + 8 * k) 8))) []
    bpEn := BitVec.ofNat 4 (fieldOf bs 1092 4) }

/-- R479: command 0x0A. -/
def execImportPart (s : State) : Out1 :=
  let part := s.fwArgOf 0
  .next (if 24 ≤ part then s.fwEnd 2
  else if !(s.partOf part).valid || s.teams.any (fun t => t.2.part == part && (t.2.onCore || t.2.place == .saved)) then s.fwEnd 6
  else s.fwWith 1184 8 fun s1 bs =>
    if fieldOf bs 0 4 ≠ 0x5A370E58 ∨ bytesNat (bs.drop 1120) ≠ (digest512 (bs.take 1120)).toNat then s1.fwEnd 8
    else (s1.updPart part fun p => p.unpack bs).fwEnd 0)

/-- R479: command 0x0B: every resident team is saved and stays saved; BUSY falls once they are. -/
def execHold (s : State) : Out1 :=
  let part := s.fwArgOf 0
  .next (if 24 ≤ part then s.fwEnd 2
  else if !(s.partOf part).valid then s.fwEnd 6
  else
    let us := (s.teams.filter fun t => t.2.part == part && t.2.onCore).map fun t => t.1
    let s1 := us.foldl (fun s u => s.requestSave u 2) (s.updPart part fun p => { p with hold := true })
    if us.isEmpty then s1.fwEnd 0 else s1)

/-- R479: command 0x0C. -/
def execRelease (s : State) : Out1 :=
  let part := s.fwArgOf 0
  .next (if 24 ≤ part then s.fwEnd 2
  else if !(s.partOf part).hold then s.fwEnd 6
  else (s.updPart part fun p => { p with hold := false }).fwEnd 0)

/-- R430: command 0x0D: the identifier for the next start-up, or none. -/
def execFwStoreAccid (s : State) : Out1 :=
  let n := s.fwArgOf 0
  .next (if n % 2 ^ 31 / 1024 ≠ 0 then s.fwEnd 2
  else { s with storedAcc := if n.testBit 31 then none else some (n % 1024) }.fwEnd 0)

end Sys2Proof.Machine
end

