-- ==== Sys2Proof/Machine/Boot.lean ====
section
/-! DEFINITION. Start-up, the power monitors and temperature (R55, R118, R430, R481 to R483). -/

namespace Sys2Proof.Machine

/-! ## Start-up (R481) -/

/-- R113, R115: an element dropped before the cadastre is built, with those that its drop implies. -/
def State.dropUp : Nat → State → Elem → State
  | 0, s, _ => s
  | n + 1, s, e =>
    if s.drops.contains e then s
    else
      let s1 := { s with drops := s.drops ++ [e] }.postFault { elem := e.word, kind := 8 }
      match s1.escalates e with
      | some x => State.dropUp n s1 x
      | none => s1

/-- R481 step 2: the stacks train; `failed` holds bit k where stack k's link fails. What a training event has already told
of a stack stands. Failed channels and stacks are dropped. -/
def State.trainStacks (s : State) (failed : Word) : State :=
  (List.range Config.nStacks).foldl (fun s k =>
    let s1 := if (s.stackOf k).trDone then s
      else s.updStack k fun t => { t with trDone := true, trLinkErr := failed.getLsbD k, linkDown := failed.getLsbD k }
    let t := s1.stackOf k
    let es : List Elem := ((List.range 32).filter fun c => t.trFail.getLsbD c).map (fun c => { level := 2, stack := k, chan := c })
      ++ (if t.linkDown then [{ level := 3, stack := k }] else [])
    es.foldl (State.dropUp 4) s1) s

/-- R481: stacks in which no frame can be placed. -/
def State.goneStacks (s : State) : List Nat := (List.range Config.nStacks).filter s.retired

/-- R55, R481 step 3: frames that the cadastre may not use. -/
def State.badFrames (s : State) : List (Nat × Nat) :=
  s.unusable ++ (s.drops.filter fun e => e.level == 0).flatMap fun e => (List.range 4096).map fun r => (e.stack, r * 32 + e.bank)

/-- A position whose frame may not be used takes another, of its stack where one is free; none where there is none. -/
def State.exclude (s : State) (stack frame : Nat) : Option State :=
  match s.frameOwner stack frame with
  | none => some s
  | some (p, j) =>
    let cd := s.cadOf p
    let bad := s.badFrames
    let at_ := fun (k : Nat) => (firstFrom (fun f => s.targetOk (s.target cd.a j k f) j cd.bankx && !bad.contains (k, f)) Config.nFrames 0).map fun f =>
      s.setCad p { cd with a := s.target cd.a j k f }
    match at_ stack with
    | some t => some t
    | none => (s.newStack cd.a j false).bind at_

/-- R55: positions pass from the stack with the fewest free frames to the one with the most until no two stacks differ by
more than one; at most `n` of them. -/
def State.balance : Nat → State → State
  | 0, s => s
  | n + 1, s =>
    let ks := ((List.range Config.nStacks).filter fun k => !s.retired k).map fun k => (k, s.freeFrames k)
    match leastBy (fun x => x.2) ks, leastBy (fun x => Config.nFrames - x.2) ks with
    | some (lo, a), some (hi, b) =>
      if b ≤ a + 1 then s
      else
        let free := firstFrom (s.freeFrame hi) Config.nFrames 0
        let fit := fun (p : Nat) =>
          let l := (s.cadOf p).a
          l.stk.contains lo && !l.stk.contains hi && l.home / 32 != lo
        match free, firstFrom fit (Config.nParcels + Config.nReserved) 0 with
        | some f, some p =>
          let cd := s.cadOf p
          State.balance n (s.setCad p { cd with a := s.target cd.a (cd.a.stk.findIdx fun k => k == lo) hi f })
        | _, _ => s
    | _, _ => s

/-- R55, R481 step 3: the cadastre is built, with one stack left out where one is unavailable; none where it cannot be. -/
def State.buildCadastre (s : State) : Option State :=
  let gone := s.goneStacks
  let s1 : State := { s with bootGone := gone.head?, nospare := !gone.isEmpty }
  (s1.badFrames.foldl (fun (o : Option State) f => o.bind fun t => t.exclude f.1 f.2) (some s1)).map fun t =>
    if s1.badFrames.isEmpty then t else t.balance (s1.badFrames.length + Config.nStacks)

/-- R152, R430, R481 steps 4 and 5: cores pass their first scrub, the stored identifier is loaded, and the queues open. -/
def State.openDevice (s : State) : State :=
  let s1 := (List.range Config.nCores).foldl (fun s c => s.updCore c fun x => { x with scrubDone := true, scrubVdev := 127 }) s
  let s2 : State := match s1.storedAcc with
    | some a => { s1 with accid := a, accNone := false }
    | none => s1
  { s2 with bootStep := 5, bootErr := 0, bootDone := true }

/-- R481: start-up, from a device that has just been reset. A ROM fault stops it in step 1, two stacks lost or a cadastre
that cannot be built in step 3. -/
def execStartUp (failed : Word) (romFault : Bool) (s : State) : Out1 :=
  let s0 := if s.bootDone || s.bootErr != 0 then s.coldReset else s
  .next (if romFault then { s0 with bootStep := 0, bootErr := 1, bootDone := false }
  else
    let s1 := s0.trainStacks failed
    if 2 ≤ s1.goneStacks.length then { s1 with bootStep := 2, bootErr := 2, bootDone := false }
    else match s1.buildCadastre with
      | none => { s1 with bootStep := 2, bootErr := 3, bootDone := false }
      | some s2 => s2.openDevice)

/-! ## Power and temperature (R482, R483) -/

/-- R482: a millisecond's average, in W: three dies, twelve stacks and the module. -/
def execPwrmonUpdate (i avg : Nat) (s : State) : Out1 :=
  .next (if 16 ≤ i then s
  else { s with pwrAvg := Sparse.set 0 s.pwrAvg i (avg % 65536), pwrPeak := Sparse.upd 0 s.pwrPeak i fun p => max p (avg % 65536) })

/-- R482: a write of any value clears PEAK. -/
def execPwrmonWrite (i : Nat) (s : State) : Out1 := .next { s with pwrPeak := Sparse.erase s.pwrPeak i }

/-- R113, R483: a die at its junction limit inserts an idle issue slot; a stack at its limit is dropped. -/
def execThermalLimit (isStack : Bool) (i : Nat) (s : State) : Out1 :=
  .next (if isStack then
    if i < Config.nStacks && !s.drops.contains { level := 3, stack := i } then s.drop { level := 3, stack := i } else s
  else if i < Config.nDies then s.updDie i fun d => { d with thermSlots := min (d.thermSlots + 1) (2 ^ 24 - 1) }
  else s)

end Sys2Proof.Machine
end

