-- ==== Sys2Proof/Machine/LaneFloat.lean ====
section
/-! DEFINITION. FP32, packed 16-bit and conversion instructions of the lane set (R307 to R312, R318, R322). -/

namespace Sys2Proof.Machine

/-- R304, R305: a lane-set arithmetic instruction `i` on checked units `us`: `f` gives the group's change for the active
lanes under mask `k`, and `adv` the advance of the streams it reads. -/
def laneOp (us : List Nat) (e : Bool) (k : BitVec 3) (i : Instr) (data : Group → Nat → LaneRec) (f : Group → Word → Group)
    (adv : Word → Group → Group := fun _ g => g) (s : State) : Out1 :=
  let g := s.curGroup
  let act := g.act s.run.slices k.toNat
  .next (s.checked us e (encode i) act (adv act) (data g) fun s => s.updCur fun g => f g act)

/-- Source values of a three-register form, for the entry of R412. -/
def data3 (d a b : BitVec 7) (g : Group) (l : Nat) : LaneRec :=
  { d0 := g.vreg a.toNat l, d1 := g.vreg b.toNat l, d2 := g.vreg d.toNat l }

def data1 (a : BitVec 7) (g : Group) (l : Nat) : LaneRec := { d0 := g.vreg a.toNat l }

/-- V[vd][l] := f(rounding mode, V[va][l], V[vb][l], V[vd][l]) in every active lane, all sources read first. -/
def lane3 (us : List Nat) (e : Bool) (k : BitVec 3) (d a b : BitVec 7) (i : Instr) (f : Nat → Word → Word → Word → Word) : State → Out1 :=
  laneOp us e k i (data3 d a b) fun g act =>
    g.writeV act d.toNat fun l => f g.fmode.toNat (g.vreg a.toNat l) (g.vreg b.toNat l) (g.vreg d.toNat l)

/-- V[vd][l] := f(rounding mode, V[va][l]). -/
def lane1 (us : List Nat) (e : Bool) (k : BitVec 3) (d a : BitVec 7) (i : Instr) (f : Nat → Word → Word) : State → Out1 :=
  laneOp us e k i (data1 a) fun g act => g.writeV act d.toNat fun l => f g.fmode.toNat (g.vreg a.toNat l)

/-- R242, R244: as `lane3` with a clamp that sets the lane's SATF bit. -/
def lane3s (us : List Nat) (e : Bool) (k : BitVec 3) (d a b : BitVec 7) (i : Instr) (f : Word → Word → Word → Word × Bool) : State → Out1 :=
  laneOp us e k i (data3 d a b) fun g act =>
    let r := fun l => f (g.vreg a.toNat l) (g.vreg b.toNat l) (g.vreg d.toNat l)
    (g.writeV act d.toNat fun l => (r l).1).setSat (act &&& wordOfBits fun l => (r l).2)

/-- R309, R314: a comparison writes the active bits of M[md]. -/
def laneCmp (us : List Nat) (e : Bool) (k : BitVec 3) (m : BitVec 3) (a b : BitVec 7) (i : Instr) (f : Word → Word → Bool) : State → Out1 :=
  laneOp us e k i (data3 a a b) fun g act =>
    g.setMask m.toNat act (wordOfBits fun l => f (g.vreg a.toNat l) (g.vreg b.toNat l))

/-- R307. -/
def execFadd (e : Bool) (k : BitVec 3) (d a b : BitVec 7) : State → Out1 :=
  lane3 [0] e k d a b (.fadd e k d a b) fun rm a b _ => faddW rm a b

/-- R307. -/
def execFsub (e : Bool) (k : BitVec 3) (d a b : BitVec 7) : State → Out1 :=
  lane3 [0] e k d a b (.fsub e k d a b) fun rm a b _ => fsubW rm a b

/-- R307. -/
def execFmul (e : Bool) (k : BitVec 3) (d a b : BitVec 7) : State → Out1 :=
  lane3 [1] e k d a b (.fmul e k d a b) fun rm a b _ => fmulW rm a b

/-- R307: one rounding. -/
def execFfma (e : Bool) (k : BitVec 3) (d a b : BitVec 7) : State → Out1 :=
  lane3 [1, 0] e k d a b (.ffma e k d a b) fun rm a b c => ffmaW rm a b c

/-- R308. -/
def execFmin (e : Bool) (k : BitVec 3) (d a b : BitVec 7) : State → Out1 :=
  lane3 [0] e k d a b (.fmin e k d a b) fun _ a b _ => fminW a b

/-- R308. -/
def execFmax (e : Bool) (k : BitVec 3) (d a b : BitVec 7) : State → Out1 :=
  lane3 [0] e k d a b (.fmax e k d a b) fun _ a b _ => fmaxW a b

/-- R309. -/
def execFcmp (e : Bool) (k : BitVec 3) (m : BitVec 3) (c : BitVec 4) (a b : BitVec 7) : State → Out1 :=
  laneCmp [0] e k m a b (.fcmp e k m c a b) (fcond c.toNat)

/-- R310. -/
def execFneg (e : Bool) (k : BitVec 3) (d a : BitVec 7) : State → Out1 :=
  lane1 [2] e k d a (.fneg e k d a) fun _ a => if (f32 a).isNan then nan32 else a ^^^ 0x80000000#32

/-- R310. -/
def execFabs (e : Bool) (k : BitVec 3) (d a : BitVec 7) : State → Out1 :=
  lane1 [2] e k d a (.fabs e k d a) fun _ a => if (f32 a).isNan then nan32 else a &&& 0x7FFFFFFF#32

/-- R310. -/
def execFsqrt (e : Bool) (k : BitVec 3) (d a : BitVec 7) : State → Out1 :=
  lane1 [1, 0] e k d a (.fsqrt e k d a) fun rm a => toF32 rm (f32 a).sqrt

/-- R310. -/
def execFrcp (e : Bool) (k : BitVec 3) (d a : BitVec 7) : State → Out1 :=
  lane1 [1, 0] e k d a (.frcp e k d a) fun rm a => toF32 rm (f32 a).recip

/-- R310. -/
def execFrsqrt (e : Bool) (k : BitVec 3) (d a : BitVec 7) : State → Out1 :=
  lane1 [1, 0] e k d a (.frsqrt e k d a) fun rm a => toF32 rm (f32 a).rsqrt

/-- R310. -/
def execFexp2 (e : Bool) (k : BitVec 3) (d a : BitVec 7) : State → Out1 :=
  lane1 [1, 0] e k d a (.fexp2 e k d a) fun rm a => toF32 rm (f32 a).exp2

/-- R310. -/
def execFlog2 (e : Bool) (k : BitVec 3) (d a : BitVec 7) : State → Out1 :=
  lane1 [1, 0] e k d a (.flog2 e k d a) fun rm a => toF32 rm (f32 a).log2

/-- R310. -/
def execFsin (e : Bool) (k : BitVec 3) (d a : BitVec 7) : State → Out1 :=
  lane1 [1, 0] e k d a (.fsin e k d a) fun rm a => toF32 rm ((f32 a).sinCos false)

/-- R310. -/
def execFcos (e : Bool) (k : BitVec 3) (d a : BitVec 7) : State → Out1 :=
  lane1 [1, 0] e k d a (.fcos e k d a) fun rm a => toF32 rm ((f32 a).sinCos true)

/-- R310. -/
def execFrint (e : Bool) (k : BitVec 3) (d a : BitVec 7) : State → Out1 :=
  lane1 [0] e k d a (.frint e k d a) fun rm a => frintW rm a

/-- R310. -/
def execFfloor (e : Bool) (k : BitVec 3) (d a : BitVec 7) : State → Out1 :=
  lane1 [0] e k d a (.ffloor e k d a) fun _ a => frintW 2 a

/-- R310. -/
def execFceil (e : Bool) (k : BitVec 3) (d a : BitVec 7) : State → Out1 :=
  lane1 [0] e k d a (.fceil e k d a) fun _ a => frintW 3 a

/-- R310. -/
def execFtrunc (e : Bool) (k : BitVec 3) (d a : BitVec 7) : State → Out1 :=
  lane1 [0] e k d a (.ftrunc e k d a) fun _ a => frintW 1 a

/-- R311. -/
def execFclass (e : Bool) (k : BitVec 3) (d a : BitVec 7) : State → Out1 :=
  lane1 [2] e k d a (.fclass e k d a) fun _ a => fclassW a

/-- R318: mk selects; every live lane of the issuing slices is written. -/
def execSel (e : Bool) (k : BitVec 3) (d a b : BitVec 7) (s : State) : Out1 :=
  let g := s.curGroup
  let act := g.liveLanes s.run.slices
  .next (s.checked [2] e (encode (.sel e k d a b)) act id (data3 d a b g) fun s => s.updCur fun g =>
    g.writeV act d.toNat fun l => if (g.mask k.toNat).getLsbD l then g.vreg a.toNat l else g.vreg b.toNat l)

/-- R312: FP16 halves. -/
def execHfma2 (e : Bool) (k : BitVec 3) (d a b : BitVec 7) : State → Out1 :=
  lane3 [1, 0] e k d a b (.hfma2 e k d a b) fun rm a b c => fma2W .f16 rm a b c

/-- R312: BF16 halves. -/
def execBfma2 (e : Bool) (k : BitVec 3) (d a b : BitVec 7) : State → Out1 :=
  lane3 [1, 0] e k d a b (.bfma2 e k d a b) fun rm a b c => fma2W .bf16 rm a b c

/-- R322, R260: RMO 0 takes FMODE.RM, 1 RNE, 2 RTZ. -/
def execCvt (e : Bool) (k : BitVec 3) (d a : BitVec 7) (c : BitVec 5) (r : BitVec 2) : State → Out1 :=
  laneOp [2] e k (.cvt e k d a c r) (data1 a) fun g act =>
    let rm := if r = 0 then g.fmode.toNat else r.toNat - 1
    let v := fun l => cvtW c.toNat rm (g.vreg a.toNat l)
    (g.writeV act d.toNat fun l => (v l).1).setSat (act &&& wordOfBits fun l => (v l).2)

end Sys2Proof.Machine
end

