-- ==== Sys2Proof/Machine/CrossLane.lean ====
section
/-! DEFINITION. Cross-lane instructions (R306, R323 to R327). -/

namespace Sys2Proof.Machine

/-- R306: P(l), the live lanes of the path that issues lane l. -/
def Group.present (g : Group) (sl : BitVec 8) (l : Nat) : Word :=
  g.liveLanes ((g.pathOf (sl &&& (1#8 <<< (l / 4)))).slices &&& sl)

/-- R323: the source lane of lane `l`, before presence is looked at; none where it lies outside 0..31. -/
def slideFrom (fill : Nat) (down : Bool) (n l : Nat) : Option Nat :=
  let j : Int := if down then (l : Int) + n else (l : Int) - n
  if fill = 2 then some (j % 32).toNat else if 0 ≤ j ∧ j ≤ 31 then some j.toNat else none

/-- R323: fill 0 keep, 1 zero, 2 wrap; count 0 stands for 16. -/
def execSlide (e : Bool) (k : BitVec 3) (d a : BitVec 7) (f : BitVec 2) (g : BitVec 1) (n : BitVec 4) (s : State) : Out1 :=
  let sl := s.run.slices
  let c := if n = 0 then 16 else n.toNat
  laneOp [3] e k (.slide e k d a f g n) (data1 a) (fun x act =>
    x.writeV act d.toNat fun l =>
      let here := match slideFrom f.toNat (g == 1) c l with
        | some j => if (x.present sl l).getLsbD j then some j else none
        | none => none
      match here with
      | some j => x.vreg a.toNat j
      | none => if f = 0 then x.vreg d.toNat l else 0) (s := s)

/-- R324. -/
def execShfl (e : Bool) (k : BitVec 3) (d a b : BitVec 7) (s : State) : Out1 :=
  let sl := s.run.slices
  laneOp [3] e k (.shfl e k d a b) (data3 d a b) (fun x act =>
    x.writeV act d.toNat fun l =>
      let j := (x.vreg b.toNat l).toNat % 32
      if (x.present sl l).getLsbD j then x.vreg a.toNat j else 0) (s := s)

/-- R325: S[sd] of every issuing slice, one result for each path. -/
def tosOp (e : Bool) (k : BitVec 3) (d : BitVec 6) (a : BitVec 7) (i : Instr) (f : Group → Word → Word → Word) (s : State) : Out1 :=
  let sl := s.run.slices
  let g := s.curGroup
  let act := g.act sl k.toNat
  .next (s.checked [0] e (encode i) act id (data1 a g) fun s => s.updCur fun x =>
    x.writeS sl d.toNat fun j => f x act (x.present sl (4 * j)))

/-- R325: lane n's value, or 0 where it is not present. -/
def execTosLane (e : Bool) (d : BitVec 6) (a : BitVec 7) (n : BitVec 5) : State → Out1 :=
  tosOp e 0 d a (.tosLane e d a n) fun x _ p => if p.getLsbD n.toNat then x.vreg a.toNat n.toNat else 0

/-- R325: a reduction over the active present lanes. -/
def execTosReduce (e : Bool) (k : BitVec 3) (d : BitVec 6) (a f : BitVec 7) : State → Out1 :=
  tosOp e k d a (.tosReduce e k d a f) fun x act p => tosFold f.toNat ((laneList (act &&& p)).map fun l => x.vreg a.toNat l)

/-- R326, R304: with an empty `act` a bound sa is neither read nor advanced. -/
def execTov (e : Bool) (k : BitVec 3) (d : BitVec 7) (sa : BitVec 6) : State → Out1 :=
  laneOp [3] e k (.tov e k d sa) (fun g l => { d0 := g.sreg (l / 4) sa.toNat }) (fun g act =>
    if act = 0 then g
    else (g.writeV act d.toNat fun l => g.sreg (l / 4) sa.toNat).advance [sa.toNat])
    fun act g => if act = 0 then g else g.advance [sa.toNat]

/-- R327: combination in ascending lane order over the active lanes of the lane's path. -/
def execScan (e : Bool) (k : BitVec 3) (d a f : BitVec 7) (s : State) : Out1 :=
  let sl := s.run.slices
  laneOp [0] e k (.scan e k d a f) (data1 a) (fun x act =>
    x.writeV act d.toNat fun l =>
      let from_ := (laneList (act &&& x.present sl l)).filter fun j => if f = 1 then decide (j < l) else decide (j ≤ l)
      scanFold f.toNat (from_.map fun j => x.vreg a.toNat j)) (s := s)

end Sys2Proof.Machine
end

