-- ==== Sys2Proof/Machine/LaneInt.lean ====
section
/-! DEFINITION. Integer, immediate, packed and dot-product instructions of the lane set (R313 to R317, R319 to R321). -/

namespace Sys2Proof.Machine

/-- R313. -/
def execIadd (e : Bool) (k : BitVec 3) (d a b : BitVec 7) : State → Out1 :=
  lane3 [0] e k d a b (.iadd e k d a b) fun _ a b _ => a + b

/-- R313. -/
def execIsub (e : Bool) (k : BitVec 3) (d a b : BitVec 7) : State → Out1 :=
  lane3 [0] e k d a b (.isub e k d a b) fun _ a b _ => a - b

/-- R313. -/
def execImul (e : Bool) (k : BitVec 3) (d a b : BitVec 7) : State → Out1 :=
  lane3 [1] e k d a b (.imul e k d a b) fun _ a b _ => a * b

/-- R313. -/
def execImulh (e : Bool) (k : BitVec 3) (d a b : BitVec 7) : State → Out1 :=
  lane3 [1] e k d a b (.imulh e k d a b) fun _ a b _ => mulhsW a b

/-- R313. -/
def execUmulh (e : Bool) (k : BitVec 3) (d a b : BitVec 7) : State → Out1 :=
  lane3 [1] e k d a b (.umulh e k d a b) fun _ a b _ => mulhuW a b

/-- R313. -/
def execImad (e : Bool) (k : BitVec 3) (d a b : BitVec 7) : State → Out1 :=
  lane3 [1, 0] e k d a b (.imad e k d a b) fun _ a b c => a * b + c

/-- R313. -/
def execAndLane (e : Bool) (k : BitVec 3) (d a b : BitVec 7) : State → Out1 :=
  lane3 [2] e k d a b (.andLane e k d a b) fun _ a b _ => a &&& b

/-- R313. -/
def execOrLane (e : Bool) (k : BitVec 3) (d a b : BitVec 7) : State → Out1 :=
  lane3 [2] e k d a b (.orLane e k d a b) fun _ a b _ => a ||| b

/-- R313. -/
def execXorLane (e : Bool) (k : BitVec 3) (d a b : BitVec 7) : State → Out1 :=
  lane3 [2] e k d a b (.xorLane e k d a b) fun _ a b _ => a ^^^ b

/-- R313. -/
def execShlLane (e : Bool) (k : BitVec 3) (d a b : BitVec 7) : State → Out1 :=
  lane3 [2] e k d a b (.shlLane e k d a b) fun _ a b _ => shlW a b

/-- R313. -/
def execShrLane (e : Bool) (k : BitVec 3) (d a b : BitVec 7) : State → Out1 :=
  lane3 [2] e k d a b (.shrLane e k d a b) fun _ a b _ => shrW a b

/-- R313. -/
def execSraLane (e : Bool) (k : BitVec 3) (d a b : BitVec 7) : State → Out1 :=
  lane3 [2] e k d a b (.sraLane e k d a b) fun _ a b _ => sraW a b

/-- R313. -/
def execImin (e : Bool) (k : BitVec 3) (d a b : BitVec 7) : State → Out1 :=
  lane3 [0] e k d a b (.imin e k d a b) fun _ a b _ => sminW a b

/-- R313. -/
def execImax (e : Bool) (k : BitVec 3) (d a b : BitVec 7) : State → Out1 :=
  lane3 [0] e k d a b (.imax e k d a b) fun _ a b _ => smaxW a b

/-- R313. -/
def execUmin (e : Bool) (k : BitVec 3) (d a b : BitVec 7) : State → Out1 :=
  lane3 [0] e k d a b (.umin e k d a b) fun _ a b _ => uminW a b

/-- R313. -/
def execUmax (e : Bool) (k : BitVec 3) (d a b : BitVec 7) : State → Out1 :=
  lane3 [0] e k d a b (.umax e k d a b) fun _ a b _ => umaxW a b

/-- R314. -/
def execIcmp (e : Bool) (k : BitVec 3) (m : BitVec 3) (c : BitVec 4) (a b : BitVec 7) : State → Out1 :=
  laneCmp [0] e k m a b (.icmp e k m c a b) (icond c.toNat)

/-- R315. -/
def execIneg (e : Bool) (k : BitVec 3) (d a : BitVec 7) : State → Out1 :=
  lane1 [0] e k d a (.ineg e k d a) fun _ a => -a

/-- R315. -/
def execIabs (e : Bool) (k : BitVec 3) (d a : BitVec 7) : State → Out1 :=
  lane1 [0] e k d a (.iabs e k d a) fun _ a => iabsW a

/-- R315. -/
def execNotLane (e : Bool) (k : BitVec 3) (d a : BitVec 7) : State → Out1 :=
  lane1 [2] e k d a (.notLane e k d a) fun _ a => ~~~a

/-- R315. -/
def execPopcLane (e : Bool) (k : BitVec 3) (d a : BitVec 7) : State → Out1 :=
  lane1 [2] e k d a (.popcLane e k d a) fun _ a => popcW a

/-- R315. -/
def execClzLane (e : Bool) (k : BitVec 3) (d a : BitVec 7) : State → Out1 :=
  lane1 [2] e k d a (.clzLane e k d a) fun _ a => clzW a

/-- R315. -/
def execCtzLane (e : Bool) (k : BitVec 3) (d a : BitVec 7) : State → Out1 :=
  lane1 [2] e k d a (.ctzLane e k d a) fun _ a => ctzW a

/-- R315. -/
def execBrev (e : Bool) (k : BitVec 3) (d a : BitVec 7) : State → Out1 :=
  lane1 [2] e k d a (.brev e k d a) fun _ a => brevW a

/-- R315. -/
def execBswap (e : Bool) (k : BitVec 3) (d a : BitVec 7) : State → Out1 :=
  lane1 [2] e k d a (.bswap e k d a) fun _ a => bswapW a

/-- R315. -/
def execSext8 (e : Bool) (k : BitVec 3) (d a : BitVec 7) : State → Out1 :=
  lane1 [2] e k d a (.sext8 e k d a) fun _ a => sextW 8 a

/-- R315. -/
def execSext16 (e : Bool) (k : BitVec 3) (d a : BitVec 7) : State → Out1 :=
  lane1 [2] e k d a (.sext16 e k d a) fun _ a => sextW 16 a

/-- R315. -/
def execZext8 (e : Bool) (k : BitVec 3) (d a : BitVec 7) : State → Out1 :=
  lane1 [2] e k d a (.zext8 e k d a) fun _ a => zextW 8 a

/-- R315. -/
def execZext16 (e : Bool) (k : BitVec 3) (d a : BitVec 7) : State → Out1 :=
  lane1 [2] e k d a (.zext16 e k d a) fun _ a => zextW 16 a

/-- R315: the lane's index. -/
def execLaneid (e : Bool) (k : BitVec 3) (d : BitVec 7) : State → Out1 :=
  laneOp [2] e k (.laneid e k d) (fun _ _ => {}) fun g act => g.writeV act d.toNat fun l => BitVec.ofNat 32 l

/-- R316. -/
def execBfx (e : Bool) (k : BitVec 3) (d a b : BitVec 7) : State → Out1 :=
  lane3 [2] e k d a b (.bfx e k d a b) fun _ a b _ => bfxW a b

/-- R316. -/
def execBfi (e : Bool) (k : BitVec 3) (d a b : BitVec 7) : State → Out1 :=
  lane3 [2] e k d a b (.bfi e k d a b) fun _ a b c => bfiW a b c

/-- R317. -/
def execIaddi (e : Bool) (k : BitVec 3) (d a : BitVec 7) (i : BitVec 7) : State → Out1 :=
  lane1 [0] e k d a (.iaddi e k d a i) fun _ a => a + sext7 i

/-- R317. -/
def execImuli (e : Bool) (k : BitVec 3) (d a : BitVec 7) (i : BitVec 7) : State → Out1 :=
  lane1 [1] e k d a (.imuli e k d a i) fun _ a => a * sext7 i

/-- R317. -/
def execAndiLane (e : Bool) (k : BitVec 3) (d a : BitVec 7) (i : BitVec 7) : State → Out1 :=
  lane1 [2] e k d a (.andiLane e k d a i) fun _ a => a &&& zext7 i

/-- R317. -/
def execOriLane (e : Bool) (k : BitVec 3) (d a : BitVec 7) (i : BitVec 7) : State → Out1 :=
  lane1 [2] e k d a (.oriLane e k d a i) fun _ a => a ||| zext7 i

/-- R317. -/
def execXoriLane (e : Bool) (k : BitVec 3) (d a : BitVec 7) (i : BitVec 7) : State → Out1 :=
  lane1 [2] e k d a (.xoriLane e k d a i) fun _ a => a ^^^ zext7 i

/-- R317. -/
def execShliLane (e : Bool) (k : BitVec 3) (d a : BitVec 7) (i : BitVec 5) : State → Out1 :=
  lane1 [2] e k d a (.shliLane e k d a i) fun _ a => a <<< i.toNat

/-- R317. -/
def execShriLane (e : Bool) (k : BitVec 3) (d a : BitVec 7) (i : BitVec 5) : State → Out1 :=
  lane1 [2] e k d a (.shriLane e k d a i) fun _ a => a >>> i.toNat

/-- R317. -/
def execSraiLane (e : Bool) (k : BitVec 3) (d a : BitVec 7) (i : BitVec 5) : State → Out1 :=
  lane1 [2] e k d a (.sraiLane e k d a i) fun _ a => a.sshiftRight i.toNat

/-- R317. -/
def execSrni (e : Bool) (k : BitVec 3) (d a : BitVec 7) (i : BitVec 5) : State → Out1 :=
  lane1 [2] e k d a (.srni e k d a i) fun _ a => srniW a i.toNat

/-- R319. -/
def execAdd2s (e : Bool) (k : BitVec 3) (d a b : BitVec 7) : State → Out1 :=
  lane3s [0] e k d a b (.add2s e k d a b) fun a b _ => add2W false a b

/-- R319. -/
def execSub2s (e : Bool) (k : BitVec 3) (d a b : BitVec 7) : State → Out1 :=
  lane3s [0] e k d a b (.sub2s e k d a b) fun a b _ => add2W true a b

/-- R320: vb names v0 to v63. -/
def execDot2S (e : Bool) (k : BitVec 3) (d a : BitVec 7) (b : BitVec 6) : State → Out1 :=
  lane3s [1, 0] e k d a (b.setWidth 7) (.dot2S e k d a b) (dotW true 16)

/-- R320: vb names v0 to v63. -/
def execDot2U (e : Bool) (k : BitVec 3) (d a : BitVec 7) (b : BitVec 6) : State → Out1 :=
  lane3s [1, 0] e k d a (b.setWidth 7) (.dot2U e k d a b) (dotW false 16)

/-- R320: vb names v0 to v63. -/
def execDot4S (e : Bool) (k : BitVec 3) (d a : BitVec 7) (b : BitVec 6) : State → Out1 :=
  lane3s [1, 0] e k d a (b.setWidth 7) (.dot4S e k d a b) (dotW true 8)

/-- R320: vb names v0 to v63. -/
def execDot4U (e : Bool) (k : BitVec 3) (d a : BitVec 7) (b : BitVec 6) : State → Out1 :=
  lane3s [1, 0] e k d a (b.setWidth 7) (.dot4U e k d a b) (dotW false 8)

/-- R320: vb names v0 to v63. -/
def execDot8S (e : Bool) (k : BitVec 3) (d a : BitVec 7) (b : BitVec 6) : State → Out1 :=
  lane3s [1, 0] e k d a (b.setWidth 7) (.dot8S e k d a b) (dotW true 4)

/-- R320: vb names v0 to v63. -/
def execDot8U (e : Bool) (k : BitVec 3) (d a : BitVec 7) (b : BitVec 6) : State → Out1 :=
  lane3s [1, 0] e k d a (b.setWidth 7) (.dot8U e k d a b) (dotW false 4)

/-- R321. -/
def execFdot4E4m3 (e : Bool) (k : BitVec 3) (d a : BitVec 7) (b : BitVec 6) : State → Out1 :=
  lane3 [1, 0] e k d a (b.setWidth 7) (.fdot4E4m3 e k d a b) fun _ a b c => fdotW .e4m3 8 a b c

/-- R321. -/
def execFdot4E5m2 (e : Bool) (k : BitVec 3) (d a : BitVec 7) (b : BitVec 6) : State → Out1 :=
  lane3 [1, 0] e k d a (b.setWidth 7) (.fdot4E5m2 e k d a b) fun _ a b c => fdotW .e5m2 8 a b c

/-- R321. -/
def execFdot8 (e : Bool) (k : BitVec 3) (d a : BitVec 7) (b : BitVec 6) : State → Out1 :=
  lane3 [1, 0] e k d a (b.setWidth 7) (.fdot8 e k d a b) fun _ a b c => fdotW .e2m1 4 a b c

end Sys2Proof.Machine
end

