-- ==== Sys2Proof/Machine/Regs.lean ====
section
/-! DEFINITION. The registers as they are written and read through the pages of the functions and by firmware (R9, R10,
R45 to R48, R82 to R85, R100, R101, R104, R106, R108, R109, R114, R116, R117, R119, R135, R136, R143, R364, R380 to R383,
R396, R428 to R430, R435, R463, R466 to R476, R478, R481 to R483). -/

namespace Sys2Proof.Machine

/-- The state that a meaning answers. -/
def nextOr (o : Out1) (s : State) : State := match o with | .next t => t | _ => s

/-- A 64-bit register of which one half is written. -/
def setHalf (old : DWord) (high : Bool) (v : Word) : DWord :=
  if high then (old &&& 0xFFFFFFFF) ||| (v.setWidth 64 <<< 32) else (old &&& 0xFFFFFFFF00000000) ||| v.setWidth 64

/-! ## The partition control page (R383) -/

/-- R48: TQSTAT's W1C bits. -/
def Part.tqStatWrite (p : Part) (v : Word) : Part :=
  { p with
    tqFovf := p.tqFovf && !v.getLsbD 31, tqLost := if v.getLsbD 31 then 0 else p.tqLost
    tqBadHead := p.tqBadHead && !v.getLsbD 29, tqRingf := p.tqRingf && !v.getLsbD 28 }

/-- R474 to R476: a write to a counter bank. -/
def State.bankWrite (s : State) (fn part bank off : Nat) (v : Word) : State :=
  if off = 0 then
    let s1 := (if v.getLsbD 1 then nextOr (execCtrRelease fn part bank s) s else s)
    (if v.getLsbD 0 then nextOr (execCtrClaim fn part bank s1) s1 else s1)
  else if off = 4 then (if v.getLsbD 31 then s.updBank part bank fun b => { b with evset := false } else s)
  else if off = 0x28 then nextOr (execCapselWrite fn part bank v s) s
  else if 0x40 ≤ off ∧ off < 0x60 then nextOr (execCtrselWrite fn part bank ((off - 0x40) / 4) v s) s
  else if 0x80 ≤ off ∧ off < 0xC0 then
    let half := fun (x : BitVec 48) =>
      BitVec.ofNat 48 (if off % 8 = 0 then x.toNat / 2 ^ 32 * 2 ^ 32 + v.toNat else v.toNat % 65536 * 2 ^ 32 + x.toNat % 2 ^ 32)
    s.ownBank fn part bank fun b => { b with val := Sparse.upd 0 b.val ((off - 0x80) / 8) half }
  else s

/-- R383: a write through a partition's control page; what is not listed there is RO. -/
def State.pageWrite (s : State) (fn part off : Nat) (v : Word) : State :=
  let up := fun (f : Part → Part) => s.updPart part f
  match off with
  | 0x000 => up fun p => { p with tqBase := setHalf p.tqBase false (v &&& 0xFFFFF000) }
  | 0x004 => up fun p => { p with tqBase := setHalf p.tqBase true (v &&& 0xFFFF) }
  | 0x008 => nextOr (execTqctlWrite part v s) s
  | 0x010 => nextOr (execTqheadWrite part v s) s
  | 0x014 => up fun p => p.tqStatWrite v
  | 0x040 => up fun p => { p with trBase := setHalf p.trBase false (v &&& 0xFFFFF000) }
  | 0x044 => up fun p => { p with trBase := setHalf p.trBase true (v &&& 0xFFFF) }
  | 0x048 => up fun p => { p with trCtl := trCtlWrite p.trCtl v }
  | 0x050 => nextOr (execTrheadWrite part v s) s
  | 0x054 => up fun p => { p with trDrop := 0 }
  | 0x080 => up fun p => { p with bpEn := v.setWidth 4 }
  | 0x084 => nextOr (execDbgstop part v s) s
  | _ =>
    if 0x060 ≤ off ∧ off < 0x080 then
      up fun p => { p with bpAddr := Sparse.upd 0 p.bpAddr ((off - 0x060) / 8) fun a => setHalf a (off % 8 == 4) v }
    else if 0xB00 ≤ off ∧ off < 0xF00 then s.bankWrite fn part ((off - 0xB00) / 256) (off % 256) v
    else s

/-! ## BAR0 and BAR2 (R380 to R382, R467 to R469, R478, R482) -/

/-- R382: a queue register. -/
def State.queueWrite (s : State) (fn q r : Nat) (v : Word) : State :=
  let free := fun (f : Queue → Queue) => s.updQueue fn q fun x => if x.en then x else f x
  match r with
  | 0x00 => free fun x => { x with base := setHalf x.base false (v &&& 0xFFFFF000) }
  | 0x04 => free fun x => { x with base := setHalf x.base true (v &&& (if fn = 127 then 0xFFFFF else 0xFFFF)) }
  | 0x08 => nextOr (execQctlWrite fn q v s) s
  | _ => s

/-- R380: BAR0 of a function. -/
def State.bar0Write (s : State) (fn off : Nat) (v : Word) : State :=
  if off < 0x80 then nextOr (execNotify fn (off / 4) v s) s
  else if 0x1000 ≤ off ∧ off < 0x2000 then match s.partOfFn fn with | some p => s.pageWrite fn p (off % 4096) v | none => s
  else if 0x2000 ≤ off ∧ off < 0x2400 then s.queueWrite fn (off % 0x400 / 32) (off % 32) v
  else s

/-- R478: FWCMD: ignored while BUSY; a command that does not exist ends at once with ERR 1. -/
def State.fwCmdWrite (s : State) (v : Word) : State :=
  let c := v.toNat % 256
  if s.fwBusy then { s with fwDropped := true }
  else if c = 0 ∨ 13 < c then { s with fwCmd := c, fwErr := 1 }
  else { s with fwCmd := c, fwBusy := true, fwErr := 0 }

/-- R468: the injector of a die; its state is loaded from the seed. -/
def Die.injWrite (d : Die) (r : Nat) (v : Word) : Die :=
  match r with
  | 0 => { d with injTarget := if v.toNat / 2 ^ 30 = 3 then d.injTarget else v.toNat / 2 ^ 30, injRate := v.toNat % 2 ^ 30 }
  | 4 => { d with injSeedL := v, injX := d.injSeedH.setWidth 64 <<< 32 ||| v.setWidth 64 }
  | 8 => { d with injSeedH := v, injX := v.setWidth 64 <<< 32 ||| d.injSeedL.setWidth 64 }
  | _ => d

/-- R380: BAR2 of the physical function. -/
def State.bar2Write (s : State) (off : Nat) (v : Word) : State :=
  if off < 0x18000 then s.pageWrite 127 (off / 4096) (off % 4096) v
  else if off = 0x1E000 then s.fwCmdWrite v
  else if 0x1E004 ≤ off ∧ off < 0x1E014 then { s with fwArg := Sparse.set 0 s.fwArg ((off - 0x1E004) / 4) v }
  else if off = 0x1E014 then { s with fwDropped := s.fwDropped && !v.getLsbD 30 }
  else if off = 0x1F010 then { s with injpart := v.setWidth 24 }
  else if 0x1F020 ≤ off ∧ off < 0x1F050 then s.updDie ((off - 0x1F020) / 16) fun d => d.injWrite (off % 16) v
  else if 0x1F100 ≤ off ∧ off < 0x1F134 then nextOr (execLinkInjectorArm ((off - 0x1F100) / 4) v s) s
  else if 0x1F200 ≤ off ∧ off < 0x1F240 then nextOr (execPwrmonWrite ((off - 0x1F200) / 4) s) s
  else s

/-! ## Firmware's registers (numbered by the model; log 40) -/

/-- The device-wide registers: RSRATE, PBCTL, MTCFG, PIPECFG, IFTCTL. -/
def State.fwDevice (s : State) (r : Nat) (v : Word) : State :=
  match r with
  | 0 => { s with rsrate := setFields [{ lo := 0, len := 16, bad := ovf 2000 }] s.rsrate v }
  | 1 => { s with pbctl := setFields [{ lo := 31, len := 1 }, { lo := 0, len := 16, bad := zeroBad }] s.pbctl v }
  | 2 => { s with mtcfg := setFields [{ lo := 24, len := 8, bad := zeroBad }, { lo := 20, len := 4 }, { lo := 14, len := 6, bad := zeroBad },
      { lo := 9, len := 5, bad := zeroBad }, { lo := 4, len := 5, bad := zeroBad }] s.mtcfg v }
  | 3 => { s with pipecfg := setFields [{ lo := 0, len := 5, bad := zeroBad }] s.pipecfg v }
  | 4 => { s with iftctl := setFields [{ lo := 31, len := 1 }, { lo := 0, len := 16 }] s.iftctl v }
  | _ => s

/-- R117: MBXCMD of a stack: ignored while BUSY; a reserved command ends at once with ERR 1. -/
def Stack.mbxWrite (t : Stack) (v : Word) : Stack :=
  let c := v.toNat % 256
  if t.mbxBusy then { t with mbxDropped := true }
  else if c = 0 ∨ 5 < c then { t with mbxCmd := c, mbxErr := 1 }
  else { t with mbxCmd := c, mbxBusy := true }

/-- A stack's registers: HRCFG, SRCFG, MBXCMD, MBXARG0, MBXARG1, MBXSTAT. -/
def Stack.fwWrite (t : Stack) (r : Nat) (v : Word) : Stack :=
  match r with
  | 0 => { t with hrcfg := setFields [{ lo := 16, len := 16, bad := zeroBad }, { lo := 8, len := 8, bad := zeroBad }, { lo := 0, len := 1 }] t.hrcfg v }
  | 1 => { t with srcfg := setFields [{ lo := 16, len := 16, bad := zeroBad }, { lo := 0, len := 1 }] t.srcfg v }
  | 2 => t.mbxWrite v
  | 3 => { t with mbxArg0 := v }
  | 4 => { t with mbxArg1 := v }
  | 5 => { t with mbxDropped := t.mbxDropped && !v.getLsbD 30 }
  | _ => t

/-- R100: a lower DEPTH clamps the buckets at once. -/
def State.qbWrite (s0 : State) (vd : Nat) (v : Word) : State :=
  let s := s0.refill
  let w := setFields [{ lo := 20, len := 12 }, { lo := 0, len := 20, bad := ovf 96000 }] (s.vdevOf vd).qbcfg v
  let s1 := s.updVdev vd fun x => { x with qbcfg := w }
  { s1 with stks := s1.stks.map fun t => (t.1, { t.2 with buckets := Sparse.upd 0 t.2.buckets vd fun n => min n (qbDepth w * 6400) }) }

/-- A virtual device's registers: L2MASKL, L2MASKH, L2POL, RESQ, QBCFG. -/
def State.fwVdev (s : State) (vd r : Nat) (v : Word) : State :=
  let up := fun (f : Vdev → Vdev) => s.updVdev vd f
  match r with
  | 0 => up fun x => { x with l2maskL := v }
  | 1 => up fun x => { x with l2maskH := v }
  | 2 => up fun x => { x with l2pol := setFields [{ lo := 4, len := 2, bad := ovf 2 }, { lo := 2, len := 2, bad := ovf 2 }, { lo := 0, len := 2, bad := ovf 2 }] x.l2pol v }
  | 3 => up fun x => { x with resq := setFields [{ lo := 17, len := 9, bad := ovf 256 }, { lo := 8, len := 9, bad := ovf 256 }] x.resq v }
  | 4 => s.qbWrite vd v
  | _ => s

/-- Firmware's view: bar 0 the device, 1 the stacks (16 k + r), 2 the virtual devices (16 v + r), 3 RSSTAT of a die, 4
BUFSTRAY of a core, 5 the owner map (R35), 6 RSDROP, 7 CECNT. -/
def State.fwRegWrite (s : State) (bar off : Nat) (v : Word) : State :=
  match bar with
  | 0 => s.fwDevice off v
  | 1 => if off / 16 < Config.nStacks then s.updStack (off / 16) fun t => t.fwWrite (off % 16) v else s
  | 2 => if off / 16 < 96 ∨ off / 16 = 127 then s.fwVdev (off / 16) (off % 16) v else s
  | 3 => if off < 3 then s.updDie off fun d => { d with rsBadDesc := d.rsBadDesc && !v.getLsbD 30, rsRefused := d.rsRefused && !v.getLsbD 29 } else s
  | 4 => if off < Config.nCores && v.getLsbD 0 then s.updCore off fun c => { c with stray := 0 } else s
  | 5 => if off < Config.nParcels ∧ (v.toNat < 24 ∨ v.toNat = 31) then
      { s with owner := if v.toNat = 31 then Sparse.erase s.owner off else Sparse.set 0 s.owner off (v.toNat + 1) }
    else s
  | 6 => nextOr (execRsdrop v s) s
  | 7 => if off < 768 then nextOr (execCecntWrite off s) s else s
  | _ => s

/-- R9, R10: a write to a register: through BAR0 or BAR2 of a function (port 0 to 95, or 127), to a function's MSI-X
vector control (bar 5), or by firmware (port 126). -/
def execRegisterWrite (port bar off : Nat) (v : Word) (s : State) : Out1 :=
  .next (if port = 126 then s.fwRegWrite bar off v
  else if off % 4 ≠ 0 ∧ bar ≠ 5 then s
  else if (port < 96 ∧ s.bootErr = 0) ∨ port = 127 then
    match bar with
    | 0 => s.bar0Write port off v
    | 2 => if port = 127 then s.bar2Write off v else s
    | 5 => if off < 2 then s.maskMsix port off (v.getLsbD 0) else s
    | _ => s
  else s)

/-! ## What a read returns -/

def wBit (b : Bool) (k : Nat) : Nat := if b then 2 ^ k else 0
def loHalf (x : DWord) : Word := x.setWidth 32
def hiHalf (x : DWord) : Word := (x >>> 32).setWidth 32

/-- R48: TQSTAT. -/
def Part.tqStat (p : Part) : Word :=
  BitVec.ofNat 32 (wBit p.tqFovf 31 + wBit (!p.tqStalled.isEmpty) 30 + wBit p.tqBadHead 29 + wBit p.tqRingf 28 + p.tqLost)

def bitCount (n k : Nat) : Nat := ((List.range n).filter fun j => k.testBit j).length

/-- R396: BCSTAT. -/
def Part.bcStat (p : Part) : Word :=
  BitVec.ofNat 32 (p.share * 65536 + bitCount 48 p.borrowed.toNat * 256 + bitCount 48 p.lent.toNat)

/-- R475: a bank's word as a function reads it. -/
def State.bankRead (s : State) (fn part bank off : Nat) : Word :=
  let b : Bank := Sparse.get {} (s.partOf part).banks bank
  let mine := b.owner == ownerNo fn
  if off = 0 then
    BitVec.ofNat 32 ((if b.owner = 0 then 0 else if mine then 1 else if b.owner = 128 then 2 else 3) * 2 ^ 30)
  else if off < 0x28 ∨ mine then b.word off
  else 0

/-- R383: a read of a partition's control page. -/
def State.pageRead (s : State) (fn part off : Nat) : Word :=
  let p := s.partOf part
  let of := fun (v : Nat) => decide (v < 96) && p.vfmask.getLsbD v
  match off with
  | 0x000 => loHalf p.tqBase
  | 0x004 => hiHalf p.tqBase
  | 0x008 => BitVec.ofNat 32 (wBit p.tqEn 0 + p.tqLog2 * 2)
  | 0x00C => p.tqTail
  | 0x010 => p.tqHead
  | 0x014 => p.tqStat
  | 0x020 => s.mhstat
  | 0x024 => BitVec.ofNat 32 s.mhpois
  | 0x030 => p.bcStat
  | 0x040 => loHalf p.trBase
  | 0x044 => hiHalf p.trBase
  | 0x048 => p.trCtl
  | 0x04C => p.trTail
  | 0x050 => p.trHead
  | 0x054 => BitVec.ofNat 32 p.trDrop
  | 0x080 => p.bpEn.setWidth 32
  | 0xA00 => s.mtcfg
  | _ =>
    if 0x060 ≤ off ∧ off < 0x080 then
      let a := Sparse.get 0 p.bpAddr ((off - 0x060) / 8)
      if off % 8 = 0 then loHalf a else hiHalf a
    else if 0x100 ≤ off ∧ off < 0x400 then
      let v := (off - 0x100) / 8
      if of v then (if off % 8 = 0 then (s.vdevOf v).qbstat else (s.vdevOf v).hrwait) else 0
    else if 0x400 ≤ off ∧ off < 0xA00 then
      let v := (off - 0x400) / 16
      let x := s.vdevOf v
      if of v then (match off % 16 with | 0 => x.l2maskL | 4 => x.l2maskH | 8 => x.l2pol | _ => x.resq) else 0
    else if 0xA10 ≤ off ∧ off < 0xA40 then (s.stackOf ((off - 0xA10) / 4)).hrcfg
    else if 0xB00 ≤ off ∧ off < 0xF00 then s.bankRead fn part ((off - 0xB00) / 256) (off % 256)
    else 0

/-- R382: a queue register. -/
def Queue.read (x : Queue) (r : Nat) : Word :=
  match r with
  | 0x00 => loHalf x.base
  | 0x04 => hiHalf x.base
  | 0x08 => BitVec.ofNat 32 (wBit x.en 31 + x.prio * 2 ^ 28 + x.log2 * 2 ^ 24 + x.asid)
  | 0x0C => BitVec.ofNat 32 x.head
  | 0x10 => BitVec.ofNat 32 (wBit x.halt 31 + x.err * 65536 + x.cmpl)
  | _ => 0

/-- R380: a read of BAR0 of a function. -/
def State.bar0Read (s : State) (fn off : Nat) : Word :=
  if fn ≠ 127 ∧ s.bootErr ≠ 0 then 0
  else if off < 0x80 then
    let x := s.queueOf fn (off / 4)
    BitVec.ofNat 32 (wBit x.nopf 31 + x.tail)
  else if 0x1000 ≤ off ∧ off < 0x2000 then match s.partOfFn fn with | some p => s.pageRead fn p (off % 4096) | none => 0
  else if 0x2000 ≤ off ∧ off < 0x2400 then (s.queueOf fn (off % 0x400 / 32)).read (off % 32)
  else if 0x3000 ≤ off ∧ off < 0x3C00 then BitVec.ofNat 32 (Sparse.get 0 s.cecnt ((off - 0x3000) / 4))
  else 0

/-- R435: PEERSTAT. -/
def Peer.stat (p : Peer) : Word := BitVec.ofNat 32 (p.state * 2 ^ 30 + p.inq.length * 2 ^ 23 + p.timeouts * 256 + p.rej)

/-- R380: a read of BAR2 of the physical function. -/
def State.bar2Read (s : State) (off : Nat) : Word :=
  let n := BitVec.ofNat 32
  if off < 0x18000 then s.pageRead 127 (off / 4096) (off % 4096)
  else if off = 0x1E000 then n s.fwCmd
  else if 0x1E004 ≤ off ∧ off < 0x1E014 then Sparse.get 0 s.fwArg ((off - 0x1E004) / 4)
  else if off = 0x1E014 then n (wBit s.fwBusy 31 + wBit s.fwDropped 30 + s.fwErr)
  else if off = 0x1F000 then n (wBit s.accNone 31 + s.accid)
  else if off = 0x1F004 then n (s.bootStep * 256 + s.bootErr * 2 + wBit s.bootDone 0)
  else if off = 0x1F010 then s.injpart.setWidth 32
  else if 0x1F020 ≤ off ∧ off < 0x1F050 then
    let d := s.dieOf ((off - 0x1F020) / 16)
    match off % 16 with | 0 => n (d.injTarget * 2 ^ 30 + d.injRate) | 4 => d.injSeedL | 8 => d.injSeedH | _ => 0
  else if 0x1F100 ≤ off ∧ off < 0x1F134 then Sparse.get 0 s.linj ((off - 0x1F100) / 4)
  else if 0x1F200 ≤ off ∧ off < 0x1F240 then n (Sparse.get 0 s.pwrPeak ((off - 0x1F200) / 4) * 65536 + Sparse.get 0 s.pwrAvg ((off - 0x1F200) / 4))
  else if 0x1F300 ≤ off ∧ off < 0x1F30C then 
    n ((s.dieOf ((off - 0x1F300) / 4)).thermSlots * 256 + (Config.dieTemp s.clock.toNat ((off - 0x1F300) / 4)).toNat)
  else if 0x20000 ≤ off ∧ off < 0x21000 then (s.peerOf ((off - 0x20000) / 4)).stat
  else 0

/-- R463: PIPESTAT of a core. -/
def State.pipeStat (s : State) (core : Nat) : Word :=
  let c := s.coreOf core
  BitVec.ofNat 32 (c.quar.toNat * 2 ^ 28 + wBit (s.engineOf (core / 4)).out 27 + c.mism)

/-- R154: CSCRUB of a core. -/
def Core.scrubStat (c : Core) : Word := BitVec.ofNat 32 (wBit c.scrubDone 31 + wBit c.scrubFail 30 + c.scrubVdev % 128)

/-- R466: IFTSTAT. -/
def State.iftStat (s : State) : Word := BitVec.ofNat 32 (s.iftFail * 2 ^ 24 + s.iftAband * 2 ^ 12 + s.iftPass)

/-- R83: RSSTAT of a die; R109: PBSTAT; R117, R118, R119: MBXSTAT, TRSTAT and BDSTAT of a stack. -/
def Die.rsStat (d : Die) : Word :=
  BitVec.ofNat 32 (wBit d.rsBusy 31 + wBit d.rsBadDesc 30 + wBit d.rsRefused 29 + d.rsParcel)
/-- R109: at the end of a pass the parcel walked is the next of those passed over. -/
def Die.pbStat (d : Die) : Word :=
  BitVec.ofNat 32 (d.pbPasses * 2 ^ 24 + (if d.pbParcel < walkEnd then d.pbParcel else d.pbSkipped.headD 0) % 2 ^ 19)
def Stack.mbxStat (t : Stack) : Word := BitVec.ofNat 32 (wBit t.mbxBusy 31 + wBit t.mbxDropped 30 + t.mbxErr)
def Stack.trStat (t : Stack) : Word := BitVec.ofNat 32 (wBit t.trDone 31 + wBit t.trLinkErr 30)
def Stack.bdStat (t : Stack) : Word := BitVec.ofNat 32 (t.tagdup * 65536 + t.refused)

end Sys2Proof.Machine
end

