-- ==== Sys2Proof/Machine/Scalar.lean ====
section
/-! DEFINITION. Scalar arithmetic, comparisons and immediates, and the mask instructions (R267, R274 to R282). -/

namespace Sys2Proof.Machine

/-- R274, R459: a scalar instruction `i` of the checked unit 4: every issuing slice acts on its own registers; the walks
of the source registers `srcs` advance once (R357), and an entry of a checker holds the values of `held`. -/
def scalarOp (e : Bool) (i : Instr) (srcs : List Nat) (f : Group → BitVec 8 → Group)
    (held : List Nat := srcs) (s : State) : Out1 :=
  let g := s.curGroup
  let sl := s.run.slices
  let data := fun l => ({ d0 := g.sreg (l / 4) (held.headD 0), d1 := g.sreg (l / 4) (held.getD 1 0) } : LaneRec)
  .next (s.checked [4] e (encode i) (g.liveLanes sl) (·.advance srcs) data fun s =>
    s.updCur fun g => (f g sl).advance srcs)

/-- S[sd] := f(S[sa], S[sb]). -/
def scalar2 (e : Bool) (d a b : BitVec 6) (i : Instr) (f : Word → Word → Word) : State → Out1 :=
  scalarOp e i [a.toNat, b.toNat] fun g sl => g.writeS sl d.toNat fun k => f (g.sreg k a.toNat) (g.sreg k b.toNat)

/-- S[sd] := f(S[sa]). -/
def scalar1 (e : Bool) (d a : BitVec 6) (i : Instr) (f : Word → Word) : State → Out1 :=
  scalarOp e i [a.toNat] fun g sl => g.writeS sl d.toNat fun k => f (g.sreg k a.toNat)

/-- R267: no effect; not counted in the run and never the end of one (R200). -/
def execNop (s : State) : Out1 := .next (s.updCur fun g => g.stepPast s.run.slices)

/-- R278. -/
def execAddScalar (e : Bool) (d a b : BitVec 6) : State → Out1 :=
  scalar2 e d a b (.addScalar e d a b) fun a b => a + b

/-- R278. -/
def execSubScalar (e : Bool) (d a b : BitVec 6) : State → Out1 :=
  scalar2 e d a b (.subScalar e d a b) fun a b => a - b

/-- R278. -/
def execMulScalar (e : Bool) (d a b : BitVec 6) : State → Out1 :=
  scalar2 e d a b (.mulScalar e d a b) fun a b => a * b

/-- R278. -/
def execMulh (e : Bool) (d a b : BitVec 6) : State → Out1 :=
  scalar2 e d a b (.mulh e d a b) fun a b => mulhsW a b

/-- R278. -/
def execMulhu (e : Bool) (d a b : BitVec 6) : State → Out1 :=
  scalar2 e d a b (.mulhu e d a b) fun a b => mulhuW a b

/-- R278. -/
def execAndScalar (e : Bool) (d a b : BitVec 6) : State → Out1 :=
  scalar2 e d a b (.andScalar e d a b) fun a b => a &&& b

/-- R278. -/
def execOrScalar (e : Bool) (d a b : BitVec 6) : State → Out1 :=
  scalar2 e d a b (.orScalar e d a b) fun a b => a ||| b

/-- R278. -/
def execXorScalar (e : Bool) (d a b : BitVec 6) : State → Out1 :=
  scalar2 e d a b (.xorScalar e d a b) fun a b => a ^^^ b

/-- R278. -/
def execShlScalar (e : Bool) (d a b : BitVec 6) : State → Out1 :=
  scalar2 e d a b (.shlScalar e d a b) fun a b => shlW a b

/-- R278. -/
def execShrScalar (e : Bool) (d a b : BitVec 6) : State → Out1 :=
  scalar2 e d a b (.shrScalar e d a b) fun a b => shrW a b

/-- R278. -/
def execSraScalar (e : Bool) (d a b : BitVec 6) : State → Out1 :=
  scalar2 e d a b (.sraScalar e d a b) fun a b => sraW a b

/-- R278. -/
def execMinScalar (e : Bool) (d a b : BitVec 6) : State → Out1 :=
  scalar2 e d a b (.minScalar e d a b) fun a b => sminW a b

/-- R278. -/
def execMaxScalar (e : Bool) (d a b : BitVec 6) : State → Out1 :=
  scalar2 e d a b (.maxScalar e d a b) fun a b => smaxW a b

/-- R278. -/
def execMinu (e : Bool) (d a b : BitVec 6) : State → Out1 :=
  scalar2 e d a b (.minu e d a b) fun a b => uminW a b

/-- R278. -/
def execMaxu (e : Bool) (d a b : BitVec 6) : State → Out1 :=
  scalar2 e d a b (.maxu e d a b) fun a b => umaxW a b

/-- R278. -/
def execDiv (e : Bool) (d a b : BitVec 6) : State → Out1 :=
  scalar2 e d a b (.div e d a b) fun a b => divW a b

/-- R278. -/
def execDivu (e : Bool) (d a b : BitVec 6) : State → Out1 :=
  scalar2 e d a b (.divu e d a b) fun a b => divuW a b

/-- R278. -/
def execRem (e : Bool) (d a b : BitVec 6) : State → Out1 :=
  scalar2 e d a b (.rem e d a b) fun a b => remW a b

/-- R278. -/
def execRemu (e : Bool) (d a b : BitVec 6) : State → Out1 :=
  scalar2 e d a b (.remu e d a b) fun a b => remuW a b

/-- R278. -/
def execPopcScalar (e : Bool) (d a : BitVec 6) : State → Out1 :=
  scalar1 e d a (.popcScalar e d a) fun a => popcW a

/-- R278. -/
def execClzScalar (e : Bool) (d a : BitVec 6) : State → Out1 :=
  scalar1 e d a (.clzScalar e d a) fun a => clzW a

/-- R278. -/
def execCtzScalar (e : Bool) (d a : BitVec 6) : State → Out1 :=
  scalar1 e d a (.ctzScalar e d a) fun a => ctzW a

/-- R281: C[cd] of every issuing slice. -/
def execCmp (e : Bool) (c : BitVec 4) (n : BitVec 2) (a b : BitVec 6) : State → Out1 :=
  scalarOp e (.cmp e c n a b) [a.toNat, b.toNat] fun g sl =>
    g.writeFlag sl n.toNat fun k => icond c.toNat (g.sreg k a.toNat) (g.sreg k b.toNat)

/-- R279. -/
def execAddi (e : Bool) (d a : BitVec 6) (i : BitVec 12) : State → Out1 :=
  scalar1 e d a (.addi e d a i) fun a => a + sext12 i

/-- R279. -/
def execAndiScalar (e : Bool) (d a : BitVec 6) (i : BitVec 12) : State → Out1 :=
  scalar1 e d a (.andiScalar e d a i) fun a => a &&& zext12 i

/-- R279. -/
def execOriScalar (e : Bool) (d a : BitVec 6) (i : BitVec 12) : State → Out1 :=
  scalar1 e d a (.oriScalar e d a i) fun a => a ||| zext12 i

/-- R279. -/
def execXoriScalar (e : Bool) (d a : BitVec 6) (i : BitVec 12) : State → Out1 :=
  scalar1 e d a (.xoriScalar e d a i) fun a => a ^^^ zext12 i

/-- R279. -/
def execShliScalar (e : Bool) (d a : BitVec 6) (i : BitVec 5) : State → Out1 :=
  scalar1 e d a (.shliScalar e d a i) fun a => a <<< i.toNat

/-- R279. -/
def execShriScalar (e : Bool) (d a : BitVec 6) (i : BitVec 5) : State → Out1 :=
  scalar1 e d a (.shriScalar e d a i) fun a => a >>> i.toNat

/-- R279. -/
def execSraiScalar (e : Bool) (d a : BitVec 6) (i : BitVec 5) : State → Out1 :=
  scalar1 e d a (.sraiScalar e d a i) fun a => a.sshiftRight i.toNat

/-- R281: the second operand is sext(imm12), compared as unsigned by the unsigned conditions. -/
def execCmpi (e : Bool) (c : BitVec 4) (n : BitVec 2) (a : BitVec 6) (i : BitVec 12) : State → Out1 :=
  scalarOp e (.cmpi e c n a i) [a.toNat] fun g sl => g.writeFlag sl n.toNat fun k => icond c.toNat (g.sreg k a.toNat) (sext12 i)

/-- R280. -/
def execLi (e : Bool) (d : BitVec 6) (i : BitVec 18) : State → Out1 :=
  scalarOp e (.li e d i) [] fun g sl => g.writeS sl d.toNat fun _ => i.signExtend 32

/-- R280: bits 31..18 are replaced and bits 17..0 kept. -/
def execLui (e : Bool) (d : BitVec 6) (i : BitVec 14) : State → Out1 :=
  scalarOp e (.lui e d i) [] (fun g sl => g.writeS sl d.toNat fun k => i ++ (g.sreg k d.toNat).setWidth 18) [d.toNat]

/-- R282, R204: a mask destination changes only in the live lanes of the issuing slices. -/
def maskOp (e : Bool) (d : BitVec 3) (i : Instr) (f : Group → Word) : State → Out1 :=
  scalarOp e i [] fun g sl => g.setMask d.toNat (g.liveLanes sl) (f g)

/-- R282. -/
def execMand (e : Bool) (d a b : BitVec 3) : State → Out1 :=
  maskOp e d (.mand e d a b) fun g => g.mask a.toNat &&& g.mask b.toNat

/-- R282. -/
def execMor (e : Bool) (d a b : BitVec 3) : State → Out1 :=
  maskOp e d (.mor e d a b) fun g => g.mask a.toNat ||| g.mask b.toNat

/-- R282. -/
def execMxor (e : Bool) (d a b : BitVec 3) : State → Out1 :=
  maskOp e d (.mxor e d a b) fun g => g.mask a.toNat ^^^ g.mask b.toNat

/-- R282. -/
def execMandn (e : Bool) (d a b : BitVec 3) : State → Out1 :=
  maskOp e d (.mandn e d a b) fun g => g.mask a.toNat &&& ~~~g.mask b.toNat

/-- R282. -/
def execMnot (e : Bool) (d a : BitVec 3) : State → Out1 := maskOp e d (.mnot e d a) fun g => ~~~g.mask a.toNat

/-- R282: slice k writes bits 4k..4k+3 from its own S[sa]. -/
def execMset (e : Bool) (d : BitVec 3) (a : BitVec 6) : State → Out1 :=
  scalarOp e (.mset e d a) [a.toNat] fun g sl =>
    g.setMask d.toNat (g.liveLanes sl) (wordOfBits fun l => (g.sreg (l / 4) a.toNat).getLsbD l)

/-- R282: all 32 bits as held. -/
def execMget (e : Bool) (d : BitVec 6) (a : BitVec 3) : State → Out1 :=
  scalarOp e (.mget e d a) [] fun g sl => g.writeS sl d.toNat fun _ => g.mask a.toNat

/-- R282: set bits of M[ma] and LIVEL. -/
def execMpopc (e : Bool) (d : BitVec 6) (a : BitVec 3) : State → Out1 :=
  scalarOp e (.mpopc e d a) [] fun g sl => g.writeS sl d.toNat fun _ => popcW (g.mask a.toNat &&& g.liveLanes g.live)

/-- R282: the lowest set bit of M[ma] and LIVEL, or 32. -/
def execMfirst (e : Bool) (d : BitVec 6) (a : BitVec 3) : State → Out1 :=
  scalarOp e (.mfirst e d a) [] fun g sl => g.writeS sl d.toNat fun _ => ctzW (g.mask a.toNat &&& g.liveLanes g.live)

end Sys2Proof.Machine
end

