-- ==== Sys2Proof/Machine/Sched.lean ====
section
/-! DEFINITION. The choice of a group at a run boundary, the fetch of its next instruction, and the turns that the machine
may take next (R15, R44, R200 to R203, R214, R249, R400, R472 to R474, R488). -/

namespace Sys2Proof.Machine

/-! ## Ready groups (R200, R400, R405) -/

/-- A path that may issue: nothing holds it, or an answered fetch is to be delivered to it. -/
def Path.ready (p : Path) : Bool := match p.stop with | .ready => true | .fetchFail _ => true | _ => false

/-- R405: a trap of an entry waits for the run boundary of the group's other paths. -/
def Group.trapDue (g : Group) : Bool := g.rq.any fun x => !x.held && x.lane.any fun r => r.2.code != 0 && !x.pipe

/-- R400: the paths of a group that may start a run: at trap level the trapping path alone (R405); not while the group
sleeps, holds an entry for the host (R43), is to trap (R405), or has stopped at `yield` (R302). -/
def Group.readyPaths (g : Group) : List Path :=
  if g.live = 0 ∨ g.sleep.isSome then []
  else if g.atTrap then g.paths.filter fun p => p.ready && p.slices &&& g.frame.slices != 0
  else if g.paths.any (fun p => p.stop == .yielded) || g.rq.any (fun x => x.held) || g.trapDue then []
  else
    let ps := g.paths.filter Path.ready
    if ps.any Path.due then ps.filter Path.due else ps

/-- R202, R209, R400: the issue set: the path of the lowest slice, and every other ready path at its address. A path that
has been ready and not issued for 2,048 cycles goes first, the longest-waiting first. -/
def Group.issueSet (g : Group) (now : Nat) : BitVec 8 :=
  let ps := g.readyPaths
  let old := leastBy Path.since (ps.filter fun p => p.since != 0 && decide (p.since + 2048 ≤ now))
  let low := match (sliceList (ps.foldl (fun m p => m ||| p.slices) 0)).head? with
    | none => none
    | some k => ps.find? fun p => p.slices.getLsbD k
  match old.orElse fun _ => low with
  | none => 0
  | some p => if p.stop = .ready then (ps.filter fun q => q.pc == p.pc && q.stop == .ready).foldl (fun m q => m ||| q.slices) 0 else p.slices

/-- Ready groups of a quarter: their place (team slot × 32 + group), team and group number. -/
def State.readyGroups (s : State) (site : Nat) : List (Nat × Nat × Nat) :=
  (s.teams.filter fun t => t.2.core == site / 4 && t.2.place == .resident).flatMap fun t =>
    (t.2.groups.filter fun g => g.2.quarter == site % 4 && !g.2.readyPaths.isEmpty).map fun g => (t.2.slot * 32 + g.1, t.1, g.1)

/-- R400: a group's class. -/
def State.classOf (s : State) (x : Nat × Nat × Nat) : Nat :=
  let t := s.teamOf x.2.1
  if (t.group x.2.2).atTrap then min 3 (t.prio + 1) else t.prio

/-- R400: the group chosen: one that has waited for 2,048 cycles, the longest first; else, in the highest class, the next
after the last one chosen. -/
def State.chooseGroup (s : State) (site : Nat) : Option (Nat × Nat × Nat) :=
  let gs := s.readyGroups site
  let since := fun (x : Nat × Nat × Nat) => (s.groupOf x.2.1 x.2.2).readyAt
  let old := gs.filter fun x => since x != 0 && decide (since x + 2048 ≤ s.clock.toNat + 1)
  match leastBy since old with
  | some x => some x
  | none =>
    let top := gs.foldl (fun m x => max m (s.classOf x)) 0
    let cs := gs.filter fun x => s.classOf x == top
    let rr := Sparse.get 0 (s.coreOf (site / 4)).rr (site % 4)
    match leastBy (fun x => x.1) (cs.filter fun x => decide (rr ≤ x.1)) with
    | some x => some x
    | none => leastBy (fun x => x.1) cs

/-- R209, R400: since when a group and its paths have been ready and not chosen; those of the slices `sl` are issuing. -/
def Group.marked (g : Group) (sl : BitVec 8) (now : Nat) : Group :=
  let rs := g.readyPaths
  { g with
    readyAt := if rs.isEmpty ∨ sl ≠ 0 then 0 else if g.readyAt = 0 then now else g.readyAt
    paths := g.paths.map fun p => { p with since := if !rs.contains p || p.slices &&& sl != 0 then 0 else if p.since = 0 then now else p.since } }

/-- The slices of a group that are in a run. -/
def State.running (s : State) (u g : Nat) : BitVec 8 :=
  match s.runs.find? fun r => r.2.on && r.2.uid == u && r.2.grp == g with
  | some r => r.2.slices
  | none => 0

/-- R209, R400: the groups of resident teams grow older, cycle by cycle. -/
def State.markReady (s : State) : State :=
  { s with teams := s.teams.map fun t =>
      if t.2.place = .resident then
        (t.1, { t.2 with groups := t.2.groups.map fun g => (g.1, g.2.marked (s.running t.1 g.1) (s.clock.toNat + 1)) })
      else t }

/-- R214, R400: at a run boundary a quarter chooses a group and its run starts; a doomed transaction may restart here. What an
earlier run of the group had begun to fetch is nobody's. -/
def execGroupSelect (site : Nat) (s : State) : Out1 :=
  .next (if (Sparse.get {} s.runs site).on then s
  else match s.chooseGroup site with
    | none => s
    | some (key, u, k) =>
      let doom := (s.groupOf u k).inTx && s.doomed u k
      if doom && Config.doomedRestart s.draw then { s.txRestart u k with draw := s.draw + 1 }
      else
        let sl := (s.groupOf u k).issueSet (s.clock.toNat + 1)
        let s1 := ((s.farDone (.fetch u k)).updCore (site / 4) fun c => { c with rr := Sparse.set 0 c.rr (site % 4) (key + 1) }).updGroup u k fun g =>
          { g with readyAt := 0, paths := g.paths.map fun p => if p.slices &&& sl != 0 then { p with since := 0, due := false } else p }
        let p := (s.teamOf u).part
        let s2 := (s1.count p 0x02 1).count p 0x03 1
        { s2 with draw := if doom then s2.draw + 1 else s2.draw
                  runs := Sparse.set {} s2.runs site { on := true, uid := u, grp := k, slices := sl } })

/-! ## The next instruction of a run (R44, R405, R473, R488) -/

/-- R473: the breakpoint that a path's next instruction meets. -/
def Part.breakAt (p : Part) (x : Path) : Option Nat :=
  if x.exempt then none else [0, 1, 2, 3].find? fun i => p.bpEn.getLsbD i && Sparse.get 0 p.bpAddr i == x.pc

/-- R473: a stop of a path before its next instruction. -/
def State.stopAt (s : State) (sl : BitVec 8) (addr : DWord) (trace : Nat) : State :=
  let g := s.curGroup
  s.raise s.run.uid s.run.grp
    { slices := sl, atIssue := true, code := .brk, lanes := g.liveLanes sl, addr := addr, pc := (g.pathOf sl).pc, trace := trace }

/-- R44, R488: a replayable fault of a path's fetch: a record under a tag of its own; the path stalls, or, where the
record fails, takes PROT. -/
def State.holdFetch (s : State) (sl : BitVec 8) (f : Flt) : State :=
  let u := s.run.uid
  let k := s.run.grp
  let t := s.teamOf u
  let g := s.groupOf u k
  let pc := (g.pathOf sl).pc
  let r := s.newTag t.part
  let b := r.1.postRecord {
    fatal := false, code := 6, kind := f.kind, acc := f.acc, part := t.part, asid := t.asid, vf := t.vf, va := pc, ppa := recPpa f.kind f.ppa
    ident := identWord t k sl, pc := pc, tag := r.2, lanes := g.liveLanes sl, io := f.ppa / 4096 }
  b.1.updGroup u k fun g => g.updPath sl fun p => { p with stop := if b.2 = .failed then .fetchFail pc else .fetch r.2 }

/-- R405, R488: what a fault of the fetch does. -/
def State.fetchFault (s : State) (f : Flt) : State :=
  let g := s.curGroup
  if f.code = .pf ∧ !g.atTrap ∧ !g.inTx then
    ((g.issuers s.run.slices).foldl (fun s sl => s.holdFetch sl f) s).endRun
  else s.eachPath fun sl s => s.trapAt sl f.code (s.curGroup.pathOf sl).pc f.acc f.kind

/-- A stop that comes before the next instruction of the run: an answered fetch, a debug stop, a breakpoint. -/
def State.stopFirst (s : State) : Option State :=
  let g := s.curGroup
  let ps := (g.issuers s.run.slices).map fun sl => (sl, g.pathOf sl)
  match ps.findSome? fun p => match p.2.stop with | .fetchFail va => some (p.1, va) | _ => none with
  | some (sl, va) => some ((s.updCur fun g => g.updPath sl fun p => { p with stop := .ready }).trapAt sl .prot va 3 0)
  | none =>
    if g.dbg then ps.head?.map fun p => (s.updCur fun g => { g with dbg := false }).stopAt p.1 0x20000 3
    else ps.findSome? fun p => ((s.partOf s.curTeam.part).breakAt p.2).map fun i => s.stopAt p.1 (BitVec.ofNat 64 (0x10000 + i)) 2

/-- R15, R203, R249: the run of a quarter fetches its next instruction: none where it stops, waits or traps instead. -/
def State.fetchNext (s : State) (site : Nat) : State × Option Instr :=
  let s0 := { s with site := site }
  if !s0.run.on then (s0, none)
  else match s0.stopFirst with
    | some s1 => (s1, none)
    | none =>
      let g := s0.curGroup
      match s0.fetchNow s0.run.uid s0.run.grp (g.pathOf s0.run.slices).pc with
      | (s1, none) => (s1, none)
      | (s1, some (.error f)) => ((s1.taken (.fetch s1.run.uid s1.run.grp)).fetchFault f, none)
      | (s0, some (.ok w)) =>
        let s1 := s0.taken (.fetch s0.run.uid s0.run.grp)
        match decodeFor g.budget w with
        | .error _ => (s1.eachPath fun sl s => s.trapAt sl .ill, none)
        | .ok i => if (g.waitsFor s0.run.slices i).isSome then (s1, none) else (s1, some i)

/-! ## The turns of the machine -/

/-- The keys of a table for which a condition holds. -/
def keysWhere {α : Type} (m : Sparse α) (f : Nat → α → Bool) : List Nat := (m.filter fun x => f x.1 x.2).map fun x => x.1

def evIf (b : Bool) (e : Ev) : List Turn := if b then [.own e] else []

/-- The step of a queue's next command (R384, R385). -/
def State.cmdTurn (s : State) (fn q : Nat) (x : Queue) : List Turn :=
  match x.waiteq with
  | some (_, _, z) => evIf (x.en && z.all fun y => y.late s.clock.toNat) (.waiteq fn q)
  | none =>
  if !x.reads || (x.buffer.isNone && x.head == x.tail) then []
  else
    let e : Ev := match (s.nextCmd fn q).2 with
      | some (.ok (w, _)) =>
        match cmdOp w with
        | 1 => .launch fn q
        | 2 => .indirect fn q
        | 3 => .signal fn q
        | 4 => .waiteq fn q
        | 5 => .qfence fn q
        | 6 => match wordAt w 2 % 4 with | 1 => .invalStage2 fn q | 2 => .invalPartition fn q | _ => .invalStage1 fn q
        | 7 => if (wordAt w 2).testBit 0 then .replayFail fn q else .replayRetry fn q
        | 0x10 => .partcfg fn q
        | 0x11 => .partrst fn q
        | _ => .nopCommand fn q
      | _ => .nopCommand fn q
    [.own e]

def State.queueTurns (s : State) : List Turn :=
  s.vdevs.flatMap fun v => evIf (!v.2.hostq.isEmpty) (.hostRetry v.1) ++ evIf (!v.2.atsInv.isEmpty) (.atsInvalidateDone v.1) ++ v.2.queues.flatMap fun q => s.cmdTurn v.1 q.1 q.2

/-- Quarters that issue or choose. -/
def State.issueTurns (s : State) : List Turn :=
  let sites := (s.teams.filter fun t => t.2.place == .resident).flatMap fun t => t.2.groups.map fun g => t.2.core * 4 + g.2.quarter
  sites.eraseDups.flatMap fun k =>
    if (Sparse.get {} s.runs k).on then [.issue k] else if (s.readyGroups k).isEmpty then [] else [.own (.groupSelect k)]

/-- R220, R221: the overflow timer of a sleeping group, which runs while its team is swapped out too. -/
def overflowTurns (u now k : Nat) (g : Group) : List Turn :=
  let late := fun (since : Nat) => decide (since + 4 * Config.cyclesPerUs ≤ now)
  evIf ((match g.sleep with | some x => x.ovf && late x.since | none => false)
    || g.paths.any fun p => match p.stop with | .asleep t _ _ o => o && late t | _ => false) (.overflowWake u k)

/-- What a group's accesses, waits and sleep bring about. -/
def groupTurns (u : Nat) (now : Nat) (k : Nat) (g : Group) : List Turn :=
  evIf (g.entries.any (fun x => !x.held) || g.resume != g) (.memoryAccessCompletion u k)
    ++ evIf (g.paths.any fun p => p.stop == .commit) (.commitLockGrant u k)
    ++ evIf (g.paths.any fun p => p.stop == .scan) (.scanRetry u k)
    ++ overflowTurns u now k g

/-- What teams bring about: completions, copies, saves, restores. `from_` is the core from which one is looked for. -/
def State.teamTurns (s : State) (from_ : Nat) : List Turn :=
  s.teams.flatMap fun t =>
    let u := t.1
    if t.2.onCore then
      t.2.groups.flatMap (fun g => groupTurns u s.clock.toNat g.1 g.2)
        ++ evIf (t.2.ring.any fun r => r.2.state == .posted || r.2.state == .issued 0) (.copyIssue u)
        ++ (keysWhere t.2.ring fun _ c => match c.state with | .moved _ => true | _ => false).map (fun k => .own (.copyComplete u k))
        ++ evIf ((s.clusterOf u).all fun v => !(s.teamOf v).onCore || s.savable v) (.contextSave u [])
    else if t.2.place == .aborted then evIf (!t.2.ring.isEmpty) (.copyIssue u)
    else if t.2.place == .saved && !t.2.ready then t.2.groups.flatMap fun g => overflowTurns u s.clock.toNat g.1 g.2
    else if t.2.place == .saved && s.mayRun t.2.part t.2.vf then
      ((List.range Config.nCores).map (fun k => (from_ + k) % Config.nCores) |>.find? fun c =>
        (s.partOf t.2.part).has (c / 4) && s.fits u c).toList.map fun c => .own (.contextRestore u c)
    else []

/-- Admissions: for each launch with a team that waits, a core that it may come to. -/
def State.admitTurns (s : State) (from_ : Nat) : List Turn :=
  s.launches.flatMap fun l => match l.2 with
    | some x =>
      evIf (x.nodes.any fun n => n.reading) (.nodeRetry l.1) ++
      if x.waiting && s.mayRun x.part x.fn then
        ((List.range Config.nCores).map (fun k => (from_ + k) % Config.nCores) |>.find? fun c =>
          (s.partOf x.part).has (c / 4) && (s.admissible x c).isSome).toList.map fun c => .own (.teamAdmission l.1 c)
      else []
    | none => []

/-- Cores, engines and cluster networks. -/
def State.coreTurns (s : State) : List Turn :=
  (keysWhere s.cores fun _ c => c.scrubbing).map (fun c => .own (.scrubComplete c))
    ++ s.engines.flatMap (fun e =>
      evIf (!e.2.resv.isEmpty) (.engineGrant e.1)
        ++ (keysWhere e.2.slots fun _ x => x.state == .loading && x.stall == 0 && !x.upper).map fun k => .own (.residencyFillComplete e.1 k))
    ++ (s.arrivals.map fun a => a.1).eraseDups.map fun c => .own (.bufferArrival c)

/-- Partitions: stalled records and the world switch. -/
def State.partTurns (s : State) : List Turn :=
  s.parts.flatMap fun p =>
    evIf (!p.2.tqWait.isEmpty || !p.2.trWait.isEmpty || (!p.2.tqStalled.isEmpty && decide (2 < p.2.tqFree))) (.stalledRecordPost p.1)
      ++ evIf (p.2.valid && (decide (p.2.sliceEnd ≤ s.clock.toNat) || !s.busyFn p.1 p.2.cur)
          && (List.range 96).any fun v => p.2.vfmask.getLsbD v && v != p.2.cur && s.waiting p.1 v) (.worldSwitchQuantumExpiry p.1)

/-- R107, R108: the cycles between two lines of a die's walk, so that a pass takes HOURS. -/
def State.pbPeriod (s : State) : Nat := max 1 (s.pbctl.toNat % 65536 * 4598)

/-- Dies: walks, the resurvey, the perambulator, sequencers. -/
def State.dieTurns (s : State) : List Turn :=
  [0, 1, 2].flatMap fun d =>
    let x := s.dieOf d
    let st := (s.cadOf x.rsParcel).state
    evIf ((s.nextWalk d).isSome) (.walkEngineGrant d)
      ++ evIf (!x.rsBusy && (!s.drops.isEmpty || !s.rsSingles.isEmpty) && (s.nextMove d).isSome) (.resurveyTakeParcel d 0)
      ++ evIf (x.rsBusy && st == 1) (.resurveyLineCopy d)
      ++ evIf (x.rsBusy && st == 2 && !x.rsStop) (.parcelSwitch d)
      ++ evIf (x.rsBusy && x.rsStop) (.switchDrainComplete d)
      ++ ((x.cadCache.map (·.1) ++ (x.replays.filter fun r => !r.sent).map (·.parcel)).eraseDups.map fun p => .own (.moved d p))
      ++ evIf (s.pbctl.getLsbD 31 && s.clock.toNat % s.pbPeriod == d) (.perambulatorLineRead d)
      ++ x.comms.flatMap fun c =>
        evIf (c.2.v && (x.colls.any fun y => y.comm == c.1 && y.running)) (.collectiveLocalCompletion d c.1)
          ++ evIf (s.unanswered d c.1 || (c.2.electAt != 0 && decide (c.2.electAt + Config.cyclesPerMs ≤ s.clock.toNat + 1))) (.sequencerTimeout d c.1)

/-- The mailbox command that a stack is performing; training is answered from outside. -/
def Stack.mbxTurn (t : Stack) (k : Nat) : List Turn :=
  if !t.mbxBusy then []
  else match t.mbxCmd with
    | 2 => [.own (.mbxRowRepair k)]
    | 3 => [.own (.mbxSetRefresh k)]
    | 4 => [.own (.mbxReadRowLog k)]
    | 5 => [.own (.mbxRepairRowsLeft k)]
    | _ => []

/-- Stacks: replies, timers, refresh, self-refresh, the row log and the mailbox. -/
def State.stackTurns (s : State) : List Turn :=
  let now := s.clock.toNat
  s.stks.flatMap fun x =>
    let k := x.1
    let t := x.2
    let sr := fun (want : SrState) (wait : Nat) => keysWhere t.sr fun _ (r : SelfRef) => r.state == want && decide (r.timer + wait ≤ now)
    let win := 2 ^ (s.mtcfg.toNat / 2 ^ 20 % 16) * 3600 * 1000 * Config.cyclesPerMs
    evIf (!t.replies.isEmpty) (.baseDieReply k 0)
      ++ ((t.waiting.map fun w => hdrP w.hdr).eraseDups.filter fun p =>
        (t.sr.find? fun y => y.1 == p).all fun y => y.2.state == .active || y.2.state == .idle).map (fun p => .own (.bdServe k p))
      ++ (if t.mbxBusy then [] else t.rowDue.map fun r => .own (.rowCe k r.1 r.2.1 r.2.2))
      ++ (keysWhere t.tags fun _ (p : Option Packet) => match p with | some q => !q.dead && decide (q.time + 20 * Config.cyclesPerUs ≤ now) | none => false).map
        (fun g => .own (.tagTimeout k (g / 512) (g / 8 % 64) (g % 8)))
      ++ evIf (!t.hot.isEmpty && decide (t.hotWin < now / (32 * Config.cyclesPerMs))) (.hotRowWindowEnd k)
      ++ (if t.srcfg.getLsbD 0 then (sr .idle (t.srcfg.toNat / 65536 * 32)).map fun p => .own (.selfRefreshTimerExpiry k p) else [])
      ++ (sr .entering (20 * Config.cyclesPerNs)).map (fun p => .own (.selfRefreshEntryComplete k p))
      ++ (sr .exiting (250 * Config.cyclesPerNs)).map (fun p => .own (.selfRefreshExitComplete k p))
      ++ evIf (t.rowLog.any fun r => decide (r.first + win < now)) (.rowLogExpiry k)
      ++ t.mbxTurn k

/-- R98: refreshes that are due. -/
def State.refreshTurns (s : State) : List Turn :=
  let now := s.clock.toNat
  if now < 8 * Config.cyclesPerMs then []
  else (List.range Config.nStacks).flatMap fun k => ((List.range 64).filter fun p =>
    let sr : SelfRef := Sparse.get {} (s.stackOf k).sr p
    decide (sr.refresh + 32 * Config.cyclesPerMs / 2 ^ sr.mult ≤ now)).map fun p => .own (.refreshDue k p)

/-- R478: the firmware command in progress. -/
def State.fwTurn (s : State) : List Turn :=
  if !s.fwBusy then []
  else match s.fwCmd with
    | 1 => [.own .fwLoadPlugin]
    | 2 => [.own .fwUnloadPlugin]
    | 3 => [.own .fwInstallCommunicator]
    | 4 => [.own .fwRemoveCommunicator]
    | 5 => [.own .fwWritePeerAccess]
    | 6 => [.own .fwReadmitPeer]
    | 7 => [.own .fwOrderFailover]
    | 8 => [.own .fwAttestationReport]
    | 9 => [.own .exportPart]
    | 10 => [.own .importPart]
    | 11 => [.own .hold]
    | 12 => [.own .release]
    | 13 => [.own .fwStoreAccid]
    | _ => []

/-- Peers and device-wide timers. -/
def State.deviceTurns (s : State) : List Turn :=
  let now := s.clock.toNat
  s.peers.flatMap (fun p =>
      evIf (p.2.cache.any (fun c => decide (c.time + Config.cyclesPerMs ≤ now)) || !p.2.inq.isEmpty) (.replayReplyCacheExpiry p.1)
        ++ evIf (p.2.state != 2 && p.2.out.any fun o => decide (o.time + Config.cyclesPerMs ≤ now)) (.peerRequestTimeout p.1))
    ++ evIf (decide (s.refillAt < now / 20) && s.vdevs.any fun v => qbRate v.2.qbcfg != 0) .tokenRefill
    ++ evIf (decide (s.shareAt + 100 * Config.cyclesPerUs ≤ now) && !s.parts.isEmpty) .shareMeasurement
    ++ s.fwTurn ++ s.refreshTurns

/-- R413: the groups of resident teams with an instruction that is re-injected: one that reads its registers anew, or one that has
captured them. -/
def State.redoTurns (s : State) (ref : Bool) : List Turn :=
  (s.teams.filter fun t => t.2.place == .resident).flatMap fun t =>
    (t.2.groups.filter fun g => g.2.redo.any fun x => x.1.ref == ref).map fun g => .redo t.1 g.1

/-- R413, R417: what comes before every other turn of the machine's own: the PSAVE of teams of which LEFT has reached 0, then
the re-injection of what a checker has caught. -/
def State.urgent (s : State) : List Turn :=
  (s.teams.filter fun t => t.2.req && t.2.place == .resident && decide (t.2.deadline ≤ s.clock.toNat)).map (fun t => .own (.psaveDeadlineExpiry t.1))
    ++ s.redoTurns false

/-- Every turn that the machine may take by itself. -/
def State.turns (s : State) : List Turn :=
  if !s.bootDone then evIf (s.bootErr == 0) (.startUp 0 false) ++ s.fwTurn
  else
    let from_ := s.clock.toNat % Config.nCores
    s.issueTurns ++ s.redoTurns true ++ s.teamTurns from_ ++ s.coreTurns ++ s.queueTurns ++ s.admitTurns from_ ++ s.partTurns ++ s.dieTurns ++ s.stackTurns ++ s.deviceTurns

/-- The next turn: the first that has been laid down; else one that brooks no delay; else, in rotation, one that the machine may
take by itself. -/
def State.nextTurn (s : State) : State × Option Turn :=
  match s.plan, s.urgent with
  | t :: rest, _ => ({ s with plan := rest }, some t)
  | [], t :: _ => (s, some t)
  | [], [] => let ts := s.turns; (s, ts[s.clock.toNat % ts.length]?)

/-- The step of an internal turn. -/
def runEv (e : Ev) (s : State) : Out1 :=
  match e with
  | .walkEngineGrant die => execWalkEngineGrant die s
  | .memoryAccessCompletion uid grp => execMemoryAccessCompletion uid grp s
  | .stalledRecordPost part => execStalledRecordPost part s
  | .commitLockGrant uid grp => execCommitLockGrant uid grp s
  | .scanRetry uid grp => .next (if (s.groupOf uid grp).paths.any fun p => p.stop == .scan then s.afterXend uid grp else s)
  | .overflowWake uid grp => execOverflowWake uid grp s
  | .moved die parcel => execMoved die parcel s
  | .rsdrop v => execRsdrop v s
  | .singleParcelMove parcel pos => execSingleParcelMove parcel pos s
  | .rowCe stack p bank row => .next (s.rowCe stack p bank row)
  | .resurveyTakeParcel die frame => execResurveyTakeParcel die frame s
  | .resurveyLineCopy die => execResurveyLineCopy die s
  | .parcelSwitch die => execParcelSwitch die s
  | .switchDrainComplete die => execSwitchDrainComplete die s
  | .copyPart uid k lo n => .next (s.copyPart uid k lo n)
  | .bdServe stack p => .next (s.bdServe stack p)
  | .linkReset stack => .next (s.linkReset stack)
  | .arrayFailure unit => .next (s.arrayFailure unit)
  | .scrubFail core => .next (s.scrubFailed core)
  | .baseDieReply stack idx => execBaseDieReply stack idx s
  | .tagTimeout stack die p tag => execTagTimeout stack die p tag s
  | .refreshDue stack p => execRefreshDue stack p s
  | .hotRowWindowEnd stack => execHotRowWindowEnd stack s
  | .selfRefreshTimerExpiry stack p => execSelfRefreshTimerExpiry stack p s
  | .selfRefreshEntryComplete stack p => execSelfRefreshEntryComplete stack p s
  | .selfRefreshExitComplete stack p => execSelfRefreshExitComplete stack p s
  | .perambulatorLineRead die => execPerambulatorLineRead die s
  | .rowLogExpiry stack => execRowLogExpiry stack s
  | .mbxRowRepair stack => execMbxRowRepair stack s
  | .mbxSetRefresh stack => execMbxSetRefresh stack s
  | .mbxReadRowLog stack => execMbxReadRowLog stack s
  | .mbxRepairRowsLeft stack => execMbxRepairRowsLeft stack s
  | .bufferArrival cluster => execBufferArrival cluster s
  | .copyIssue uid => execCopyIssue uid s
  | .copyComplete uid slot => execCopyComplete uid slot s
  | .residencyFillComplete eng slot => execResidencyFillComplete eng slot s
  | .engineGrant eng => execEngineGrant eng s
  | .scrubComplete core => execScrubComplete core s
  | .nopCommand fn q => execNopCommand fn q s
  | .launch fn q => execLaunch fn q s
  | .indirect fn q => execIndirect fn q s
  | .signal fn q => execSignal fn q s
  | .waiteq fn q => execWaiteq fn q s
  | .qfence fn q => execQfence fn q s
  | .invalStage1 fn q => execInvalStage1 fn q s
  | .invalStage2 fn q => execInvalStage2 fn q s
  | .invalPartition fn q => execInvalPartition fn q s
  | .replayRetry fn q => execReplayRetry fn q s
  | .replayFail fn q => execReplayFail fn q s
  | .partcfg fn q => execPartcfg fn q s
  | .partrst fn q => execPartrst fn q s
  | .teamAdmission launch core => execTeamAdmission launch core s
  | .nodeRetry launch => .next ((s.startNodes launch).launchCheck launch)
  | .worldSwitchQuantumExpiry part => execWorldSwitchQuantumExpiry part s
  | .psaveDeadlineExpiry uid => execPsaveDeadlineExpiry uid s
  | .contextSave uid evict => execContextSave uid evict s
  | .contextRestore uid core => execContextRestore uid core s
  | .shareMeasurement => execShareMeasurement s
  | .borderDecide cluster => .next (s.border cluster)
  | .hostRetry fn => .next (s.hostRetry fn)
  | .atsInvalidateDone fn => .next (s.atsInvTry fn)
  | .replayReplyCacheExpiry src => execReplayReplyCacheExpiry src s
  | .peerRequestTimeout dest => execPeerRequestTimeout dest s
  | .assignNum die comm src term tag => .next (s.onAssign die comm src term tag)
  | .numbered die comm term tag n => .next (s.onNumbered die comm term tag n)
  | .cancel die comm src term tag => .next (s.onCancel die comm src term tag)
  | .reply die comm term tag status => .next (s.onReply die comm term tag status)
  | .hole die comm term tag n => .next (s.onHole die comm term tag n)
  | .ready die comm src term n => .next (s.onReady die comm src term n)
  | .go die comm term n => .next (s.onGo die comm term n)
  | .done die comm src term n => .next (s.onDone die comm src term n)
  | .collect die comm term => .next (s.onCollect die comm term)
  | .report die comm src term next known sent gone posted => .next (s.onReport die comm src term next known sent gone posted)
  | .failoverRequest die comm term => .next (s.onFailover die comm term)
  | .sequencerTimeout die comm => execSequencerTimeout die comm s
  | .collectiveLocalCompletion die comm => execCollectiveLocalCompletion die comm s
  | .fwLoadPlugin => execFwLoadPlugin s
  | .fwUnloadPlugin => execFwUnloadPlugin s
  | .fwInstallCommunicator => execFwInstallCommunicator s
  | .fwRemoveCommunicator => execFwRemoveCommunicator s
  | .fwWritePeerAccess => execFwWritePeerAccess s
  | .fwReadmitPeer => execFwReadmitPeer s
  | .fwOrderFailover => execFwOrderFailover s
  | .fwAttestationReport => execFwAttestationReport s
  | .exportPart => execExportPart s
  | .importPart => execImportPart s
  | .hold => execHold s
  | .release => execRelease s
  | .fwStoreAccid => execFwStoreAccid s
  | .startUp failed romFault => execStartUp failed romFault s
  | .stallSample site => execStallSample site s
  | .tokenRefill => execTokenRefill s
  | .pluginTimeout part => execPluginTimeout part s
  | .groupSelect site => execGroupSelect site s

/-! ## Events that meet in one cycle (R81, R402, R417, R445) -/

/-- R81: two RSDROP writes of one cycle are taken by die number, that of the element's stack (log 2). -/
def dropRank (v : Word) : Nat := 4 + min 2 (((Elem.ofWord v).map fun e => e.stack / 4).getD 0)

/-- The order of the machine's own events of one cycle: aborts, a COLLECT and a peer's silence; PSAVE, and what members and the
primary are told of a number; what is delivered to a group; drops; everything else. -/
def Ev.rank : Ev → Nat
  | .partrst .. => 1
  | .collect .. => 1
  | .peerRequestTimeout .. => 1
  | .psaveDeadlineExpiry .. => 2
  | .ready .. => 2
  | .go .. => 2
  | .done .. => 2
  | .hole .. => 2
  | .memoryAccessCompletion .. => 3
  | .rsdrop v => dropRank v
  | _ => 7

def meetRank : Instr ⊕ Ev → Nat
  | .inr e => e.rank
  | .inl (.partrst ..) => 1
  | .inl (.collect ..) => 1
  | .inl (.peerRequestTimeout ..) => 1
  | .inl (.psaveDeadlineExpiry ..) => 2
  | .inl (.ready ..) => 2
  | .inl (.go ..) => 2
  | .inl (.done ..) => 2
  | .inl (.hole ..) => 2
  | .inl (.memoryAccessCompletion ..) => 3
  | .inl (.rsdrop v) => dropRank v
  | .inl _ => 7

/-- R402, R417: a quarter that issues does so after what is delivered, an instruction that traps at issue being the youngest; but
its `yield` or `exit` counts before a PSAVE of the cycle. -/
def State.issueRank (s : State) (site : Nat) : Nat :=
  match (s.fetchNext site).2 with
  | some (.yield _) => 0
  | some (.exit _) => 0
  | _ => 8

/-- What meets in one cycle, in the order in which it is taken. -/
def State.meetOrder (s : State) (sites : List Nat) (ts : List (Instr ⊕ Ev)) : List Turn :=
  let one := fun (t : Instr ⊕ Ev) => match t with | .inl i => Turn.event i | .inr e => Turn.own e
  let all := sites.map (fun k => (s.issueRank k, Turn.issue k)) ++ ts.map fun t => (meetRank t, one t)
  (List.range 9).flatMap fun k => (all.filter fun x => x.1 == k).map fun x => x.2

/-! ## A word placed where the next step fetches -/

/-- A resident team of one lane on core 0, whose run stands at `pc`. -/
def aloneTeam (pc : DWord) : Team :=
  { place := .resident, lanes := 1, ngroup := 1, entry := pc
    groups := [(0, { live := 1, nslice := 1, lanes := 1, budget := 128, paths := [{ slices := 1, pc := pc }] })] }

/-- The word `w` at the first address of a page that maps, for fetch, to line 0 of local memory, held by its home slice;
and a team whose run fetches it next (log 13). -/
def State.placeWord (s : State) (w : Word) : State :=
  let pc : DWord := 0x10000
  let u := s.nextUid
  { (s.setL2 (s.homeOf 0) 0 0 { on := true, valid := 3, dirty := 3, data := w.setWidth 1024 }).updCore 0 fun c =>
      { c with tlb := { part := 0, asid := 0, va := 1, log2 := 16, dpa := 0, r1 := false, w1 := false, x1 := true
                        r2 := false, w2 := false, x2 := true, d := false } :: c.tlb } with
    plan := .issue 0 :: s.plan
    nextUid := u + 1
    teams := Sparse.set {} s.teams u (aloneTeam pc)
    runs := Sparse.set {} s.runs 0 { on := true, uid := u, grp := 0, slices := 1 } }

/-! ## A cycle (R264, R396, R472, R474) -/

/-- R472: sample periods that end in this cycle. -/
def State.sampleTurns (s : State) : List Turn :=
  let due := s.parts.filter fun p => p.2.trCtl.getLsbD 31 && p.2.trCtl.getLsbD 8 && s.clock.toNat % 2 ^ (10 + p.2.trCtl.toNat / 2 ^ 22 % 16) == 0
  due.flatMap fun p =>
    ((s.teams.filter fun t => t.2.part == p.1 && t.2.onCore).flatMap fun t => t.2.groups.map fun g => t.2.core * 4 + g.2.quarter).eraseDups.map
      fun k => .own (.stallSample k)

/-- A cycle passes: CLOCK, the cycle counters, the clusters that partitions hold, the ages of ready groups, and the samples that
are due. -/
def State.tick (s : State) : State :=
  let s1 : State := { s with
    clock := s.clock + 1
    parts := s.parts.map fun p => (p.1, { p.2 with
      shareAcc := p.2.shareAcc + (if p.2.valid then s.clustersHeld p.1 else 0), banks := p.2.banks.map fun b => (b.1, b.2.counted 0x01 1) }) }
  let s2 := s1.markReady
  { s2 with plan := s2.plan ++ s2.sampleTurns }

end Sys2Proof.Machine
end

