-- ==== Sys2Proof/Machine/Dispatch.lean ====
section
/-! DEFINITION. One arm for each step: the meaning it calls. -/

namespace Sys2Proof.Machine

def exec (i : Instr) (s : State) : Host.Outcome State Fault Refusal :=
  match i with
  | .fadd e k d a b => Sys2Proof.Machine.execFadd e k d a b s
  | .fsub e k d a b => Sys2Proof.Machine.execFsub e k d a b s
  | .fmul e k d a b => Sys2Proof.Machine.execFmul e k d a b s
  | .ffma e k d a b => Sys2Proof.Machine.execFfma e k d a b s
  | .fmin e k d a b => Sys2Proof.Machine.execFmin e k d a b s
  | .fmax e k d a b => Sys2Proof.Machine.execFmax e k d a b s
  | .fcmp e k m c a b => Sys2Proof.Machine.execFcmp e k m c a b s
  | .fneg e k d a => Sys2Proof.Machine.execFneg e k d a s
  | .fabs e k d a => Sys2Proof.Machine.execFabs e k d a s
  | .fsqrt e k d a => Sys2Proof.Machine.execFsqrt e k d a s
  | .frcp e k d a => Sys2Proof.Machine.execFrcp e k d a s
  | .frsqrt e k d a => Sys2Proof.Machine.execFrsqrt e k d a s
  | .fexp2 e k d a => Sys2Proof.Machine.execFexp2 e k d a s
  | .flog2 e k d a => Sys2Proof.Machine.execFlog2 e k d a s
  | .fsin e k d a => Sys2Proof.Machine.execFsin e k d a s
  | .fcos e k d a => Sys2Proof.Machine.execFcos e k d a s
  | .frint e k d a => Sys2Proof.Machine.execFrint e k d a s
  | .ffloor e k d a => Sys2Proof.Machine.execFfloor e k d a s
  | .fceil e k d a => Sys2Proof.Machine.execFceil e k d a s
  | .ftrunc e k d a => Sys2Proof.Machine.execFtrunc e k d a s
  | .fclass e k d a => Sys2Proof.Machine.execFclass e k d a s
  | .sel e k d a b => Sys2Proof.Machine.execSel e k d a b s
  | .hfma2 e k d a b => Sys2Proof.Machine.execHfma2 e k d a b s
  | .bfma2 e k d a b => Sys2Proof.Machine.execBfma2 e k d a b s
  | .ldAcq e k d a z sc => Sys2Proof.Machine.execLdAcq e k d a z sc s
  | .stRel e k d a z sc => Sys2Proof.Machine.execStRel e k d a z sc s
  | .pfx e k a b l => Sys2Proof.Machine.execPfx e k a b l s
  | .iadd e k d a b => Sys2Proof.Machine.execIadd e k d a b s
  | .isub e k d a b => Sys2Proof.Machine.execIsub e k d a b s
  | .imul e k d a b => Sys2Proof.Machine.execImul e k d a b s
  | .imulh e k d a b => Sys2Proof.Machine.execImulh e k d a b s
  | .umulh e k d a b => Sys2Proof.Machine.execUmulh e k d a b s
  | .imad e k d a b => Sys2Proof.Machine.execImad e k d a b s
  | .andLane e k d a b => Sys2Proof.Machine.execAndLane e k d a b s
  | .orLane e k d a b => Sys2Proof.Machine.execOrLane e k d a b s
  | .xorLane e k d a b => Sys2Proof.Machine.execXorLane e k d a b s
  | .shlLane e k d a b => Sys2Proof.Machine.execShlLane e k d a b s
  | .shrLane e k d a b => Sys2Proof.Machine.execShrLane e k d a b s
  | .sraLane e k d a b => Sys2Proof.Machine.execSraLane e k d a b s
  | .imin e k d a b => Sys2Proof.Machine.execImin e k d a b s
  | .imax e k d a b => Sys2Proof.Machine.execImax e k d a b s
  | .umin e k d a b => Sys2Proof.Machine.execUmin e k d a b s
  | .umax e k d a b => Sys2Proof.Machine.execUmax e k d a b s
  | .icmp e k m c a b => Sys2Proof.Machine.execIcmp e k m c a b s
  | .ineg e k d a => Sys2Proof.Machine.execIneg e k d a s
  | .iabs e k d a => Sys2Proof.Machine.execIabs e k d a s
  | .notLane e k d a => Sys2Proof.Machine.execNotLane e k d a s
  | .popcLane e k d a => Sys2Proof.Machine.execPopcLane e k d a s
  | .clzLane e k d a => Sys2Proof.Machine.execClzLane e k d a s
  | .ctzLane e k d a => Sys2Proof.Machine.execCtzLane e k d a s
  | .brev e k d a => Sys2Proof.Machine.execBrev e k d a s
  | .bswap e k d a => Sys2Proof.Machine.execBswap e k d a s
  | .sext8 e k d a => Sys2Proof.Machine.execSext8 e k d a s
  | .sext16 e k d a => Sys2Proof.Machine.execSext16 e k d a s
  | .zext8 e k d a => Sys2Proof.Machine.execZext8 e k d a s
  | .zext16 e k d a => Sys2Proof.Machine.execZext16 e k d a s
  | .laneid e k d => Sys2Proof.Machine.execLaneid e k d s
  | .bfx e k d a b => Sys2Proof.Machine.execBfx e k d a b s
  | .bfi e k d a b => Sys2Proof.Machine.execBfi e k d a b s
  | .iaddi e k d a im => Sys2Proof.Machine.execIaddi e k d a im s
  | .imuli e k d a im => Sys2Proof.Machine.execImuli e k d a im s
  | .andiLane e k d a im => Sys2Proof.Machine.execAndiLane e k d a im s
  | .oriLane e k d a im => Sys2Proof.Machine.execOriLane e k d a im s
  | .xoriLane e k d a im => Sys2Proof.Machine.execXoriLane e k d a im s
  | .shliLane e k d a im => Sys2Proof.Machine.execShliLane e k d a im s
  | .shriLane e k d a im => Sys2Proof.Machine.execShriLane e k d a im s
  | .sraiLane e k d a im => Sys2Proof.Machine.execSraiLane e k d a im s
  | .srni e k d a im => Sys2Proof.Machine.execSrni e k d a im s
  | .add2s e k d a b => Sys2Proof.Machine.execAdd2s e k d a b s
  | .sub2s e k d a b => Sys2Proof.Machine.execSub2s e k d a b s
  | .dot2S e k d a b => Sys2Proof.Machine.execDot2S e k d a b s
  | .dot2U e k d a b => Sys2Proof.Machine.execDot2U e k d a b s
  | .dot4S e k d a b => Sys2Proof.Machine.execDot4S e k d a b s
  | .dot4U e k d a b => Sys2Proof.Machine.execDot4U e k d a b s
  | .dot8S e k d a b => Sys2Proof.Machine.execDot8S e k d a b s
  | .dot8U e k d a b => Sys2Proof.Machine.execDot8U e k d a b s
  | .fdot4E4m3 e k d a b => Sys2Proof.Machine.execFdot4E4m3 e k d a b s
  | .fdot4E5m2 e k d a b => Sys2Proof.Machine.execFdot4E5m2 e k d a b s
  | .fdot8 e k d a b => Sys2Proof.Machine.execFdot8 e k d a b s
  | .cvt e k d a c r => Sys2Proof.Machine.execCvt e k d a c r s
  | .slide e k d a f g n => Sys2Proof.Machine.execSlide e k d a f g n s
  | .shfl e k d a b => Sys2Proof.Machine.execShfl e k d a b s
  | .tosLane e sc a n => Sys2Proof.Machine.execTosLane e sc a n s
  | .tosReduce e k sc a f => Sys2Proof.Machine.execTosReduce e k sc a f s
  | .tov e k d sc => Sys2Proof.Machine.execTov e k d sc s
  | .scan e k d a f => Sys2Proof.Machine.execScan e k d a f s
  | .ld e k d a b z => Sys2Proof.Machine.execLd e k d a b z s
  | .st e k d a b z => Sys2Proof.Machine.execSt e k d a b z s
  | .atom e k d a o sc => Sys2Proof.Machine.execAtom e k d a o sc s
  | .red e k d a o sc => Sys2Proof.Machine.execRed e k d a o sc s
  | .mma e k a x f r l z c => Sys2Proof.Machine.execMma e k a x f r l z c s
  | .accxRd e k a x w => Sys2Proof.Machine.execAccxRd e k a x w s
  | .accxWr e k a x w => Sys2Proof.Machine.execAccxWr e k a x w s
  | .accxRdz e k a x w => Sys2Proof.Machine.execAccxRdz e k a x w s
  | .nop => Sys2Proof.Machine.execNop s
  | .addScalar e d a b => Sys2Proof.Machine.execAddScalar e d a b s
  | .subScalar e d a b => Sys2Proof.Machine.execSubScalar e d a b s
  | .mulScalar e d a b => Sys2Proof.Machine.execMulScalar e d a b s
  | .mulh e d a b => Sys2Proof.Machine.execMulh e d a b s
  | .mulhu e d a b => Sys2Proof.Machine.execMulhu e d a b s
  | .andScalar e d a b => Sys2Proof.Machine.execAndScalar e d a b s
  | .orScalar e d a b => Sys2Proof.Machine.execOrScalar e d a b s
  | .xorScalar e d a b => Sys2Proof.Machine.execXorScalar e d a b s
  | .shlScalar e d a b => Sys2Proof.Machine.execShlScalar e d a b s
  | .shrScalar e d a b => Sys2Proof.Machine.execShrScalar e d a b s
  | .sraScalar e d a b => Sys2Proof.Machine.execSraScalar e d a b s
  | .minScalar e d a b => Sys2Proof.Machine.execMinScalar e d a b s
  | .maxScalar e d a b => Sys2Proof.Machine.execMaxScalar e d a b s
  | .minu e d a b => Sys2Proof.Machine.execMinu e d a b s
  | .maxu e d a b => Sys2Proof.Machine.execMaxu e d a b s
  | .div e d a b => Sys2Proof.Machine.execDiv e d a b s
  | .divu e d a b => Sys2Proof.Machine.execDivu e d a b s
  | .rem e d a b => Sys2Proof.Machine.execRem e d a b s
  | .remu e d a b => Sys2Proof.Machine.execRemu e d a b s
  | .popcScalar e d a => Sys2Proof.Machine.execPopcScalar e d a s
  | .clzScalar e d a => Sys2Proof.Machine.execClzScalar e d a s
  | .ctzScalar e d a => Sys2Proof.Machine.execCtzScalar e d a s
  | .cmp e c n a b => Sys2Proof.Machine.execCmp e c n a b s
  | .addi e d a im => Sys2Proof.Machine.execAddi e d a im s
  | .andiScalar e d a im => Sys2Proof.Machine.execAndiScalar e d a im s
  | .oriScalar e d a im => Sys2Proof.Machine.execOriScalar e d a im s
  | .xoriScalar e d a im => Sys2Proof.Machine.execXoriScalar e d a im s
  | .shliScalar e d a im => Sys2Proof.Machine.execShliScalar e d a im s
  | .shriScalar e d a im => Sys2Proof.Machine.execShriScalar e d a im s
  | .sraiScalar e d a im => Sys2Proof.Machine.execSraiScalar e d a im s
  | .cmpi e c n a im => Sys2Proof.Machine.execCmpi e c n a im s
  | .li e d im => Sys2Proof.Machine.execLi e d im s
  | .lui e d im => Sys2Proof.Machine.execLui e d im s
  | .mand e d a b => Sys2Proof.Machine.execMand e d a b s
  | .mor e d a b => Sys2Proof.Machine.execMor e d a b s
  | .mxor e d a b => Sys2Proof.Machine.execMxor e d a b s
  | .mandn e d a b => Sys2Proof.Machine.execMandn e d a b s
  | .mnot e d a => Sys2Proof.Machine.execMnot e d a s
  | .mset e d a => Sys2Proof.Machine.execMset e d a s
  | .mget e d a => Sys2Proof.Machine.execMget e d a s
  | .mpopc e d a => Sys2Proof.Machine.execMpopc e d a s
  | .mfirst e d a => Sys2Proof.Machine.execMfirst e d a s
  | .b e o => Sys2Proof.Machine.execB e o s
  | .bc e c o => Sys2Proof.Machine.execBc e c o s
  | .bm e z m o => Sys2Proof.Machine.execBm e z m o s
  | .bmG e z m o => Sys2Proof.Machine.execBmG e z m o s
  | .bxPreq e p o => Sys2Proof.Machine.execBxPreq e p o s
  | .bxD e p n f o => Sys2Proof.Machine.execBxD e p n f o s
  | .call e o => Sys2Proof.Machine.execCall e o s
  | .jr e a => Sys2Proof.Machine.execJr e a s
  | .couple e => Sys2Proof.Machine.execCouple e s
  | .exit e => Sys2Proof.Machine.execExit e s
  | .wait e l sc c t => Sys2Proof.Machine.execWait e l sc c t s
  | .waitr e a c => Sys2Proof.Machine.execWaitr e a c s
  | .fence e sc q => Sys2Proof.Machine.execFence e sc q s
  | .xbegin e sc o => Sys2Proof.Machine.execXbegin e sc o s
  | .xbeginNoTarget e sc => Sys2Proof.Machine.execXbeginNoTarget e sc s
  | .xelse e o => Sys2Proof.Machine.execXelse e o s
  | .xend e => Sys2Proof.Machine.execXend e s
  | .xretry e => Sys2Proof.Machine.execXretry e s
  | .xabort e c => Sys2Proof.Machine.execXabort e c s
  | .xstat e d => Sys2Proof.Machine.execXstat e d s
  | .barInit e a im => Sys2Proof.Machine.execBarInit e a im s
  | .barArrive e d im => Sys2Proof.Machine.execBarArrive e d im s
  | .barWait e a im => Sys2Proof.Machine.execBarWait e a im s
  | .barSync e d im => Sys2Proof.Machine.execBarSync e d im s
  | .barRead e d im => Sys2Proof.Machine.execBarRead e d im s
  | .bufArm e a h => Sys2Proof.Machine.execBufArm e a h s
  | .bufArrive e a h => Sys2Proof.Machine.execBufArrive e a h s
  | .bufArriveCl e d a h => Sys2Proof.Machine.execBufArriveCl e d a h s
  | .bufWait e a h => Sys2Proof.Machine.execBufWait e a h s
  | .bufRel e h => Sys2Proof.Machine.execBufRel e h s
  | .bufRgn e a h => Sys2Proof.Machine.execBufRgn e a h s
  | .bufStat e d h => Sys2Proof.Machine.execBufStat e d h s
  | .bufCount e d h => Sys2Proof.Machine.execBufCount e d h s
  | .cpy e d a => Sys2Proof.Machine.execCpy e d a s
  | .tidSet e d a t => Sys2Proof.Machine.execTidSet e d a t s
  | .tidRd e d k t => Sys2Proof.Machine.execTidRd e d k t s
  | .tidInv e t => Sys2Proof.Machine.execTidInv e t s
  | .strBind e n t => Sys2Proof.Machine.execStrBind e n t s
  | .strBindE e n t => Sys2Proof.Machine.execStrBindE e n t s
  | .strUnbind e n => Sys2Proof.Machine.execStrUnbind e n s
  | .strPeek e d n => Sys2Proof.Machine.execStrPeek e d n s
  | .strSeek e n a => Sys2Proof.Machine.execStrSeek e n a s
  | .resLoad e d a b => Sys2Proof.Machine.execResLoad e d a b s
  | .resPin e d a => Sys2Proof.Machine.execResPin e d a s
  | .resUnpin e d a => Sys2Proof.Machine.execResUnpin e d a s
  | .resRevoke e d a => Sys2Proof.Machine.execResRevoke e d a s
  | .resStat e d a => Sys2Proof.Machine.execResStat e d a s
  | .resUse e d => Sys2Proof.Machine.execResUse e d s
  | .accAlloc e d a => Sys2Proof.Machine.execAccAlloc e d a s
  | .accFree e a => Sys2Proof.Machine.execAccFree e a s
  | .accZero e a => Sys2Proof.Machine.execAccZero e a s
  | .collPost e d a => Sys2Proof.Machine.execCollPost e d a s
  | .collCancel e d a => Sys2Proof.Machine.execCollCancel e d a s
  | .collStat e d a => Sys2Proof.Machine.execCollStat e d a s
  | .trig e => Sys2Proof.Machine.execTrig e s
  | .ldsB32 e d a im => Sys2Proof.Machine.execLdsB32 e d a im s
  | .ldsB64 e d a im => Sys2Proof.Machine.execLdsB64 e d a im s
  | .stsB32 e d a im => Sys2Proof.Machine.execStsB32 e d a im s
  | .stsB64 e d a im => Sys2Proof.Machine.execStsB64 e d a im s
  | .satom e d a b o p => Sys2Proof.Machine.execSatom e d a b o p s
  | .sysrd e d im => Sys2Proof.Machine.execSysrd e d im s
  | .syswr e a im => Sys2Proof.Machine.execSyswr e a im s
  | .trap e im => Sys2Proof.Machine.execTrap e im s
  | .brk e t => Sys2Proof.Machine.execBrk e t s
  | .rte e => Sys2Proof.Machine.execRte e s
  | .yield e => Sys2Proof.Machine.execYield e s
  | .memlocQuery e a => Sys2Proof.Machine.execMemlocQuery e a s
  | .fmodeWrite e a => Sys2Proof.Machine.execFmodeWrite e a s
  | .satfClear e a => Sys2Proof.Machine.execSatfClear e a s
  | .rqdataWrite e a => Sys2Proof.Machine.execRqdataWrite e a s
  | .groupSelect site => Sys2Proof.Machine.execGroupSelect site s
  | .walkEngineGrant die => Sys2Proof.Machine.execWalkEngineGrant die s
  | .atsTranslationCompletion fn asid ioPage log2 grant r w => Sys2Proof.Machine.execAtsTranslationCompletion fn asid ioPage log2 grant r w s
  | .atsInvalidateRequest fn base len => Sys2Proof.Machine.execAtsInvalidateRequest fn base len s
  | .pageResponse fn ioPage ok => Sys2Proof.Machine.execPageResponse fn ioPage ok s
  | .memoryAccessCompletion uid grp => Sys2Proof.Machine.execMemoryAccessCompletion uid grp s
  | .stalledRecordPost part => Sys2Proof.Machine.execStalledRecordPost part s
  | .tqheadWrite part v => Sys2Proof.Machine.execTqheadWrite part v s
  | .tqctlWrite part v => Sys2Proof.Machine.execTqctlWrite part v s
  | .commitLockGrant uid grp => Sys2Proof.Machine.execCommitLockGrant uid grp s
  | .overflowWake uid grp => Sys2Proof.Machine.execOverflowWake uid grp s
  | .homeSliceRead die dpa vdev cls => Sys2Proof.Machine.execHomeSliceRead die dpa vdev cls s
  | .homeSliceWrite die dpa vdev cls n v => Sys2Proof.Machine.execHomeSliceWrite die dpa vdev cls n v s
  | .homeSliceAtomic die dpa vdev op x y => Sys2Proof.Machine.execHomeSliceAtomic die dpa vdev op x y s
  | .moved die parcel => Sys2Proof.Machine.execMoved die parcel s
  | .rsdrop v => Sys2Proof.Machine.execRsdrop v s
  | .resurveyTakeParcel die frame => Sys2Proof.Machine.execResurveyTakeParcel die frame s
  | .resurveyLineCopy die => Sys2Proof.Machine.execResurveyLineCopy die s
  | .parcelSwitch die => Sys2Proof.Machine.execParcelSwitch die s
  | .switchDrainComplete die => Sys2Proof.Machine.execSwitchDrainComplete die s
  | .singleParcelMove parcel pos => Sys2Proof.Machine.execSingleParcelMove parcel pos s
  | .baseDieRead stack hdr => Sys2Proof.Machine.execBaseDieRead stack hdr s
  | .baseDieWrite stack hdr data => Sys2Proof.Machine.execBaseDieWrite stack hdr data s
  | .baseDieMaskedWrite stack hdr be data => Sys2Proof.Machine.execBaseDieMaskedWrite stack hdr be data s
  | .refreshRate stack hdr => Sys2Proof.Machine.execRefreshRate stack hdr s
  | .selfRefreshEntryRequest stack hdr => Sys2Proof.Machine.execSelfRefreshEntryRequest stack hdr s
  | .selfRefreshExitRequest stack hdr => Sys2Proof.Machine.execSelfRefreshExitRequest stack hdr s
  | .neighbourRefresh stack hdr => Sys2Proof.Machine.execNeighbourRefresh stack hdr s
  | .baseDieReply stack idx => Sys2Proof.Machine.execBaseDieReply stack idx s
  | .tagTimeout stack die p tag => Sys2Proof.Machine.execTagTimeout stack die p tag s
  | .tokenRefill => Sys2Proof.Machine.execTokenRefill s
  | .refreshDue stack p => Sys2Proof.Machine.execRefreshDue stack p s
  | .hotRowWindowEnd stack => Sys2Proof.Machine.execHotRowWindowEnd stack s
  | .selfRefreshTimerExpiry stack p => Sys2Proof.Machine.execSelfRefreshTimerExpiry stack p s
  | .selfRefreshEntryComplete stack p => Sys2Proof.Machine.execSelfRefreshEntryComplete stack p s
  | .selfRefreshExitComplete stack p => Sys2Proof.Machine.execSelfRefreshExitComplete stack p s
  | .perambulatorLineRead die => Sys2Proof.Machine.execPerambulatorLineRead die s
  | .rowLogExpiry stack => Sys2Proof.Machine.execRowLogExpiry stack s
  | .mbxTrain stack fail linkErr => Sys2Proof.Machine.execMbxTrain stack fail linkErr s
  | .mbxRowRepair stack => Sys2Proof.Machine.execMbxRowRepair stack s
  | .mbxSetRefresh stack => Sys2Proof.Machine.execMbxSetRefresh stack s
  | .mbxReadRowLog stack => Sys2Proof.Machine.execMbxReadRowLog stack s
  | .mbxRepairRowsLeft stack => Sys2Proof.Machine.execMbxRepairRowsLeft stack s
  | .cecntWrite index => Sys2Proof.Machine.execCecntWrite index s
  | .bufferArrival cluster => Sys2Proof.Machine.execBufferArrival cluster s
  | .copyIssue uid => Sys2Proof.Machine.execCopyIssue uid s
  | .copyComplete uid slot => Sys2Proof.Machine.execCopyComplete uid slot s
  | .residencyFillComplete eng slot => Sys2Proof.Machine.execResidencyFillComplete eng slot s
  | .engineGrant eng => Sys2Proof.Machine.execEngineGrant eng s
  | .scrubComplete core => Sys2Proof.Machine.execScrubComplete core s
  | .notify fn q v => Sys2Proof.Machine.execNotify fn q v s
  | .qctlWrite fn q v => Sys2Proof.Machine.execQctlWrite fn q v s
  | .nopCommand fn q => Sys2Proof.Machine.execNopCommand fn q s
  | .launch fn q => Sys2Proof.Machine.execLaunch fn q s
  | .indirect fn q => Sys2Proof.Machine.execIndirect fn q s
  | .signal fn q => Sys2Proof.Machine.execSignal fn q s
  | .waiteq fn q => Sys2Proof.Machine.execWaiteq fn q s
  | .qfence fn q => Sys2Proof.Machine.execQfence fn q s
  | .invalStage1 fn q => Sys2Proof.Machine.execInvalStage1 fn q s
  | .invalStage2 fn q => Sys2Proof.Machine.execInvalStage2 fn q s
  | .invalPartition fn q => Sys2Proof.Machine.execInvalPartition fn q s
  | .replayRetry fn q => Sys2Proof.Machine.execReplayRetry fn q s
  | .replayFail fn q => Sys2Proof.Machine.execReplayFail fn q s
  | .partcfg fn q => Sys2Proof.Machine.execPartcfg fn q s
  | .partrst fn q => Sys2Proof.Machine.execPartrst fn q s
  | .teamAdmission launch core => Sys2Proof.Machine.execTeamAdmission launch core s
  | .worldSwitchQuantumExpiry part => Sys2Proof.Machine.execWorldSwitchQuantumExpiry part s
  | .pluginTimeout part => Sys2Proof.Machine.execPluginTimeout part s
  | .psaveDeadlineExpiry uid => Sys2Proof.Machine.execPsaveDeadlineExpiry uid s
  | .contextSave uid evict => Sys2Proof.Machine.execContextSave uid evict s
  | .contextRestore uid core => Sys2Proof.Machine.execContextRestore uid core s
  | .shareMeasurement => Sys2Proof.Machine.execShareMeasurement s
  | .hostBar4Read fn off n => Sys2Proof.Machine.execHostBar4Read fn off n s
  | .hostBar4Write fn off n v => Sys2Proof.Machine.execHostBar4Write fn off n v s
  | .hostAtomicop fn off n op x y => Sys2Proof.Machine.execHostAtomicop fn off n op x y s
  | .functionLevelReset fn => Sys2Proof.Machine.execFunctionLevelReset fn s
  | .ualinkInboundRead src tag off n => Sys2Proof.Machine.execUalinkInboundRead src tag off n s
  | .ualinkInboundWrite src tag off n v => Sys2Proof.Machine.execUalinkInboundWrite src tag off n v s
  | .ualinkInboundAtomic src tag off n op x y => Sys2Proof.Machine.execUalinkInboundAtomic src tag off n op x y s
  | .peerTranslationQuery src off => Sys2Proof.Machine.execPeerTranslationQuery src off s
  | .replayReplyCacheExpiry src => Sys2Proof.Machine.execReplayReplyCacheExpiry src s
  | .ualinkCompletion dest tag ok v => Sys2Proof.Machine.execUalinkCompletion dest tag ok v s
  | .peerRequestTimeout dest => Sys2Proof.Machine.execPeerRequestTimeout dest s
  | .assignNum die comm src term tag => Sys2Proof.Machine.execAssignNum die comm src term tag s
  | .numbered die comm frm tag n => Sys2Proof.Machine.execNumbered die comm frm tag n s
  | .cancel die comm src term tag => Sys2Proof.Machine.execCancel die comm src term tag s
  | .reply die comm frm tag status => Sys2Proof.Machine.execReply die comm frm tag status s
  | .hole die comm frm tag n => Sys2Proof.Machine.execHole die comm frm tag n s
  | .ready die comm src term n => Sys2Proof.Machine.execReady die comm src term n s
  | .go die comm frm n => Sys2Proof.Machine.execGo die comm frm n s
  | .done die comm src term n => Sys2Proof.Machine.execDone die comm src term n s
  | .collect die comm frm => Sys2Proof.Machine.execCollect die comm frm s
  | .report die comm src term next known sent gone posted => Sys2Proof.Machine.execReport die comm src term next known sent gone posted s
  | .failoverRequest die comm frm => Sys2Proof.Machine.execFailoverRequest die comm frm s
  | .sequencerTimeout die comm => Sys2Proof.Machine.execSequencerTimeout die comm s
  | .collectiveLocalCompletion die comm => Sys2Proof.Machine.execCollectiveLocalCompletion die comm s
  | .iftRun core given => Sys2Proof.Machine.execIftRun core given s
  | .linkInjectorArm port v => Sys2Proof.Machine.execLinkInjectorArm port v s
  | .linkInjection port => Sys2Proof.Machine.execLinkInjection port s
  | .stallSample site => Sys2Proof.Machine.execStallSample site s
  | .trheadWrite part v => Sys2Proof.Machine.execTrheadWrite part v s
  | .dbgstop part v => Sys2Proof.Machine.execDbgstop part v s
  | .ctrClaim fn part bank => Sys2Proof.Machine.execCtrClaim fn part bank s
  | .ctrRelease fn part bank => Sys2Proof.Machine.execCtrRelease fn part bank s
  | .ctrselWrite fn part bank k v => Sys2Proof.Machine.execCtrselWrite fn part bank k v s
  | .capselWrite fn part bank v => Sys2Proof.Machine.execCapselWrite fn part bank v s
  | .fwLoadPlugin => Sys2Proof.Machine.execFwLoadPlugin s
  | .fwUnloadPlugin => Sys2Proof.Machine.execFwUnloadPlugin s
  | .fwInstallCommunicator => Sys2Proof.Machine.execFwInstallCommunicator s
  | .fwRemoveCommunicator => Sys2Proof.Machine.execFwRemoveCommunicator s
  | .fwWritePeerAccess => Sys2Proof.Machine.execFwWritePeerAccess s
  | .fwReadmitPeer => Sys2Proof.Machine.execFwReadmitPeer s
  | .fwOrderFailover => Sys2Proof.Machine.execFwOrderFailover s
  | .fwAttestationReport => Sys2Proof.Machine.execFwAttestationReport s
  | .exportPart => Sys2Proof.Machine.execExportPart s
  | .importPart => Sys2Proof.Machine.execImportPart s
  | .hold => Sys2Proof.Machine.execHold s
  | .release => Sys2Proof.Machine.execRelease s
  | .fwStoreAccid => Sys2Proof.Machine.execFwStoreAccid s
  | .startUp failed romFault => Sys2Proof.Machine.execStartUp failed romFault s
  | .pwrmonUpdate im avg => Sys2Proof.Machine.execPwrmonUpdate im avg s
  | .pwrmonWrite im => Sys2Proof.Machine.execPwrmonWrite im s
  | .thermalLimit isStack im => Sys2Proof.Machine.execThermalLimit isStack im s
  | .registerWrite port bar off v => Sys2Proof.Machine.execRegisterWrite port bar off v s
  | .ualinkLinkDown port => Sys2Proof.Machine.execUalinkLinkDown port s
  | .ualinkLinkUp port => Sys2Proof.Machine.execUalinkLinkUp port s
  | .baseDieLinkFailure stack => Sys2Proof.Machine.execBaseDieLinkFailure stack s

end Sys2Proof.Machine
end

