-- ==== Sys2Proof/Machine/Step.lean ====
section
/-! DEFINITION. One step of the machine: a cycle passes and one turn is taken. -/

namespace Sys2Proof.Machine

/-- A turn: the next instruction of a quarter's run; one that is re-injected (R413); a step from outside; or one of the machine's
own. -/
def performOne (t : Turn) (s : State) : Host.Outcome State Fault Refusal :=
  match t with
  | .issue site =>
    match s.fetchNext site with
    | (s1, some i) => exec i s1
    | (s1, none) => .next s1
  | .redo u g =>
    match (s.groupOf u g).redo with
    | some (x, i) => match exec i (s.redoStart u g x i) with
      | .next t => .next (s.redoEnd u g x i t)
      | r => r
    | none => .next s
  | .event i => exec i s
  | .own e => runEv e s
  | .meet .. => .next s

/-- R402, R417, R445: what comes in one cycle is taken in its order. -/
def perform (t : Turn) (s : State) : Host.Outcome State Fault Refusal :=
  match t with
  | .meet sites ts => (s.meetOrder sites ts).foldl (fun r t => match r with | .next s => performOne t s | r => r) (.next s)
  | t => performOne t s

/-- A cycle passes, and the next turn, if there is one, is taken. -/
def step (s : State) : Host.Outcome State Fault Refusal :=
  match s.tick.nextTurn with
    | (s1, some t) => perform t s1
    | (s1, none) => .next s1

/-- An instruction word is placed where a run fetches next; a row that is no word is laid down as the next turn. -/
def State.withFetchWord (s : State) (nbits w : Nat) : State :=
  match decodeTableWord nbits w with
  | some i => if (encode i).isSome then s.placeWord (BitVec.ofNat 32 (w % 2 ^ nbits)) else { s with plan := .event i :: s.plan }
  | none => s.placeWord (BitVec.ofNat 32 (w % 2 ^ nbits))

end Sys2Proof.Machine
end

