-- ==== Sys2Proof/Safety.lean ====
section
/-! DEFINITION. The terms of the statements: what is left alone by a step, what a group's registers become, and under which
conditions on the state alone an instruction has its own effect. -/

namespace Sys2Proof.Machine

/-! ## Conditions -/

/-- No checker stands between an instruction of the current run and its effect (R413, R459, R468): the run goes on, no
input fault waits, and the team's partition is no test partition. -/
structure State.Calm (s : State) : Prop where
  on      : s.run.on = true
  misfire : s.misfire = []
  test    : (s.partOf s.curTeam.part).test = false

/-- One path issues, and it is all of the run's slices. -/
structure State.Alone (s : State) : Prop where
  on      : s.run.on = true
  issuers : s.curGroup.issuers s.run.slices = [s.run.slices]

/-- R405: a trap that the paths of `sl` raise at issue, put off while another path of their group is in the middle of a run: they
leave the run, and the trap is due. -/
def State.putsOff (s : State) (sl : BitVec 8) : State :=
  (s.updGroup s.run.uid s.run.grp fun x => { x with
    paths := x.paths.map fun p => if p.slices &&& sl != 0 then { p with due := true } else p }).leaveRun s.run.uid s.run.grp sl

/-! ## Words -/

/-- R252: a word of the lane set: E, OP, mk, vd, va, and vb or what stands in its place. -/
def laneWord (e : Bool) (op k d a b : Nat) : Word :=
  BitVec.ofNat 32 ((if e then 2 ^ 30 else 0) + op * 2 ^ 24 + k * 2 ^ 21 + d * 2 ^ 14 + a * 2 ^ 7 + b)

/-- R254: a word of the scalar set: E, OP, sd, sa, sb and fn; imm12 takes the last two. -/
def scalarWord (e : Bool) (op d a b fn : Nat) : Word :=
  BitVec.ofNat 32 (2 ^ 31 + (if e then 2 ^ 30 else 0) + op * 2 ^ 24 + d * 2 ^ 18 + a * 2 ^ 12 + b * 2 ^ 6 + fn)

/-! ## What is left alone -/

/-- `t` is `s` but for the group that runs, now `h`, and the run of the site: every byte of memory, every other group, team
and register of the machine is as it was. -/
structure State.OnlyGroup (s t : State) (h : Group) : Prop where
  rest   : { t with teams := s.teams, runs := s.runs } = s
  teams  : ∀ u, u ≠ s.run.uid → t.teamOf u = s.teamOf u
  team   : { t.teamOf s.run.uid with groups := s.curTeam.groups } = s.curTeam
  groups : ∀ g, g ≠ s.run.grp → t.groupOf s.run.uid g = s.groupOf s.run.uid g
  group  : t.groupOf s.run.uid s.run.grp = h
  runs   : ∀ k, k ≠ s.site → Sparse.get {} t.runs k = Sparse.get {} s.runs k

/-- R200: the instruction is counted in its run, which ends after one with bit 30 set and after the 24th. -/
def State.Counted (s t : State) (e : Bool) : Prop :=
  t.run = if e = true ∨ 24 ≤ s.run.count + 1 then {} else { s.run with count := s.run.count + 1 }

/-- The plain end of an instruction: the group becomes `h`, nothing else changes, and the run counts it. -/
structure State.Goes (s t : State) (e : Bool) (h : Group) : Prop where
  only    : s.OnlyGroup t h
  counted : s.Counted t e

/-- The paths of the issuing slices go on at the next word; every other path stays. -/
def Group.Moved (g h : Group) (sl : BitVec 8) : Prop :=
  h.paths = g.paths.map fun p => if p.slices &&& sl != 0 then { p with pc := p.pc + 4, exempt := false } else p

/-! ## What registers become -/

/-- A slice's copy of a scalar register, and of a banked one (R251). -/
def Group.copy (g : Group) (k n : Nat) : Word := Sparse.get 0 g.sregs (k * 64 + n)
def Group.bank (g : Group) (k n : Nat) : Word := Sparse.get 0 g.banks (k * 4 + n)

/-- A write takes place: s0 and bound registers discard it (R250, R357). -/
abbrev Group.Open (g : Group) (d : Nat) : Prop := d ≠ 0 ∧ g.bound d = false

/-- Scalar register `d` of the slices `sl` holds `v`, in the copies of the level at which the group runs, and every other
copy is as it was. -/
structure Group.ScalarWritten (g h : Group) (sl : BitVec 8) (d : Nat) (v : Nat → Word) : Prop where
  copies : ∀ k n, k < 8 → n < 64 → h.copy k n =
    if sl.getLsbD k = true ∧ n = d ∧ g.Open d ∧ g.banked d = false then v k else g.copy k n
  banks  : ∀ k n, k < 8 → n < 4 → h.bank k n =
    if sl.getLsbD k = true ∧ 56 + n = d ∧ g.Open d ∧ g.banked d = true then v k else g.bank k n

/-- The same of `r` scalar registers from `d` up, register `d + j` taking `v` at `j`. -/
structure Group.ScalarsWritten (g h : Group) (sl : BitVec 8) (d r : Nat) (v : Nat → Nat → Word) : Prop where
  copies : ∀ k n, k < 8 → n < 64 → h.copy k n =
    if sl.getLsbD k = true ∧ d ≤ n ∧ n < d + r ∧ g.Open n ∧ g.banked n = false then v k (n - d) else g.copy k n
  banks  : ∀ k n, k < 8 → n < 4 → h.bank k n =
    if sl.getLsbD k = true ∧ d ≤ 56 + n ∧ 56 + n < d + r ∧ g.Open (56 + n) ∧ g.banked (56 + n) = true then v k (56 + n - d)
    else g.bank k n

/-- R357: the walk of every bound register among `srcs` has advanced once, and no other walk. -/
def Group.Walked (g h : Group) (srcs : List Nat) : Prop :=
  ∀ n, h.streamOf n = if n ∈ srcs ∧ g.bound n = true then (g.streamOf n).advance else g.streamOf n

/-- The result of a scalar instruction with destination `d` and source registers `srcs`, and its frame. -/
structure Group.ScalarResult (g h : Group) (sl : BitVec 8) (srcs : List Nat) (d : Nat) (v : Nat → Word) : Prop where
  written : g.ScalarWritten h sl d v
  walked  : g.Walked h srcs
  moved   : g.Moved h sl
  rest    : { h with sregs := g.sregs, banks := g.banks, streams := g.streams, paths := g.paths } = g

/-- The result of an instruction that writes condition flag `c`, and its frame. -/
structure Group.FlagResult (g h : Group) (sl : BitVec 8) (srcs : List Nat) (c : Nat) (v : Nat → Bool) : Prop where
  written : ∀ k n, k < 8 → n < 4 → h.cflag k n = if sl.getLsbD k = true ∧ n = c then v k else g.cflag k n
  walked  : g.Walked h srcs
  moved   : g.Moved h sl
  rest    : { h with cflags := g.cflags, streams := g.streams, paths := g.paths } = g

/-- The result of an instruction that writes mask `m` in the lanes of `act`, and its frame: m0 discards it. -/
structure Group.MaskResult (g h : Group) (sl : BitVec 8) (srcs : List Nat) (act : Word) (m : Nat) (v : Word) : Prop where
  written : ∀ k, h.mask k = if k = m ∧ m ≠ 0 then (g.mask k &&& ~~~act) ||| (v &&& act) else g.mask k
  walked  : g.Walked h srcs
  moved   : g.Moved h sl
  rest    : { h with masks := g.masks, streams := g.streams, paths := g.paths } = g

/-- R304: the result of an instruction that writes lane register `d` in the lanes of `act`, and its frame; `sat` are the
lanes whose saturation flag is set. -/
structure Group.LaneResult (g h : Group) (sl : BitVec 8) (act : Word) (d : Nat) (v : Nat → Word) (sat : Word := 0) : Prop where
  written : ∀ n l, n < 128 → l < 32 → h.vreg n l = if n = d ∧ act.getLsbD l = true then v l else g.vreg n l
  moved   : g.Moved h sl
  satf    : h.satf = g.satf ||| sat
  rest    : { h with vregs := g.vregs, satf := g.satf, paths := g.paths } = g

/-! ## Paths -/

/-- The program counter at which a slice stands. -/
def Group.pcOf (g : Group) (k : Nat) : DWord := (g.pathOf (1#8 <<< k)).pc

/-- Two slices lie in one path. -/
def Group.Together (g : Group) (j k : Nat) : Prop := ∃ p ∈ g.paths, p.slices.getLsbD j = true ∧ p.slices.getLsbD k = true

/-- The paths of the group share no slice, and the run's slices are whole paths of it (R202, R204). -/
structure Group.Tidy (g : Group) (sl : BitVec 8) : Prop where
  disjoint : g.paths.Pairwise fun p q => p.slices &&& q.slices = 0
  whole    : ∀ p ∈ g.paths, p.slices &&& sl = 0 ∨ p.slices &&& sl = p.slices
  covered  : ∀ k, sl.getLsbD k = true → ∃ p ∈ g.paths, p.slices.getLsbD k = true

/-- A run goes on, and issues from whole paths of its group. -/
structure State.Issuing (s : State) : Prop where
  on   : s.run.on = true
  some : s.run.slices ≠ 0
  tidy : s.curGroup.Tidy s.run.slices

/-- R205: the slices of `sl` go to `next`: each stands at its own next program counter, and two slices of one path stay
together exactly where theirs are equal; every other slice stays where it was. -/
structure Group.Branched (g h : Group) (sl : BitVec 8) (next : Nat → DWord) : Prop where
  goes  : ∀ k, k < 8 → h.pcOf k = if sl.getLsbD k = true then next k else g.pcOf k
  parts : ∀ j k, j < 8 → k < 8 → sl.getLsbD j = true → sl.getLsbD k = true →
    (h.Together j k ↔ g.Together j k ∧ next j = next k)

/-- R405, R406, R408: a trap of the slices `sl` is taken: nothing changes but the group, whose runs end; it is at trap level
with the trap's frame, and the trapping path goes on at ENTRY - 4. -/
structure State.Traps (s t : State) (sl : BitVec 8) (code : Trap) (acc kind : Nat) (addr pc : DWord) : Prop where
  rest   : { t with teams := s.teams, runs := s.runs } = s
  teams  : ∀ u, u ≠ s.run.uid → t.teamOf u = s.teamOf u
  team   : { t.teamOf s.run.uid with groups := s.curTeam.groups } = s.curTeam
  groups : ∀ g, g ≠ s.run.grp → t.groupOf s.run.uid g = s.groupOf s.run.uid g
  runs   : t.runs = s.runs.filter fun r => !(r.2.uid == s.run.uid && r.2.grp == s.run.grp)
  level  : (t.groupOf s.run.uid s.run.grp).atTrap = true
  frame  : (t.groupOf s.run.uid s.run.grp).frame =
    { s.curGroup.frame with slices := sl, atIssue := true, acc := acc, kind := kind, code := code.code,
                            lanes := s.curGroup.liveLanes sl, addrL := addr.setWidth 32, addrH := (addr >>> 32).setWidth 32,
                            deliv := 0, pc := pc, stop := (s.curGroup.pathOf sl).stop }
  paths  : (t.groupOf s.run.uid s.run.grp).paths = s.curGroup.paths.map fun p =>
    if p.slices &&& sl != 0 then { p with pc := s.curTeam.entry - 4, stop := .ready, exempt := false } else p
  group  : { t.groupOf s.run.uid s.run.grp with
    atTrap := s.curGroup.atTrap, frame := s.curGroup.frame, paths := s.curGroup.paths } = s.curGroup

/-- A trap of the slices `sl` of the running group would be delivered as one: it is in no transaction and at program level, its
partition traces nothing, and no other path of it is in the middle of a run (R405). -/
structure State.Trappable (s : State) (sl : BitVec 8) : Prop where
  tx    : s.curGroup.inTx = false
  level : s.curGroup.atTrap = false
  trace : (s.partOf s.curTeam.part).trCtl.getLsbD 31 = false
  only  : s.othersRun s.run.uid s.run.grp sl = false

/-- No line of the core holds a byte that has not been written back. -/
def State.Clean (s : State) (c : Nat) : Prop := ∀ x ∈ (s.coreOf c).l1, x.2.dirty = 0

/-- R177, R220: no group has registered the line or waits for it, but for `u`, `g` itself. -/
def State.Unwatched (s : State) (key : LineKey) (u g : Nat) : Prop :=
  (∀ r ∈ s.regs, r.key = key → r.uid = u ∧ r.grp = g) ∧ ∀ w ∈ s.wakes, w.key ≠ key

/-! ## Memory instructions -/

/-- The bytes of a chip scratchpad, or of a core's scratchpad array. -/
def State.pad (s : State) (chip : Bool) (i : Nat) : Mem := if chip then (s.dieOf i).cs else (s.coreOf i).sp

def padKey (chip : Bool) (i b : Nat) : LineKey := if chip then .chip i (b / 128) else .core i (b / 128)

/-- The group issues an operation of a class and may perform it at once: no checker stands between, its team is resident, one
path issues, it is in no transaction, its level holds no entry and no entry below has the operation's number, and its counter
is below 62 (R207, R403, R405, R486). -/
structure State.Free (s : State) (k : OpClass) : Prop where
  calm  : s.Calm
  place : s.curTeam.place = .resident
  fresh : ∀ x ∈ s.curGroup.rq, x.op ≠ s.curGroup.nextOp
  alone : s.Alone
  tx    : s.curGroup.inTx = false
  queue : s.curGroup.queue = []
  count : s.curGroup.counters.value k < 62

/-- Each lane of `act` makes an aligned access of `n` bytes that lies in one scratchpad, at the byte `at_` of it; no range
lock and no commit of another group stands in its way, and a write there is watched by nobody else (R16 to R24, R145, R213). -/
structure State.Reaches (s : State) (acc : Acc) (n : Nat) (act : Word) (addr : Nat → DWord) (chip : Bool) (i : Nat)
    (at_ : Nat → Nat) : Prop where
  aligned : ∀ l, l < 32 → act.getLsbD l = true → (addr l).toNat < 2 ^ 52 ∧ (addr l).toNat % n = 0
  spot    : ∀ l, l < 32 → act.getLsbD l = true →
    s.spot s.run.uid s.run.grp l (addr l).toNat n acc = if chip then .cs i (at_ l) else .sp i (at_ l)
  range   : ∀ l, l < 32 → act.getLsbD l = true → chip = true ∨ (s.coreOf i).locked (at_ l) n (acc != .read) = false
  lock    : ∀ l, l < 32 → act.getLsbD l = true → s.keyLocked (padKey chip i (at_ l)) s.run.uid s.run.grp = false
  watch   : ∀ l, l < 32 → act.getLsbD l = true → acc = .read ∨ s.Unwatched (padKey chip i (at_ l)) s.run.uid s.run.grp

/-- The lane `l`, alone, makes an aligned access of `n` bytes to global or lane-private memory, and a translation that is held and
permits it places its bytes at `a` of local memory (R16, R20, R30, R32, R36). -/
structure State.Finds (s : State) (acc : Acc) (n : Nat) (act : Word) (addr : Nat → DWord) (l a : Nat) : Prop where
  lane    : l < 32
  only    : ∀ j, j < 32 → (act.getLsbD j = true ↔ j = l)
  aligned : (addr l).toNat < 2 ^ 52 ∧ (addr l).toNat % n = 0
  found   : ∃ ga x, s.spot s.run.uid s.run.grp l (addr l).toNat n acc = .global [(ga, n)] ∧
    s.tlbFind s.curTeam.core s.curTeam.part s.curTeam.asid ga acc = some x ∧ x.check acc = none ∧ x.at_ ga = a
  here    : isLocal a = true

/-- The home slice holds the line whole in way `w`, and admits a request of the group for it at once, which no replay precedes
(R56, R75, R76, R133, R213). -/
structure State.HomeHas (s : State) (line w : Nat) : Prop where
  way     : s.l2Find (s.homeOf line) line = some w
  whole   : (s.l2Line (s.homeOf line) line w).valid = 3
  moved   : s.moves (s.curCore / 64) line s.run.uid s.run.grp = false
  held    : s.blocked line s.run.uid s.run.grp = false
  replays : (s.dieOf (s.curCore / 64)).replays = []

/-- No residency watches the line (R79, R362). -/
def State.NoWatch (s : State) (line : Nat) : Prop :=
  (∀ x ∈ s.watch, x.line ≠ line) ∧ (∀ x ∈ s.shadowWatch, x.line ≠ line)

/-- The accesses of a lane that its checks refuse before any translation, and the code of each: an address of 2^52 or above, or in
no window or level, or a misaligned one (R16, R17); one outside the lane-private area, or an 8-byte atomic there (R20); one that
runs out of a scratchpad of the team, of the rank named, or of the chip (R18, R19, R21 to R24); one under a range lock (R145). -/
inductive State.Refuses (s : State) (acc : Acc) (n l va : Nat) : Trap → Prop
  | wide : 2 ^ 52 ≤ va → s.Refuses acc n l va .prot
  | align : va < 2 ^ 52 → va % n ≠ 0 → s.Refuses acc n l va .align
  | reserved : va < 2 ^ 52 → va % n = 0 → levelOf va = .reserved → s.Refuses acc n l va .prot
  | priv : va % n = 0 → levelOf va = .lanePriv → s.curTeam.lpSize * 256 ≤ winOffset va ∨ (acc = .atomic ∧ n = 8) → s.Refuses acc n l va .prot
  | own : va % n = 0 → levelOf va = .sp → s.curTeam.spSize * 256 < winOffset va + n → s.Refuses acc n l va .spb
  | noRank : va % n = 0 → levelOf va = .cluster → 4 ≤ winOffset va / Config.spBytes ∨ s.rankTeam s.run.uid (winOffset va / Config.spBytes) = none →
      s.Refuses acc n l va .spb
  | rank (v : Nat) : va % n = 0 → levelOf va = .cluster → s.rankTeam s.run.uid (winOffset va / Config.spBytes) = some v →
      (s.teamOf v).spSize * 256 < winOffset va % Config.spBytes + n → s.Refuses acc n l va .spb
  | chip : va % n = 0 → levelOf va = .chip →
      3 ≤ winOffset va / Config.csBytes ∨ s.curTeam.csSize * 65536 < winOffset va % Config.csBytes + n → s.Refuses acc n l va .spb
  | lock (c b : Nat) : va < 2 ^ 52 → va % n = 0 → s.spot s.run.uid s.run.grp l va n acc = .sp c b → (s.coreOf c).locked b n (acc != .read) = true →
      s.Refuses acc n l va .rlk

/-- What a step leaves alone beside the group that runs, now `h`, the run of its site, and the tables named in `rest` at its
use: every other group and team. -/
structure State.GroupOnly (s t : State) (u k : Nat) (h : Group) : Prop where
  teams  : ∀ v, v ≠ u → t.teamOf v = s.teamOf v
  team   : { t.teamOf u with groups := (s.teamOf u).groups } = s.teamOf u
  groups : ∀ g, g ≠ k → t.groupOf u g = s.groupOf u g
  group  : t.groupOf u k = h

/-- R331, R402, R405, R408: a trap that an entry of the running group delivers: nothing changes but the group, whose runs end. It is at
trap level, with the trap's frame, its path goes on at ENTRY - 4, and it resumes after the instruction; the entry `x` stays, and
every register is as it was. -/
structure State.EntryTraps (s t : State) (k : OpClass) (code : Trap) (acc : Nat) (lanes : Word) (addr : DWord) (x : RqEntry) : Prop where
  rest  : { t with teams := s.teams, runs := s.runs } = s
  other : s.GroupOnly t s.run.uid s.run.grp (t.groupOf s.run.uid s.run.grp)
  runs  : t.runs = s.runs.filter fun r => !(r.2.uid == s.run.uid && r.2.grp == s.run.grp)
  level : (t.groupOf s.run.uid s.run.grp).atTrap = true
  frame : (t.groupOf s.run.uid s.run.grp).frame =
    { s.curGroup.frame with slices := s.run.slices, atIssue := false, acc := acc, kind := 0, code := code.code, lanes := lanes
                            addrL := addr.setWidth 32, addrH := (addr >>> 32).setWidth 32, deliv := 0
                            pc := (s.curGroup.pathOf s.run.slices).pc + 4, stop := (s.curGroup.pathOf s.run.slices).stop }
  paths : (t.groupOf s.run.uid s.run.grp).paths = s.curGroup.paths.map fun p =>
    if p.slices &&& s.run.slices != 0 then { p with pc := s.curTeam.entry - 4, stop := .ready, exempt := false } else p
  ctr   : (t.groupOf s.run.uid s.run.grp).ctr = s.curGroup.ctr.issue k s.curGroup.nextOp
  queue : (t.groupOf s.run.uid s.run.grp).rq = [x]
  group : { t.groupOf s.run.uid s.run.grp with
    atTrap := s.curGroup.atTrap, frame := s.curGroup.frame, paths := s.curGroup.paths, rq := s.curGroup.rq, ctr := s.curGroup.ctr
    nextOp := s.curGroup.nextOp, draw := s.curGroup.draw } = s.curGroup

/-- R207: the operation has been issued and has completed: it took the group's next number and stands among the completed
ones; the paths go on. -/
structure Group.Performed (g h : Group) (sl : BitVec 8) (k : OpClass) : Prop where
  moved  : g.Moved h sl
  nextOp : h.nextOp = g.nextOp + 1
  ctr    : h.ctr = (if g.atTrap then g.ctr else g.ctr.issue k g.nextOp).complete k g.nextOp
  tctr   : h.tctr = (if g.atTrap then g.tctr.issue k g.nextOp else g.tctr).complete k g.nextOp

/-- R207: an operation has been issued and is outstanding; the paths go on. -/
structure Group.Issued (g h : Group) (sl : BitVec 8) (k : OpClass) : Prop where
  moved  : g.Moved h sl
  nextOp : h.nextOp = g.nextOp + 1
  ctr    : h.ctr = if g.atTrap then g.ctr else g.ctr.issue k g.nextOp
  tctr   : h.tctr = if g.atTrap then g.tctr.issue k g.nextOp else g.tctr

/-- R331, R333: what an access that gives `r` lane registers from `d` up leaves of a group. -/
structure Group.Loaded (g h : Group) (sl : BitVec 8) (act : Word) (k : OpClass) (d r : Nat) (v : Nat → Nat → Word) : Prop where
  written : ∀ n l, n < 128 → l < 32 → h.vreg n l = if act.getLsbD l = true ∧ d ≤ n ∧ n < d + r then v l (n - d) else g.vreg n l
  done    : g.Performed h sl k
  rest    : { h with vregs := g.vregs, paths := g.paths, nextOp := g.nextOp, ctr := g.ctr, tctr := g.tctr } = g

/-- R297: the same of scalar registers, in the copies of the slices `on`. -/
structure Group.LoadedS (g h : Group) (sl on : BitVec 8) (srcs : List Nat) (d r : Nat) (v : Nat → Nat → Word) : Prop where
  written : g.ScalarsWritten h on d r v
  walked  : g.Walked h srcs
  done    : g.Performed h sl .ld
  rest    : { h with sregs := g.sregs, banks := g.banks, streams := g.streams, paths := g.paths, nextOp := g.nextOp, ctr := g.ctr,
                     tctr := g.tctr } = g

/-- What an access that gives no register leaves of a group. -/
structure Group.Stored (g h : Group) (sl : BitVec 8) (srcs : List Nat) : Prop where
  walked : g.Walked h srcs
  done   : g.Performed h sl .st
  rest   : { h with streams := g.streams, paths := g.paths, nextOp := g.nextOp, ctr := g.ctr, tctr := g.tctr, draw := g.draw } = g

/-- R403: a tile entry is over: it has left its level's queue and its operation has completed. -/
structure Group.Ended (g h : Group) (op : Nat) : Prop where
  rq   : h.rq = g.rq.filter fun x => x.op != op
  trq  : h.trq = g.trq.filter fun x => x.op != op
  ctr  : h.ctr = g.ctr.complete .tl op
  tctr : h.tctr = g.tctr.complete .tl op

/-- The plain end of an instruction that writes one scratchpad: it holds `m`, the group becomes `h`, and nothing else of the
machine changes. -/
structure State.PadGoes (s t : State) (e : Bool) (h : Group) (chip : Bool) (i : Nat) (m : Mem) : Prop where
  rest    : { t with teams := s.teams, runs := s.runs, cores := s.cores, dies := s.dies } = s
  cores   : ∀ c, t.coreOf c = if chip = false ∧ c = i then { s.coreOf c with sp := m } else s.coreOf c
  dies    : ∀ d, t.dieOf d = if chip = true ∧ d = i then { s.dieOf d with cs := m } else s.dieOf d
  teams   : ∀ u, u ≠ s.run.uid → t.teamOf u = s.teamOf u
  team    : { t.teamOf s.run.uid with groups := s.curTeam.groups } = s.curTeam
  groups  : ∀ g, g ≠ s.run.grp → t.groupOf s.run.uid g = s.groupOf s.run.uid g
  group   : t.groupOf s.run.uid s.run.grp = h
  runs    : ∀ k, k ≠ s.site → Sparse.get {} t.runs k = Sparse.get {} s.runs k
  counted : s.Counted t e

/-- R157, R173: what stores of `n` bytes leave of a memory: each byte that a lane of `act` stores to holds that byte of the
datum of such a lane, every other byte reads as before, and the canonical form stays. -/
structure StoresTo (m m' : Mem) (n : Nat) (act : Word) (at_ : Nat → Nat) (v : Nat → Nat) : Prop where
  stored : ∀ x, (∃ l, l < 32 ∧ act.getLsbD l = true ∧ at_ l ≤ x ∧ x < at_ l + n) →
    ∃ l, l < 32 ∧ act.getLsbD l = true ∧ at_ l ≤ x ∧ x < at_ l + n ∧ Mem.get m' x = BitVec.ofNat 8 (v l / 256 ^ (x - at_ l))
  frame  : ∀ x, (∀ l, l < 32 → act.getLsbD l = true → ¬ (at_ l ≤ x ∧ x < at_ l + n)) → Mem.get m' x = Mem.get m x
  wf     : Mem.wf m = true → Mem.wf m' = true

/-- R172, R173, R336: what atomics of `n` bytes leave of a memory: the lanes of `act` act in ascending order, `ms l` being the
memory as lane `l` finds it; each writes the new value of what it finds, every byte outside their places reads as before,
and the canonical form stays. -/
structure AtomicsTo (m m' : Mem) (n : Nat) (act : Word) (at_ : Nat → Nat) (new : Nat → Nat → Nat) (ms : Nat → Mem) : Prop where
  first : ms 0 = m
  last  : ms 32 = m'
  each  : ∀ l, l < 32 → ms (l + 1) =
    if act.getLsbD l = true then Mem.writeNat (ms l) (at_ l) n (new l (Mem.readNat (ms l) (at_ l) n)) else ms l
  frame : ∀ x, (∀ l, l < 32 → act.getLsbD l = true → ¬ (at_ l ≤ x ∧ x < at_ l + n)) → Mem.get m' x = Mem.get m x
  wf    : Mem.wf m = true → Mem.wf m' = true

/-- R330: bytes and registers of each size code, and what a register takes of the loaded bytes. -/
def sizes : List (Nat × Nat) := [(1, 1), (1, 1), (2, 1), (2, 1), (4, 1), (8, 2), (16, 4)]
def loadWord (z v j : Nat) : Word :=
  if z = 1 then (BitVec.ofNat 8 v).signExtend 32 else if z = 3 then (BitVec.ofNat 16 v).signExtend 32 else BitVec.ofNat 32 (v / 2 ^ (32 * j))

/-- R336: bytes and new value of each atomic: the old value, the operand and the second operand. -/
def atomics : List (Nat × (Nat → Nat → Nat → Nat)) :=
  let w := fun (x : Nat) => BitVec.ofNat 32 x
  let h := fun (x k : Nat) => Fmt.f16.decode (x / 2 ^ (16 * k) % 65536)
  let add := fun (o b k : Nat) => Fmt.f16.encode 0 false (Fp.add 0 (h o k) (h b k))
  [(4, fun o b _ => (o + b) % 2 ^ 32), (8, fun o b _ => (o + b) % 2 ^ 64),
   (4, fun o b _ => if (w o).toInt ≤ (w b).toInt then o else b), (4, fun o b _ => if (w b).toInt ≤ (w o).toInt then o else b),
   (4, fun o b _ => if o ≤ b then o else b), (4, fun o b _ => if b ≤ o then o else b),
   (4, fun o b _ => o &&& b), (4, fun o b _ => o ||| b), (4, fun o b _ => o ^^^ b), (4, fun _ b _ => b), (8, fun _ b _ => b),
   (4, fun o b c => if o = b then c else o), (8, fun o b c => if o = b then c else o),
   (4, fun o b _ => (toF32 0 (Fp.add 0 (f32 (w o)) (f32 (w b)))).toNat), (4, fun o b _ => add o b 0 + 65536 * add o b 1)]

/-- R298: the operation of each scalar atomic among `atomics`. -/
def scalarAtomics : List Nat := [0, 9, 11, 6, 7, 8, 3, 2]

/-- The lanes 4k of the slices (R297). -/
def firstLanes (sl : BitVec 8) : Word := slicesLanes sl &&& 0x11111111

/-! ## Commands -/

/-- R384, R385: the queue's next command is `w`, read on the way to state `s1` and standing in the INDIRECT `ind` or in the
ring; it uses no reserved bit, and every earlier command has completed where it asks for that. -/
structure State.Takes (s s1 : State) (fn q w ind op : Nat) : Prop where
  boot  : s.bootDone = true
  next  : s.nextCmd fn q = (s1, some (.ok (w, ind)))
  code  : cmdOp w = op
  bits  : ∃ b, cmdBits op = some b ∧ w ||| b = b
  clear : (w.testBit 23 = true ∨ (3 ≤ op ∧ op ≤ 5)) → (s1.queueOf fn q).clear ind = true

/-- The queue's process can be translated for: the partition is `p`, and the walk of its context leaves `s'`. -/
structure State.Proc (s s' : State) (fn q p : Nat) : Prop where
  part : fn ≠ 127 → s.partOfFn fn = some p ∧
    ∃ t r, s.s1Root 0 p (s.queueOf fn q).asid fn 0 = (t, .ok r) ∧ s' = t.farDone (.walk 0 p (s.queueOf fn q).asid)
  phys : fn = 127 → p = 0 ∧ s' = s

/-! ## Tables of the manual -/

/-- R257: what each integer condition code says of two words. -/
def intConds (a b : Word) : List Bool :=
  [a == b, a != b, decide (a.toInt < b.toInt), decide (a.toInt ≤ b.toInt), decide (b.toInt < a.toInt),
   decide (b.toInt ≤ a.toInt), decide (a.toNat < b.toNat), decide (a.toNat ≤ b.toNat), decide (b.toNat < a.toNat),
   decide (b.toNat ≤ a.toNat), a &&& b != 0]

/-- R257: what each condition code of `fcmp` says of two FP32 words; `c` is their exact comparison. -/
def floatConds (a b : Word) : List Bool :=
  let un := (f32 a).isNan || (f32 b).isNan
  let c := Fp.cmp (f32 a) (f32 b)
  [!un && c == 0, un || c != 0, !un && decide (c < 0), !un && decide (c ≤ 0), !un && decide (0 < c), !un && decide (0 ≤ c),
   !un, un]

end Sys2Proof.Machine
end

