-- ==== Sys2Proof/Certificates/Slice0/Obligations.lean ====
section
/-! DEFINITION. The statements about the machine, each named after what it says. -/

open Sys2Proof Sys2Proof.Machine

/-- R278: the scalar arithmetic forms and their words, with the corners of division and the counts; no form traps or sets a
flag, and the reserved functions are no instruction. -/
def Obligations.ScalarAlu : Prop :=
  (∀ (s : State) (e : Bool) (d a b : BitVec 6), s.Calm →
    ∀ p ∈ ([(.addScalar e d a b, fun x y => x + y), (.subScalar e d a b, fun x y => x - y),
        (.mulScalar e d a b, fun x y => x * y),
        (.mulh e d a b, fun x y => BitVec.ofInt 32 (x.toInt * y.toInt / 2 ^ 32)),
        (.mulhu e d a b, fun x y => BitVec.ofNat 32 (x.toNat * y.toNat / 2 ^ 32)),
        (.andScalar e d a b, fun x y => x &&& y), (.orScalar e d a b, fun x y => x ||| y),
        (.xorScalar e d a b, fun x y => x ^^^ y),
        (.shlScalar e d a b, fun x y => x <<< (y.toNat % 32)), (.shrScalar e d a b, fun x y => x >>> (y.toNat % 32)),
        (.sraScalar e d a b, fun x y => x.sshiftRight (y.toNat % 32)),
        (.minScalar e d a b, fun x y => if x.toInt ≤ y.toInt then x else y),
        (.maxScalar e d a b, fun x y => if x.toInt ≤ y.toInt then y else x),
        (.minu e d a b, fun x y => if x.toNat ≤ y.toNat then x else y),
        (.maxu e d a b, fun x y => if x.toNat ≤ y.toNat then y else x),
        (.div e d a b, fun x y => if y = 0 then 0xFFFFFFFF else if x = 0x80000000 ∧ y = 0xFFFFFFFF then 0x80000000
          else BitVec.ofInt 32 (x.toInt.tdiv y.toInt)),
        (.divu e d a b, fun x y => if y = 0 then 0xFFFFFFFF else BitVec.ofNat 32 (x.toNat / y.toNat)),
        (.rem e d a b, fun x y => if y = 0 then x else if x = 0x80000000 ∧ y = 0xFFFFFFFF then 0
          else BitVec.ofInt 32 (x.toInt - y.toInt * x.toInt.tdiv y.toInt)),
        (.remu e d a b, fun x y => if y = 0 then x else BitVec.ofNat 32 (x.toNat % y.toNat))] :
        List (Instr × (Word → Word → Word))),
      ∃ t h, exec p.1 s = .next t ∧ s.Goes t e h ∧
        s.curGroup.ScalarResult h s.run.slices [a.toNat, b.toNat] d.toNat
          fun k => p.2 (s.curGroup.sreg k a.toNat) (s.curGroup.sreg k b.toNat)) ∧
  (∀ (s : State) (e : Bool) (d a : BitVec 6), s.Calm →
    ∀ p ∈ ([(.popcScalar e d a, fun x => ((List.range 32).filter fun j => x.getLsbD j).length),
        (.clzScalar e d a, fun x => ((List.range 32).find? fun j => x.getLsbD (31 - j)).getD 32),
        (.ctzScalar e d a, fun x => ((List.range 32).find? fun j => x.getLsbD j).getD 32)] : List (Instr × (Word → Nat))),
      ∃ t h, exec p.1 s = .next t ∧ s.Goes t e h ∧
        s.curGroup.ScalarResult h s.run.slices [a.toNat] d.toNat fun k => BitVec.ofNat 32 (p.2 (s.curGroup.sreg k a.toNat))) ∧
  (∀ (e : Bool) (d a b : BitVec 6),
    ∀ p ∈ ([(.addScalar e d a b, 0x00), (.subScalar e d a b, 0x01), (.mulScalar e d a b, 0x02), (.mulh e d a b, 0x03),
        (.mulhu e d a b, 0x04), (.andScalar e d a b, 0x05), (.orScalar e d a b, 0x06), (.xorScalar e d a b, 0x07),
        (.shlScalar e d a b, 0x08), (.shrScalar e d a b, 0x09), (.sraScalar e d a b, 0x0A),
        (.minScalar e d a b, 0x0B), (.maxScalar e d a b, 0x0C), (.minu e d a b, 0x0D), (.maxu e d a b, 0x0E),
        (.div e d a b, 0x0F), (.divu e d a b, 0x10), (.rem e d a b, 0x11), (.remu e d a b, 0x12),
        (.popcScalar e d a, 0x13), (.clzScalar e d a, 0x14), (.ctzScalar e d a, 0x15)] : List (Instr × Nat)),
      encode p.1 = some (scalarWord e 0x01 d.toNat a.toNat (if p.2 < 0x13 then b.toNat else 0) p.2)) ∧
  ∀ w : Word, fld w.toNat 31 1 = 1 → fld w.toNat 24 6 = 1 →
    (0x16 ≤ fld w.toNat 0 6 ∨ (0x13 ≤ fld w.toNat 0 6 ∧ fld w.toNat 6 6 ≠ 0)) → decodeWord w = .error .reservedField

/-- R279, R280: the immediate forms and their words, `li` and `lui`, and the immediate bits that must be zero. -/
def Obligations.ScalarImmediates : Prop :=
  (∀ (s : State) (e : Bool) (d a : BitVec 6) (i : BitVec 12) (j : BitVec 5), s.Calm →
    ∀ p ∈ ([(.addi e d a i, fun x => x + i.signExtend 32), (.andiScalar e d a i, fun x => x &&& i.setWidth 32),
        (.oriScalar e d a i, fun x => x ||| i.setWidth 32), (.xoriScalar e d a i, fun x => x ^^^ i.setWidth 32),
        (.shliScalar e d a j, fun x => x <<< j.toNat), (.shriScalar e d a j, fun x => x >>> j.toNat),
        (.sraiScalar e d a j, fun x => x.sshiftRight j.toNat)] : List (Instr × (Word → Word))),
      ∃ t h, exec p.1 s = .next t ∧ s.Goes t e h ∧
        s.curGroup.ScalarResult h s.run.slices [a.toNat] d.toNat fun k => p.2 (s.curGroup.sreg k a.toNat)) ∧
  (∀ (s : State) (e : Bool) (d : BitVec 6) (i : BitVec 18), s.Calm →
    ∃ t h, exec (.li e d i) s = .next t ∧ s.Goes t e h ∧
      s.curGroup.ScalarResult h s.run.slices [] d.toNat fun _ => i.signExtend 32) ∧
  (∀ (s : State) (e : Bool) (d : BitVec 6) (i : BitVec 14), s.Calm →
    ∃ t h, exec (.lui e d i) s = .next t ∧ s.Goes t e h ∧
      s.curGroup.ScalarResult h s.run.slices [] d.toNat
        fun k => BitVec.ofNat 32 (i.toNat * 2 ^ 18 + (s.curGroup.sreg k d.toNat).toNat % 2 ^ 18)) ∧
  (∀ (e : Bool) (d a : BitVec 6) (i : BitVec 12) (j : BitVec 5),
    ∀ p ∈ ([(.addi e d a i, 0x03, i.toNat), (.andiScalar e d a i, 0x04, i.toNat), (.oriScalar e d a i, 0x05, i.toNat),
        (.xoriScalar e d a i, 0x06, i.toNat), (.shliScalar e d a j, 0x07, j.toNat), (.shriScalar e d a j, 0x08, j.toNat),
        (.sraiScalar e d a j, 0x09, j.toNat)] : List (Instr × Nat × Nat)),
      encode p.1 = some (scalarWord e p.2.1 d.toNat a.toNat (p.2.2 / 64) (p.2.2 % 64))) ∧
  ∀ w : Word, fld w.toNat 31 1 = 1 →
    (7 ≤ fld w.toNat 24 6 ∧ fld w.toNat 24 6 ≤ 9 ∧ fld w.toNat 5 7 ≠ 0) ∨ (fld w.toNat 24 6 = 0x0C ∧ fld w.toNat 14 4 ≠ 0) →
    decodeWord w = .error .reservedField

/-- R281, R257: the scalar comparisons write a condition flag of every issuing slice; their words; a function that is not zero
and the codes 11 to 15 are no instruction. -/
def Obligations.ScalarCompare : Prop :=
  (∀ (s : State) (e : Bool) (c : BitVec 4) (n : BitVec 2) (a b : BitVec 6), s.Calm → c.toNat < 11 →
    ∃ t h, exec (.cmp e c n a b) s = .next t ∧ s.Goes t e h ∧
      s.curGroup.FlagResult h s.run.slices [a.toNat, b.toNat] n.toNat
        fun k => (intConds (s.curGroup.sreg k a.toNat) (s.curGroup.sreg k b.toNat)).getD c.toNat false) ∧
  (∀ (s : State) (e : Bool) (c : BitVec 4) (n : BitVec 2) (a : BitVec 6) (i : BitVec 12), s.Calm → c.toNat < 11 →
    ∃ t h, exec (.cmpi e c n a i) s = .next t ∧ s.Goes t e h ∧
      s.curGroup.FlagResult h s.run.slices [a.toNat] n.toNat
        fun k => (intConds (s.curGroup.sreg k a.toNat) (i.signExtend 32)).getD c.toNat false) ∧
  (∀ (e : Bool) (c : BitVec 4) (n : BitVec 2) (a b : BitVec 6) (i : BitVec 12),
    encode (.cmp e c n a b) = some (scalarWord e 0x02 (c.toNat * 4 + n.toNat) a.toNat b.toNat 0) ∧
    encode (.cmpi e c n a i) = some (scalarWord e 0x0A (c.toNat * 4 + n.toNat) a.toNat (i.toNat / 64) (i.toNat % 64))) ∧
  ∀ w : Word, fld w.toNat 31 1 = 1 →
    (fld w.toNat 24 6 = 2 ∧ (fld w.toNat 0 6 ≠ 0 ∨ 11 ≤ fld w.toNat 20 4)) ∨ (fld w.toNat 24 6 = 0x0A ∧ 11 ≤ fld w.toNat 20 4) →
    ∃ r, decodeWord w = .error r

/-- R282, R204: the mask forms, whose writes reach the live lanes of the issuing slices alone, and the forms that read a
mask; m0 as a destination is no instruction. -/
def Obligations.Masks : Prop :=
  (∀ (s : State) (e : Bool) (d a b : BitVec 3), s.Calm →
    ∀ p ∈ ([(.mand e d a b, fun x y => x &&& y), (.mor e d a b, fun x y => x ||| y), (.mxor e d a b, fun x y => x ^^^ y),
        (.mandn e d a b, fun x y => x &&& ~~~y), (.mnot e d a, fun x _ => ~~~x)] : List (Instr × (Word → Word → Word))),
      (∃ t h, exec p.1 s = .next t ∧ s.Goes t e h ∧
        s.curGroup.MaskResult h s.run.slices [] (s.curGroup.liveLanes s.run.slices) d.toNat
          (p.2 (s.curGroup.mask a.toNat) (s.curGroup.mask b.toNat))) ∧
      (d = 0 → wellFormed p.1 = false)) ∧
  (∀ (s : State) (e : Bool) (d : BitVec 3) (a : BitVec 6), s.Calm →
    (∃ t h v, exec (.mset e d a) s = .next t ∧ s.Goes t e h ∧
      (∀ l, l < 32 → v.getLsbD l = (s.curGroup.sreg (l / 4) a.toNat).getLsbD l) ∧
      s.curGroup.MaskResult h s.run.slices [a.toNat] (s.curGroup.liveLanes s.run.slices) d.toNat v) ∧
    (d = 0 → wellFormed (.mset e d a) = false)) ∧
  (∀ (s : State) (e : Bool) (d : BitVec 6) (a : BitVec 3), s.Calm →
    ∀ p ∈ ([(.mget e d a, fun x _ => x),
        (.mpopc e d a, fun x n => BitVec.ofNat 32 ((List.range 32).filter fun j => (x &&& n).getLsbD j).length),
        (.mfirst e d a, fun x n => BitVec.ofNat 32 (((List.range 32).find? fun j => (x &&& n).getLsbD j).getD 32))] :
        List (Instr × (Word → Word → Word))),
      ∃ t h, exec p.1 s = .next t ∧ s.Goes t e h ∧
        s.curGroup.ScalarResult h s.run.slices [] d.toNat
          fun _ => p.2 (s.curGroup.mask a.toNat) (s.curGroup.liveLanes s.curGroup.live))

/-- R313, R316: the integer forms of three lane registers and the bit-field forms, in the active lanes, and their words. -/
def Obligations.LaneInteger : Prop :=
  (∀ (s : State) (e : Bool) (k : BitVec 3) (d a b : BitVec 7), s.Calm →
    ∀ p ∈ ([(.iadd e k d a b, fun x y _ => x + y), (.isub e k d a b, fun x y _ => x - y), (.imul e k d a b, fun x y _ => x * y),
        (.imulh e k d a b, fun x y _ => BitVec.ofInt 32 (x.toInt * y.toInt / 2 ^ 32)),
        (.umulh e k d a b, fun x y _ => BitVec.ofNat 32 (x.toNat * y.toNat / 2 ^ 32)),
        (.imad e k d a b, fun x y z => x * y + z), (.andLane e k d a b, fun x y _ => x &&& y),
        (.orLane e k d a b, fun x y _ => x ||| y), (.xorLane e k d a b, fun x y _ => x ^^^ y),
        (.shlLane e k d a b, fun x y _ => x <<< (y.toNat % 32)), (.shrLane e k d a b, fun x y _ => x >>> (y.toNat % 32)),
        (.sraLane e k d a b, fun x y _ => x.sshiftRight (y.toNat % 32)),
        (.imin e k d a b, fun x y _ => if x.toInt ≤ y.toInt then x else y),
        (.imax e k d a b, fun x y _ => if x.toInt ≤ y.toInt then y else x),
        (.umin e k d a b, fun x y _ => if x.toNat ≤ y.toNat then x else y),
        (.umax e k d a b, fun x y _ => if x.toNat ≤ y.toNat then y else x),
        (.bfx e k d a b, fun x y _ =>
          let pos := y.toNat % 32
          let w := min (min (y.toNat / 256 % 64) 32) (32 - pos)
          let f := x.toNat / 2 ^ pos % 2 ^ w
          if y.getLsbD 16 = true ∧ 0 < w ∧ 2 ^ (w - 1) ≤ f then BitVec.ofInt 32 ((f : Int) - 2 ^ w) else BitVec.ofNat 32 f),
        (.bfi e k d a b, fun x y z =>
          let pos := y.toNat % 32
          let w := min (min (y.toNat / 256 % 64) 32) (32 - pos)
          BitVec.ofNat 32 (z.toNat / 2 ^ (pos + w) * 2 ^ (pos + w) + x.toNat % 2 ^ w * 2 ^ pos + z.toNat % 2 ^ pos))] :
        List (Instr × (Word → Word → Word → Word))),
      ∃ t h, exec p.1 s = .next t ∧ s.Goes t e h ∧
        s.curGroup.LaneResult h s.run.slices (s.curGroup.act s.run.slices k.toNat) d.toNat
          fun l => p.2 (s.curGroup.vreg a.toNat l) (s.curGroup.vreg b.toNat l) (s.curGroup.vreg d.toNat l)) ∧
  ∀ (e : Bool) (k : BitVec 3) (d a b : BitVec 7),
    ∀ p ∈ ([(.iadd e k d a b, 0x10), (.isub e k d a b, 0x11), (.imul e k d a b, 0x12), (.imulh e k d a b, 0x13),
        (.umulh e k d a b, 0x14), (.imad e k d a b, 0x15), (.andLane e k d a b, 0x16), (.orLane e k d a b, 0x17),
        (.xorLane e k d a b, 0x18), (.shlLane e k d a b, 0x19), (.shrLane e k d a b, 0x1A),
        (.sraLane e k d a b, 0x1B), (.imin e k d a b, 0x1C), (.imax e k d a b, 0x1D), (.umin e k d a b, 0x1E),
        (.umax e k d a b, 0x1F), (.bfx e k d a b, 0x22), (.bfi e k d a b, 0x23)] : List (Instr × Nat)),
      encode p.1 = some (laneWord e p.2 k.toNat d.toNat a.toNat b.toNat)

/-- R315, R317, R243: the integer forms of one lane register, `laneid`, and the immediate forms, with their words; the
reserved functions, `laneid` with a source and the reserved bits of a shift are no instruction. -/
def Obligations.LaneIntegerUnary : Prop :=
  (∀ (s : State) (e : Bool) (k : BitVec 3) (d a i : BitVec 7) (j : BitVec 5), s.Calm →
    ∀ p ∈ ([(.ineg e k d a, fun x => 0 - x), (.iabs e k d a, fun x => if x.toInt < 0 then 0 - x else x),
        (.notLane e k d a, fun x => ~~~x),
        (.popcLane e k d a, fun x => BitVec.ofNat 32 ((List.range 32).filter fun j => x.getLsbD j).length),
        (.clzLane e k d a, fun x => BitVec.ofNat 32 (((List.range 32).find? fun j => x.getLsbD (31 - j)).getD 32)),
        (.ctzLane e k d a, fun x => BitVec.ofNat 32 (((List.range 32).find? fun j => x.getLsbD j).getD 32)),
        (.brev e k d a, fun x => x.reverse),
        (.bswap e k d a, fun x => x.extractLsb' 0 8 ++ x.extractLsb' 8 8 ++ x.extractLsb' 16 8 ++ x.extractLsb' 24 8),
        (.sext8 e k d a, fun x => (x.setWidth 8).signExtend 32), (.sext16 e k d a, fun x => (x.setWidth 16).signExtend 32),
        (.zext8 e k d a, fun x => x &&& 0xFF), (.zext16 e k d a, fun x => x &&& 0xFFFF),
        (.iaddi e k d a i, fun x => x + i.signExtend 32), (.imuli e k d a i, fun x => x * i.signExtend 32),
        (.andiLane e k d a i, fun x => x &&& i.setWidth 32), (.oriLane e k d a i, fun x => x ||| i.setWidth 32),
        (.xoriLane e k d a i, fun x => x ^^^ i.setWidth 32), (.shliLane e k d a j, fun x => x <<< j.toNat),
        (.shriLane e k d a j, fun x => x >>> j.toNat), (.sraiLane e k d a j, fun x => x.sshiftRight j.toNat),
        (.srni e k d a j, fun x => if j = 0 then x else BitVec.ofInt 32 ((x.toInt + 2 ^ (j.toNat - 1)) / 2 ^ j.toNat))] : List (Instr × (Word → Word))),
      ∃ t h, exec p.1 s = .next t ∧ s.Goes t e h ∧
        s.curGroup.LaneResult h s.run.slices (s.curGroup.act s.run.slices k.toNat) d.toNat
          fun l => p.2 (s.curGroup.vreg a.toNat l)) ∧
  (∀ (s : State) (e : Bool) (k : BitVec 3) (d : BitVec 7), s.Calm →
    ∃ t h, exec (.laneid e k d) s = .next t ∧ s.Goes t e h ∧
      s.curGroup.LaneResult h s.run.slices (s.curGroup.act s.run.slices k.toNat) d.toNat fun l => BitVec.ofNat 32 l) ∧
  (∀ (e : Bool) (k : BitVec 3) (d a i : BitVec 7) (j : BitVec 5),
    (∀ p ∈ ([(.ineg e k d a, 0x21, 0x00), (.iabs e k d a, 0x21, 0x01), (.notLane e k d a, 0x21, 0x02),
        (.popcLane e k d a, 0x21, 0x03), (.clzLane e k d a, 0x21, 0x04), (.ctzLane e k d a, 0x21, 0x05),
        (.brev e k d a, 0x21, 0x06), (.bswap e k d a, 0x21, 0x07), (.sext8 e k d a, 0x21, 0x08),
        (.sext16 e k d a, 0x21, 0x09), (.zext8 e k d a, 0x21, 0x0A), (.zext16 e k d a, 0x21, 0x0B),
        (.iaddi e k d a i, 0x24, i.toNat), (.imuli e k d a i, 0x25, i.toNat), (.andiLane e k d a i, 0x26, i.toNat),
        (.oriLane e k d a i, 0x27, i.toNat), (.xoriLane e k d a i, 0x28, i.toNat),
        (.shliLane e k d a j, 0x29, j.toNat), (.shriLane e k d a j, 0x2A, j.toNat),
        (.sraiLane e k d a j, 0x2B, j.toNat), (.srni e k d a j, 0x2C, j.toNat)] : List (Instr × Nat × Nat)),
      encode p.1 = some (laneWord e p.2.1 k.toNat d.toNat a.toNat p.2.2)) ∧
    encode (.laneid e k d) = some (laneWord e 0x21 k.toNat d.toNat 0 0x0C)) ∧
  ∀ w : Word, fld w.toNat 31 1 = 0 →
    (fld w.toNat 24 6 = 0x21 ∧ (0x0D ≤ fld w.toNat 0 7 ∨ (fld w.toNat 0 7 = 0x0C ∧ fld w.toNat 7 7 ≠ 0))) ∨
      (0x29 ≤ fld w.toNat 24 6 ∧ fld w.toNat 24 6 ≤ 0x2C ∧ fld w.toNat 5 2 ≠ 0) → decodeWord w = .error .reservedField

/-- R309, R314, R257: the comparisons of lanes write the active bits of a mask and keep the others; their words; m0 and the
codes past the tables are no instruction. -/
def Obligations.LaneCompare : Prop :=
  (∀ (s : State) (e : Bool) (k m : BitVec 3) (c : BitVec 4) (a b : BitVec 7), s.Calm →
    ∀ p ∈ ([(.fcmp e k m c a b, floatConds), (.icmp e k m c a b, intConds)] : List (Instr × (Word → Word → List Bool))),
      wellFormed p.1 = true →
      ∃ t h v, exec p.1 s = .next t ∧ s.Goes t e h ∧
        (∀ l, l < 32 → v.getLsbD l = (p.2 (s.curGroup.vreg a.toNat l) (s.curGroup.vreg b.toNat l)).getD c.toNat false) ∧
        s.curGroup.MaskResult h s.run.slices [] (s.curGroup.act s.run.slices k.toNat) m.toNat v) ∧
  (∀ (e : Bool) (k m : BitVec 3) (c : BitVec 4) (a b : BitVec 7),
    (wellFormed (.fcmp e k m c a b) = false ↔ m = 0 ∨ 8 ≤ c.toNat) ∧ (wellFormed (.icmp e k m c a b) = false ↔ m = 0 ∨ 11 ≤ c.toNat) ∧
    encode (.fcmp e k m c a b) = some (laneWord e 0x07 k.toNat (m.toNat * 16 + c.toNat) a.toNat b.toNat) ∧
    encode (.icmp e k m c a b) = some (laneWord e 0x20 k.toNat (m.toNat * 16 + c.toNat) a.toNat b.toNat)) ∧
  ∀ w : Word, fld w.toNat 31 1 = 0 →
    (fld w.toNat 24 6 = 0x07 ∧ (fld w.toNat 18 3 = 0 ∨ 8 ≤ fld w.toNat 14 4)) ∨
      (fld w.toNat 24 6 = 0x20 ∧ (fld w.toNat 18 3 = 0 ∨ 11 ≤ fld w.toNat 14 4)) → decodeWord w = .error .reservedValue

/-- R319, R320, R244: packed sums and integer dot products are exact and clamped, and a clamp sets the lane's SATF bit;
their words. -/
def Obligations.LanePacked : Prop :=
  (∀ (s : State) (e : Bool) (k : BitVec 3) (d a b : BitVec 7), s.Calm →
    ∀ p ∈ ([(.add2s e k d a b, fun x y => x + y), (.sub2s e k d a b, fun x y => x - y)] : List (Instr × (Int → Int → Int))),
      let g := s.curGroup
      let sum := fun l half => p.2 ((g.vreg a.toNat l).extractLsb' (16 * half) 16).toInt ((g.vreg b.toNat l).extractLsb' (16 * half) 16).toInt
      let clamped := fun l half => min (max (sum l half) (-32768)) 32767
      ∃ t h sat, exec p.1 s = .next t ∧ s.Goes t e h ∧
        (∀ l, l < 32 → sat.getLsbD l = ((g.act s.run.slices k.toNat).getLsbD l && (clamped l 0 != sum l 0 || clamped l 1 != sum l 1))) ∧
        g.LaneResult h s.run.slices (g.act s.run.slices k.toNat) d.toNat
          (fun l => BitVec.ofInt 16 (clamped l 1) ++ BitVec.ofInt 16 (clamped l 0)) sat) ∧
  (∀ (s : State) (e : Bool) (k : BitVec 3) (d a : BitVec 7) (b : BitVec 6), s.Calm →
    ∀ p ∈ ([(.dot2S e k d a b, true, 16), (.dot2U e k d a b, false, 16), (.dot4S e k d a b, true, 8), (.dot4U e k d a b, false, 8),
        (.dot8S e k d a b, true, 4), (.dot8U e k d a b, false, 4)] : List (Instr × Bool × Nat)),
      let g := s.curGroup
      let el := fun (x : Word) j => if p.2.1 then (x.extractLsb' (p.2.2 * j) p.2.2).toInt else ((x.extractLsb' (p.2.2 * j) p.2.2).toNat : Int)
      let sum := fun l => (g.vreg d.toNat l).toInt
        + ((List.range (32 / p.2.2)).map fun j => el (g.vreg a.toNat l) j * el (g.vreg b.toNat l) j).sum
      let clamped := fun l => min (max (sum l) (-2147483648)) 2147483647
      ∃ t h sat, exec p.1 s = .next t ∧ s.Goes t e h ∧
        (∀ l, l < 32 → sat.getLsbD l = ((g.act s.run.slices k.toNat).getLsbD l && clamped l != sum l)) ∧
        g.LaneResult h s.run.slices (g.act s.run.slices k.toNat) d.toNat (fun l => BitVec.ofInt 32 (clamped l)) sat) ∧
  ∀ (e : Bool) (k : BitVec 3) (d a x : BitVec 7) (b : BitVec 6),
    ∀ p ∈ ([(.add2s e k d a x, 0x2D, x.toNat), (.sub2s e k d a x, 0x2E, x.toNat), (.dot2S e k d a b, 0x2F, b.toNat),
        (.dot2U e k d a b, 0x2F, 64 + b.toNat), (.dot4S e k d a b, 0x30, b.toNat), (.dot4U e k d a b, 0x30, 64 + b.toNat),
        (.dot8S e k d a b, 0x31, b.toNat), (.dot8U e k d a b, 0x31, 64 + b.toNat)] : List (Instr × Nat × Nat)),
      encode p.1 = some (laneWord e p.2.1 k.toNat d.toNat a.toNat p.2.2)

/-- R307, R308, R310 to R312, R321: the floating-point instructions in the active lanes under the group's rounding mode;
none sets a saturation flag. The rounded values are the model's functions, which `FloatValues` bounds. -/
def Obligations.LaneFloat : Prop :=
  (∀ (s : State) (e : Bool) (k : BitVec 3) (d a b : BitVec 7) (c : BitVec 6), s.Calm →
    let rm := s.curGroup.fmode.toNat
    let below := fun (x y : Word) => Fp.cmp (f32 x) (f32 y) < 0 ∨ (Fp.cmp (f32 x) (f32 y) = 0 ∧ x.msb = true ∧ y.msb = false)
    let pick := fun (x y : Word) (first : Prop) [Decidable first] => if (f32 x).isNan ∧ (f32 y).isNan then (0x7FC00000 : Word) else if (f32 x).isNan then y
      else if (f32 y).isNan then x else if first then y else x
    ∀ p ∈ ([(.fadd e k d a b, b.toNat, fun x y _ => toF32 rm (Fp.add rm (f32 x) (f32 y))),
        (.fsub e k d a b, b.toNat, fun x y _ => toF32 rm (Fp.add rm (f32 x) (f32 y).neg)),
        (.fmul e k d a b, b.toNat, fun x y _ => toF32 rm (Fp.mul (f32 x) (f32 y))),
        (.ffma e k d a b, b.toNat, fun x y z => toF32 rm (Fp.add rm (Fp.mul (f32 x) (f32 y)) (f32 z))),
        (.fmin e k d a b, b.toNat, fun x y _ => pick x y (below y x)), (.fmax e k d a b, b.toNat, fun x y _ => pick x y (below x y)),
        (.hfma2 e k d a b, b.toNat, fma2W .f16 rm), (.bfma2 e k d a b, b.toNat, fma2W .bf16 rm),
        (.fdot4E4m3 e k d a c, c.toNat, fdotW .e4m3 8), (.fdot4E5m2 e k d a c, c.toNat, fdotW .e5m2 8),
        (.fdot8 e k d a c, c.toNat, fdotW .e2m1 4)] : List (Instr × Nat × (Word → Word → Word → Word))),
      ∃ t h, exec p.1 s = .next t ∧ s.Goes t e h ∧
        s.curGroup.LaneResult h s.run.slices (s.curGroup.act s.run.slices k.toNat) d.toNat
          fun l => p.2.2 (s.curGroup.vreg a.toNat l) (s.curGroup.vreg p.2.1 l) (s.curGroup.vreg d.toNat l)) ∧
  ∀ (s : State) (e : Bool) (k : BitVec 3) (d a : BitVec 7), s.Calm →
    let rm := s.curGroup.fmode.toNat
    ∀ p ∈ ([(.fneg e k d a, fun x => if (f32 x).isNan then 0x7FC00000 else x ^^^ 0x80000000),
        (.fabs e k d a, fun x => if (f32 x).isNan then 0x7FC00000 else x &&& 0x7FFFFFFF),
        (.fsqrt e k d a, fun x => toF32 rm (f32 x).sqrt), (.frcp e k d a, fun x => toF32 rm (f32 x).recip),
        (.frsqrt e k d a, fun x => toF32 rm (f32 x).rsqrt), (.fexp2 e k d a, fun x => toF32 rm (f32 x).exp2),
        (.flog2 e k d a, fun x => toF32 rm (f32 x).log2), (.fsin e k d a, fun x => toF32 rm ((f32 x).sinCos false)),
        (.fcos e k d a, fun x => toF32 rm ((f32 x).sinCos true)), (.frint e k d a, frintW rm), (.ffloor e k d a, frintW 2),
        (.fceil e k d a, frintW 3), (.ftrunc e k d a, frintW 1),
        (.fclass e k d a, fun x =>
          let ex := x.toNat / 2 ^ 23 % 256
          let m := x.toNat % 2 ^ 23
          if ex = 255 ∧ m ≠ 0 then (if m < 2 ^ 22 then 0x100 else 0x200)
          else if ex = 255 then (if x.msb then 0x001 else 0x080)
          else if ex = 0 ∧ m = 0 then (if x.msb then 0x008 else 0x010)
          else if ex = 0 then (if x.msb then 0x004 else 0x020) else (if x.msb then 0x002 else 0x040))] :
        List (Instr × (Word → Word))),
      ∃ t h, exec p.1 s = .next t ∧ s.Goes t e h ∧
        s.curGroup.LaneResult h s.run.slices (s.curGroup.act s.run.slices k.toNat) d.toNat fun l => p.2 (s.curGroup.vreg a.toNat l)

/-- R231, R310: special operands: a NaN operand gives the canonical NaN, a negative one has no root and no logarithm, and
infinities and zeros go where the table of R310 sends them, in every rounding mode.
R224 to R226, R232: a value that a format holds is narrowed to that format without a change, in every rounding mode;
and truncation gives the nearest value toward zero. -/
def Obligations.FloatValues : Prop :=
  ((∀ (rm : Nat) (a b : Word), (f32 a).isNan = true →
    faddW rm a b = 0x7FC00000 ∧ faddW rm b a = 0x7FC00000 ∧ fsubW rm a b = 0x7FC00000 ∧ fsubW rm b a = 0x7FC00000 ∧
    fmulW rm a b = 0x7FC00000 ∧ fmulW rm b a = 0x7FC00000 ∧ toF32 rm (f32 a).sqrt = 0x7FC00000 ∧
    toF32 rm (f32 a).recip = 0x7FC00000 ∧ toF32 rm (f32 a).rsqrt = 0x7FC00000 ∧ toF32 rm (f32 a).exp2 = 0x7FC00000 ∧
    toF32 rm (f32 a).log2 = 0x7FC00000 ∧ toF32 rm ((f32 a).sinCos false) = 0x7FC00000 ∧ frintW rm a = 0x7FC00000) ∧
  (∀ (rm : Nat) (a : Word), (f32 a).isNan = false → a.msb = true → a ≠ 0x80000000 →
    toF32 rm (f32 a).sqrt = 0x7FC00000 ∧ toF32 rm (f32 a).rsqrt = 0x7FC00000 ∧ toF32 rm (f32 a).log2 = 0x7FC00000) ∧
  ∀ rm : Nat,
    toF32 rm (f32 0x80000000).sqrt = 0x80000000 ∧ toF32 rm (f32 0x7F800000).sqrt = 0x7F800000 ∧
    toF32 rm (f32 0x00000000).recip = 0x7F800000 ∧ toF32 rm (f32 0x80000000).recip = 0xFF800000 ∧
    toF32 rm (f32 0x7F800000).recip = 0x00000000 ∧ toF32 rm (f32 0xFF800000).recip = 0x80000000 ∧
    toF32 rm (f32 0x00000000).rsqrt = 0x7F800000 ∧ toF32 rm (f32 0x80000000).rsqrt = 0xFF800000 ∧
    toF32 rm (f32 0x7F800000).rsqrt = 0x00000000 ∧ toF32 rm (f32 0xFF800000).exp2 = 0x00000000 ∧
    toF32 rm (f32 0x7F800000).exp2 = 0x7F800000 ∧ toF32 rm (f32 0x00000000).log2 = 0xFF800000 ∧
    toF32 rm (f32 0x80000000).log2 = 0xFF800000 ∧ toF32 rm (f32 0x7F800000).log2 = 0x7F800000 ∧
    toF32 rm (f32 0x3F800000).log2 = 0x00000000 ∧ toF32 rm ((f32 0x7F800000).sinCos false) = 0x7FC00000 ∧
    toF32 rm ((f32 0x80000000).sinCos false) = 0x80000000 ∧ toF32 rm ((f32 0x00000000).sinCos true) = 0x3F800000 ∧
    frintW rm 0x80000000 = 0x80000000 ∧ frintW 3 0xBF000000 = 0x80000000) ∧
  ((∀ (f : Fmt) (rm : Nat) (sat : Bool) (code : Nat), code < 2 ^ (f.signAt + 1) → (f.decode code).isNan = false →
    (sat = true → ∃ n m x, f.decode code = .fin n m x) → f.encode rm sat (f.decode code) = code) ∧
  ∀ (f : Fmt) (n : Bool) (m : Nat) (x : Int), m ≠ 0 → f.roundMag 1 n m x < f.maxCode →
    ¬ 0 < Fp.cmp (f.decode (f.roundMag 1 n m x)) (.fin false m x) ∧
    0 < Fp.cmp (f.decode (f.roundMag 1 n m x + 1)) (.fin false m x))

/-- R322, R260, R238: the conversions in the active lanes, RMO 0 taking the group's rounding mode; an integer result that
was clamped, and a NaN among them, sets the lane's SATF bit: a value of at least one more than the greatest integer of the
format, and at most one less than the least, is clamped, an integer of the format is exact, and the forms that truncate
keep the low 16 or 8 bits with their sign. -/
def Obligations.Conversions : Prop :=
  (∀ (s : State) (e : Bool) (k : BitVec 3) (d a : BitVec 7) (c : BitVec 5) (r : BitVec 2), s.Calm → wellFormed (.cvt e k d a c r) = true →
    let rm := if r = 0 then s.curGroup.fmode.toNat else if r = 1 then 0 else 1
    ∃ t h sat, exec (.cvt e k d a c r) s = .next t ∧ s.Goes t e h ∧
      (∀ l, l < 32 → sat.getLsbD l
        = ((s.curGroup.act s.run.slices k.toNat).getLsbD l && (cvtW c.toNat rm (s.curGroup.vreg a.toNat l)).2)) ∧
      s.curGroup.LaneResult h s.run.slices (s.curGroup.act s.run.slices k.toNat) d.toNat
        (fun l => (cvtW c.toNat rm (s.curGroup.vreg a.toNat l)).1) sat) ∧
  (∀ (rm : Nat) (a : Word), (f32 a).isNan = true →
    ∀ c ∈ [16, 17, 20, 21], cvtW c rm a = (0, true)) ∧
  (∀ (rm : Nat), ∀ p ∈ ([(16, 0x80000000, 0x7FFFFFFF), (17, 0, 0xFFFFFFFF), (20, 0xFFFF8000, 0x7FFF), (21, 0xFFFFFF80, 0x7F)] :
      List (Nat × Word × Word)), cvtW p.1 rm 0xFF800000 = (p.2.1, true) ∧ cvtW p.1 rm 0x7F800000 = (p.2.2, true)) ∧
  (∀ (rm : Nat) (a : Word), (f32 a).isNan = false →
    ∀ p ∈ ([(16, -2147483648, 2147483647), (17, 0, 4294967295), (20, -32768, 32767), (21, -128, 127)] : List (Nat × Int × Int)),
      (0 ≤ Fp.cmp (f32 a) (ofIntFp (p.2.2 + 1)) → cvtW p.1 rm a = (BitVec.ofInt 32 p.2.2, true)) ∧
      (Fp.cmp (f32 a) (ofIntFp (p.2.1 - 1)) ≤ 0 → cvtW p.1 rm a = (BitVec.ofInt 32 p.2.1, true)) ∧
      ∀ n : Int, p.2.1 ≤ n → n ≤ p.2.2 → Fp.cmp (f32 a) (ofIntFp n) = 0 → cvtW p.1 rm a = (BitVec.ofInt 32 n, false)) ∧
  (∀ (rm : Nat) (a : Word), cvtW 22 rm a = ((a.setWidth 16).signExtend 32, false) ∧ cvtW 24 rm a = ((a.setWidth 8).signExtend 32, false)) ∧
  ∀ (rm : Nat) (a : Word), ∀ p ∈ ([(23, -32768, 32767), (25, -128, 127), (26, 0, 255), (27, -8, 7)] : List (Nat × Int × Int)),
    cvtW p.1 rm a = (BitVec.ofInt 32 (min (max a.toInt p.2.1) p.2.2), min (max a.toInt p.2.1) p.2.2 != a.toInt)

/-- R318, R323 to R327, R306: selection and the cross-lane instructions: a source lane counts where it is live and lies in
the path that issues the lane, all sources are read before any write, and `tos` writes every issuing slice; a reduction gives
what its operation makes of the contributing values in any order, and a scan what it makes of those up to the lane, in ascending order;
the words of `sel`, `slide`, `shfl` and `tov`. -/
def Obligations.CrossLane : Prop :=
  (∀ (s : State) (e : Bool) (k : BitVec 3) (d a b : BitVec 7), s.Calm →
    let g := s.curGroup
    (∃ t h, exec (.sel e k d a b) s = .next t ∧ s.Goes t e h ∧
      g.LaneResult h s.run.slices (g.liveLanes s.run.slices) d.toNat
        fun l => if (g.mask k.toNat).getLsbD l then g.vreg a.toNat l else g.vreg b.toNat l) ∧
    (∃ t h, exec (.shfl e k d a b) s = .next t ∧ s.Goes t e h ∧
      g.LaneResult h s.run.slices (g.act s.run.slices k.toNat) d.toNat
        fun l => let j := (g.vreg b.toNat l).toNat % 32
          if (g.present s.run.slices l).getLsbD j then g.vreg a.toNat j else 0)) ∧
  (∀ (s : State) (e : Bool) (k : BitVec 3) (d a : BitVec 7) (f : BitVec 2) (dn : BitVec 1) (n : BitVec 4), s.Calm →
    wellFormed (.slide e k d a f dn n) = true →
    let g := s.curGroup
    let c : Int := if n = 0 then 16 else (n.toNat : Int)
    ∃ t h, exec (.slide e k d a f dn n) s = .next t ∧ s.Goes t e h ∧
      g.LaneResult h s.run.slices (g.act s.run.slices k.toNat) d.toNat fun l =>
        let j0 : Int := if dn = 1 then (l : Int) + c else (l : Int) - c
        let j := if f = 2 then j0 % 32 else j0
        if 0 ≤ j ∧ j ≤ 31 ∧ (g.present s.run.slices l).getLsbD j.toNat = true then g.vreg a.toNat j.toNat
        else if f = 0 then g.vreg d.toNat l else 0) ∧
  (∀ (s : State) (e : Bool) (k : BitVec 3) (d : BitVec 7) (a : BitVec 6), s.Calm →
    let g := s.curGroup
    let act := g.act s.run.slices k.toNat
    ∃ t h, exec (.tov e k d a) s = .next t ∧ s.Goes t e h ∧
      (∀ n l, n < 128 → l < 32 → h.vreg n l = if n = d.toNat ∧ act.getLsbD l = true then g.sreg (l / 4) a.toNat else g.vreg n l) ∧
      g.Walked h (if act = 0 then [] else [a.toNat]) ∧ g.Moved h s.run.slices ∧
      { h with vregs := g.vregs, streams := g.streams, paths := g.paths } = g) ∧
  (∀ (s : State) (e : Bool) (k : BitVec 3) (d : BitVec 6) (a f : BitVec 7) (n : BitVec 5), s.Calm →
    let g := s.curGroup
    (∃ t h, exec (.tosLane e d a n) s = .next t ∧ s.Goes t e h ∧
      g.ScalarResult h s.run.slices [] d.toNat
        fun j => if (g.present s.run.slices (4 * j)).getLsbD n.toNat then g.vreg a.toNat n.toNat else 0) ∧
    ∃ t h, exec (.tosReduce e k d a f) s = .next t ∧ s.Goes t e h ∧
      g.ScalarResult h s.run.slices [] d.toNat
        fun j => tosFold f.toNat ((laneList (g.act s.run.slices k.toNat &&& g.present s.run.slices (4 * j))).map (g.vreg a.toNat))) ∧
  (∀ (s : State) (e : Bool) (k : BitVec 3) (d a f : BitVec 7), s.Calm →
    let g := s.curGroup
    ∃ t h, exec (.scan e k d a f) s = .next t ∧ s.Goes t e h ∧
      g.LaneResult h s.run.slices (g.act s.run.slices k.toNat) d.toNat fun l =>
        scanFold f.toNat (((laneList (g.act s.run.slices k.toNat &&& g.present s.run.slices l)).filter
          fun j => if f = 1 then decide (j < l) else decide (j ≤ l)).map (g.vreg a.toNat))) ∧
  (∀ f ∈ [0x20, 0x21, 0x22, 0x23, 0x24, 0x25, 0x26, 0x27, 0x28, 0x29], ∀ xs ys : List Word, xs.Perm ys → tosFold f xs = tosFold f ys) ∧
  (∀ p ∈ ([(0x20, 0, 0, fun x y => x + y), (0x21, 4, 0xFFFFFFFF, fun x y => x &&& y), (0x22, 5, 0, fun x y => x ||| y),
      (0x23, 6, 0, fun x y => x ^^^ y), (0x24, 2, 0x80000000, fun x y => if x.toInt ≤ y.toInt then y else x),
      (0x25, 3, 0x7FFFFFFF, fun x y => if x.toInt ≤ y.toInt then x else y), (0x26, 7, 0, fun x y => if x.toNat ≤ y.toNat then y else x),
      (0x27, 8, 0xFFFFFFFF, fun x y => if x.toNat ≤ y.toNat then x else y)] : List (Nat × Nat × Word × (Word → Word → Word))),
    tosFold p.1 [] = p.2.2.1 ∧ scanFold p.2.1 [] = p.2.2.1 ∧
    (∀ xs x, tosFold p.1 (xs ++ [x]) = p.2.2.2 (tosFold p.1 xs) x ∧ scanFold p.2.1 (xs ++ [x]) = p.2.2.2 (scanFold p.2.1 xs) x)) ∧
  (∀ xs, scanFold 1 xs = scanFold 0 xs) ∧ tosFold 0x28 [] = 0xFF800000 ∧ tosFold 0x29 [] = 0x7F800000 ∧
  (∀ f ∈ [0x28, 0x29], ∀ xs : List Word, xs ≠ [] →
    ((∀ x ∈ xs, (f32 x).isNan = true) → tosFold f xs = 0x7FC00000) ∧
    ((∃ x ∈ xs, (f32 x).isNan = false) → tosFold f xs ∈ xs ∧ (f32 (tosFold f xs)).isNan = false ∧
      ∀ y ∈ xs, (f32 y).isNan = false → if f = 0x28 then 0 ≤ Fp.cmp (f32 (tosFold f xs)) (f32 y) else Fp.cmp (f32 (tosFold f xs)) (f32 y) ≤ 0)) ∧
  (∀ (e : Bool) (k : BitVec 3) (d a b : BitVec 7) (c : BitVec 6) (f : BitVec 2) (dn : BitVec 1) (n : BitVec 4),
    ∀ p ∈ ([(.sel e k d a b, 0x09, a.toNat, b.toNat), (.shfl e k d a b, 0x36, a.toNat, b.toNat),
        (.slide e k d a f dn n, 0x35, a.toNat, f.toNat * 32 + dn.toNat * 16 + n.toNat), (.tov e k d c, 0x38, c.toNat, 0)] :
        List (Instr × Nat × Nat × Nat)),
      encode p.1 = some (laneWord e p.2.1 k.toNat d.toNat p.2.2.1 p.2.2.2)) ∧
  ∀ w : Word, fld w.toNat 31 1 = 0 →
    (fld w.toNat 24 6 = 0x35 ∧ fld w.toNat 5 2 = 3) ∨ (fld w.toNat 24 6 = 0x38 ∧ (fld w.toNat 13 1 ≠ 0 ∨ fld w.toNat 0 7 ≠ 0)) →
    ∃ r, decodeWord w = .error r

/-- R205, R258, R283, R371: the branches: where each is taken, where it goes, that a parted path drops the reuse latch, and
that a taken branch ends the run of the whole issue set while one not taken is counted in it.
R284, R285, R249: `call` leaves pc + 4 in s62 and s63 and branches; `jr` goes to the address of its pair, and a target
that is no multiple of 4 raises ALIGN in its path instead, at the branch.
The model's own choices in it: log 20. -/
def Obligations.Branches : Prop :=
  (∀ (s : State) (e : Bool) (o : BitVec 20) (o19 : BitVec 19) (o15 : BitVec 15) (c : BitVec 4) (z p : BitVec 1) (m n : BitVec 3)
    (f : BitVec 2), s.run.on = true → s.curGroup.inTx = false → s.curGroup.Tidy s.run.slices →
    let g := s.curGroup
    ∀ i ∈ ([(.b e o, o.signExtend 64, fun _ => true),
        (.bc e c o, o.signExtend 64, fun k => if c.toNat < 4 then g.cflag k (c.toNat % 4) else !g.cflag k (c.toNat % 4)),
        (.bm e z m o19, o19.signExtend 64, fun k => if z = 1 then g.act (1#8 <<< k) m.toNat == 0 else g.act (1#8 <<< k) m.toNat != 0),
        (.bmG e z m o19, o19.signExtend 64, fun _ => if z = 1 then g.act g.live m.toNat == 0 else g.act g.live m.toNat != 0),
        (.bxPreq e p o15, o15.signExtend 64, fun _ => if p = 0 then s.curTeam.req else !s.curTeam.req),
        (.bxD e p n f o15, o15.signExtend 64, fun _ =>
          let flag := g.bound (48 + n.toNat) && (g.streamOf (48 + n.toNat)).flags.getLsbD f.toNat
          if p = 0 then flag else !flag)] : List (Instr × DWord × (Nat → Bool))),
      let next := fun k => if i.2.2 k then g.pcOf k + 4 * i.2.1 else g.pcOf k + 4
      ∃ t h, exec i.1 s = .next t ∧ s.OnlyGroup t h ∧ g.Branched h s.run.slices next ∧
        { h with paths := g.paths, latch := g.latch } = g ∧
        (h.latch = if g.parts s.run.slices next then {} else g.latch) ∧
        ((∃ k, k < 8 ∧ s.run.slices.getLsbD k = true ∧ i.2.2 k = true) → t.run = {}) ∧
        ((∀ k, k < 8 → s.run.slices.getLsbD k = true → i.2.2 k = false) → s.Counted t e)) ∧
  ((∀ (s : State) (e : Bool) (o : BitVec 20), s.run.on = true → s.curGroup.inTx = false → s.curGroup.Tidy s.run.slices →
    let g := s.curGroup
    ∃ t h, exec (.call e o) s = .next t ∧ s.OnlyGroup t h ∧ g.Branched h s.run.slices (fun k => g.pcOf k + 4 * o.signExtend 64) ∧
      (∀ k n, k < 8 → n < 64 → h.copy k n =
        if s.run.slices.getLsbD k = true ∧ n = 62 then (g.pcOf k + 4).setWidth 32
        else if s.run.slices.getLsbD k = true ∧ n = 63 then ((g.pcOf k + 4) >>> 32).setWidth 32 else g.copy k n) ∧
      { h with paths := g.paths, latch := g.latch, sregs := g.sregs } = g ∧
      (s.run.slices ≠ 0 → t.run = {})) ∧
  (∀ (s : State) (e : Bool) (a : BitVec 6), s.run.on = true → s.curGroup.inTx = false → s.curGroup.Tidy s.run.slices →
    let g := s.curGroup
    (∀ k, k < 8 → s.run.slices.getLsbD k = true → (g.spair k a.toNat).toNat % 4 = 0) →
    ∃ t h, exec (.jr e a) s = .next t ∧ s.OnlyGroup t h ∧ g.Branched h s.run.slices (fun k => g.spair k a.toNat) ∧
      { h with paths := g.paths, latch := g.latch } = g ∧ (s.run.slices ≠ 0 → t.run = {})) ∧
  ∀ (s : State) (e : Bool) (a : BitVec 6) (j : Nat), s.run.on = true → s.Trappable (s.curGroup.pathOf (1#8 <<< j)).slices → j < 8 → s.run.slices.getLsbD j = true →
    (s.curGroup.spair j a.toNat).toNat % 4 ≠ 0 → (∀ k, k < j → s.run.slices.getLsbD k = true → (s.curGroup.spair k a.toNat).toNat % 4 = 0) →
    ∃ t, exec (.jr e a) s = .next t ∧
      s.Traps t (s.curGroup.pathOf (1#8 <<< j)).slices .align 0 0 (s.curGroup.spair j a.toNat)
        (s.curGroup.pathOf (s.curGroup.pathOf (1#8 <<< j)).slices).pc)

/-- R206, R286, R371: every `couple` empties the reuse latch. At trap level that is all it does. In a group that is one path,
and in a transaction, its path goes on at once and CPLMIS is cleared; a path that comes to it while another live path has not yet
come to a couple, or while an operation holds back the join of paths at one address, waits there; the last path to come to the
couple at one address joins all live slices there, each taking the registers and flags of the lowest-numbered slice; where
they wait at different addresses every path goes on by itself and CPLMIS is set.
The model's own choices in it: logs 21, 22 and 46. -/
def Obligations.Couples : Prop :=
  (∀ (s : State) (e : Bool), s.run.on = true → s.curGroup.atTrap = false → (s.curGroup.inTx = true ∨ s.curGroup.paths.length ≤ 1) →
    ∃ t h, exec (.couple e) s = .next t ∧ s.Goes t e h ∧ s.curGroup.Moved h s.run.slices ∧ h.cplmis = false ∧ h.latch = {} ∧
      { h with paths := s.curGroup.paths, cplmis := s.curGroup.cplmis, latch := s.curGroup.latch } = s.curGroup) ∧
  (∀ (s : State) (e : Bool), s.run.on = true → s.curGroup.atTrap = true →
    ∃ t h, exec (.couple e) s = .next t ∧ s.Goes t e h ∧ s.curGroup.Moved h s.run.slices ∧ h.latch = {} ∧
      { h with paths := s.curGroup.paths, latch := s.curGroup.latch } = s.curGroup) ∧
  (∀ (s : State) (e : Bool), s.run.on = true → s.curGroup.atTrap = false → s.curGroup.inTx = false → 1 < s.curGroup.paths.length →
    (∃ p ∈ s.curGroup.paths, p.slices &&& s.run.slices ≠ 0) →
    let held := s.curGroup.rq.any RqEntry.holdsJoin = true ∨ s.curGroup.owed ≠ []
    ((∃ q ∈ s.curGroup.paths, q.slices &&& s.run.slices = 0 ∧ q.stop ≠ .couple) ∨
      (held ∧ ∃ pc, ∀ p ∈ s.curGroup.paths, if p.slices &&& s.run.slices != 0 then p.pc + 4 = pc else p.stop = .couple ∧ p.pc = pc)) →
    ∃ t h, exec (.couple e) s = .next t ∧ s.OnlyGroup t h ∧ t.run = {} ∧ h.latch = {} ∧
      h.paths = (s.curGroup.paths.map fun p =>
        if p.slices &&& s.run.slices != 0 then { p with pc := p.pc + 4, exempt := false, stop := .couple } else p) ∧
      { h with paths := s.curGroup.paths, latch := s.curGroup.latch } = s.curGroup) ∧
  (∀ (s : State) (e : Bool) (pc : DWord), s.run.on = true → s.curGroup.atTrap = false → s.curGroup.inTx = false →
    1 < s.curGroup.paths.length → s.curGroup.live ≠ 0 → s.curGroup.rq.any RqEntry.holdsJoin = false → s.curGroup.owed = [] →
    (∀ p ∈ s.curGroup.paths, if p.slices &&& s.run.slices != 0 then p.pc + 4 = pc else p.stop = .couple ∧ p.pc = pc) →
    ∃ t h, exec (.couple e) s = .next t ∧ s.OnlyGroup t h ∧ t.run = {} ∧ h.paths = [{ slices := s.curGroup.live, pc := pc }] ∧
      h.cplmis = false ∧ h.latch = {} ∧
      (∀ k n, k < 8 → 1 ≤ n → n < 64 → h.copy k n =
        if s.curGroup.live.getLsbD k = true then s.curGroup.copy (lowSlice s.curGroup.live) n else s.curGroup.copy k n) ∧
      (∀ k n, k < 8 → n < 4 → h.cflag k n =
        if s.curGroup.live.getLsbD k = true then s.curGroup.cflag (lowSlice s.curGroup.live) n else s.curGroup.cflag k n) ∧
      { h with paths := s.curGroup.paths, cplmis := s.curGroup.cplmis, latch := s.curGroup.latch, sregs := s.curGroup.sregs,
               cflags := s.curGroup.cflags } = s.curGroup) ∧
  ∀ (s : State) (e : Bool), s.run.on = true → s.curGroup.atTrap = false → s.curGroup.inTx = false → s.curGroup.live ≠ 0 →
    (∀ p ∈ s.curGroup.paths, p.slices &&& s.run.slices = 0 → p.stop = .couple) →
    (∃ p ∈ s.curGroup.paths, ∃ q ∈ s.curGroup.paths, p.slices &&& s.run.slices ≠ 0 ∧ q.slices &&& s.run.slices = 0 ∧ p.pc + 4 ≠ q.pc) →
    ∃ t h, exec (.couple e) s = .next t ∧ s.OnlyGroup t h ∧ h.cplmis = true ∧ h.latch = {} ∧
      h.paths = (s.curGroup.paths.map fun p =>
        if p.slices &&& s.run.slices != 0 then { p with pc := p.pc + 4, exempt := false, stop := .ready } else { p with stop := .ready }) ∧
      { h with paths := s.curGroup.paths, cplmis := s.curGroup.cplmis, latch := s.curGroup.latch } = s.curGroup

/-- R200, R208, R267, R288, R123, R165, R212, R289: `nop` moves its paths on and is not counted; a `wait` ends the run and
holds its paths exactly while a counter of the group stands above its count, 63 standing for any. A fence in a transaction
has no effect; elsewhere one of kind acquire and of cluster scope or wider leaves no clean line valid in the core, and a
release of a core with nothing to write back changes no memory, one of pod scope sending the host a read of length 0 (R188); a
release leaves no dirty byte in any line of its core.
The model's own choices in it: logs 12 and 37. -/
def Obligations.WaitsAndFences : Prop :=
  (∀ s : State, ∃ t h, exec .nop s = .next t ∧ s.OnlyGroup t h ∧ t.run = s.run ∧ s.curGroup.Moved h s.run.slices ∧
    { h with paths := s.curGroup.paths } = s.curGroup) ∧
  (∀ (s : State) (e : Bool) (l st c x a : BitVec 6) (cls : BitVec 2),
    let g := s.curGroup
    let n := min (g.sreg (lowSlice s.run.slices) a.toNat).toNat 63
    ∀ i ∈ ([(.wait e l st c x, l.toNat, st.toNat, c.toNat, x.toNat, []),
        (.waitr e a cls, if cls = 0 then n else 63, if cls = 1 then n else 63, if cls = 2 then n else 63, if cls = 3 then n else 63,
          [a.toNat])] : List (Instr × Nat × Nat × Nat × Nat × List Nat)),
      let met := (63 ≤ i.2.1 ∨ (g.counters.ld.length ≤ i.2.1)) ∧ (63 ≤ i.2.2.1 ∨ g.counters.st.length ≤ i.2.2.1) ∧
        (63 ≤ i.2.2.2.1 ∨ g.counters.cp.length ≤ i.2.2.2.1) ∧ (63 ≤ i.2.2.2.2.1 ∨ g.counters.tl.length ≤ i.2.2.2.2.1)
      ∃ t h, exec i.1 s = .next t ∧ s.OnlyGroup t h ∧ t.run = {} ∧ g.Walked h i.2.2.2.2.2 ∧
        (met → g.Moved h s.run.slices) ∧
        (¬ met → h.paths = g.paths.map fun p => if p.slices &&& s.run.slices != 0 then
          { p with pc := p.pc + 4, exempt := false, stop := .wait i.2.1 i.2.2.1 i.2.2.2.1 i.2.2.2.2.1 } else p) ∧
        { h with paths := g.paths, streams := g.streams } = g) ∧
  (∀ (s : State) (e : Bool) (sc : BitVec 3) (q : BitVec 2), s.run.on = true → s.curGroup.inTx = true →
    ∃ t h, exec (.fence e sc q) s = .next t ∧ s.Goes t e h ∧ s.curGroup.Moved h s.run.slices ∧ { h with paths := s.curGroup.paths } = s.curGroup) ∧
  (∀ (s : State) (e : Bool) (sc : BitVec 3) (q : BitVec 2), s.run.on = true → s.curGroup.inTx = false → s.Clean s.curCore →
    let s0 := if q ≠ 0 then s.zeroRead sc.toNat else s
    let s1 := if q ≠ 1 ∧ 2 ≤ sc.toNat ∧ (s.coreOf s.curCore).l1 ≠ [] then s0.updCore s.curCore fun c => { c with l1 := [] } else s0
    ∃ t h, exec (.fence e sc q) s = .next t ∧ s1.Goes t e h ∧ s.curGroup.Moved h s.run.slices ∧ { h with paths := s.curGroup.paths } = s.curGroup) ∧
  (∀ (s : State) (c : Nat), ∀ x ∈ ((s.releaseCore c).coreOf c).l1, x.2.dirty = 0) ∧
  ∀ (s : State) (c : Nat), ∀ x ∈ ((s.acquireCore c).coreOf c).l1, x.2.valid = x.2.dirty ∧ x.2.dirty ≠ 0

/-- R287, R184: an `exit` at program level takes its slices out of the group and out of its paths, withdraws the group's
registrations and ends the run; while slices of the group stay live, no team ends. Nothing else of the group changes where a
path that is left waits at no couple; where all that are left do, they may join there (R206), which writes their scalar registers,
their flags and CPLMIS alone. -/
def Obligations.Exits : Prop :=
  ∀ (s : State) (e : Bool), s.run.on = true → s.curGroup.atTrap = false → s.Clean s.curCore →
    s.curGroup.live &&& ~~~s.run.slices ≠ 0 → s.curGroup.live &&& ~~~s.run.slices &&& ~~~s.curGroup.trigged ≠ 0 →
    s.run.grp < s.curTeam.ngroup →
    ∃ t, exec (.exit e) s = .next t ∧ { t with teams := s.teams, runs := s.runs, regs := s.regs } = s ∧
      t.run = {} ∧ (t.regs = s.regs.filter fun r => !(r.uid == s.run.uid && r.grp == s.run.grp)) ∧
      (∀ u, u ≠ s.run.uid → t.teamOf u = s.teamOf u) ∧ { t.teamOf s.run.uid with groups := s.curTeam.groups } = s.curTeam ∧
      (∀ g, g ≠ s.run.grp → t.groupOf s.run.uid g = s.groupOf s.run.uid g) ∧
      let g := s.curGroup
      let h := t.groupOf s.run.uid s.run.grp
      h.live = g.live &&& ~~~s.run.slices ∧ h.tx = { g.tx with depth := 0, alts := [], reads := [], writes := [], locks := [] } ∧
      { h with live := g.live, tx := g.tx, paths := g.paths, cplmis := g.cplmis, sregs := g.sregs, cflags := g.cflags } = g ∧
      (g.paths.any (fun p => p.stop != .couple && p.slices &&& ~~~s.run.slices != 0) = true →
        h.paths = (g.paths.map fun p => { p with slices := p.slices &&& ~~~s.run.slices }).filter (fun p => p.slices != 0) ∧
        { h with live := g.live, tx := g.tx, paths := g.paths } = g)

/-- R210, R211, R216, R218, R339: an outermost `xbegin` of a whole group at program level opens a transaction whose start is
its own address; a nested one adds a level with its alternative, and a fifth level fails with NEST; `xelse` replaces the
alternative of the current level; `xstat` gives the status word to every issuing slice. -/
def Obligations.TransactionLevels : Prop :=
  ∀ (s : State) (e : Bool) (sc : BitVec 3) (o : BitVec 20) (d : BitVec 6), s.run.on = true →
    let g := s.curGroup
    let pc := (g.pathOf s.run.slices).pc
    (∀ i ∈ ([(.xbegin e sc o, some (pc + 4 * o.signExtend 64)), (.xbeginNoTarget e sc, none)] : List (Instr × Option DWord)),
      (g.inTx = false → g.atTrap = false → g.paths.length ≤ 1 → s.Clean s.curCore →
        ∃ t h, exec i.1 s = .next t ∧ s.Goes t e h ∧ g.Moved h s.run.slices ∧ { h with paths := g.paths, tx := g.tx } = g ∧
          h.tx = { depth := 1, scope := sc.toNat, start := pc, alts := [i.2], alt1 := i.2, since := s.clock.toNat }) ∧
      (g.inTx = true → g.tx.depth < 4 →
        ∃ t h, exec i.1 s = .next t ∧ s.Goes t e h ∧ g.Moved h s.run.slices ∧ { h with paths := g.paths, tx := g.tx } = g ∧
          h.tx = { g.tx with depth := g.tx.depth + 1, alts := g.tx.alts ++ [i.2] }) ∧
      (4 ≤ g.tx.depth → exec i.1 s = .next (s.txFail s.run.uid s.run.grp 4 0))) ∧
    (g.inTx = true → ∃ t h, exec (.xelse e o) s = .next t ∧ s.Goes t e h ∧ g.Moved h s.run.slices ∧
      { h with paths := g.paths, tx := g.tx } = g ∧
      h.tx = { g.tx with alts := g.tx.alts.dropLast ++ [some (pc + 4 * o.signExtend 64)] }) ∧
    ∃ t h, exec (.xstat e d) s = .next t ∧ s.Goes t e h ∧
      g.ScalarResult h s.run.slices [] d.toNat fun _ => BitVec.ofNat 32 (g.tx.code * 2 ^ 24 + g.tx.cause * 2 ^ 20 + g.tx.fails * 256
        + (if ((g.tx.alts.getLast?).getD none).isSome then 128 else 0) + (if g.tx.slept then 64 else 0) + g.tx.scope * 8 + g.tx.depth)

/-- R211, R215, R216, R341: `xabort` ends every level with cause ABORT and its code: the writes, the registrations and the
locks of the group go, and where a matching `xend` is found the group goes on after it as one path; while a word of the scan
cannot be had, the group waits at its `xbegin`, and where no `xend` matches, it takes ILL there. A failure for any other cause does the same. -/
def Obligations.TransactionFailure : Prop :=
  (∀ (s : State) (e : Bool) (c : BitVec 8), s.curGroup.inTx = true →
    exec (.xabort e c) s = .next (s.txFail s.run.uid s.run.grp 1 c.toNat)) ∧
  ∀ (s : State) (u k cause code : Nat) (s3 : State) (pc : DWord),
    let g := s.groupOf u k
    let dropped : State := ({ s with
      runs := s.runs.filter fun r => !(r.2.uid == u && r.2.grp == k)
      regs := s.regs.filter fun r => !(r.uid == u && r.grp == k)
      wlocks := s.wlocks.filter fun w => !(w.uid == u && w.grp == k) } : State).updGroup u k fun x => { x with
        rq := if g.atTrap then x.rq else [], trq := if g.atTrap then [] else x.trq
        tx := { x.tx with depth := 0, alts := [], reads := [], writes := [], locks := [], cause := cause, code := code } }
    (dropped.scan u k g.tx.start = (s3, .found pc) →
      s.txFail u k cause code = s3.updGroup u k fun x => { x with paths := [{ slices := x.live, pc := pc }] }) ∧
    (dropped.scan u k g.tx.start = (s3, .wait) →
      s.txFail u k cause code = s3.updGroup u k fun x => { x with paths := [{ slices := x.live, pc := g.tx.start, stop := .scan }] }) ∧
    (dropped.scan u k g.tx.start = (s3, .unmatched) →
      let s4 := s3.updGroup u k fun x => { x with paths := [{ slices := x.live, pc := g.tx.start }] }
      s.txFail u k cause code = s4.deliver u k
        { slices := (s4.groupOf u k).live, atIssue := true, code := .ill, lanes := (s4.groupOf u k).liveLanes (s4.groupOf u k).live, pc := g.tx.start })

/-- R123, R213, R216, R219: a nested `xend` lowers the depth and its writes join the level below; an outermost one, which
waits while its core has dirty bytes that cannot be written back, with writes waits with every written line to be locked, in
ascending order of their keys; `xretry` goes to the nearest live alternative
and drops the writes of its level and those inside it.
R213, R214, R220: a commit takes its next lock where no other commit holds it, and is held up where one does; with the last it
validates: where the group's registrations have been hit it starts again, one failure the more and nothing written, and where they
have not, its written bytes stand and it goes on after its `xend` with no lock and no registration left; an overflowed
sleeper is woken once 4 µs have passed, a transaction by a restart with SLEPT set, and not before.
The model's own choices in it: logs 25 and 79. -/
def Obligations.TransactionEnds : Prop :=
  (∀ (s : State) (e : Bool), s.run.on = true → s.curGroup.inTx = true →
    let g := s.curGroup
    (1 < g.tx.depth → ∃ t h, exec (.xend e) s = .next t ∧ s.Goes t e h ∧ g.Moved h s.run.slices ∧
      { h with paths := g.paths, tx := g.tx } = g ∧
      h.tx = { g.tx with depth := g.tx.depth - 1, alts := g.tx.alts.dropLast,
                         writes := g.tx.writes.map fun w => { w with level := min w.level (g.tx.depth - 1) } }) ∧
    (g.tx.depth = 1 → s.releaseStuck s.curCore = true → exec (.xend e) s = .next s) ∧
    (g.tx.depth = 1 → g.tx.writes ≠ [] → s.Clean s.curCore → ∃ t h, exec (.xend e) s = .next t ∧ s.OnlyGroup t h ∧ t.run = {} ∧
      h.paths = (g.paths.map fun p => { p with stop := .commit }) ∧ { h with paths := g.paths, tx := g.tx } = g ∧
      { h.tx with locks := g.tx.locks } = g.tx ∧
      (h.tx.locks.Pairwise fun a b => a.order ≤ b.order) ∧ h.tx.locks.Nodup ∧
      ∀ key, key ∈ h.tx.locks ↔ ∃ w ∈ g.tx.writes, w.key = key) ∧
    (∀ n a, g.tx.nearest = some (n, a) → ∃ t, exec (.xretry e) s = .next t ∧ { t with teams := s.teams, runs := s.runs } = s ∧
      { t.groupOf s.run.uid s.run.grp with paths := g.paths, tx := g.tx } = g ∧
      (t.groupOf s.run.uid s.run.grp).paths = (g.paths.map fun p => { p with pc := a }) ∧
      (t.groupOf s.run.uid s.run.grp).tx.depth = n ∧
      (t.groupOf s.run.uid s.run.grp).tx.writes = g.tx.writes.filter fun w => decide (w.level < n)) ∧
    ∀ n a, g.tx.nearest = some (n, a) → n ≤ g.tx.depth ∧ g.tx.alts.getD (n - 1) none = some a ∧
      ∀ m, n < m → m ≤ g.tx.depth → m ≤ 4 → g.tx.alts.getD (m - 1) none = none) ∧
  ((∀ (s : State) (u k c l : Nat) (rest : List LineKey), (s.groupOf u k).tx.locks = .core c l :: rest →
    (s.groupOf u k).inTx = true → (∀ p ∈ (s.groupOf u k).paths, p.stop = .commit) →
    ((∃ w ∈ s.wlocks, w.key = .core c l ∧ ¬ (w.uid = u ∧ w.grp = k)) → exec (.commitLockGrant u k) s = .next s) ∧
    ((∀ w ∈ s.wlocks, w.key = .core c l → w.uid = u ∧ w.grp = k) → rest ≠ [] →
      ∃ t, exec (.commitLockGrant u k) s = .next t ∧ t.wlocks = s.wlocks ++ [{ key := .core c l, uid := u, grp := k }] ∧
        (t.groupOf u k).tx.locks = rest ∧ { t with wlocks := s.wlocks, teams := s.teams } = s ∧
        { t.groupOf u k with tx := (s.groupOf u k).tx } = s.groupOf u k) ∧
    ((∀ w ∈ s.wlocks, w.key = .core c l → w.uid = u ∧ w.grp = k) → rest = [] →
      let g := s.groupOf u k
      (s.doomed u k = true → ∃ t, exec (.commitLockGrant u k) s = .next t ∧ (∀ d, (t.coreOf d).sp = (s.coreOf d).sp) ∧
        (∀ d, (t.dieOf d).cs = (s.dieOf d).cs) ∧ (t.wlocks.any fun w => w.uid == u && w.grp == k) = false ∧
        (t.regs.any fun r => r.uid == u && r.grp == k) = false ∧
        let h := t.groupOf u k
        h.tx.depth = 1 ∧ h.tx.fails = min (g.tx.fails + 1) 255 ∧ h.tx.writes = [] ∧ h.tx.reads = [] ∧ h.rq = [] ∧
        h.paths = [{ slices := g.live, pc := g.tx.start + 4 }]) ∧
      (∀ w, s.doomed u k = false → g.tx.writes = [w] → w.key = .core c l → w.level = 1 → s.Unwatched (.core c l) u k →
        ∃ t, exec (.commitLockGrant u k) s = .next t ∧ (∀ d, (t.dieOf d).cs = (s.dieOf d).cs) ∧
          (∀ d, d ≠ c → (t.coreOf d).sp = (s.coreOf d).sp) ∧
          (∀ x, Mem.get (t.coreOf c).sp x = if 128 * l ≤ x ∧ x < 128 * l + 128 ∧ w.mask.getLsbD (x - 128 * l) = true
            then BitVec.ofNat 8 (w.data.toNat / 256 ^ (x - 128 * l)) else Mem.get (s.coreOf c).sp x) ∧
          (t.wlocks.any fun w => w.uid == u && w.grp == k) = false ∧ (t.regs.any fun r => r.uid == u && r.grp == k) = false ∧
          let h := t.groupOf u k
          h.tx.depth = 0 ∧ h.tx.writes = [] ∧ h.tx.reads = [] ∧ h.rq = g.rq ∧
          h.paths = g.paths.map fun p => { p with pc := p.pc + 4, stop := .ready }))) ∧
  (∀ (s : State) (u k : Nat) (x : Sleep), (s.groupOf u k).sleep = some x → (∀ p ∈ (s.groupOf u k).paths, p.stop = .ready) →
    ((x.ovf = false ∨ s.clock.toNat < x.since + 4 * Config.cyclesPerUs) → exec (.overflowWake u k) s = .next s) ∧
    (x.ovf = true → x.since + 4 * Config.cyclesPerUs ≤ s.clock.toNat →
      ∃ t, exec (.overflowWake u k) s = .next t ∧ (t.groupOf u k).sleep = none ∧ (t.groupOf u k).tx.slept = true ∧
        (t.groupOf u k).paths = [{ slices := (s.groupOf u k).live, pc := (s.groupOf u k).tx.start + 4 }])))

/-- R290 to R292: the barrier instructions of a path that issues alone, on an entry that nobody watches: `bar.init` sets EXP,
an arrival adds one to ARR and gives PHASE as it was before, and where ARR at an event reaches EXP, ARR falls by EXP and PHASE
flips once; `bar.wait`, whose read is an event, goes on where PHASE differs from bit 0 of its register and sleeps where it does
not, `bar.sync` arrives and then waits on the register it wrote, and `bar.read` gives word 0.
The model's own choices in it: log 24. -/
def Obligations.Barriers : Prop :=
  ∀ (s : State) (e : Bool) (d i : BitVec 6), s.Alone → s.curGroup.inTx = false → i.toNat < 4 → s.curTeam.slot < 8 →
    let g := s.curGroup
    let key := s.barKey i.toNat
    let b := Sparse.get {} (s.coreOf key.1).bars key.2
    let ev := fun (b : Bar) => if b.exp ≤ b.arr then { b with arr := b.arr - b.exp, phase := !b.phase } else b
    let low := lowSlice s.run.slices
    let g1 : Group := { g with tx := { g.tx with fails := 0, slept := false } }
    s.Unwatched (.bar key.1 key.2) s.run.uid s.run.grp →
    (∀ s1 : State, s1 = s.updCore key.1 (fun c => { c with bars := Sparse.set {} c.bars key.2 (ev { b with exp := (g.sreg low d.toNat).toNat }) }) →
      s.run.slices.getLsbD low = true → 1 ≤ (g.sreg low d.toNat).toNat → (g.sreg low d.toNat).toNat ≤ 1023 →
      ∃ t h, exec (.barInit e d i) s = .next t ∧ s1.Goes t e h ∧ g.Moved h s.run.slices ∧ g.Walked h [d.toNat] ∧
        { h with paths := g.paths, streams := g.streams } = g) ∧
    (∀ s1 : State, s1 = s.updCore key.1 (fun c => { c with bars := Sparse.set {} c.bars key.2 (ev { b with arr := b.arr + 1 }) }) →
      (∃ t h, exec (.barArrive e d i) s = .next t ∧ s1.Goes t e h ∧
        g.ScalarResult h s.run.slices [] d.toNat fun _ => if b.phase then 1 else 0) ∧
      (s.run.slices.getLsbD low = true →
        (if g.Open d.toNat then b.phase else (g.sreg low d.toNat).getLsbD 0) ≠ (ev { b with arr := b.arr + 1 }).phase →
        ∃ t h, exec (.barSync e d i) s = .next t ∧ s1.Goes t e h ∧
        g1.ScalarResult h s.run.slices [] d.toNat fun _ => if b.phase then 1 else 0)) ∧
    (∀ s1 : State, s1 = s.updCore key.1 (fun c => { c with bars := Sparse.set {} c.bars key.2 (ev b) }) →
      ((ev b).phase ≠ (g.sreg low d.toNat).getLsbD 0 →
        ∃ t h, exec (.barWait e d i) s = .next t ∧ s1.Goes t e h ∧ g.Moved h s.run.slices ∧ g.Walked h [d.toNat] ∧
          { h with paths := g.paths, streams := g.streams } = g1) ∧
      ((ev b).phase = (g.sreg low d.toNat).getLsbD 0 →
        ∃ t ovf, exec (.barWait e d i) s = .next t ∧ t.run = {} ∧
          (t.groupOf s.run.uid s.run.grp).paths = g.paths.map fun p => if p.slices &&& s.run.slices != 0 then
            { p with pc := p.pc + 4, exempt := false, stop := .asleep s.clock.toNat (.bar key.1 key.2) (ev b).phase ovf } else p)) ∧
    ∃ t h, exec (.barRead e d i) s = .next t ∧ s.Goes t e h ∧
      g.ScalarResult h s.run.slices [] d.toNat fun _ => BitVec.ofNat 32 ((if b.phase then 2 ^ 31 else 0) + b.exp * 65536 + b.arr)

/-- R16 to R24, R145, R331, R402, R405, R408: the memory instructions whose active lanes all fail a check before the translation, with
one code, have their entry's trap: TRAPCAUSE has the code, with AT-ISSUE clear, TRAPLANES those lanes and TRAPADDR the address of
the lowest, TRAPPC the address after the instruction; the entry stays, no register and no byte is written.
R300, R401, R405, R406, R408: `trap` and `brk` of a group in no transaction and at program level take their trap, with
the immediate as the trap's address and the instruction's own address as its resume address; a form that only a
transaction may hold takes ILL outside one, a return at program level PRIV, and so do a read and a write of a system
register that the level may not make. -/
def Obligations.TrapsTaken : Prop :=
  (∀ (s : State) (e : Bool) (k z sc : BitVec 3) (d a : BitVec 7) (b o : BitVec 4) (code : Trap) (l : Nat),
    let g := s.curGroup
    let act := g.act s.run.slices k.toNat
    let vm := fun l => g.spair (l / 4) (2 * b.toNat) + (g.vreg a.toNat l).signExtend 64
    let vt := fun l => g.vreg (a.toNat + 1) l ++ g.vreg a.toNat l
    let n := (sizes.getD z.toNat (0, 0)).1
    let n2 := (atomics.getD o.toNat (0, fun _ _ _ => 0)).1
    ∀ i ∈ ([(.ld e k d a b z, .read, n, vm, .ld), (.ldAcq e k d a z sc, .read, n, vt, .ld), (.st e k d a b z, .write, n, vm, .st),
        (.stRel e k d a z sc, .write, n, vt, .st), (.atom e k d a o sc, .atomic, n2, vt, .ld), (.red e k d a o sc, .atomic, n2, vt, .st)] :
        List (Instr × Acc × Nat × (Nat → DWord) × OpClass)),
      let cls := i.2.2.2.2
      wellFormed i.1 = true → (∀ x, i.1 = .stRel e k d a z x → x.toNat < 2) →
      s.Free cls → g.Tidy s.run.slices → s.Trappable s.run.slices → l < 32 → act.getLsbD l = true → (∀ j, j < l → act.getLsbD j = false) →
      (∀ j, j < 32 → act.getLsbD j = true → s.Refuses i.2.1 i.2.2.1 j (i.2.2.2.1 j).toNat code) →
      ∃ t x, exec i.1 s = .next t ∧ s.EntryTraps t cls code i.2.1.code act (i.2.2.2.1 l) x ∧
        encode i.1 = some x.insn ∧ x.slices = s.run.slices ∧ x.lanes = act ∧ x.op = g.nextOp) ∧
  ∀ (s : State) (e : Bool) (imm : BitVec 18) (tag : BitVec 16) (d : BitVec 6) (r : BitVec 12) (o : BitVec 20) (c : BitVec 8),
    s.Alone → s.Trappable s.run.slices →
    ∀ i ∈ ([(.trap e imm, Trap.trap, imm.setWidth 64, true), (.brk e tag, Trap.brk, tag.setWidth 64, true), (.rte e, Trap.priv, 0, true),
        (.xelse e o, Trap.ill, 0, true), (.xend e, Trap.ill, 0, true), (.xretry e, Trap.ill, 0, true), (.xabort e c, Trap.ill, 0, true),
        (.sysrd e d r, Trap.priv, 0, decide (0x018 ≤ r.toNat ∧ r.toNat ≤ 0x02F)),
        (.syswr e d r, Trap.priv, 0, decide (r.toNat ≠ 0x010 ∧ r.toNat ≠ 0x011 ∧ r.toNat ≠ 0x044 ∧ r.toNat ≠ 0x045)),
        (.rqdataWrite e d, Trap.priv, 0, true)] : List (Instr × Trap × DWord × Bool)),
      i.2.2.2 = true →
      ∃ t, exec i.1 s = .next t ∧
        s.Traps t s.run.slices i.2.1 0 0 i.2.2.1 (s.curGroup.pathOf s.run.slices).pc

/-- R300, R405, R406, R408: a `trap` and a `brk` complete by taking their trap, in every state in which they issue. Outside a
transaction and at program level the handler is entered: TRAPCAUSE has the code 0x0E or 0x0D and ATISSUE, TRAPADDRL the
immediate or the tag zero-extended and TRAPADDRH 0, TRAPPC the instruction's own address, and the path goes on at ENTRY - 4;
at trap level it ends the team (R407), and in a transaction it ends that with cause TRAP, or restarts one that is doomed
(R214, R215). Where several paths issue it together, the last of them takes its trap, and the others, whose traps are due, are
put off until the handler has returned; so is a trap of a path while another path of its group is in the middle of a run.
The model's own choice in it, which of several is first: log 45. -/
def Obligations.SoftwareTraps : Prop :=
  ∀ (s : State) (e : Bool) (imm : BitVec 18) (tag : BitVec 16),
    ∀ i ∈ ([(.trap e imm, Trap.trap, 0x0E, imm.setWidth 32), (.brk e tag, Trap.brk, 0x0D, tag.setWidth 32)] : List (Instr × Trap × Nat × Word)),
      let u := s.run.uid
      let k := s.run.grp
      let g := s.curGroup
      let sl := s.run.slices
      let pc := (g.pathOf sl).pc
      let s1 := s.endRunOf u k
      (s.Alone →
        (s.Trappable sl → ∃ t, exec i.1 s = .next t ∧ s.Traps t sl i.2.1 0 0 (i.2.2.2.setWidth 64) pc ∧
          let h := t.groupOf u k
          h.atTrap = true ∧ h.frame.code = i.2.2.1 ∧ h.frame.atIssue = true ∧ h.frame.addrL = i.2.2.2 ∧ h.frame.addrH = 0 ∧ h.frame.pc = pc ∧
          ∀ p ∈ h.paths, p.slices &&& sl ≠ 0 → p.pc = s.curTeam.entry - 4) ∧
        (g.inTx = false → s.othersRun u k sl = true → exec i.1 s = .next (s.putsOff sl)) ∧
        (g.inTx = false → s.othersRun u k sl = false → g.atTrap = false →
          ∃ r, exec i.1 s = .next ((s1.writeTrace s.curTeam.part r).updTeam u fun t => t.enterTrap k
            { slices := sl, atIssue := true, code := i.2.1, lanes := g.liveLanes sl, addr := i.2.2.2.setWidth 64, pc := pc })) ∧
        (g.inTx = false → s.othersRun u k sl = false → g.atTrap = true →
          exec i.1 s = .next (s1.fatal u k sl i.2.1 0 (i.2.2.2.setWidth 64) pc (g.liveLanes sl))) ∧
        (g.inTx = true → exec i.1 s = .next (if s.doomed u k = true then s.txRestart u k else s.txFail u k 5 i.2.2.1))) ∧
      ∀ xs b, s.run.on = true → g.Tidy sl → s.Trappable sl → g.issuers sl = xs ++ [b] →
        let s2 := xs.foldl State.putsOff s
        ∃ t, exec i.1 s = .next t ∧ s2.Traps t b i.2.1 0 0 (i.2.2.2.setWidth 64) (g.pathOf b).pc

/-- R212, R249, R301, R302, R407, R411: a return whose queues are empty and whose resume address is a multiple of 4 leaves trap level and puts
the path of its frame back at that address with what it waited for. One whose trap-level operations are not complete, a
`coll.cancel` among them, waits. One with an edited entry is a trap at trap level with code ILL, and so is one with a misaligned
address with code ALIGN: either ends the team with a record of kind 10. `yield` moves its paths on, ends the run, and holds them
where the team has been asked to leave; in a transaction it ends that with cause UNSUP.
The model's own choice in it: log 22. -/
def Obligations.ReturnAndYield : Prop :=
  (∀ (s : State) (e : Bool), s.run.on = true → s.curGroup.atTrap = true →
    let g := s.curGroup
    let u := s.run.uid
    let k := s.run.grp
    let done := g.trq = [] ∧ g.tctr.idle = true ∧ ∀ o ∈ g.owed, o.trap = false
    let dies := fun (code : Trap) (addr : DWord) => (s.endRunOf u k).fatal u k g.frame.slices code 0 addr (g.pathOf g.frame.slices).pc
      (g.liveLanes g.frame.slices)
    (¬ done → exec (.rte e) s = .next s) ∧
    (done → g.inTx = false → s.othersRun u k g.frame.slices = false →
      ((∃ x ∈ g.rq, x.edited = true) → exec (.rte e) s = .next (dies .ill 0)) ∧
      ((∀ x ∈ g.rq, x.edited = false) → g.frame.pc.toNat % 4 ≠ 0 → exec (.rte e) s = .next (dies .align g.frame.pc))) ∧
    (done → g.rq = [] → g.frame.pc.toNat % 4 = 0 →
      (∃ p ∈ g.paths, p.stop ≠ .couple ∧ p.slices &&& g.frame.slices = 0) ∨
        g.frame.stop ≠ .couple ∧ (∃ p ∈ g.paths, p.slices &&& g.frame.slices ≠ 0) →
      ∃ t h, exec (.rte e) s = .next t ∧ s.OnlyGroup t h ∧ t.run = {} ∧ h.atTrap = false ∧
        h.paths = (g.paths.map fun p => if p.slices &&& g.frame.slices != 0 then
          { p with pc := g.frame.pc, stop := g.frame.stop, exempt := true } else p) ∧
        { h with atTrap := g.atTrap, paths := g.paths } = g)) ∧
  ∀ (s : State) (e : Bool), 
    (s.curGroup.inTx = true → exec (.yield e) s = .next (s.txFail s.run.uid s.run.grp 7 0)) ∧
    (s.curGroup.inTx = false →
      ∃ t h, exec (.yield e) s = .next t ∧ s.OnlyGroup t h ∧ t.run = {} ∧ { h with paths := s.curGroup.paths } = s.curGroup ∧
        h.paths = s.curGroup.paths.map fun p => if p.slices &&& s.run.slices != 0 then
          { p with pc := p.pc + 4, exempt := false,
                   stop := if s.curTeam.req = true ∧ s.curGroup.atTrap = false then .yielded else p.stop } else p)

/-- R18, R87, R199, R233, R244, R245, R263, R264, R299, R408, R409: the system registers: a read gives every issuing slice the
register's value, that of CLOCKL latching the high half; FMODE takes bits 1..0, SATF is cleared where 1 is written, the flags
that instructions issued before are still to set included, the halves of the resume address and of the query are written, a
reserved POS of the query leaving that field as it was (R10), and RQSEL and RQDATA reach the replay window, whose words show an
entry as R409 lays it out. A query of a local address that a core's or a die's TLB translates gives the place of the column asked
for, ERR 4 for a reserved position and ERR 5 for a target that the parcel has not; with PHYS it is PRIV. 
The model's own choices in it: ERR 2 for an address of no global level, and that the query is performed as it was written, log 72;
that programs of virtual device 127 may set PHYS, log 73; that SATF's clearing reaches flags still to be set, log 86. -/
def Obligations.SystemRegisters : Prop :=
  (∀ (s : State) (e : Bool) (d : BitVec 6) (r : BitVec 12), s.run.on = true →
    let g := s.curGroup
    let w := BitVec.ofNat 32
    let u := s.curTeam
    ∀ i ∈ ([(0x000, fun k => w ((if g.cplmis then 2 ^ 31 else 0) + g.live.toNat * 2 ^ 16 + (if g.role then 2 ^ 15 else 0) + k * 2 ^ 12
          + g.nslice * 256 + s.run.grp), true),
        (0x001, fun _ => w (u.lanes * 2 ^ 10 + (u.ngroup - 1) * 32 + u.slot), true),
        (0x003, fun _ => w (u.y * 65536 + u.x), true), (0x004, fun _ => w u.z, true),
        (0x002, fun _ => w ((if u.cl then 256 else 0) + u.core), true),
        (0x008, fun _ => w (u.spSize * 65536 + u.spBase), true), (0x009, fun _ => u.wincs, true),
        (0x00A, fun _ => w (u.pslot * 2 ^ 21 + u.lpSize), true), (0x00B, fun _ => u.lpBase.setWidth 32, true),
        (0x00C, fun _ => (u.lpBase >>> 32).setWidth 32, true),
        (0x00D, fun _ => w (u.bufBase * 2 ^ 26 + u.bufCnt * 2 ^ 19 + u.tidBase * 2 ^ 13 + u.tidCnt * 64), true), (0x010, fun _ => g.fmode.setWidth 32, true),
        (0x011, fun _ => g.satf, true), (0x012, fun _ => g.tx.stat, true),
        (0x018, fun _ => w (g.frame.slices.toNat * 2 ^ 16 + (if g.frame.atIssue then 2 ^ 15 else 0) + g.frame.acc * 2 ^ 12
          + g.frame.kind * 256 + g.frame.code), g.atTrap),
        (0x019, fun _ => g.frame.lanes, g.atTrap), (0x01A, fun _ => g.frame.addrL, g.atTrap), (0x01B, fun _ => g.frame.addrH, g.atTrap),
        (0x020, fun _ => w (g.rq.length * 65536 + (if g.frame.atIssue then 0 else g.frame.deliv * 256)), g.atTrap),
        (0x021, fun _ => w (g.frame.selEnt * 65536 + g.frame.selWord), g.atTrap),
        (0x022, fun _ => ((g.rq[g.frame.selEnt]?).map fun x => x.word g.frame.selWord).getD 0, g.atTrap),
        (0x024, fun _ => g.frame.pc.setWidth 32, g.atTrap), (0x025, fun _ => (g.frame.pc >>> 32).setWidth 32, g.atTrap),
        (0x040, fun _ => if u.req then w (2 ^ 31 + u.why * 2 ^ 28 + min (u.deadline - s.clock.toNat) 0x0FFFFFFF) else 0, true),
        (0x041, fun _ => s.clock.setWidth 32, true), (0x042, fun _ => g.clockLatch.getD ((s.clock >>> 32).setWidth 32), true),
        (0x044, fun _ => g.memlocQ.setWidth 32, true), (0x045, fun _ => (g.memlocQ >>> 32).setWidth 32, true),
        (0x046, fun _ => g.memlocR.setWidth 32, true), (0x047, fun _ => (g.memlocR >>> 32).setWidth 32, true),
        (0x048, fun _ => w ((if s.nospare || s.spent then 2 ^ 31 else 0) + (if s.awaits then 2 ^ 30 else 0) + (if s.degraded then 2 ^ 29 else 0)
          + ((List.range 48).filter s.retired).length * 2 ^ 20 + s.remaining % 2 ^ 20), true),
        (0x049, fun _ => w s.mhpois, true), (0x080, fun _ => (s.partOf u.part).deadline, true)] :
        List (Nat × (Nat → Word) × Bool)),
      i.2.2 = true → r.toNat = i.1 →
      ∃ t h, exec (.sysrd e d r) s = .next t ∧ s.Goes t e h ∧ g.ScalarWritten h s.run.slices d.toNat i.2.1 ∧ g.Moved h s.run.slices ∧
        h.clockLatch = (if i.1 = 0x041 then some ((s.clock >>> 32).setWidth 32) else g.clockLatch) ∧
        { h with paths := g.paths, sregs := g.sregs, banks := g.banks, clockLatch := g.clockLatch } = g) ∧
  (∀ (x : RqEntry) (l : Nat), l < 32 →
    let w := BitVec.ofNat 32
    let r := x.recOf (if x.insn.getLsbD 31 then l / 4 * 4 else l)
    (∀ i ∈ ([(0, w (2 ^ 31 + (if x.held then 2 ^ 30 else 0) + (if x.ref then 2 ^ 29 else 0) + x.code * 2 ^ 24 + x.slices.toNat * 2 ^ 16 + x.tag % 65536)),
        (1, x.insn), (2, x.lanes), (3, x.act), (4, x.pc.setWidth 32), (5, (x.pc >>> 32).setWidth 32), (6, x.rm.setWidth 32), (7, 0)] :
        List (Nat × Word)), x.word i.1 = i.2) ∧
    (x.act.getLsbD l = false → ∀ j, j < 8 → x.word (8 + 8 * l + j) = 0) ∧
    (x.act.getLsbD l = true → x.word (8 + 8 * l + 6) = w (r.code * 2 ^ 24 + r.kind * 2 ^ 20 + r.acc * 2 ^ 17) ∧ x.word (8 + 8 * l + 7) = 0 ∧
      ∀ i ∈ ([(0, r.addr.setWidth 32), (1, (r.addr >>> 32).setWidth 32), (2, r.d0), (3, r.d1), (4, r.d2), (5, r.d3)] : List (Nat × Word)),
        x.word (8 + 8 * l + i.1) = if x.ref then 0 else i.2)) ∧
  (∀ (s : State) (e : Bool) (a : BitVec 6), s.Issuing →
    let g := s.curGroup
    let v := g.sreg (lowSlice s.run.slices) a.toNat
    let off := fun (x : RqEntry) => { x with satOff := x.satOff ||| v }
    let cleared : Group := { g with satf := g.satf &&& ~~~v, rq := g.rq.map off, trq := g.trq.map off }
    ∀ i ∈ ([(.syswr e a 0x010, { g with fmode := v.setWidth 2 }, true), (.fmodeWrite e a, { g with fmode := v.setWidth 2 }, true),
        (.syswr e a 0x011, cleared, true), (.satfClear e a, cleared, true),
        (.syswr e a 0x044, { g with memlocQ := (g.memlocQ >>> 32).setWidth 32 ++ v }, true),
        (.syswr e a 0x021, { g with frame := { g.frame with selEnt := v.toNat / 65536 % 16, selWord := v.toNat % 512 } }, g.atTrap),
        (.syswr e a 0x024, { g with frame := { g.frame with pc := (g.frame.pc >>> 32).setWidth 32 ++ v } }, g.atTrap),
        (.syswr e a 0x025, { g with frame := { g.frame with pc := v ++ g.frame.pc.setWidth 32 } }, g.atTrap)] : List (Instr × Group × Bool)),
      i.2.2 = true →
      ∃ t h, exec i.1 s = .next t ∧ s.Goes t e h ∧ g.Walked h [a.toNat] ∧ g.Moved h s.run.slices ∧
        { h with paths := g.paths, streams := g.streams } = i.2.1) ∧
  (∀ (s : State) (e : Bool) (a : BitVec 6) (x : RqEntry), s.Issuing → s.curGroup.atTrap = true →
    let g := s.curGroup
    let v := g.sreg (lowSlice s.run.slices) a.toNat
    g.rq[g.frame.selEnt]? = some x →
    ∀ i ∈ ([(1, { x with insn := v }), (2, { x with lanes := v &&& x.act })] : List (Nat × RqEntry)), g.frame.selWord = i.1 →
      ∀ j ∈ ([.rqdataWrite e a, .syswr e a 0x022] : List Instr),
      ∃ t h, exec j s = .next t ∧ s.Goes t e h ∧ g.Walked h [a.toNat] ∧ g.Moved h s.run.slices ∧
        { h with paths := g.paths, streams := g.streams } = { g with rq := g.rq.set g.frame.selEnt i.2 }) ∧
  (∀ (s : State) (e : Bool) (a : BitVec 6), s.Issuing → (s.sysOperand a).getLsbD 28 = false →
    let g := s.curGroup
    let q : DWord := (s.sysOperand a &&& 0xF80FFFFF) ++ g.memlocQ.setWidth 32
    let va := q.toNat % 2 ^ 52
    let err := fun (k : Nat) => BitVec.ofNat 64 (2 ^ 63 + k * 2 ^ 60)
    let gives := fun (r : DWord) => ∀ j ∈ ([.memlocQuery e a, .syswr e a 0x045] : List Instr),
      ∃ t h, exec j s = .next t ∧ s.Goes t e h ∧ g.Walked h [a.toNat] ∧ g.Moved h s.run.slices ∧
        { h with paths := g.paths, streams := g.streams } = { g with
          memlocQ := (if 5 ≤ q.toNat / 2 ^ 61 then (q &&& 0x1FFFFFFFFFFFFFFF) ||| (g.memlocQ &&& 0xE000000000000000) else q)
          memlocR := r }
    (levelOf va ≠ .global → gives (err 2)) ∧
    ∀ x, levelOf va = .global → s.tlbFind s.curTeam.core s.curTeam.part s.curTeam.asid va .read = some x → x.check .read = none →
      let dpa := x.at_ va
      let pos := q.toNat / 2 ^ 61
      let cd := s.cadOf (parcelOf dpa)
      let l := if q.getLsbD 59 then cd.t.getD cd.a else cd.a
      let c := l.col pos (lineIn dpa)
      (isLocal dpa = false → gives (err 2)) ∧
      (isLocal dpa = true → 5 ≤ pos → gives (err 4)) ∧
      (isLocal dpa = true → pos < 5 → q.getLsbD 59 = true → cd.state = 0 → gives (err 5)) ∧
      (isLocal dpa = true → pos < 5 → (q.getLsbD 59 = false ∨ cd.state ≠ 0) →
        gives (BitVec.ofNat 64 (2 ^ 63 + cd.state * 2 ^ 58 + roleOf (lineIn dpa) pos * 2 ^ 55 + (if s.dropped c then 2 ^ 54 else 0)
          + c.stack * 2 ^ 48 + c.p / 2 * 2 ^ 43 + c.p % 2 * 2 ^ 42 + c.bank * 2 ^ 37 + c.row * 2 ^ 23 + c.unit * 2 ^ 17 + cd.version % 65536)))) ∧
  ∀ (s : State) (e : Bool) (a : BitVec 6), s.Alone → s.Trappable s.run.slices → (s.sysOperand a).getLsbD 28 = true → s.curTeam.vf ≠ 127 →
    ∀ j ∈ ([.memlocQuery e a, .syswr e a 0x045] : List Instr),
      ∃ t, exec j s = .next t ∧ s.Traps t s.run.slices .priv 0 0 0 (s.curGroup.pathOf s.run.slices).pc

/-- R122 to R127, R329 to R334, R486: `ld` and `ld.acq` of lanes whose bytes lie in a scratchpad. Nothing of the machine
changes but the group and the partition's capture unit (R476): the destination registers of the active lanes take the bytes,
extended as the size says, and every other register, every flag and every byte stays; an acquire of cluster scope or wider
then acquires for its core. With no active lane there is no access.
R20, R36, R122, R132, R133: the same of a lane whose bytes lie in local memory, by a global or a lane-private address whose
translation is held: where L1 holds them VALID, the register takes them from there and the line becomes the most recent one of
its set; where L1 does not hold the line, and its home slice on the team's die holds it whole, it is loaded into L1 and the
register takes the home's bytes; an acquire load of cluster scope or wider reads them at the home slice, leaves no line in L1, and
then acquires for its core.
The model's own choices in it: logs 12, 60 and 83. -/
def Obligations.LaneLoads : Prop :=
  ∀ (s : State) (e : Bool) (k : BitVec 3) (d a : BitVec 7) (b : BitVec 4) (z sc : BitVec 3), s.Free .ld →
    let g := s.curGroup
    let act := g.act s.run.slices k.toNat
    ∀ i ∈ ([(.ld e k d a b z, fun l => g.spair (l / 4) (2 * b.toNat) + (g.vreg a.toNat l).signExtend 64, false),
        (.ldAcq e k d a z sc, fun l => g.vreg (a.toNat + 1) l ++ g.vreg a.toNat l, decide (2 ≤ sc.toNat))] :
        List (Instr × (Nat → DWord) × Bool)),
      wellFormed i.1 = true →
      (act = 0 → ∃ t h, exec i.1 s = .next t ∧ s.Goes t e h ∧ g.Moved h s.run.slices ∧ { h with paths := g.paths } = g) ∧
      (∀ (chip : Bool) (c : Nat) (at_ : Nat → Nat), act ≠ 0 →
        let n := (sizes.getD z.toNat (0, 0)).1
        s.Reaches .read n act i.2.1 chip c at_ →
        ∃ t h, exec i.1 s = .next (if i.2.2 then t.acquireCore s.curTeam.core else t) ∧
          (s.capture s.curTeam.part 0 0).Goes t e h ∧
          g.Loaded h s.run.slices act .ld d.toNat (sizes.getD z.toNat (0, 0)).2
            fun l j => loadWord z.toNat (Mem.readNat (s.pad chip c) (at_ l) n) j) ∧
      ∀ l a, let n := (sizes.getD z.toNat (0, 0)).1
        s.Finds .read n act i.2.1 l a →
        let c := s.coreOf s.curCore
        let p := s.curTeam.part
        let line := a / 128
        let m := maskAt (a % 128) n
        let ends := fun (s1 : State) (v : BitVec 1024) (acq : Bool) => ∃ t h,
          exec i.1 s = .next (if acq then t.acquireCore s.curCore else t) ∧ (s1.capture p 0 0).Goes t e h ∧
            g.Loaded h s.run.slices act .ld d.toNat (sizes.getD z.toNat (0, 0)).2 fun _ j => loadWord z.toNat (bytesAt v (a % 128) n) j
        (∀ w, i.2.2 = false → c.l1Find line = some w → m &&& ~~~(c.l1Line line w).valid = 0 →
          ends ((s.count p 0x10 1).updCore s.curCore fun c => c.l1Touch line w) (c.l1Line line w).data false) ∧
        (∀ w, i.2.2 = false → c.l1Find line = none → (c.l1Line line (c.l1Pick line)).dirty = 0 → s.HomeHas line w →
          s.homeOf line / 128 = s.curCore / 64 →
          ends ((s.count p 0x11 1).l1Load s.curCore line m s.curTeam.vf).1 (s.l2Line (s.homeOf line) line w).data false) ∧
        ∀ w, i.2.2 = true → c.l1Find line = none → s.HomeHas line w →
          ends ((s.countHome s.curTeam.vf true).l2Touch (s.homeOf line) line w true) (s.l2Line (s.homeOf line) line w).data true

/-- R157, R329 to R334: `st` and `st.rel` of lanes whose bytes lie in a scratchpad, the release from a core with nothing to
write back, which at pod scope sends the host a read of length 0 (R188): the bytes of the active lanes are stored, and every other
byte, register and flag stays.
R20, R36, R122, R133, R334: the same of a lane whose bytes lie in local memory, by a global or a lane-private address whose translation
is held: a store, and a release below cluster scope, puts its bytes into L1, VALID and DIRTY, with no fetch; a release of cluster
scope or wider writes them through to the home slice, which holds the line whole, and over what L1 holds VALID of them.
The model's own choices in it: logs 3, 12, 37, 60 and 83. -/
def Obligations.LaneStores : Prop :=
  ∀ (s : State) (e : Bool) (k : BitVec 3) (d a : BitVec 7) (b : BitVec 4) (z sc : BitVec 3), s.Free .st →
    let g := s.curGroup
    let act := g.act s.run.slices k.toNat
    ∀ i ∈ ([(.st e k d a b z, fun l => g.spair (l / 4) (2 * b.toNat) + (g.vreg a.toNat l).signExtend 64, true),
        (.stRel e k d a z sc, fun l => g.vreg (a.toNat + 1) l ++ g.vreg a.toNat l, false)] : List (Instr × (Nat → DWord) × Bool)),
      wellFormed i.1 = true → (i.2.2 = true ∨ s.Clean s.curCore) →
      (act = 0 → ∃ t h, exec i.1 s = .next t ∧ s.Goes t e h ∧ g.Moved h s.run.slices ∧ { h with paths := g.paths } = g) ∧
      (∀ (chip : Bool) (c : Nat) (at_ : Nat → Nat), act ≠ 0 →
        let n := (sizes.getD z.toNat (0, 0)).1
        s.Reaches .write n act i.2.1 chip c at_ →
        ∃ t h m, exec i.1 s = .next t ∧ (if i.2.2 then s else s.zeroRead sc.toNat).PadGoes t e h chip c m ∧ g.Stored h s.run.slices [] ∧
          StoresTo (s.pad chip c) m n act at_ fun l => (g.vreg d.toNat l).toNat + 2 ^ 32 * (g.vreg (d.toNat + 1) l).toNat
            + 2 ^ 64 * (g.vreg (d.toNat + 2) l).toNat + 2 ^ 96 * (g.vreg (d.toNat + 3) l).toNat) ∧
      ∀ l a, let n := (sizes.getD z.toNat (0, 0)).1
        s.Finds .write n act i.2.1 l a →
        let c := s.coreOf s.curCore
        let line := a / 128
        let m := maskAt (a % 128) n
        let v := ((g.vreg d.toNat l).toNat + 2 ^ 32 * (g.vreg (d.toNat + 1) l).toNat + 2 ^ 64 * (g.vreg (d.toNat + 2) l).toNat
          + 2 ^ 96 * (g.vreg (d.toNat + 3) l).toNat) % 2 ^ (8 * n)
        let ends := fun (s1 : State) => ∃ t h, exec i.1 s = .next t ∧ s1.Goes t e h ∧ g.Stored h s.run.slices []
        (i.2.2 = true ∨ sc.toNat < 2 →
          (∀ w, c.l1Find line = some w →
            let x := c.l1Line line w
            ends (s.updCore s.curCore fun c => (c.l1Touch line w).setL1 line w
              { x with data := mergeLine x.data (lineAt (a % 128) v) m, valid := x.valid ||| m, dirty := x.dirty ||| m })) ∧
          (c.l1Find line = none → (c.l1Line line (c.l1Pick line)).dirty = 0 →
            ends (s.l1Store s.curCore line m (lineAt (a % 128) v) s.curTeam.vf))) ∧
        ∀ w, i.2.2 = false → 2 ≤ sc.toNat → s.HomeHas line w → s.Unwatched (.mem line) s.run.uid s.run.grp → s.NoWatch line →
          ends ((((s.zeroRead sc.toNat).writeHome a n v s.curTeam.vf 0 1 s.run.uid s.run.grp)).l1Through s.curCore line m (lineAt (a % 128) v))

/-- R172, R173, R336 to R338: `atom` and `red` of lanes whose bytes lie in a scratchpad, each in ascending order of its lanes:
a lane of `atom` receives what it found, and memory takes the operation's new value; in a transaction either ends it with
cause UNSUP.
R122, R338: the same of a lane whose bytes lie in local memory, by an address whose translation is held: at group or team scope it
is performed on the line in L1, which becomes DIRTY there; at a wider scope, where L1 does not hold the line, at its home slice,
which here holds the line whole.
The model's own choices in it: logs 12 and 60. -/
def Obligations.LaneAtomics : Prop :=
  (∀ (s : State) (e : Bool) (k : BitVec 3) (d a : BitVec 7) (o : BitVec 4) (sc : BitVec 3) (chip : Bool) (c : Nat)
    (at_ : Nat → Nat),
    let g := s.curGroup
    let act := g.act s.run.slices k.toNat
    let n := (atomics.getD o.toNat (0, fun _ _ _ => 0)).1
    let val := fun l => (g.vreg d.toNat l).toNat + 2 ^ 32 * (g.vreg (d.toNat + 1) l).toNat
      + 2 ^ 64 * (g.vreg (d.toNat + 2) l).toNat + 2 ^ 96 * (g.vreg (d.toNat + 3) l).toNat
    let new := fun l old => (atomics.getD o.toNat (0, fun _ _ _ => 0)).2 old (val l % 2 ^ (8 * n)) (val l / 2 ^ (8 * n) % 2 ^ (8 * n))
    act ≠ 0 → s.Reaches .atomic n act (fun l => g.vreg (a.toNat + 1) l ++ g.vreg a.toNat l) chip c at_ →
    (s.Free .ld → wellFormed (.atom e k d a o sc) = true →
      ∃ t h m ms, exec (.atom e k d a o sc) s = .next t ∧ s.PadGoes t e h chip c m ∧ AtomicsTo (s.pad chip c) m n act at_ new ms ∧
        g.Loaded h s.run.slices act .ld d.toNat (n / 4) fun l j => BitVec.ofNat 32 (Mem.readNat (ms l) (at_ l) n / 2 ^ (32 * j))) ∧
    (s.Free .st → wellFormed (.red e k d a o sc) = true →
      ∃ t h m ms, exec (.red e k d a o sc) s = .next t ∧ s.PadGoes t e h chip c m ∧ AtomicsTo (s.pad chip c) m n act at_ new ms ∧
        g.Stored h s.run.slices [])) ∧
  ∀ (s : State) (e : Bool) (k : BitVec 3) (d a : BitVec 7) (o : BitVec 4) (sc : BitVec 3),
    let act := s.curGroup.act s.run.slices k.toNat
    (∀ l x, let n := (atomics.getD o.toNat (0, fun _ _ _ => 0)).1
      s.Finds .atomic n act (fun l => s.curGroup.vreg (a.toNat + 1) l ++ s.curGroup.vreg a.toNat l) l x →
      let g := s.curGroup
      let c := s.coreOf s.curCore
      let line := x / 128
      let m := maskAt (x % 128) n
      let val := (g.vreg d.toNat l).toNat + 2 ^ 32 * (g.vreg (d.toNat + 1) l).toNat + 2 ^ 64 * (g.vreg (d.toNat + 2) l).toNat
        + 2 ^ 96 * (g.vreg (d.toNat + 3) l).toNat
      let new := fun old => (atomics.getD o.toNat (0, fun _ _ _ => 0)).2 old (val % 2 ^ (8 * n)) (val / 2 ^ (8 * n) % 2 ^ (8 * n))
      let ends := fun (s1 : State) (old : Nat) =>
        (s.Free .ld → wellFormed (.atom e k d a o sc) = true → ∃ t h, exec (.atom e k d a o sc) s = .next t ∧ s1.Goes t e h ∧
          g.Loaded h s.run.slices act .ld d.toNat (n / 4) fun _ j => BitVec.ofNat 32 (old / 2 ^ (32 * j))) ∧
        (s.Free .st → wellFormed (.red e k d a o sc) = true → ∃ t h, exec (.red e k d a o sc) s = .next t ∧ s1.Goes t e h ∧
          g.Stored h s.run.slices [])
      (∀ w, sc.toNat < 2 → c.l1Find line = some w → widen m &&& ~~~(c.l1Line line w).valid = 0 →
        let old := bytesAt (c.l1Line line w).data (x % 128) n
        ends ((s.l1Load s.curCore line (widen m) s.curTeam.vf).1.l1Store s.curCore line m (lineAt (x % 128) (new old)) s.curTeam.vf) old) ∧
      ∀ w, 2 ≤ sc.toNat → c.l1Find line = none → s.HomeHas line w → s.Unwatched (.mem line) s.run.uid s.run.grp → s.NoWatch line →
        let old := bytesAt (s.l2Line (s.homeOf line) line w).data (x % 128) n
        ends (((s.countHome s.curTeam.vf true).l2Touch (s.homeOf line) line w true).writeHome x n (new old) s.curTeam.vf 0 2
          s.run.uid s.run.grp) old) ∧
    (act = 0 → (s.Free .ld → ∃ t h, exec (.atom e k d a o sc) s = .next t ∧ s.Goes t e h ∧ s.curGroup.Moved h s.run.slices ∧ { h with paths := s.curGroup.paths } = s.curGroup) ∧
      (s.Free .st → ∃ t h, exec (.red e k d a o sc) s = .next t ∧ s.Goes t e h ∧ s.curGroup.Moved h s.run.slices ∧ { h with paths := s.curGroup.paths } = s.curGroup)) ∧
    (act ≠ 0 → s.curGroup.inTx = true → ∀ i ∈ ([.atom e k d a o sc, .red e k d a o sc] : List Instr),
      s.curGroup.queueFull ((s.curGroup.issuers s.run.slices).filter fun sl => s.curGroup.act sl k.toNat != 0).length = false →
      exec i s = .next (s.txFail s.run.uid s.run.grp 7 0))

/-- R296 to R298, R357: the scalar loads, stores and atomics whose bytes lie in a scratchpad, each live issuing slice making
one access: results reach the copies of those slices, bytes the addressed places, and nothing else changes.
The model's own choices in it: log 12. -/
def Obligations.ScalarMemory : Prop :=
  ∀ (s : State) (e : Bool) (d a b : BitVec 6) (i : BitVec 12) (o p : BitVec 3) (chip : Bool) (c : Nat) (at_ : Nat → Nat),
    let g := s.curGroup
    let on := s.run.slices &&& g.live
    let act := firstLanes on
    let imm := fun l => g.spair (l / 4) a.toNat + i.signExtend 64
    on ≠ 0 →
    (s.Free .ld → ∀ x ∈ ([(.ldsB32 e d a i, 4), (.ldsB64 e d a i, 8)] : List (Instr × Nat)), wellFormed x.1 = true →
      s.Reaches .read x.2 act imm chip c at_ →
      ∃ t h, exec x.1 s = .next t ∧ (s.capture s.curTeam.part 0 0).Goes t e h ∧
        g.LoadedS h s.run.slices on [] d.toNat (x.2 / 4)
          fun k j => BitVec.ofNat 32 (Mem.readNat (s.pad chip c) (at_ (4 * k)) x.2 / 2 ^ (32 * j))) ∧
    (s.Free .st → ∀ x ∈ ([(.stsB32 e d a i, 4, [d.toNat]), (.stsB64 e d a i, 8, [])] : List (Instr × Nat × List Nat)), wellFormed x.1 = true →
      s.Reaches .write x.2.1 act imm chip c at_ →
      ∃ t h m, exec x.1 s = .next t ∧ s.PadGoes t e h chip c m ∧ g.Stored h s.run.slices x.2.2 ∧
        StoresTo (s.pad chip c) m x.2.1 act at_
          fun l => (g.sreg (l / 4) d.toNat).toNat + (if x.2.1 = 8 then 2 ^ 32 * (g.sreg (l / 4) (d.toNat + 1)).toNat else 0)) ∧
    (s.Free .ld → wellFormed (.satom e d a b o p) = true → s.Reaches .atomic 4 act (fun l => g.spair (l / 4) a.toNat) chip c at_ →
      ∃ t h m ms, exec (.satom e d a b o p) s = .next t ∧ s.PadGoes t e h chip c m ∧
        AtomicsTo (s.pad chip c) m 4 act at_
          (fun l old => (atomics.getD (scalarAtomics.getD o.toNat 0) (0, fun _ _ _ => 0)).2 old (g.sreg (l / 4) b.toNat).toNat
            (g.sreg (l / 4) (b.toNat + 1)).toNat) ms ∧
        g.LoadedS h s.run.slices on (if o = 2 then [] else [b.toNat]) d.toNat 1
          fun k _ => BitVec.ofNat 32 (Mem.readNat (ms (4 * k)) (at_ (4 * k)) 4))

/-- R212, R332, R335: a prefetch writes no register and raises nothing: in a transaction, and where no active lane finds a line
of local memory that may be read, it only goes on; else it fetches the lines found, one after the other, into L2, and at level
0 into L1 as well, and it waits while one of them is locked. A held translation that permits the read finds the line.
The model's own choices in it: logs 19 and 76. -/
def Obligations.Prefetches : Prop :=
  ∀ (s : State) (e : Bool) (k : BitVec 3) (a : BitVec 7) (b : BitVec 4) (lv : BitVec 3), s.Calm →
    let g := s.curGroup
    let at_ := fun l => s.prefetchAt s.run.uid s.run.grp l (g.spair (l / 4) (2 * b.toNat) + (g.vreg a.toNat l).signExtend 64).toNat
    (g.inTx = true ∨ (∀ l, l < 32 → (g.act s.run.slices k.toNat).getLsbD l = true → at_ l = (s, none)) →
      ∃ t h, exec (.pfx e k a b lv) s = .next t ∧ s.Goes t e h ∧ g.Moved h s.run.slices ∧ { h with paths := g.paths } = g) ∧
    (g.inTx = false → ∀ j d s1, j < 32 → at_ j = (s1, some d) →
      (∀ l, l < 32 → ((g.act s.run.slices k.toNat).getLsbD l = true ↔ l = j)) →
      s1.blocked (d / 128) s.run.uid s.run.grp = false → s1.l1Stuck s.curCore (d / 128) = false →
      exec (.pfx e k a b lv) s = .next (State.retire
        (if lv = 0 then (s1.l1Load s.curCore (d / 128) (BitVec.allOnes 128) s1.curTeam.vf).1
         else (s1.readLine (s.curCore / 64) (d / 128) s1.curTeam.vf 0).1) e)) ∧
    (g.inTx = false → ∀ f : Nat → Option Nat, (∀ l, l < 32 → (g.act s.run.slices k.toNat).getLsbD l = true → at_ l = (s, f l)) →
      let lines := ((laneList (g.act s.run.slices k.toNat)).filterMap f).map (· / 128)
      if ∃ n ∈ lines, s.blocked n s.run.uid s.run.grp = true ∨ (lv = 0 ∧ s.l1Stuck s.curCore n = true) then exec (.pfx e k a b lv) s = .next s
      else exec (.pfx e k a b lv) s = .next (State.retire (lines.foldl (fun s n =>
        if lv = 0 then (s.l1Load s.curCore n (BitVec.allOnes 128) s.curTeam.vf).1 else (s.readLine (s.curCore / 64) n s.curTeam.vf 0).1) s) e)) ∧
    ∀ (u l va : Nat) (x : Tlb), (∃ ga, va < 2 ^ 52 ∧ s.spot u s.run.grp l va 1 .read = .global [(ga, 1)] ∧
      s.tlbFind (s.teamOf u).core (s.teamOf u).part (s.teamOf u).asid ga .read = some x ∧ x.check .read = none ∧ isLocal (x.at_ ga) = true) →
      ∃ d, s.prefetchAt u s.run.grp l va = (s, some d)

/-- R137 to R140, R142, R343, R344: the buffer instructions of a path that issues alone, on an entry that nobody watches, from
a core with nothing to write back: arming, the region and the release change the entry and nothing else; an arrival is sent
to its team's network; a wait goes on, with the acquire of its core, while PHASE differs from bit 0 of its register and
sleeps while it does not; the two reads give words 0 and 1; a handle at or above BUFCNT raises PROT.
R139, R140, R143: the next arrival of a cluster's network is taken off it and applied to the entry of its team; one for a
team or a handle that is not there counts in BUFSTRAY.
The model's own choices in it: log 24. -/
def Obligations.Buffers : Prop :=
  (∀ (s : State) (e : Bool) (d a i : BitVec 6), s.Alone → s.curGroup.inTx = false → s.Clean s.curCore → s.run.uid < 2 ^ 32 →
    let g := s.curGroup
    let k := s.curTeam.bufBase + i.toNat
    let b := Sparse.get {} (s.coreOf s.curCore).bufs k
    let low := lowSlice s.run.slices
    let v := (g.sreg low a.toNat).toNat
    let set := fun (b : Buf) => s.updCore s.curCore fun c => { c with bufs := Sparse.set {} c.bufs k b }
    (i.toNat < s.curTeam.bufCnt →
      (s.Unwatched (.buf s.curCore k) s.run.uid s.run.grp →
        (v < 2 ^ 20 → ∃ t h, exec (.bufArm e a i) s = .next t ∧
          (set (if b.state ≠ 0 ∧ b.state ≠ 2 then { b with err := true }
            else if v ≤ b.arr then { b with exp := v, err := false, arr := b.arr - v, phase := !b.phase, state := 2 }
            else { b with exp := v, err := false, state := 1 })).Goes t e h ∧
          g.Moved h s.run.slices ∧ g.Walked h [a.toNat] ∧ { h with paths := g.paths, streams := g.streams } = g) ∧
        (∃ t h, exec (.bufRel e i) s = .next t ∧ (set (if b.state = 2 then { b with state := 0 } else b)).Goes t e h ∧
          g.Moved h s.run.slices ∧ { h with paths := g.paths } = g) ∧
        (v < 2 ^ 30 → 1 ≤ v % 2 ^ 15 → v / 2 ^ 15 + v % 2 ^ 15 ≤ s.curTeam.spSize * 16 → ∃ t h, exec (.bufRgn e a i) s = .next t ∧
          (set (if b.state = 1 ∨ b.state = 3 then { b with err := true } else { b with off := v / 2 ^ 15, size := v % 2 ^ 15 })).Goes t e h ∧
          g.Moved h s.run.slices ∧ g.Walked h [a.toNat] ∧ { h with paths := g.paths, streams := g.streams } = g)) ∧
      (v < 2 ^ 20 →
        let rank := (g.sreg low d.toNat).toNat % 4
        let dest := (s.rankTeam s.run.uid rank).getD (2 ^ 32 + (s.curCore / 4 * 4 + rank))
        ∀ x ∈ ([(.bufArrive e a i, s.run.uid, [a.toNat]), (.bufArriveCl e d a i, dest, [a.toNat, d.toNat])] :
            List (Instr × Nat × List Nat)),
          ∃ t h, exec x.1 s = .next t ∧
            ({ s with arrivals := s.arrivals ++ [((if x.2.1 < 2 ^ 32 then (s.teamOf x.2.1).core else x.2.1 - 2 ^ 32) / 4, x.2.1, i.toNat, v, false)] } :
              State).Goes t e h ∧
            g.Moved h s.run.slices ∧ g.Walked h x.2.2 ∧ { h with paths := g.paths, streams := g.streams } = g) ∧
      (b.phase ≠ v.testBit 0 → ∃ t h, exec (.bufWait e a i) s = .next t ∧ (s.acquireCore s.curCore).Goes t e h ∧
        g.Moved h s.run.slices ∧ g.Walked h [a.toNat] ∧
        { h with paths := g.paths, streams := g.streams } = { g with tx := { g.tx with fails := 0, slept := false } }) ∧
      (b.phase = v.testBit 0 → ∃ t ovf, exec (.bufWait e a i) s = .next t ∧ t.run = {} ∧ t.cores = s.cores ∧
        (t.groupOf s.run.uid s.run.grp).paths = g.paths.map fun p => if p.slices &&& s.run.slices != 0 then
          { p with pc := p.pc + 4, exempt := false, stop := .asleep s.clock.toNat (.buf s.curCore k) b.phase ovf } else p) ∧
      ∀ x ∈ ([(.bufStat e d i, (if b.phase then 2 ^ 29 else 0) + (if b.err then 2 ^ 28 else 0) + b.owner * 2 ^ 25 + b.exp + b.state * 2 ^ 30),
          (.bufCount e d i, b.arr)] : List (Instr × Nat)),
        ∃ t h, exec x.1 s = .next t ∧ s.Goes t e h ∧ g.ScalarResult h s.run.slices [] d.toNat fun _ => BitVec.ofNat 32 x.2) ∧
    (s.curTeam.bufCnt ≤ i.toNat → s.Trappable s.run.slices →
      ∀ x ∈ ([.bufArm e a i, .bufArrive e a i, .bufArriveCl e d a i, .bufWait e a i, .bufRel e i, .bufRgn e a i, .bufStat e d i,
          .bufCount e d i] : List Instr),
        ∃ t, exec x s = .next t ∧ s.Traps t s.run.slices .prot 0 0 0 (g.pathOf s.run.slices).pc)) ∧
  (∀ (s : State) (cl c u i n : Nat) (err : Bool), s.arrivals.find? (fun a => a.1 == cl) = some (c, u, i, n, err) →
    let s0 : State := { s with arrivals := s.arrivals.erase (c, u, i, n, err) }
    let w := s.teamOf u
    let k := w.bufBase + i
    let b := Sparse.get {} (s.coreOf w.core).bufs k
    (u < 2 ^ 32 → (w.place = .resident ∨ w.place = .stopping) → i < w.bufCnt → s.Unwatched (.buf w.core k) (2 ^ 32) 0 →
      let sum := min (b.arr + n) (2 ^ 20 - 1)
      let lost := err || b.err || decide (2 ^ 20 ≤ b.arr + n)
      let b' : Buf := if b.state = 3 then { b with err := true }
        else if b.state = 1 ∧ b.exp ≤ sum then { b with arr := sum - b.exp, err := lost, phase := !b.phase, state := 2 }
        else { b with arr := sum, err := lost }
      exec (.bufferArrival cl) s = .next (s0.updCore w.core fun x => { x with bufs := Sparse.set {} x.bufs k b' })) ∧
    (2 ^ 32 ≤ u ∨ (w.place ≠ .resident ∧ w.place ≠ .stopping) ∨ w.bufCnt ≤ i →
      exec (.bufferArrival cl) s = .next (s0.updCore (if 2 ^ 32 ≤ u then u - 2 ^ 32 else w.core) fun x => { x with stray := x.stray + 1 })))

/-- R137, R148 to R150, R354: `tid.set` stores the sixteen registers of the path's lowest slice in the identifier's entry, with
VALID saying whether they are well formed, and gives VALID; `tid.rd` gives a word; `tid.inv` clears VALID; an identifier at or
above TIDCNT raises PROT. -/
def Obligations.TensorIdentifiers : Prop :=
  ∀ (s : State) (e : Bool) (d a i : BitVec 6) (j : BitVec 3), s.Alone →
    let g := s.curGroup
    let k := s.curTeam.tidBase + i.toNat
    let x := Sparse.get {} (s.coreOf s.curTeam.core).tids k
    let set := fun (x : Tid) => s.updCore s.curTeam.core fun c => { c with tids := Sparse.set {} c.tids k x }
    let w := fun j => g.spair (lowSlice s.run.slices) (a.toNat + 2 * j)
    let y : Tid := { w0 := w 0, w1 := w 1 &&& ~~~1, w2 := w 2, w3 := w 3, w4 := w 4, w5 := w 5, w6 := w 6, w7 := w 7 }
    (i.toNat < s.curTeam.tidCnt →
      (∃ t h, exec (.tidSet e d a i) s = .next t ∧ (set { y with w1 := if y.wellFormed then y.w1 ||| 1 else y.w1 }).Goes t e h ∧
        g.ScalarResult h s.run.slices [] d.toNat fun _ => if y.wellFormed then 1 else 0) ∧
      (d.toNat % 2 = 0 → ∃ t h, exec (.tidRd e d j i) s = .next t ∧ s.Goes t e h ∧
        g.ScalarsWritten h s.run.slices d.toNat 2
          (fun _ n => BitVec.ofNat 32 ((([x.w0, x.w1, x.w2, x.w3, x.w4, x.w5, x.w6, x.w7] : List DWord).getD j.toNat 0).toNat / 2 ^ (32 * n))) ∧
        g.Moved h s.run.slices ∧ { h with sregs := g.sregs, banks := g.banks, paths := g.paths } = g) ∧
      ∃ t h, exec (.tidInv e i) s = .next t ∧ (set { x with w1 := x.w1 &&& ~~~1 }).Goes t e h ∧ g.Moved h s.run.slices ∧
        { h with paths := g.paths } = g) ∧
    (s.curTeam.tidCnt ≤ i.toNat → s.Trappable s.run.slices →
      ∀ p ∈ ([.tidSet e d a i, .tidRd e d j i, .tidInv e i] : List Instr),
        ∃ t, exec p s = .next t ∧ s.Traps t s.run.slices .prot 0 0 0 (g.pathOf s.run.slices).pc)

/-- R356 to R358: binding a stream gives the register a walk of a valid identifier shorter than 2^32, from its first tuple;
unbinding leaves 0 in every slice; `str.peek` gives the offset without advancing; `str.seek` sets the position; what is not
bound, not valid or outside the walk raises PROT. -/
def Obligations.Streams : Prop :=
  ∀ (s : State) (e : Bool) (n d i a : BitVec 6), s.Alone → 48 ≤ n.toNat → n.toNat < 56 →
    let g := s.curGroup
    let x := Sparse.get {} (s.coreOf s.curTeam.core).tids (s.curTeam.tidBase + i.toNat)
    let only := fun (h : Group) (st : Stream) => h.streamOf n.toNat = st ∧ ∀ m, m ≠ n.toNat → h.streamOf m = g.streamOf m
    let p := (g.sreg (lowSlice s.run.slices) a.toNat).toNat
    (∀ q ∈ ([(.strBind e n i, false), (.strBindE e n i, true)] : List (Instr × Bool)),
      let st : Stream := { bound := true, tid := x, elem := q.2 }
      (i.toNat < s.curTeam.tidCnt → x.valid = true → st.total < 2 ^ 32 →
        ∃ t h, exec q.1 s = .next t ∧ s.Goes t e h ∧ only h st ∧ g.Moved h s.run.slices ∧ { h with streams := g.streams, paths := g.paths } = g) ∧
      (s.curTeam.tidCnt ≤ i.toNat ∨ x.valid = false ∨ 2 ^ 32 ≤ st.total → s.Trappable s.run.slices →
        ∃ t, exec q.1 s = .next t ∧ s.Traps t s.run.slices .prot 0 0 0 (g.pathOf s.run.slices).pc)) ∧
    (∃ t h, exec (.strUnbind e n) s = .next t ∧ s.Goes t e h ∧ only h {} ∧ g.Moved h s.run.slices ∧
      (∀ k m, k < 8 → m < 64 → h.copy k m = if m = n.toNat then 0 else g.copy k m) ∧
      { h with streams := g.streams, paths := g.paths, sregs := g.sregs } = g) ∧
    (∃ t h, exec (.strPeek e d n) s = .next t ∧ s.Goes t e h ∧
      g.ScalarResult h s.run.slices [] d.toNat fun _ => if g.bound n.toNat then (g.streamOf n.toNat).offset else 0) ∧
    ((g.streamOf n.toNat).bound = true → p < (g.streamOf n.toNat).total →
      ∃ t h, exec (.strSeek e n a) s = .next t ∧ s.Goes t e h ∧ h.streamOf n.toNat = { g.streamOf n.toNat with pos := p, flags := 0 } ∧
        (∀ m, m ≠ n.toNat → h.streamOf m = if m = a.toNat ∧ g.bound m = true then (g.streamOf m).advance else g.streamOf m) ∧
        g.Moved h s.run.slices ∧ { h with streams := g.streams, paths := g.paths } = g) ∧
    ((g.streamOf n.toNat).bound = false ∨ (g.streamOf n.toNat).total ≤ p → s.Trappable s.run.slices →
      ∃ t, exec (.strSeek e n a) s = .next t ∧ s.Traps t s.run.slices .prot 0 0 0 (g.pathOf s.run.slices).pc)

/-- R184, R212, R295: `trig` marks its slices; while a slice of the group has neither triggered nor exited, or where the group
has contributed before, nothing else happens; with the last one the group contributes, once. In a transaction it ends it. -/
def Obligations.Triggers : Prop :=
  ∀ (s : State) (e : Bool),
    let g := s.curGroup
    (g.inTx = true → exec (.trig e) s = .next (s.txFail s.run.uid s.run.grp 7 0)) ∧
    (s.run.on = true → g.inTx = false → s.Clean s.curCore →
      (g.live &&& ~~~(g.trigged ||| s.run.slices) ≠ 0 ∨ g.contributed = true →
        ∃ t h, exec (.trig e) s = .next t ∧ s.Goes t e h ∧ g.Moved h s.run.slices ∧ h.trigged = g.trigged ||| s.run.slices ∧
          { h with trigged := g.trigged, paths := g.paths } = g) ∧
      (g.live &&& ~~~(g.trigged ||| s.run.slices) = 0 → g.contributed = false → (∀ x ∈ s.launches, x.1 ≠ s.curTeam.launch) →
        ∃ t h, exec (.trig e) s = .next t ∧ s.Goes t e h ∧ g.Moved h s.run.slices ∧ h.trigged = g.trigged ||| s.run.slices ∧
          h.contributed = true ∧ { h with trigged := g.trigged, contributed := g.contributed, paths := g.paths } = g) ∧
      ∀ l, g.live &&& ~~~(g.trigged ||| s.run.slices) = 0 → g.contributed = false → s.launchOf s.curTeam.launch = some l →
        s.curTeam.node < l.nodes.length → (l.nodes.getD s.curTeam.node {}).contrib + 1 ≠
          (l.nodes.getD s.curTeam.node {}).teams * (l.nodes.getD s.curTeam.node {}).groups →
        (∀ x ∈ l.nodes, (x.started = true ∨ x.c ≠ 0) ∧ x.reading = false) →
        ∃ t l', exec (.trig e) s = .next t ∧ t.launchOf s.curTeam.launch = some l' ∧
          l'.nodes = l.nodes.mapIdx (fun j x => if j = s.curTeam.node then { x with contrib := x.contrib + 1 } else x) ∧
          (t.groupOf s.run.uid s.run.grp).contributed = true ∧
          { t with teams := s.teams, runs := s.runs, launches := s.launches } = s)

/-- R127, R346, R349: `cpy` of a command that its checks accept puts it in the ring's next free slot and its eight words in
that slot's bytes, gives the slot's number, and its operation counts in cp; one that they refuse raises the trap of the check;
a full counter or a full ring holds the instruction. A reserved field that is not zero, a reserved mode or kind, or a handle or
identifier out of its field is refused with PROT.
The model's own choices in it: log 12. -/
def Obligations.CopyPosts : Prop :=
  (∀ (s : State) (e : Bool) (d a : BitVec 6), s.Alone → s.curGroup.inTx = false → s.Clean s.curCore →
    let g := s.curGroup
    let u := s.run.uid
    let team := s.curTeam
    (62 ≤ g.counters.value .cp ∨ 32 ≤ team.ring.length → exec (.cpy e d a) s = .next s) ∧
    (g.counters.value .cp < 62 → team.ring.length < 32 →
      (∀ c slot, s.copyCheck u (g.copyWords s.run.slices a.toNat) = .ok c →
        ((List.range 32).map fun k => (team.ringNext + k) % 32).find? (fun k => !(team.ring.any fun r => r.1 == k)) = some slot →
        ∃ t h m, exec (.cpy e d a) s = .next t ∧
          { t with teams := s.teams, runs := s.runs, cores := s.cores } = s ∧ s.Counted t e ∧
          (∀ v, v ≠ u → t.teamOf v = s.teamOf v) ∧
          { t.teamOf u with groups := team.groups, ring := team.ring, ringNext := team.ringNext, posts := team.posts } = team ∧
          (t.teamOf u).ringNext = (slot + 1) % 32 ∧ (t.teamOf u).posts = team.posts + 1 ∧
          (∀ k, Sparse.get {} (t.teamOf u).ring k = if k = slot then { c with grp := s.run.grp, post := team.posts, time := s.clock.toNat }
            else Sparse.get {} team.ring k) ∧
          (∀ k, k ≠ s.run.grp → t.groupOf u k = s.groupOf u k) ∧ t.groupOf u s.run.grp = h ∧
          (∀ k, t.coreOf k = if k = team.core then { s.coreOf k with sp := m } else s.coreOf k) ∧
          (∀ x, Mem.get m x = if (team.spBase + team.spSize) * 256 + 32 * slot ≤ x ∧ x < (team.spBase + team.spSize) * 256 + 32 * slot + 32
            then BitVec.ofNat 8 (wordsNat [c.w0, c.w1, c.w2, c.w3, c.w4, c.w5, c.w6, c.w7] / 256 ^ (x - ((team.spBase + team.spSize) * 256 + 32 * slot)))
            else Mem.get (s.coreOf team.core).sp x) ∧
          g.ScalarWritten h s.run.slices d.toNat (fun _ => BitVec.ofNat 32 slot) ∧ g.Issued h s.run.slices .cp ∧
          { h with sregs := g.sregs, banks := g.banks, paths := g.paths, nextOp := g.nextOp, ctr := g.ctr, tctr := g.tctr } = g) ∧
      ∀ c, s.Trappable s.run.slices → s.copyCheck u (g.copyWords s.run.slices a.toNat) = .error c →
        ∃ t, exec (.cpy e d a) s = .next t ∧ s.Traps t s.run.slices c 0 0 0 (g.pathOf s.run.slices).pc)) ∧
  ∀ (s : State) (u : Nat) (c : Copy),
    (4 ≤ c.mode ∨ c.skind = 3 ∨ c.dkind = 3 ∨ c.w0.toNat / 2 ^ 22 % 4 ≠ 0 ∨ c.w0.toNat / 16 % 64 ≠ 0 ∨ c.w1.toNat / 2 ^ 20 ≠ 0 ∨
      (s.teamOf u).bufCnt ≤ c.dbuf ∨ (c.mode ≠ 3 ∧ c.mcast ≠ 0) ∨ (c.skind = 1 ∧ 64 ≤ c.srcWord) ∨ (c.dkind = 1 ∧ 64 ≤ c.dstWord)) →
    s.copyCheck u c = .error .prot

/-- R144 to R147, R350: the engine takes up a posted command whose range locks are free: of a plain copy inside its team's
scratchpad the destination range then holds the bytes that the source range held, every other byte stays, none of the command's
locks is held any more (R147), and the command stands as moved. A command whose locks are held, or whose source handle is neither FULL nor
DRAINING, waits.
R139, R207, R351, R352: a moved command with no source handle that goes to its own team alone is over: no lock of it
is left, its arrival is sent with its count and with ERR where it met a fault, its slot is free, and its operation
completes.
The model's own choices in it: log 27. -/
def Obligations.CopyMoves : Prop :=
  ((∀ (s : State) (u slot so d n : Nat) (c : Copy),
    let team := s.teamOf u
    let base := team.spBase * 256
    team.nextCopy = some (slot, c) → c.state = .posted → c.mode = 0 → c.skind = 0 → c.dkind = 0 → c.count = n → c.moved = 0 → c.todo = none →
    c.srcVa = 0xF1 * 2 ^ 44 + so → c.dstVa = 0xF1 * 2 ^ 44 + d → so + n ≤ team.spSize * 256 → d + n ≤ team.spSize * 256 →
    team.spSize * 256 ≤ 2 ^ 20 → team.place = .resident → 0 < n → s.regs = [] → s.wakes = [] → s.wlocks = [] →
    let ls := s.locksFor u slot (s.copyReads u c) (s.copyWrites u c)
    s.locksFree ls = true →
    ∃ t m, exec (.copyIssue u) s = .next t ∧ { t with teams := s.teams, cores := s.cores, parts := s.parts } = s.farDone (.engine u slot) ∧
      (∀ k, t.coreOf k = { s.coreOf k with
        sp := if k = team.core then m else (s.coreOf k).sp
        locks := ((s.coreOf k).locks ++ (ls.filter fun x => x.1 == k).map fun x => x.2).filter fun l => !(l.uid == u && l.op == slot) }) ∧
      (∀ x, Mem.get m x = if base + d ≤ x ∧ x < base + d + n then Mem.get (s.coreOf team.core).sp (x - (base + d) + (base + so))
        else Mem.get (s.coreOf team.core).sp x) ∧
      (∀ v, v ≠ u → t.teamOf v = s.teamOf v) ∧ { t.teamOf u with ring := team.ring } = team ∧
      ∃ k line, (t.teamOf u).ring = team.ring.map fun r =>
        if r.1 = slot then (r.1, { r.2 with state := .moved false, moved := k, line := line, errs := 0, todo := some [], fault := false }) else r) ∧
  ∀ (s : State) (u slot : Nat) (c : Copy), (s.teamOf u).nextCopy = some (slot, c) → c.state = .posted → (s.teamOf u).place ≠ .aborted →
    (let b : Buf := Sparse.get {} (s.coreOf (s.teamOf u).core).bufs ((s.teamOf u).bufBase + c.sbuf)
     (c.skind = 2 ∧ b.state ≠ 2 ∧ b.state ≠ 3) ∨ s.locksFree (s.locksFor u slot (s.copyReads u c) (s.copyWrites u c)) = false) →
    exec (.copyIssue u) s = .next s) ∧
  (∀ (s : State) (u slot : Nat) (c : Copy) (err : Bool), (s.teamOf u).ring.find? (fun r => r.1 == slot) = some (slot, c) →
    c.state = .moved err → c.mode ≠ 3 → c.skind ≠ 2 → u < 2 ^ 32 → (∃ g, g < (s.teamOf u).ngroup ∧ (s.groupOf u g).live ≠ 0) →
    let s1 := s.capture (s.teamOf u).part 2 (s.clock.toNat - c.time)
    ∃ t h, exec (.copyComplete u slot) s = .next t ∧
      t.cores = (s.cores.map fun x => (x.1, { x.2 with locks := x.2.locks.filter fun l => !(l.uid == u && l.op == slot) })) ∧
      t.arrivals = s.arrivals ++ [((s.teamOf u).core / 4, u, c.dbuf, c.count, err)] ∧
      { t with cores := s.cores, arrivals := s.arrivals, teams := s.teams } = s1 ∧
      (∀ v, v ≠ u → t.teamOf v = s.teamOf v) ∧ { t.teamOf u with groups := (s.teamOf u).groups, ring := (s.teamOf u).ring } = s.teamOf u ∧
      (t.teamOf u).ring = (s.teamOf u).ring.filter (fun r => r.1 != slot) ∧
      (∀ g, g ≠ c.grp → t.groupOf u g = s.groupOf u g) ∧ t.groupOf u c.grp = h ∧
      h.ctr = (s.groupOf u c.grp).ctr.complete .cp c.op ∧ h.tctr = (s.groupOf u c.grp).tctr.complete .cp c.op ∧
      { h with ctr := (s.groupOf u c.grp).ctr, tctr := (s.groupOf u c.grp).tctr } = s.groupOf u c.grp)

/-- R359 to R365: the residency forms of a path that issues alone, on its engine and for its virtual device: a load that the
quota or the table refuses gives 1 or 2 in bits 31..30; one that is taken fills in the slot, keeps its GEN, and gives the
handle; pinning, unpinning and revoking of a valid handle change its slots alone and give 0; an invalid handle gives 3 in bits
31..30, or status 0; `res.use` gives the counts of the device.
R359, R361: a fill whose source lines could all be read makes the residency RESIDENT and its weight (i, n) element i of the
nth row, 0 outside SIZE; a slot that is not being filled, or whose fill stalls, stays.
The model's own choices in it: log 34. -/
def Obligations.Residencies : Prop :=
  (∀ (s : State) (e : Bool) (d a b : BitVec 6), s.Alone → s.curGroup.inTx = false → s.Clean s.curCore →
    let g := s.curGroup
    let eng := s.curCore / 4
    let en := s.engineOf eng
    let vd := s.curTeam.vf
    let low := lowSlice s.run.slices
    let hd := (g.sreg low a.toNat).toNat % 65536
    let k := hd / 256
    let span := if wideElem (en.slot k).elem then [k, k + 1] else [k]
    let held := (en.slots.filter fun x => x.2.state != .free && x.2.vdev == vd).length
    let pinned := (en.slots.filter fun x => x.2.state != .free && x.2.vdev == vd && x.2.pin).length
    let tells := fun (h : Group) (v : Nat) => g.ScalarResult h s.run.slices [a.toNat] d.toNat fun _ => BitVec.ofNat 32 v
    let slots := fun (t : State) (js : List Nat) (f : Slot → Slot) =>
      { t with teams := s.teams, runs := s.runs, engines := s.engines } = s ∧ s.Counted t e ∧ (∀ n, n ≠ eng → t.engineOf n = s.engineOf n) ∧
      { t.engineOf eng with slots := en.slots } = en ∧ ∀ j, (t.engineOf eng).slot j = if j ∈ js then f (en.slot j) else en.slot j
    (g.counters.value .cp < 62 → ∀ x req, s.resRecord s.run.uid (g.sreg low a.toNat) (g.spair low b.toNat) = some (x, req) →
      let r := if wideElem x.elem then 2 else 1
      let free := fun j => (en.slot j).state == .free && (!wideElem x.elem || (en.slot (j + 1)).state == .free)
      let pick := match req with
        | some j => if free j then some j else none
        | none => (List.range 256).find? fun j => (!wideElem x.elem || j % 2 == 0) && free j
      let ovf := (s.vdevOf vd).resq.toNat / 256 % 512 < held + r ∨ (x.pin = true ∧ (s.vdevOf vd).resq.toNat / 2 ^ 17 % 512 < pinned + r)
      (ovf → ∃ t h, exec (.resLoad e d a b) s = .next t ∧ s.Goes t e h ∧ tells h (2 ^ 30)) ∧
      (¬ ovf → pick = none → ∃ t h, exec (.resLoad e d a b) s = .next t ∧ s.Goes t e h ∧ tells h (2 ^ 31)) ∧
      (¬ ovf → ∀ j, pick = some j → s.watch = [] → s.shadowWatch = [] →
        ∃ t h, exec (.resLoad e d a b) s = .next t ∧
          { t with teams := s.teams, runs := s.runs, engines := s.engines } = s.farDone (.fill eng j) ∧ s.Counted t e ∧ s.GroupOnly t s.run.uid s.run.grp h ∧
          (∀ n, n ≠ eng → t.engineOf n = s.engineOf n) ∧ { t.engineOf eng with slots := en.slots } = en ∧
          (∀ n, (t.engineOf eng).slot n =
            if n = j ∨ (n = j + 1 ∧ wideElem x.elem = true) then
              { x with grp := s.run.grp, op := g.nextOp, pc := (g.pathOf s.run.slices).pc, slices := s.run.slices
                       gen := (en.slot n).gen, upper := if n = j then x.upper else true }
            else en.slot n) ∧
          g.ScalarWritten h s.run.slices d.toNat (fun _ => BitVec.ofNat 32 (j * 256 + (en.slot j).gen)) ∧ g.Issued h s.run.slices .cp ∧
          g.Walked h [a.toNat] ∧ { h with sregs := g.sregs, banks := g.banks, streams := g.streams, paths := g.paths, nextOp := g.nextOp, ctr := g.ctr, tctr := g.tctr } = g)) ∧
    (en.valid vd hd = true →
      ((en.slot k).pin = false → pinned + span.length ≤ (s.vdevOf vd).resq.toNat / 2 ^ 17 % 512 →
        ∃ t h, exec (.resPin e d a) s = .next t ∧ slots t span (fun x => { x with pin := true }) ∧ s.GroupOnly t s.run.uid s.run.grp h ∧ tells h 0) ∧
      ((en.slot k).pin = false → (s.vdevOf vd).resq.toNat / 2 ^ 17 % 512 < pinned + span.length →
        ∃ t h, exec (.resPin e d a) s = .next t ∧ s.Goes t e h ∧ tells h (2 ^ 30)) ∧
      (∃ t h, exec (.resUnpin e d a) s = .next t ∧ slots t span (fun x => { x with pin := false }) ∧ s.GroupOnly t s.run.uid s.run.grp h ∧ tells h 0) ∧
      ((en.slot k).counted = false → s.watch = [] → s.shadowWatch = [] →
        ∃ t h, exec (.resRevoke e d a) s = .next t ∧ slots t span (fun x => { gen := if x.gen = 255 then 1 else x.gen + 1 }) ∧
          s.GroupOnly t s.run.uid s.run.grp h ∧ tells h 0) ∧
      ∃ t h, exec (.resStat e d a) s = .next t ∧ s.Goes t e h ∧
        let x := en.slot k
        tells h (2 ^ 31 + ([.free, .loading, .resident, .evicted, .failed] : List SlotState).idxOf x.state * 2 ^ 28 + (if x.stale then 2 ^ 27 else 0)
          + (if x.pin then 2 ^ 26 else 0) + x.elem * 2 ^ 22 + (x.n / 16 - 1) * 2 ^ 17)) ∧
    (en.valid vd hd = false → ∀ p ∈ ([(.resPin e d a, 3 * 2 ^ 30), (.resUnpin e d a, 3 * 2 ^ 30), (.resRevoke e d a, 3 * 2 ^ 30), (.resStat e d a, 0)] :
        List (Instr × Nat)), ∃ t h, exec p.1 s = .next t ∧ s.Goes t e h ∧ tells h p.2) ∧
    ∃ t h, exec (.resUse e d) s = .next t ∧ s.Goes t e h ∧
      g.ScalarResult h s.run.slices [] d.toNat fun _ => BitVec.ofNat 32 (pinned * 512 + held)) ∧
  ((∀ (s s1 : State) (eng k : Nat) (vals : List Nat) (r : Eng),
    let x := s.slotOf eng k
    let bits := elemBits x.elem
    let spans := x.rows.map fun r => (r.va, if r.count = 0 then 0 else rowSpan bits r.count r.start)
    x.state = .loading → x.stall = 0 → x.upper = false → x.counted = false → x.scaleSpans = [] → bits ≤ 8 ∨ wideElem x.elem = true → x.n ≤ 512 →
    s.fillSpans eng k spans = (s1, vals, r) → vals.length = spans.length → s1.slotOf eng k = x →
    ∃ t, exec (.residencyFillComplete eng k) s = .next t ∧ (t.slotOf eng k) = { x with state := .resident } ∧
      { t with engines := s1.engines } = s1 ∧
      ∀ i n, i < 64 → n < x.n →
        (t.engineOf eng).weight x k i n = ((x.rows.getD n { va := 0, count := 0, start := 0 }).elem bits (vals.getD n 0) i) % 2 ^ (if wideElem x.elem then 16 else 8)) ∧
  ∀ (s : State) (eng k : Nat), (s.slotOf eng k).state ≠ .loading ∨ (s.slotOf eng k).stall ≠ 0 ∨ (s.slotOf eng k).upper = true →
    exec (.residencyFillComplete eng k) s = .next s)

/-- R207, R212, R366, R367, R369, R371, R397, R403: a tile instruction with active lanes and room takes an entry of its group's level,
counted in tl, holding its descriptor and its lanes, and a reservation on its engine; an `mma` takes its A from the reuse latch
where its key matches, else from its registers, and leaves the latch holding it or empty; one that names a tile that is not its
team's, or holds a reserved bit, raises PROT; without active lanes it only goes on; in a transaction it ends it.
The model's own choices in it: log 57; that the latch is read and left at issue, and not at the pass, is the model's choice, log 28. -/
def Obligations.TileInstructions : Prop :=
  ∀ (s : State) (e : Bool) (k : BitVec 3) (a : BitVec 7) (x d : BitVec 6) (f : BitVec 3) (r l z : BitVec 1) (c w : BitVec 2),
    let g := s.curGroup
    let u := s.run.uid
    let eng := s.curTeam.core / 4
    let en := s.engineOf eng
    let v := g.sreg (lowSlice s.run.slices) x.toNat
    let masked := g.act s.run.slices k.toNat
    let all := g.liveLanes s.run.slices
    let mine := fun tile => tile < 64 ∧ Sparse.get 0 en.owner tile = s.curTeam.tileOwner u
    let row := v.toNat < 2 ^ 24 ∧ v.toNat / 512 % 128 = 0 ∧ v.toNat % 8 = 0 ∧ v.toNat % 512 + 8 * 2 ^ w.toNat ≤ 512 ∧ mine (v.toNat / 65536 % 256)
    ∀ p ∈ ([(.mma e k a x f r l z c, masked, v.toNat / 65536 % 256, v.toNat < 2 ^ 29 ∧ mine (v.toNat / 65536 % 256)),
        (.accxRd e k a x w, masked, v.toNat / 65536 % 256, row), (.accxWr e k a x w, masked, v.toNat / 65536 % 256, row),
        (.accxRdz e k a x w, masked, v.toNat / 65536 % 256, row),
        (.accAlloc e d x, all, v.toNat % 256, v.toNat ≤ 64), (.accFree e x, all, v.toNat % 256, mine v.toNat),
        (.accZero e x, all, v.toNat % 256, mine v.toNat)] : List (Instr × Word × Nat × Prop)),
      (g.inTx = true → exec p.1 s = .next (s.txFail u s.run.grp 7 0)) ∧
      (s.Alone → g.inTx = false →
        (p.2.1 = 0 → ∃ t h, exec p.1 s = .next t ∧ s.Goes t e h ∧ g.Moved h s.run.slices ∧ { h with paths := g.paths } = g) ∧
        (p.2.1 ≠ 0 → wellFormed p.1 = true → g.counters.value .tl < 62 → g.queueFull 1 = false → en.resv.length < 64 →
          (en.resv.filter fun q => q.uid == u).length < 32 →
          (p.2.2.2 → (∀ q ∈ en.resv, ¬ (q.uid = u ∧ q.grp = s.run.grp ∧ q.op = g.nextOp)) →
            ∃ t h y, exec p.1 s = .next t ∧ { t with teams := s.teams, runs := s.runs, engines := s.engines } = s ∧ s.Counted t e ∧
              s.GroupOnly t u s.run.grp h ∧ (∀ n, n ≠ eng → t.engineOf n = s.engineOf n) ∧
              t.engineOf eng = { en with resv := en.resv ++ [{ uid := u, grp := s.run.grp, op := g.nextOp, tile := p.2.2.1, prio := s.curTeam.prio, time := s.clock.toNat }] } ∧
              h.queue = g.queue ++ [y] ∧ y.instr = some p.1 ∧ y.desc = v ∧ y.lanes = p.2.1 ∧ y.slices = s.run.slices ∧ y.op = g.nextOp ∧
              y.cls = some .tl ∧ y.pc = (g.pathOf s.run.slices).pc ∧
              g.Issued h s.run.slices .tl ∧ g.Walked h [x.toNat] ∧
              (p.1 = .mma e k a x f r l z c →
                (y.latched = true ↔ g.latch.full = true ∧ g.latch.va = a ∧ g.latch.fmt = f ∧ g.latch.asc = c ∧ s.run.slices &&& ~~~g.latch.slices = 0) ∧
                (y.latched = true → y.rowsA = g.latch.data) ∧
                (y.latched = false → ∀ j l, j < mmaRegs f c → l < 32 → all.getLsbD l = true → Sparse.get 0 y.rowsA (j * 32 + l) = g.vreg (a.toNat + j) l) ∧
                h.latch = if r = 1 then { full := true, slices := s.run.slices, va := a, fmt := f, asc := c, data := y.rowsA } else {}) ∧
              (p.1 ≠ .mma e k a x f r l z c → h.latch = g.latch) ∧
              { h with rq := g.rq, trq := g.trq, paths := g.paths, streams := g.streams, nextOp := g.nextOp, ctr := g.ctr, tctr := g.tctr
                       latch := g.latch } = g) ∧
          (¬ p.2.2.2 → s.Trappable s.run.slices → ∃ t, exec p.1 s = .next t ∧ s.Traps t s.run.slices .prot 0 0 0 (g.pathOf s.run.slices).pc)))

/-- R245, R366, R367, R370, R372, R397, R398: what the engine's grant does for the entry of the reservation that it grants: a tile's
elements reach the registers of the entry's lanes or come from them, a tile is allocated, freed or cleared, and a pass writes
every element of its lanes' rows from the A that its entry holds, and sets the flags of clamped lanes but for those cleared
since its issue; the entry leaves its queue, its reservation the table, and its operation completes. A pass on
a handle that is not valid for its device raises SRES.
The model's own choices in it: logs 26 and 28. -/
def Obligations.EngineGrants : Prop :=
  (∀ (s : State) (eng : Nat) (r : Resv) (x : RqEntry), s.nextGrant eng = some r → s.entryOf r = some x →
    let g := s.groupOf r.uid r.grp
    let en := s.engineOf eng
    let v := x.desc.toNat
    let tile := v / 65536 % 256
    let col := v % 512
    let step := fun (t : State) (h : Group) => { t with teams := s.teams, engines := s.engines } = s ∧ s.GroupOnly t r.uid r.grp h ∧ g.Ended h x.op ∧
      (∀ n, n ≠ eng → t.engineOf n = s.engineOf n) ∧ (t.engineOf eng).resv = en.resv.erase r
    let same := fun (h : Group) => { h with rq := g.rq, trq := g.trq, ctr := g.ctr, tctr := g.tctr } = g
    (∀ (e : Bool) (k : BitVec 3) (a : BitVec 7) (d : BitVec 6) (w : BitVec 2) (z : Bool),
      x.instr = some (if z then .accxRdz e k a d w else .accxRd e k a d w) → col + 8 * 2 ^ w.toNat ≤ 512 →
      ∃ t h, exec (.engineGrant eng) s = .next t ∧ step t h ∧ { t.engineOf eng with resv := en.resv, tiles := en.tiles } = en ∧
        (∀ n l, n < 128 → l < 32 → h.vreg n l = if x.lanes.getLsbD l = true ∧ a.toNat ≤ n ∧ n < a.toNat + 8 * 2 ^ w.toNat
          then en.tileAt tile l (col + (n - a.toNat)) else g.vreg n l) ∧
        (∀ y l n, l < 32 → n < 512 → (t.engineOf eng).tileAt y l n =
          if z = true ∧ y = tile ∧ x.lanes.getLsbD l = true ∧ col ≤ n ∧ n < col + 8 * 2 ^ w.toNat then 0 else en.tileAt y l n) ∧
        { h with vregs := g.vregs, rq := g.rq, trq := g.trq, ctr := g.ctr, tctr := g.tctr } = g) ∧
    (∀ (e : Bool) (k : BitVec 3) (a : BitVec 7) (d : BitVec 6) (w : BitVec 2), x.instr = some (.accxWr e k a d w) → col + 8 * 2 ^ w.toNat ≤ 512 →
      ∃ t h, exec (.engineGrant eng) s = .next t ∧ step t h ∧ { t.engineOf eng with resv := en.resv, tiles := en.tiles } = en ∧ same h ∧
        ∀ y l n, l < 32 → n < 512 → (t.engineOf eng).tileAt y l n =
          if y = tile ∧ x.lanes.getLsbD l = true ∧ col ≤ n ∧ n < col + 8 * 2 ^ w.toNat then g.vreg (a.toNat + (n - col)) l else en.tileAt y l n) ∧
    (∀ (e : Bool) (d a : BitVec 6), x.instr = some (.accAlloc e d a) →
      let got : Option Nat := if v < 64 then (if Sparse.get 0 en.owner v = 0 then some v else none) else (List.range 64).find? fun k => Sparse.get 0 en.owner k == 0
      ∃ t h, exec (.engineGrant eng) s = .next t ∧ step t h ∧ { t.engineOf eng with resv := en.resv, owner := en.owner } = en ∧
        (∀ k, Sparse.get 0 (t.engineOf eng).owner k = if got = some k then (s.teamOf r.uid).tileOwner r.uid else Sparse.get 0 en.owner k) ∧
        ({ g with atTrap := g.atTrap && !g.prog x.op } : Group).ScalarWritten { h with atTrap := g.atTrap && !g.prog x.op } x.slices d.toNat (fun _ => (got.map fun k => BitVec.ofNat 32 k).getD 0xFFFFFFFF) ∧
        { h with sregs := g.sregs, banks := g.banks, rq := g.rq, trq := g.trq, ctr := g.ctr, tctr := g.tctr } = g) ∧
    (∀ (e : Bool) (a : BitVec 6), x.instr = some (.accFree e a) →
      ∃ t h, exec (.engineGrant eng) s = .next t ∧ step t h ∧ { t.engineOf eng with resv := en.resv, owner := en.owner } = en ∧ same h ∧
        ∀ k, Sparse.get 0 (t.engineOf eng).owner k = if k = v then 0 else Sparse.get 0 en.owner k) ∧
    (∀ (e : Bool) (a : BitVec 6), x.instr = some (.accZero e a) →
      ∃ t h, exec (.engineGrant eng) s = .next t ∧ step t h ∧ { t.engineOf eng with resv := en.resv, tiles := en.tiles } = en ∧ same h ∧
        ∀ y l n, l < 32 → n < 512 → (t.engineOf eng).tileAt y l n = if y = v then 0 else en.tileAt y l n)) ∧
  (∀ (s : State) (eng : Nat) (r : Resv) (x : RqEntry) (e : Bool) (k : BitVec 3) (a : BitVec 7) (d : BitVec 6) (f : BitVec 3)
      (q l z : BitVec 1) (c : BitVec 2), s.nextGrant eng = some r → s.entryOf r = some x → x.instr = some (.mma e k a d f q l z c) →
    let g := s.groupOf r.uid r.grp
    let en := s.engineOf eng
    let team := s.teamOf r.uid
    let v := x.desc.toNat
    let tile := v / 65536 % 256
    let hd := v % 65536
    let y := en.slot (hd / 256)
    let cols := (v / 2 ^ 24 % 32 + 1) * 16
    let el := fun lane j => en.element y (hd / 256) f c x.rowsA (if z = 1 then 0 else en.tileAt tile lane j) lane j
    (en.valid team.vf hd = false →
      exec (.engineGrant eng) s = .next ((s.updEngine eng fun e => { e with resv := e.resv.erase r }).tileTrap r.uid r.grp x .sres (BitVec.ofNat 64 (65536 + hd)))) ∧
    (en.valid team.vf hd = true → y.state = .resident → y.stale = false → intFmt f.toNat = intFmt y.elem → cols ≤ y.n → cols ≤ 512 →
      s.misfire = [] → (s.partOf team.part).test = false →
      ∃ t h, exec (.engineGrant eng) s = .next t ∧
        { t with teams := s.teams, engines := s.engines } = s.count team.part 0x30 1 ∧ s.GroupOnly t r.uid r.grp h ∧ g.Ended h x.op ∧
        (∀ n, n ≠ eng → t.engineOf n = s.engineOf n) ∧ { t.engineOf eng with tiles := en.tiles } = { en with resv := en.resv.erase r } ∧
        (∀ k lane n, lane < 32 → n < 512 → (t.engineOf eng).tileAt k lane n =
          if k = tile ∧ x.lanes.getLsbD lane = true ∧ n < cols then (el lane n).1 else en.tileAt k lane n) ∧
        (∀ lane, lane < 32 → (h.satf.getLsbD lane = true ↔
          g.satf.getLsbD lane = true ∨ (x.satOff.getLsbD lane = false ∧ x.lanes.getLsbD lane = true ∧ ∃ j, j < cols ∧ (el lane j).2 = true))) ∧
        { h with satf := g.satf, rq := g.rq, trq := g.trq, ctr := g.ctr, tctr := g.tctr } = g)) ∧
  ∀ (s : State) (eng : Nat), s.nextGrant eng = none → exec (.engineGrant eng) s = .next s

/-- R376, R379, R441: `coll.post` of a command that its checks accept posts the pair under the team's lowest free slot, gives the
slot's number, counts in cp and sends ASSIGN to the primary where the pair is new; a refused command raises PROT, and with
sixteen outstanding it waits. `coll.stat` gives the pair's standing; `coll.cancel` of a pair that is not outstanding gives 2, of
one that is sends CANCEL and goes on, its destination being pending until the REPLY (R203).
The model's own choices in it: log 29. -/
def Obligations.CollectivePosts : Prop :=
  ∀ (s : State) (e : Bool) (d a : BitVec 6), s.Alone → s.curGroup.inTx = false → s.Clean s.curCore →
    let g := s.curGroup
    let u := s.run.uid
    let die := s.curCore / 64
    let low := lowSlice s.run.slices
    let comm := (g.sreg low a.toNat).toNat % 65536
    let tag := g.sreg low (a.toNat + 1)
    let cmd : CollCmd := { w := (List.range 8).map fun j => g.sreg low (a.toNat + j) }
    (62 ≤ g.counters.value .cp ∨ 16 ≤ s.collsOf u → exec (.collPost e d a) s = .next s) ∧
    (g.counters.value .cp < 62 → s.collsOf u < 16 →
      (s.collCheck u cmd = none → s.Trappable s.run.slices →
        ∃ t, exec (.collPost e d a) s = .next t ∧ s.Traps t s.run.slices .prot 0 0 0 (g.pathOf s.run.slices).pc) ∧
      ∀ x, s.collCheck u cmd = some x → ((s.commOf die x.comm).holes.any fun k => k.2 == some x.tag) = false →
        ((s.commOf die x.comm).known.any fun k => k.2 == x.tag) = false →
        ∃ t h slot, exec (.collPost e d a) s = .next t ∧ slot < 16 ∧ slot ∉ s.collSlots u ∧ (∀ k, k < slot → k ∈ s.collSlots u) ∧
          { t with teams := s.teams, runs := s.runs, dies := s.dies } =
            s.seqSend (s.commOf die x.comm).prim (fun p => .assignNum p x.comm (s.memberAddr die) (s.commOf die x.comm).term x.tag) ∧
          s.GroupOnly t u s.run.grp h ∧ s.Counted t e ∧ (∀ k, k ≠ die → t.dieOf k = s.dieOf k) ∧
          t.dieOf die = { s.dieOf die with colls := (s.dieOf die).colls ++
            [{ x with grp := s.run.grp, slot := slot, op := g.nextOp, time := s.clock.toNat, pc := (g.pathOf s.run.slices).pc }] } ∧
          g.ScalarWritten h s.run.slices d.toNat (fun _ => BitVec.ofNat 32 slot) ∧ g.Issued h s.run.slices .cp ∧
          { h with sregs := g.sregs, banks := g.banks, paths := g.paths, nextOp := g.nextOp, ctr := g.ctr, tctr := g.tctr } = g) ∧
    (∃ t h, exec (.collStat e d a) s = .next t ∧ s.Goes t e h ∧
      g.ScalarResult h s.run.slices [] d.toNat fun _ => match (s.dieOf die).colls.find? fun x => x.comm == comm && x.tag == tag with
        | none => 0
        | some x => if x.uid ≠ u then 0 else if x.running then
            0x60000000 + (if ((s.commOf die comm).sent.any fun k => (s.commOf die comm).next == k.1 && k.2.1) = true then 0x10000000 else 0)
          else if ((s.commOf die comm).known.any fun k => k.2 == tag) = true then 0x40000000 else 0x20000000) ∧
    (s.collKnown u die comm tag = false → ∃ t h, exec (.collCancel e d a) s = .next t ∧ s.Goes t e h ∧
      g.ScalarResult h s.run.slices [] d.toNat fun _ => 2) ∧
    (s.collKnown u die comm tag = true →
      let o : Owed := { slices := s.run.slices, reg := d.toNat, pc := (g.pathOf s.run.slices).pc, trap := g.atTrap }
      ∃ t h, exec (.collCancel e d a) s = .next t ∧
      { t with teams := s.teams, runs := s.runs, dies := s.dies } =
        s.seqSend (s.commOf die comm).prim (fun p => .cancel p comm (s.memberAddr die) (s.commOf die comm).term tag) ∧
      t.commOf die comm = { s.commOf die comm with cancels := (s.commOf die comm).cancels ++
        [{ tag := tag, uid := u, grp := s.run.grp, owed := o, time := s.clock.toNat }] } ∧
      s.GroupOnly t u s.run.grp h ∧ s.Counted t e ∧ h.owed = g.owed ++ [o] ∧ g.Moved h s.run.slices ∧
      { h with owed := g.owed, paths := g.paths } = g)

/-- R429, R430, R437, R438, R440, R441: what the primary of a communicator makes of a message that another module sends, of a term
that it hears: ASSIGN gives a new pair the next number, held and sent to every member, or the number that the pair has, and waits
where none may be given; the last READY of a number sends GO to every member; a DONE that is not the last is noted, the last
retires the number; CANCEL makes a hole and answers 0, and RUNNING, 1, after GO. A message that it does not hear does nothing. A
message to a member of the module is a step to come; to another module it leaves, where the module has an identifier, by a port
whose link is up. A device with no identifier takes no message, and one that bears the device's own identifier is discarded and
counted.
The model's own choices in it: logs 7, 14 and 88. -/
def Obligations.SequencerPrimary : Prop :=
  (∀ (s : State) (a : BitVec 12) (m : Nat → Ev),
    (a.toNat / 4 = s.accid ∧ a.toNat % 4 < 3 → s.seqSend a m = { s with plan := s.plan ++ [.own (m (a.toNat % 4))] }) ∧
    (¬ (a.toNat / 4 = s.accid ∧ a.toNat % 4 < 3) →
      (s.accNone = true ∨ s.upPorts = [] → s.seqSend a m = s) ∧
      (s.accNone = false → s.upPorts ≠ [] → ∃ port ∈ s.upPorts,
        s.seqSend a m = { s with draw := s.draw + 1, out := s.out ++ [.seqMsg port a (m (a.toNat % 4))] }))) ∧
  (∀ (s : State) (d c : Nat) (src : BitVec 12) (term tag n next : Word) (t : Option Word) (st : Nat) (known : List (Word × Word))
      (sent gone posted : List Word),
    ∀ i ∈ ([.assignNum d c src term tag, .numbered d c (src, term) tag n, .cancel d c src term tag, .reply d c (src, term) tag st,
        .hole d c (src, term) t n, .ready d c src term n, .go d c (src, term) n, .done d c src term n, .collect d c (src, term),
        .report d c src term next known sent gone posted, .failoverRequest d c (src, term)] : List Instr),
      (s.accNone = true → exec i s = .next s) ∧
      (s.accNone = false → src.toNat / 4 = s.accid →
        exec i s = .next (s.updPeer s.accid fun p => { p with rej := min (p.rej + 1) 255 }))) ∧
  ∀ (s : State) (d c : Nat) (src : BitVec 12) (term tag n : Word), s.accNone = false → src.toNat / 4 ≠ s.accid →
    let x := s.commOf d c
    let heard := x.v = true ∧ x.term.toNat ≤ term.toNat ∧ x.prim = s.memberAddr d
    let waits := fun (s : State) (cancel : Bool) => s.updComm d c fun x => { x with
      waitAssign := if x.waitAssign.contains (src, tag, cancel) then x.waitAssign else x.waitAssign ++ [(src, tag, cancel)] }
    (¬ heard → ∀ i ∈ ([.assignNum d c src term tag, .ready d c src term n, .done d c src term n, .cancel d c src term tag] : List Instr),
      exec i s = .next s) ∧
    (heard →
      ((∀ h ∈ x.held, h.2.1 ≠ some tag) →
        (x.room = true →
          exec (.assignNum d c src term tag) s = .next ((s.updComm d c fun x => { x with
            held := x.held ++ [(x.nextN, some tag, false)], nextN := x.nextN + 1 }).seqSendAll x.members fun k => .numbered k c x.term tag x.nextN) ∧
          exec (.cancel d c src term tag) s = .next (((s.updComm d c fun x => { x with
            held := x.held ++ [(x.nextN, some tag, true)], nextN := x.nextN + 1 }).seqSendAll x.members fun k =>
              .hole k c x.term (some tag) x.nextN).seqSend src fun k => .reply k c x.term tag 0)) ∧
        (x.room = false → exec (.assignNum d c src term tag) s = .next (waits s false) ∧ exec (.cancel d c src term tag) s = .next (waits s true))) ∧
      (∀ m hole, x.numberOf src tag = some (m, some tag, hole) →
        exec (.assignNum d c src term tag) s = .next (s.seqSendAll x.members fun k =>
          if hole then .hole k c x.term (some tag) m else .numbered k c x.term tag m)) ∧
      (∀ m, x.numberOf src tag = none → x.live tag = some m →
        exec (.assignNum d c src term tag) s = .next (waits (s.seqSendAll x.members fun k => .numbered k c x.term tag m) false)) ∧
      ((n, src) ∉ x.readyFrom →
        ((∃ m ∈ x.members, m ≠ src ∧ (n, m) ∉ x.readyFrom) →
          exec (.ready d c src term n) s = .next (s.updComm d c fun x => { x with readyFrom := x.readyFrom ++ [(n, src)] })) ∧
        ((∀ m ∈ x.members, m = src ∨ (n, m) ∈ x.readyFrom) → n ∉ x.goSent → (∃ t, (n, t, false) ∈ x.held) →
          ∃ t, exec (.ready d c src term n) s = .next t ∧ t.commOf d c = { x with readyFrom := x.readyFrom ++ [(n, src)], goSent := x.goSent ++ [n] } ∧
            { t with dies := s.dies } = s.seqSendAll x.members fun k => .go k c x.term n)) ∧
      ((n, src) ∉ x.doneFrom → x.waitAssign = [] →
        ∃ t, exec (.done d c src term n) s = .next t ∧ { t with dies := s.dies } = s ∧
          ((∃ m ∈ x.members, m ≠ src ∧ (n, m) ∉ x.doneFrom) → t.commOf d c = { x with doneFrom := x.doneFrom ++ [(n, src)] }) ∧
          ((∀ m ∈ x.members, m = src ∨ (n, m) ∈ x.doneFrom) → (t.commOf d c).held = (x.held.filter fun h => h.1 != n) ∧
            (t.commOf d c).nextN = x.nextN ∧ n ∉ (t.commOf d c).goSent ∧
            ∀ m, (n, m) ∉ (t.commOf d c).doneFrom ∧ (n, m) ∉ (t.commOf d c).readyFrom)) ∧
      (∀ m, x.numberOf src tag = some (m, some tag, false) →
        (m ∈ x.goSent → exec (.cancel d c src term tag) s = .next (s.seqSend src fun k => .reply k c x.term tag 1)) ∧
        (m ∉ x.goSent → exec (.cancel d c src term tag) s = .next (((s.updComm d c fun x => { x with
          held := x.held.map fun y => if y.1 = m then (m, some tag, true) else y }).seqSendAll
            x.members fun k => .hole k c x.term (some tag) m).seqSend src fun k => .reply k c x.term tag 0))))

/-- R144, R146, R147, R203, R420, R437 to R441: what a member makes of a message that another module sends, of a term that it hears:
NUMBERED of a number not yet passed is learnt, and READY is sent where the number is next and its pair is posted; HOLE of a number
that is not next takes the number's tag; REPLY gives a waiting `coll.cancel` its status, in the registers of the level at which it was
issued, which are then no longer pending; GO sets the posted collective of the next number running, which takes its range locks where
they are free, reads its source and releases that. A message of an older term does nothing.
The model's own choices in it: log 14. -/
def Obligations.SequencerMembers : Prop :=
  ∀ (s : State) (d c : Nat) (src : BitVec 12) (term tag n : Word) (st : Nat), s.accNone = false → src.toNat / 4 ≠ s.accid →
    let x := s.commOf d c
    let heard := x.v = true ∧ x.term.toNat ≤ term.toNat
    (¬ heard → ∀ i ∈ ([.numbered d c (src, term) tag n, .hole d c (src, term) (some tag) n, .reply d c (src, term) tag st, .go d c (src, term) n,
        .collect d c (src, term)] : List Instr),
      exec i s = .next s) ∧
    (heard →
      (precedes n x.next = true →
        exec (.numbered d c (src, term) tag n) s = .next s ∧ exec (.hole d c (src, term) (some tag) n) s = .next s) ∧
      (precedes n x.next = false → (n, tag) ∉ x.known → (∀ h ∈ x.holes, h.1 ≠ n ∧ h.1 ≠ x.next) → (∀ k ∈ x.known, k.1 ≠ x.next) →
        (n ≠ x.next ∨ s.collOf d c tag = none →
          exec (.numbered d c (src, term) tag n) s = .next (s.updComm d c fun x => { x with known := x.known ++ [(n, tag)] })) ∧
        (n = x.next → (s.collOf d c tag).isSome = true → (∀ k ∈ x.readySent, k.1 ≠ n) → n ∉ x.goGot →
          ∃ t, exec (.numbered d c (src, term) tag n) s = .next t ∧
            t.commOf d c = { x with known := x.known ++ [(n, tag)], readySent := x.readySent ++ [(n, s.clock.toNat)] } ∧
            { t with dies := s.dies } = s.seqSend x.prim fun p => .ready p c (s.memberAddr d) x.term n) ∧
        (n ≠ x.next → s.collOf d c tag = none →
          exec (.hole d c (src, term) (some tag) n) s = .next (s.updComm d c fun x => { x with
            holes := x.holes ++ [(n, some tag)], known := x.known.filter fun k => k.1 != n }))) ∧
      (∀ w, x.cancels.find? (fun w => w.tag == tag) = some w → w.owed.reg < 64 →
        let g := s.groupOf w.uid w.grp
        ∃ t h, exec (.reply d c (src, term) tag st) s = .next t ∧ { t with teams := s.teams, dies := s.dies } = s ∧ s.GroupOnly t w.uid w.grp h ∧
          t.commOf d c = { x with cancels := x.cancels.erase w } ∧ h.owed = g.owed.erase w.owed ∧
          ({ g with atTrap := w.owed.trap } : Group).ScalarWritten { h with atTrap := w.owed.trap } w.owed.slices w.owed.reg
            (fun _ => BitVec.ofNat 32 st) ∧
          { h with owed := g.owed, sregs := g.sregs, banks := g.banks } = g) ∧
      (x.cancels.find? (fun w => w.tag == tag) = none → exec (.reply d c (src, term) tag st) s = .next s) ∧
      (n ≠ x.next ∨ n ∈ x.goGot ∨ (∀ k ∈ x.known, k.1 ≠ n) → exec (.go d c (src, term) n) s = .next s) ∧
      (∀ y, n = x.next → n ∉ x.goGot → x.known.find? (fun k => k.1 == n) = some (n, tag) → s.collOf d c tag = some y →
        (∀ k ∈ x.sent, k.1 ≠ n) →
        let s1 := (s.updComm d c fun x => { x with goGot := x.goGot ++ [n] }).updColl d c tag fun y => { y with running := true }
        y.locked = false →
        let ls := s1.collLocks d y
        (s1.locksFree ls = false → exec (.go d c (src, term) n) s = .next s1) ∧
        (s1.locksFree ls = true → ∀ s2 vs r,
          ((s1.takeLocks ls).updColl d y.comm y.tag fun y => { y with locked := true }).readElems y.uid y.lockOp (elemBits y.src.elem)
            y.src.rowsOf = (s2, vs, r) →
          (r = .wait → exec (.go d c (src, term) n) s = .next s2) ∧
          (r ≠ .wait →
            exec (.go d c (src, term) n) s = .next (((s2.freeSource y.uid (32 + y.slot)).taken (.engine y.uid (32 + y.slot))).updComm d c fun z =>
              { z with sent := z.sent ++ [(n, !r.done, if r.done then vs else [])] })))))

/-- R377, R378, R433, R440, R443, R444: a running collective of a communicator puts in its own part, asks the members of other modules
for theirs, and completes on its die once every part that it needs is there: with one that failed, a member that is DOWN or whose
completion was poison or an error among them, it ends with ERR; else the destination takes the result, which is modulo 2^32 the sum of
all parts for a 32-bit integer sum in whatever order they are combined, the parts in rank order for a gather, the root's part for a
broadcast. Where none is running nothing happens, and while a part is missing it waits.
The model's own choices in it: logs 7 and 29. -/
def Obligations.CollectiveCompletions : Prop :=
  (∀ (s : State) (d c : Nat), (∀ y ∈ (s.dieOf d).colls, y.comm = c → y.running = false) → exec (.collectiveLocalCompletion d c) s = .next s) ∧
  (∀ (s s1 : State) (d c : Nat) (y : Coll),
    let x := s.commOf d c
    (s.dieOf d).colls.find? (fun y => y.comm == c && y.running) = some y → s.contributeColl d c x.next y = s1 →
    let y1 := { y with locked := y.locked || ((s1.commOf d c).sent.any fun k => k.1 == x.next) }
    let s0 := s1.askParts d c x.next y1 x.rank x.members
    (s0.contributions d c x.next y1 x.rank x.members = none → exec (.collectiveLocalCompletion d c) s = .next s0) ∧
    ∀ ps, s0.contributions d c x.next y1 x.rank x.members = some ps →
    ((∃ p ∈ ps, p.1 = true) →
      exec (.collectiveLocalCompletion d c) s = .next (((s0.collEnd d y1 true).pass1 d c x.next).commGo d c)) ∧
    ((∀ p ∈ ps, p.1 = false) →
      let out := y.result x.rank s0.draw (ps.map fun p => p.2)
      ∀ s2 k r, s0.writePieces y.uid y.lockOp ((if out.isEmpty then [] else rowPieces (elemBits y.dst.elem) y.dst.rowsOf out).drop y.moved) = (s2, k, r) →
        (r = .wait → exec (.collectiveLocalCompletion d c) s = .next (s2.updColl d c y.tag fun z => { z with moved := z.moved + k })) ∧
        (r ≠ .wait → exec (.collectiveLocalCompletion d c) s =
          .next (((({ s2 with draw := s2.draw + out.length } : State).collEnd d y1 (!r.done)).pass1 d c x.next).commGo d c)))) ∧
  (∀ (s : State) (d c rank : Nat) (n : Word) (x : Coll) (a : BitVec 12),
    let local_ := a.toNat / 4 = s.accid ∧ a.toNat % 4 < 3
    (x.needs rank 0 = false → s.contributions d c n x rank [a] = some [(false, [])]) ∧
    (x.needs rank 0 = true → local_ → s.contributions d c n x rank [a] =
      ((s.commOf (a.toNat % 4) c).sent.find? fun k => k.1 == n).map fun k => [k.2]) ∧
    (x.needs rank 0 = true → ¬ local_ →
      (s.answerTo (partAsk d c n 0 a) = none → s.contributions d c n x rank [a] = none) ∧
      (s.answerTo (partAsk d c n 0 a) = some none → s.contributions d c n x rank [a] = some [(true, [])]) ∧
      (s.answers = [] → (s.peerOf (a.toNat / 4)).state = 2 → s.contributions d c n x rank [a] = some [(true, [])]))) ∧
  ∀ (y : Coll) (r draw : Nat) (ps : List (List Nat)), (∀ p ∈ ps, p.length = y.src.elems ∧ ∀ v ∈ p, v < 2 ^ elemBits y.src.elem) → ps ≠ [] →
    (y.opn = 0 → y.red = 0 → y.src.elem = 9 →
      y.result r draw ps = (List.range y.src.elems).map fun j => (ps.map fun p => p.getD j 0).sum % 2 ^ 32) ∧
    (y.opn = 2 → y.result r draw ps = ps.flatten) ∧
    (y.opn = 3 → y.root < ps.length → y.result r draw ps = ps.getD y.root []) ∧
    (y.opn = 4 → r ≠ y.root → y.result r draw ps = [])

/-- R437, R442, R443: a member whose READY, ASSIGN or CANCEL has had no answer for 1 ms, or whose primary is DOWN, asks the standby for failover; a standby
that is asked raises TERM, a 32-bit field, by one and sends COLLECT to every member, once; a member that hears COLLECT takes the term, makes the
standby its primary and reports; a report that is not the last is kept; with a COLLECT unanswered for 1 ms, or a standby that is
DOWN, the communicator fails on every die of the module and is no longer in force.
The model's own choices in it: log 59. -/
def Obligations.SequencerFailover : Prop :=
  (∀ (s : State) (d c : Nat),
    let x := s.commOf d c
    (x.electAt ≠ 0 → x.electAt + 2000000 ≤ s.clock.toNat + 1 → exec (.sequencerTimeout d c) s = .next (s.commFail c)) ∧
    (x.electAt = 0 → s.unanswered d c = false → exec (.sequencerTimeout d c) s = .next s) ∧
    (x.electAt = 0 → s.unanswered d c = true → x.stby.toNat / 4 = s.accid → x.stby.toNat % 4 < 3 →
      ∃ t, exec (.sequencerTimeout d c) s = .next t ∧
        { t with dies := s.dies } = s.seqSend x.stby (fun k => .failoverRequest k c x.term) ∧ (t.commOf d c).asked = s.clock.toNat + 1 ∧
        ∀ k ∈ (t.commOf d c).readySent, k.2 = s.clock.toNat) ∧
    (x.electAt = 0 → s.unanswered d c = true → x.stby.toNat / 4 ≠ s.accid → (s.peerOf (x.stby.toNat / 4)).state = 2 →
      exec (.sequencerTimeout d c) s = .next (s.commFail c)) ∧
    (d < 3 → (∀ k, k < 3 → (s.dieOf k).colls = []) → (s.commFail c).commOf d c = if x.v then
      { x with v := false, cancels := [], known := [], holes := [], readySent := [], goGot := [], sent := [], held := [], waitAssign := [], readyFrom := [], goSent := [], doneFrom := [], electAt := 0, reports := [], asked := 0 } else x) ∧
    (x.v = true → s.memberDown x.prim = true → (x.asked = 0 ∨ x.asked + 2000000 ≤ s.clock.toNat + 1) → s.unanswered d c = true) ∧
    (x.v = true → (∃ k ∈ x.readySent, k.1 ∉ x.goGot ∧ k.2 + 2000000 ≤ s.clock.toNat) → s.unanswered d c = true) ∧
    (x.v = true → (∃ k ∈ x.cancels, k.time + 2000000 ≤ s.clock.toNat) → s.unanswered d c = true)) ∧
  ∀ (s : State) (d c : Nat) (src : BitVec 12) (term next : Word) (known : List (Word × Word)) (sent gone posted : List Word),
    s.accNone = false → src.toNat / 4 ≠ s.accid →
    let x := s.commOf d c
    (x.v = true → x.term.toNat ≤ term.toNat → x.stby = s.memberAddr d → x.electAt = 0 →
      exec (.failoverRequest d c (src, term)) s = .next ((s.updComm d c fun x => { x with term := x.term + 1, electAt := s.clock.toNat + 1, reports := [] }).seqSendAll
        x.members fun k => .collect k c (x.term + 1))) ∧
    (x.v = false ∨ term.toNat < x.term.toNat ∨ x.stby ≠ s.memberAddr d ∨ x.electAt ≠ 0 → exec (.failoverRequest d c (src, term)) s = .next s) ∧
    (x.v = true → x.term.toNat ≤ term.toNat →
      (∃ t, exec (.collect d c (src, term)) s = .next t ∧ t.commOf d c = { x with term := term, prim := x.stby, asked := 0 } ∧
        { t with dies := s.dies } = s.seqSend x.stby fun k => .report k c (s.memberAddr d) term x.next x.known (x.readySent.map fun k => k.1) x.goGot
          (((s.dieOf d).colls.filter fun y => y.comm == c && !(x.known.any fun k => k.2 == y.tag)).map fun y => y.tag)) ∧
      (x.electAt ≠ 0 → (∀ r ∈ x.reports, r.src ≠ src) → (∃ m ∈ x.members, m ≠ src ∧ ∀ r ∈ x.reports, r.src ≠ m) →
        exec (.report d c src term next known sent gone posted) s = .next (s.updComm d c fun x => { x with
          reports := x.reports ++ [{ src := src, next := next, known := known, ready := sent, gone := gone, posted := posted }] })) ∧
      (x.electAt = 0 ∨ (∃ r ∈ x.reports, r.src = src) → exec (.report d c src term next known sent gone posted) s = .next s))

/-- R36, R37, R38, R40, R45 to R47, R50, R169, R208, R411: the walk engines, 64 of a die and 32 of a partition, granted round-robin
among the partitions; the miss of an agent that is no lane, which joins a walk for its page or queues one; the host's
translation service, whose answers the L2 TLBs hold and whose Invalidate Request is completed once no access is in flight; the
answers that release what is held, the completion of accesses, and the registers and waiting records of a trap queue.
The model's own choices in it: logs 4, 18, 19, 65, 68 (a walk that waits on its engine is taken up when no queued walk may have
an engine), 69 and 71 (a page response with `ok` false fails what is held). -/
def Obligations.WalksAndTrapQueue : Prop :=
  (∀ (s s1 : State) (d : Nat) (w : Walk), s.nextWalk d = some w →
    let s0 := s.updDie d fun x => { x with walkRR := w.part + 1 }
    let s2 := s1.updDie d fun y => { y with walks := y.walks.filter fun v => v.id != w.id }
    let waits := fun (x : WalkState) => s1.updDie d fun y => { y with walks := (y.walks.filter fun v => v.id != w.id) ++ [{ w with state := x }] }
    (∀ x, s0.walk d w.part w.asid w.vf w.va w.acc .access = (s1, .ok x) → exec (.walkEngineGrant d) s =
      .next (match w.core with | some c => s2.tlbFill c x | none => s2.tlbFillDie d x)) ∧
    (s0.walk d w.part w.asid w.vf w.va w.acc .access = (s1, .ats) → exec (.walkEngineGrant d) s = .next (waits .ats)) ∧
    (s0.walk d w.part w.asid w.vf w.va w.acc .access = (s1, .held) → exec (.walkEngineGrant d) s = .next (waits .engine)) ∧
    (∀ f, s0.walk d w.part w.asid w.vf w.va w.acc .access = (s1, .fault f) → ∃ t, exec (.walkEngineGrant d) s = .next t ∧
      { t with teams := s2.teams } = (s2.updDie d fun y => { y with xlFails := y.xlFails ++ w.agents.map fun a =>
        { who := a, part := w.part, asid := w.asid, page := w.va / 65536, code := f.code, kind := f.kind, acc := f.acc, ppa := f.ppa } }) ∧
      ∀ u k, t.groupOf u k = if (s1.teamOf u).core / 64 = d then (s1.groupOf u k).onEntries fun x => x.walkFault w.id f
      else s1.groupOf u k)) ∧
  (∀ (s : State) (who : Asker) (c part asid vf va : Nat) (acc : Acc), s.tlbFind c part asid va acc = none →
    let d := c / 64
    let y := s.dieOf d
    let s1 := s.capture part 5 (y.walks.filter fun w => w.part == part).length
    let w : Walk := { id := y.lastWalk + 1, part := part, asid := asid, vf := vf, va := va, acc := acc, core := some c, agents := [who] }
    (∀ f ∈ y.xlFails, f.who = who → f.part = part → f.asid = asid → f.page = va / 65536 →
      ∃ t k, s.translateNow who c part asid vf va acc = (t, .fault k) ∧ { t with dies := s.dies } = s) ∧
    ((∀ f ∈ y.xlFails, f.who ≠ who) →
      (∀ v ∈ y.walks, v.part = part → v.asid = asid → v.va / 65536 = va / 65536 → who ∈ v.agents →
        s.translateNow who c part asid vf va acc = (s, .held)) ∧
      ((∀ v ∈ y.walks, who ∉ v.agents) →
        (∀ v, y.walks.find? (fun v => v.joins part asid va) = some v → ∃ t, s.translateNow who c part asid vf va acc = (t, .held) ∧
          { t with dies := s1.dies } = s1 ∧ (t.dieOf d).walks = y.walks.map fun u => if u.id = v.id then { u with merged := u.merged + 1, agents := u.agents ++ [who] } else u) ∧
        ((∀ v ∈ y.walks, v.joins part asid va = false) → y.missFull part = true → s.translateNow who c part asid vf va acc = (s, .held)) ∧
        ((∀ v ∈ y.walks, v.joins part asid va = false) → y.missFull part = false →
          s.translateNow who c part asid vf va acc = (s1.updDie d fun y => { y with walks := y.walks ++ [w], lastWalk := w.id }, .held))))) ∧
  (∀ (s : State) (d : Nat),
    let x := s.dieOf d
    let free := fun (w : Walk) => (x.walks.filter fun v => v.state != .queued).length < 64 ∧
      (x.walks.filter fun v => v.state != .queued && v.part == w.part).length < 32
    let turn := fun (w : Walk) => (w.part + 32 - x.walkRR) % 32
    ((∀ w ∈ x.walks, w.state ≠ .engine ∧ (w.state = .queued → ¬ free w)) → exec (.walkEngineGrant d) s = .next s) ∧
    ∀ w, s.nextWalk d = some w → w ∈ x.walks ∧
      ((w.state = .queued ∧ free w ∧ ∀ v ∈ x.walks, v.state = .queued → free v → turn w ≤ turn v) ∨
       (w.state = .engine ∧ ∀ v ∈ x.walks, v.state = .queued → ¬ free v))) ∧
  (∀ (s : State) (fn asid page lg : Nat) (grant : Option Nat) (r w : Bool), s.launches = [] →
    let asked := (s.vdevOf fn).atsAsked.filter fun x => x.2 == (asid, page)
    let v := { s.vdevOf fn with atsAsked := (s.vdevOf fn).atsAsked.filter fun x => x.2 != (asid, page) }
    let ready := fun (d : Die) => { d with walks := d.walks.map fun x => if x.state = .ats then { x with state := .engine } else x }
    ∃ t, exec (.atsTranslationCompletion fn asid page lg grant r w) s = .next t ∧
      { t with vdevs := s.vdevs, dies := s.dies, out := s.out, draw := s.draw } = s ∧ (∀ v, v ≠ fn → t.vdevOf v = s.vdevOf v) ∧
      (∀ d, { t.dieOf d with l2tlb := (s.dieOf d).l2tlb } = ready (s.dieOf d)) ∧
      (∀ d, (∀ x ∈ asked, x.1 ≠ d) ∨ grant = none → t.dieOf d = ready (s.dieOf d)) ∧
      (∀ hpa, grant = some hpa → t.out = s.out ∧ t.vdevOf fn = v ∧ ∀ d, asked = [(d, asid, page)] → t.draw = s.draw + 1 ∧ s.atsEntry fn asid page lg hpa r w ∈ (t.dieOf d).l2tlb) ∧
      (grant = none → 256 ≤ v.pri.length → t.out = s.out ∧ t.vdevOf fn = v) ∧
      (grant = none → v.pri.length < 256 → t.out = s.out ++ [.pageReq fn page] ∧ page ∈ (t.vdevOf fn).pri ∧
        (asid, page) ∈ (t.vdevOf fn).atsNo ∧ { t.vdevOf fn with pri := v.pri, atsNo := v.atsNo } = v)) ∧
  (∀ (s : State) (fn asid page lg hpa : Nat) (r w : Bool),
    let x := s.atsEntry fn asid page lg hpa r w
    x.ats = true ∧ x.vf = fn ∧ x.asid = asid ∧ x.log2 = atsLog2 lg (page * 4096) hpa ∧ x.va = page * 4096 / 2 ^ x.log2 ∧ x.r2 = r ∧ x.w2 = w ∧
      (4096 ∣ hpa → x.dpa = 2 ^ 50 + hpa % 2 ^ 50)) ∧
  (∀ n io hpa : Nat, 12 ≤ n → 4096 ∣ io → 4096 ∣ hpa →
    let k := atsLog2 n io hpa
    12 ≤ k ∧ k ≤ min n 30 ∧ 2 ^ k ∣ io ∧ 2 ^ k ∣ hpa ∧ ∀ j, j ≤ min n 30 → 2 ^ j ∣ io → 2 ^ j ∣ hpa → j ≤ k) ∧
  (∀ (s : State) (fn base len : Nat),
    let hit := fun (x : Tlb) => decide (x.dpa / 2 ^ 50 % 4 = 1 ∧ x.st2 = false ∧ x.io < base + len ∧ base < x.io + 2 ^ x.log2)
    ∃ t : State, exec (.atsInvalidateRequest fn base len) s = .next (t.atsInvTry fn) ∧ { t with vdevs := s.vdevs, dies := s.dies, cores := s.cores } = s ∧
      (∀ v, t.vdevOf v = if v = fn then
        { s.vdevOf fn with atsInv := (s.vdevOf fn).atsInv ++ [(base, len)] } else s.vdevOf v) ∧
      (∀ d, t.dieOf d = { s.dieOf d with l2tlb := (s.dieOf d).l2tlb.filter fun x => !hit x
                                         wcache := (s.dieOf d).wcache.filter fun x => !(s.partOf x.part).vfmask.getLsbD fn }) ∧
      ∀ c, t.coreOf c = { s.coreOf c with tlb := (s.coreOf c).tlb.filter fun x => !hit x }) ∧
  (∀ (s : State) (fn : Nat),
    ((∃ p ∈ s.parts, p.2.vfmask.getLsbD fn = true ∧ s.inFlight p.1 = true) → s.atsInvTry fn = s) ∧
    ((∀ p ∈ s.parts, p.2.vfmask.getLsbD fn = true → s.inFlight p.1 = false) →
      (s.atsInvTry fn).out = s.out ++ ((s.vdevOf fn).atsInv.map fun x => Out.atsInvDone fn x.1 x.2) ∧ ((s.atsInvTry fn).vdevOf fn).atsInv = [])) ∧
  (∀ (s : State) (fn page : Nat) (ok : Bool),
    let s1 := s.updVdev fn fun v => { v with pri := v.pri.filter fun p => p != page }
    let of := fun (p : Part) => (p.tqPosted ++ p.tqStalled ++ p.tqWait).filter fun r => !r.fatal && r.kind == 2 && r.vf == fn && r.io == page
    ((∀ p ∈ s.parts, of p.2 = []) → exec (.pageResponse fn page ok) s = .next s1) ∧
    ∀ p r, (s.parts.flatMap fun x => (of x.2).map fun r => (x.1, r)) = [(p, r)] →
      let s2 := s1.updPart p fun x => { x with
        tqPosted := x.tqPosted.filter fun q => !(q.tag == r.tag && q.ofPage fn page), tqStalled := x.tqStalled.filter fun q => !(q.tag == r.tag && q.ofPage fn page)
        tqWait := x.tqWait.filter fun q => !(q.tag == r.tag && q.ofPage fn page) }
      let more := ∃ q ∈ (s2.partOf p).tqPosted ++ (s2.partOf p).tqStalled ++ (s2.partOf p).tqWait, q.fatal = false ∧ q.tag = r.tag
      (ok = false → exec (.pageResponse fn page ok) s = .next ((s1.failTag p r.tag r.va).pumpPart p)) ∧
      (ok = true → more → exec (.pageResponse fn page ok) s = .next (s2.pumpPart p)) ∧
      (ok = true → ¬ more → exec (.pageResponse fn page ok) s = .next ((s2.retryTag p r.tag).pumpPart p))) ∧
  (∀ (s : State) (u k : Nat),
    let s1 := (s.pump u k).updGroup u k Group.resume
    ((s1.groupOf u k).finished = false → exec (.memoryAccessCompletion u k) s = .next s1) ∧
    ((s1.groupOf u k).finished = true → exec (.memoryAccessCompletion u k) s = .next (s1.settle u)) ∧
    ((s.groupOf u k).queue = [] → s.pump u k = s) ∧
    ∀ g : Group, g.resume = (fun g1 : Group => if g.atTrap = true then g1 else g1.joinCouple) { g with paths := g.paths.map fun p => match p.stop with
      | .wait a b c d =>
        let n := if g.atTrap = true ∧ p.slices &&& g.frame.slices ≠ 0 then g.tctr else g.ctr
        if (63 ≤ a ∨ n.ld.length ≤ a) ∧ (63 ≤ b ∨ n.st.length ≤ b) ∧ (63 ≤ c ∨ n.cp.length ≤ c) ∧ (63 ≤ d ∨ n.tl.length ≤ d) then
          { p with stop := .ready } else p
      | _ => p }) ∧
  (∀ (s : State) (p : Nat),
    let s0 := s.flushTrace p
    let x := s0.partOf p
    ((s.partOf p).trWait = [] → s0 = s) ∧
    (x.tqWait = [] → (x.tqStalled = [] ∨ x.tqFree ≤ 2) → exec (.stalledRecordPost p) s = .next s0) ∧
    ∀ (r : TrapRec) (rest : List TrapRec) (y : Part → Part),
      (x.tqWait = r :: rest ∧ y = fun z => { z with tqWait := rest }) ∨
        (x.tqWait = [] ∧ 2 < x.tqFree ∧ x.tqStalled = r :: rest ∧ y = fun z => { z with tqStalled := rest }) →
      let w := s0.writeRecord r
      let s1 := w.1.updPart p y
      (w.2 = .posted → exec (.stalledRecordPost p) s = .next s1) ∧
      (w.2 = .stalled → exec (.stalledRecordPost p) s = .next w.1) ∧
      (w.2 = .failed → r.fatal = false → exec (.stalledRecordPost p) s = .next ((s1.failTag p r.tag r.va).pumpPart p)) ∧
      (w.2 = .failed → r.fatal = true → exec (.stalledRecordPost p) s =
        .next (s1.updPart p fun z => { z with tqFovf := true, tqLost := min (z.tqLost + 1) 0xFFFF }))) ∧
  (∀ (s : State) (p : Nat) (v : Word),
    exec (.tqheadWrite p v) s = .next (s.updPart p fun x =>
      if (v - x.tqHead).toNat ≤ (x.tqTail - x.tqHead).toNat then { x with tqHead := v } else { x with tqBadHead := true })) ∧
  ∀ (s : State) (p : Nat) (v : Word),
    let n := v.toNat / 2 % 32
    let s1 := s.updPart p fun x => { x with tqEn := v.getLsbD 0, tqLog2 := if 6 ≤ n ∧ n ≤ 16 then n else x.tqLog2 }
    (v.getLsbD 0 = true → exec (.tqctlWrite p v) s = .next s1) ∧
    (v.getLsbD 0 = false → exec (.tqctlWrite p v) s = .next
      (((((s.partOf p).tqStalled ++ (s.partOf p).tqWait).foldl (fun s r =>
        if r.fatal then s.updPart p fun z => { z with tqFovf := true, tqLost := min (z.tqLost + 1) 0xFFFF } else s.failTag p r.tag r.va) s1).updPart p fun x =>
      { x with tqStalled := [], tqWait := [] }).pumpPart p))

/-- R65, R66, R76, R77, R132, R133, R134, R186, R336: reads, merged writes and atomics at a home slice: a line that stands whole
in the slice is served from it; a miss fetches the line from its stripe and keeps it under its policy; a line that stands there
in part is completed from its stripe, the sectors that are there prevailing; another die reads through its proxy slice. A request
that is not admitted changes nothing; a whole line written over a stripe with two positions lost is discarded; and what a line
reads as after one of its slice's lines is replaced, with every other line as before. The model's own choices in it: logs 32,
54 and 84. -/
def Obligations.HomeSlices : Prop :=
  (∀ (s : State) (die dpa vdev cls n : Nat) (v : DWord) (op : BitVec 4) (x y : DWord),
    (s.admits dpa 1 = false → exec (.homeSliceRead die dpa vdev cls) s = .next s) ∧
    (s.admits dpa n = false → exec (.homeSliceWrite die dpa vdev cls n v) s = .next s) ∧
    (s.admits dpa (aopBytes op.toNat) = false → exec (.homeSliceAtomic die dpa vdev op x y) s = .next s)) ∧
  (∀ (s : State) (die dpa vdev cls : Nat), s.admits dpa 1 = true →
    exec (.homeSliceRead die dpa vdev cls) s = .next (s.readLine (die % 3) (dpa / 128) vdev (cls % 4)).1) ∧
  (∀ (s : State) (line vdev cls kind w : Nat), s.l2Find (s.homeOf line) line = some w → (s.l2Line (s.homeOf line) line w).valid = 3 →
    s.homeServe line vdev cls kind =
      ((s.countHome vdev true).l2Touch (s.homeOf line) line w true, .data (s.l2Line (s.homeOf line) line w).data)) ∧
  (∀ (s s1 : State) (line vdev cls kind : Nat),
    let h := s.homeOf line
    let s0 := s.countHome vdev false
    let wp := s0.l2Ways vdev cls kind
    (s.homeLacks line = true → s0.stripeRead (line * 128) vdev = (s1, .poison) → s.homeServe line vdev cls kind = (s1, .poison)) ∧
    ∀ v, s0.stripeRead (line * 128) vdev = (s1, .data v) →
      (s.l2Find h line = none → wp.2 = 2 → s.homeServe line vdev cls kind = (s1, .data v)) ∧
      (s.l2Find h line = none → wp.2 ≠ 2 → s.homeServe line vdev cls kind =
        (s1.l2Place h line wp.1 (wp.2 == 0) { on := true, line := line, valid := 3, data := v, vdev := vdev }, .data v)) ∧
      ∀ w, s.l2Find h line = some w → (s.l2Line h line w).valid ≠ 3 →
        let l := s.l2Line h line w
        let m := mergeLine v l.data (sectorMask l.valid)
        s.homeServe line vdev cls kind = ((s1.setL2 h line w { l with valid := 3, data := m }).l2Touch h line w true, .data m)) ∧
  (∀ (s s1 : State) (d line vdev cls : Nat),
    let h := s.homeOf line
    let x := proxyOf h d
    (h / 128 = d → s.readLine d line vdev cls = s.homeServe line vdev cls 0) ∧
    (h / 128 ≠ d →
      (∀ w, s.l2Find x line = some w → s.readLine d line vdev cls = (s.l2Touch x line w true, .data (s.l2Line x line w).data)) ∧
      (s.l2Find x line = none → s.homeServe line vdev cls 0 = (s1, .poison) → s.readLine d line vdev cls = (s1, .poison)) ∧
      ∀ v, s.l2Find x line = none → s.homeServe line vdev cls 0 = (s1, .data v) →
        let wp := s1.l2Ways vdev cls 0
        (s1.l2Find h line = none ∨ wp.2 = 2 → s.readLine d line vdev cls = (s1, .data v)) ∧
        ∀ w, s1.l2Find h line = some w → wp.2 ≠ 2 →
          let l := s1.l2Line h line w
          s.readLine d line vdev cls = ((s1.setL2 h line w { l with prx := l.prx ||| (1#2 <<< prxBit h d) }).l2Place x line wp.1 (wp.2 == 0)
            { on := true, line := line, home := false, valid := 3, data := v, vdev := vdev }, .data v))) ∧
  (∀ (s : State) (line vdev cls kind u k : Nat) (v : BitVec 1024), s.homeLacks line = true → s.unwritable line = true →
    s.homeWrite line (BitVec.allOnes 128) v vdev cls kind u k = s) ∧
  (∀ (s : State) (die dpa vdev cls n : Nat) (v : DWord), s.admits dpa n = true →
    let line := dpa / 128
    let h := s.homeOf line
    let s0 := ((s.countHome vdev (s.l2Find h line).isSome).dropProxies h line).noteWrite line noTeam 0
    let m := maskAt (dpa % 128) n
    ∀ w, s.l2Find h line = some w → (s.l2Line h line w).valid = 3 → s0.l2Find h line = some w → (s0.l2Line h line w).valid = 3 →
      let l := s0.l2Line h line w
      exec (.homeSliceWrite die dpa vdev cls n v) s = .next ((s0.setL2 h line w { l with
        data := mergeLine l.data (lineAt (dpa % 128) v.toNat) m, valid := l.valid ||| sectorsFull m
        dirty := l.dirty ||| sectorsOf m, vdev := vdev, prx := 0 }).l2Touch h line w true)) ∧
  (∀ (s : State) (line w : Nat) (l : L2Line), s.l2Find (s.homeOf line) line = some w → l.on = true → l.line = line → l.valid = 3 →
    ∀ m, ((s.setL2 (s.homeOf line) line w l).l2Touch (s.homeOf line) line w true).homeView m = if m = line then .data l.data else s.homeView m) ∧
  (∀ (l v : BitVec 1024) (o n k : Nat), o + n ≤ 128 → k < 128 →
    bytesAt (mergeLine l v (maskAt o n)) k 1 = if o ≤ k ∧ k < o + n then bytesAt v k 1 else bytesAt l k 1) ∧
  ∀ (s s1 : State) (die dpa vdev : Nat) (op : BitVec 4) (x y : DWord), 
    let n := aopBytes op.toNat
    s.admits dpa n = true →
    (s.readHome dpa n vdev 0 2 = (s1, none) → exec (.homeSliceAtomic die dpa vdev op x y) s = .next s1) ∧
    ∀ old, s.readHome dpa n vdev 0 2 = (s1, some old) → exec (.homeSliceAtomic die dpa vdev op x y) s =
      .next (s1.writeHome dpa n (aopNew op.toNat old (x.toNat % 2 ^ (8 * n)) (y.toNat % 2 ^ (8 * n))) vdev 0 2 noTeam 0)

/-- R57, R58, R67 to R76, R82, R107 to R113: drops of elements, the moves of the resurvey, the switch of a parcel, single moves,
the perambulator and the clearing of a corrected-error counter.
The model's own choices in it: logs 11, 30, 33, 55 and 56; log 80 (a move that is not made is not asked for again) and log 16
(the reserved area's parcels are numbered after the others, up to 288,358). -/
def Obligations.Resurvey : Prop :=
  (∀ (s : State) (v : Word),
    (Elem.ofWord v = none → ∃ t, exec (.rsdrop v) s = .next t ∧ { t with dies := s.dies } = s ∧
      ∀ d, t.dieOf d = if d < 3 then { s.dieOf d with rsBadDesc := true } else s.dieOf d) ∧
    ∀ e, Elem.ofWord v = some e → (∀ d, d < 3 → (s.dieOf d).rsBusy = false) → exec (.rsdrop v) s = .next { s with
      drops := s.drops ++ [e]
      faults := s.faults ++ [{ elem := e.word, kind := 8, time := s.clock.toNat }]
      plan := s.plan ++ (match ({ s with drops := s.drops ++ [e] } : State).escalates e with
        | some x => [.own (.rsdrop x.word)]
        | none => []) }) ∧
  (∀ (s : State) (die frame : Nat),
    (((s.dieOf die).rsBusy = true ∨ s.nextMove die = none) → exec (.resurveyTakeParcel die frame) s = .next s) ∧
    ∀ parcel pos by_, (s.dieOf die).rsBusy = false → s.nextMove die = some (parcel, pos, by_) →
      let cd := s.cadOf parcel
      let same := match by_ with | some (_, e) => e.level == 0 | none => !s.retired (cd.a.stk.getD pos 0)
      let bx := match by_ with | some (_, e) => if e.level = 0 then cd.bankx ||| (1#32 <<< e.bank) else cd.bankx | none => cd.bankx
      (s.newStack cd.a pos same = none → exec (.resurveyTakeParcel die frame) s = .next { s.skipMove parcel pos by_ with nospare := true }) ∧
      ∀ k, s.newStack cd.a pos same = some k → s.targetOk (s.target cd.a pos k frame) pos bx = true →
        exec (.resurveyTakeParcel die frame) s = .next ((s.setCad parcel { cd with
          state := 1, cursor := 0, bankx := bx, t := some (s.target cd.a pos k frame) }).updDie die fun d =>
            { d with rsBusy := true, rsParcel := parcel, rsPos := pos, rsSingle := by_.isNone, rsStop := false })) ∧
  (∀ (s : State) (die : Nat),
    let d := s.dieOf die
    let p := d.rsParcel
    let cd := s.cadOf p
    let wait := s.unready (p * 16384 + cd.cursor)
    ((d.rsBusy = false ∨ cd.state ≠ 1 ∨ s.rsrate.toNat % 65536 = 0 ∨ wait = true) → exec (.resurveyLineCopy die) s = .next s) ∧
    ∀ t, cd.t = some t → d.rsBusy = true → cd.state = 1 → s.rsrate.toNat % 65536 ≠ 0 → wait = false →
      let c := t.col d.rsPos cd.cursor
      let r := s.stripeRead (p * 2 ^ 21 + cd.cursor * 128) 126
      let s1 := (match r.2 with
        | .data v => r.1.colWrite c (colOfLine cd.cursor v d.rsPos) false 126 p cd.version
        | .poison => r.1.colWrite c 0 true 126 p cd.version).setCad p { cd with cursor := cd.cursor + 1 }
      let s2 := s1.cleanParcel p
      (cd.cursor + 1 < 16384 → exec (.resurveyLineCopy die) s = .next s1) ∧
      (16384 ≤ cd.cursor + 1 → exec (.resurveyLineCopy die) s = .next (s2.setCad p { s2.cadOf p with state := 2 }))) ∧
  (∀ (s : State) (die : Nat),
    let d := s.dieOf die
    (d.rsBusy = true → (s.cadOf d.rsParcel).state = 2 → exec (.parcelSwitch die) s = .next (s.updDie die fun x => { x with rsStop := true })) ∧
    ((d.rsBusy = false ∨ (s.cadOf d.rsParcel).state ≠ 2) → exec (.parcelSwitch die) s = .next s)) ∧
  (∀ (s : State) (die : Nat) (l : Layout),
    let d := s.dieOf die
    let p := d.rsParcel
    let cd := s.cadOf p
    let held := s.wlocks.any fun w => match w.key with | .mem m => parcelOf (m * 128) == p | _ => false
    ((d.rsBusy = false ∨ d.rsStop = false ∨ held = true) → exec (.switchDrainComplete die) s = .next s) ∧
    (d.rsBusy = true → d.rsStop = true → held = false → cd.t = some l → l.home = cd.a.home → s.sliceLines cd.a.home p = [] → d.rsSingle = false →
      ∃ t, exec (.switchDrainComplete die) s = .next t ∧
        { t with cad := s.cad, dies := s.dies } = s ∧
        (∀ q, t.cadOf q = if q = p then { cd with state := 0, version := (cd.version + 1) % 65536, cursor := 0, a := l, t := none } else s.cadOf q) ∧
        ∀ k, k < 3 →
          (t.dieOf k).rsBusy = (if k = die then false else (s.dieOf k).rsBusy) ∧
          Sparse.get (0, 0) (t.dieOf k).cadCache p =
            (if (s.dieOf k).replays.any (fun r => r.parcel == p && r.sent) then Sparse.get (0, 0) (s.dieOf k).cadCache p
             else (cd.a.home, cd.version)))) ∧
  (∀ (s : State) (die p : Nat),
    let due := (s.dieOf die).replays.filter fun r => r.parcel == p && !r.sent && s.replayLive r
    let entryIn := fun (u : State) => u.updDie die fun d => { d with
      cadCache := Sparse.erase d.cadCache p
      replays := (d.replays.filter s.replayLive).map fun r => if r.parcel = p then { r with sent := true } else r }
    (due = [] → exec (.moved die p) s = .next (entryIn s)) ∧
    (due ≠ [] → exec (.moved die p) s = .next (entryIn (s.count (s.ownerOf p) 0x14 due.length)))) ∧
  (∀ (s : State) (p j : Nat), exec (.singleParcelMove p j) s =
    .next (if p < 288358 ∧ j < 5 ∧ (p, j) ∉ s.rsSingles then { s with rsSingles := s.rsSingles ++ [(p, j)] } else s)) ∧
  (∀ (s : State) (die : Nat), s.pbctl.getLsbD 31 = false → exec (.perambulatorLineRead die) s = .next s) ∧
  (∀ (s : State) (die : Nat),
    let d := s.dieOf die
    s.pbctl.getLsbD 31 = true → d.pbParcel < 288358 → (s.cadOf d.pbParcel).a.home / 128 = die → 
    ((s.cadOf d.pbParcel).state ≠ 0 → exec (.perambulatorLineRead die) s = .next (s.updDie die fun d =>
      { d with pbParcel := d.pbParcel + 1, pbLine := 0, pbSkipped := d.pbSkipped ++ [d.pbParcel] })) ∧
    ((s.cadOf d.pbParcel).state = 0 → s.unready (d.pbParcel * 16384 + d.pbLine) = true → exec (.perambulatorLineRead die) s = .next s) ∧
    ((s.cadOf d.pbParcel).state = 0 → s.unready (d.pbParcel * 16384 + d.pbLine) = false →
        s.l2Find (s.cadOf d.pbParcel).a.home (d.pbParcel * 16384 + d.pbLine) = none → d.pbLine + 1 < 16384 →
      exec (.perambulatorLineRead die) s = .next ((s.stripeRead ((d.pbParcel * 16384 + d.pbLine) * 128) 125).1.updDie die fun x =>
        { x with pbParcel := d.pbParcel, pbLine := d.pbLine + 1 }))) ∧
  ∀ (s : State) (k : Nat), exec (.cecntWrite k) s = .next { s with cecnt := Sparse.erase s.cecnt k }

/-- R90 to R98, R105, R484: a packet that reaches a base die: discarded while its training is not done or its tag is
outstanding, answered with STATUS 3 where malformed, and else accepted to wait for the scheduler, which it wakes; what the
scheduler serves first; what reads, writes and refresh control answer; the receipt of replies, of which one that reports a column is
recorded and the fifth of a line's columns has the line decoded as it stands; and the time-out of a tag.
The model's own choices in it: logs 54 and 81. -/
def Obligations.BaseDiePackets : Prop :=
  (∀ (s : State) (k : Nat) (hdr : DWord) (be : Word) (data : BitVec 256),
    ∀ i ∈ ([(.baseDieRead k hdr, s.packet 0 0 hdr 0 0), (.baseDieWrite k hdr data, s.packet 1 0 hdr 0 data),
        (.baseDieMaskedWrite k hdr be data, s.packet 2 0 hdr be data), (.refreshRate k hdr, s.packet 3 0 hdr 0 0),
        (.selfRefreshEntryRequest k hdr, s.packet 3 1 hdr 0 0), (.selfRefreshExitRequest k hdr, s.packet 3 2 hdr 0 0),
        (.neighbourRefresh k hdr, s.packet 3 3 hdr 0 0)] : List (Instr × Packet)),
      let t := s.stackOf k
      let x := i.2
      let held := Sparse.get none t.tags (tagKey x.hdr)
      ((t.trDone = false ∨ t.linkDown = true) → exec i.1 s = .next s) ∧
      (t.trDone = true → t.linkDown = false →
        (hdrDie x.hdr ≠ 3 → held.isSome = true →
          exec i.1 s = .next (s.updStack k fun t => { t with tagdup := min (t.tagdup + 1) 0xFFFF })) ∧
        ((hdrDie x.hdr = 3 ∨ held = none) →
          (hdrBad x.hdr = true → exec i.1 s = .next (s.updStack k fun t => { t with
            replies := t.replies ++ [{ hdr := replyHdr x.hdr 3 false false }], refused := min (t.refused + 1) 0xFFFF })) ∧
          (hdrBad x.hdr = false → ∃ u, exec i.1 s = .next u ∧ { u with stks := s.stks } = s ∧ (∀ j, j ≠ k → u.stackOf j = s.stackOf j) ∧
            { u.stackOf k with tags := t.tags, sr := t.sr } = { t with waiting := t.waiting ++ [x] } ∧
            (∀ g, Sparse.get none (u.stackOf k).tags g = if g = tagKey x.hdr then some x else Sparse.get none t.tags g) ∧
            ∀ p, Sparse.get {} (u.stackOf k).sr p =
              let y : SelfRef := Sparse.get {} t.sr p
              if p ≠ hdrP x.hdr then y
              else match y.state with
                | .selfref => { y with state := .exiting, timer := s.clock.toNat }
                | .idle => { y with state := .active }
                | _ => y)))) ∧
  (∀ (t : Stack) (p now : Nat) (all : Bool) (k : Packet), (∀ x ∈ t.waiting, x.time < 2 ^ 64) → t.next p now all = some k →
    let mine := t.waiting.filter fun x => hdrP x.hdr == p
    k ∈ mine ∧ (all = true ∨ t.throttles k now = false) ∧
    ∀ x ∈ mine, (all = true ∨ t.throttles x now = false) → t.mayServe x (mine.takeWhile fun y => y != x) now = true →
      t.classOf k ≤ t.classOf x ∧ (t.classOf k = t.classOf x → t.classOf k ≠ 4 → k.time ≤ x.time)) ∧
  (∀ (s : State) (k : Nat) (x : Packet), hdrKind x.hdr = 0 →
    let c := hdrCol k x.hdr
    let s1 := s.colServe c (hdrVdev x.hdr) 1
    s.perform k x none = s1.updStack k (fun t => { t with replies := t.replies ++ [{
      hdr := replyHdr x.hdr (s1.colStatus c) (s1.colStatus c != 2 && s1.colPsn c) false
      data := if s1.colStatus c = 2 then 0 else s1.colData c }] }) ∧
    ∀ w : Packet, s.perform k x (some w) = s1.updStack k fun t => { t with replies := t.replies ++ [{
      hdr := replyHdr x.hdr 0 (w.hdr.getLsbD 18) true, data := w.data }] }) ∧
  (∀ (s : State) (k : Nat) (x : Packet), hdrKind x.hdr = 1 →
    let t := s.perform k x none
    let bad := Sparse.get false s.broken (hdrCol k x.hdr).index
    (t.stackOf k).replies.getLast? = some { hdr := replyHdr x.hdr (if bad then 2 else 0) false false } ∧
    (bad = false → t.colData (hdrCol k x.hdr) = x.data ∧ t.colStatus (hdrCol k x.hdr) = 0 ∧ t.colPsn (hdrCol k x.hdr) = x.hdr.getLsbD 18) ∧
    ∀ c : Col, (bad = true ∨ c.index ≠ (hdrCol k x.hdr).index) → t.colData c = s.colData c) ∧
  (∀ (s : State) (k : Nat) (x : Packet), hdrKind x.hdr = 2 →
    let c := hdrCol k x.hdr
    let t := s.perform k x none
    (s.colStatus c = 0 → x.be ≠ 0 → t.colData c = mergeCol (s.colData c) x.data x.be.toNat) ∧
    ((s.colStatus c ≠ 0 ∨ x.be = 0) → t.colData c = s.colData c)) ∧
  (∀ (s : State) (k : Nat) (x : Packet), hdrKind x.hdr = 3 →
    let p := hdrP x.hdr
    let t := s.perform k x none
    let sr : SelfRef := Sparse.get {} (s.stackOf k).sr p
    let sr' : SelfRef := Sparse.get {} (t.stackOf k).sr p
    (hdrOp x.hdr = 0 → sr' = { sr with mult := hdrArg x.hdr }) ∧
    (hdrOp x.hdr = 1 → sr' = { sr with pending := true } ∧ (t.stackOf k).replies = (s.stackOf k).replies) ∧
    (hdrOp x.hdr = 2 → sr' = sr) ∧
    (3 ≤ hdrOp x.hdr → sr' = sr ∧ Sparse.get none (t.stackOf k).openRow (p * 32 + (hdrCol k x.hdr).bank) = none) ∧
    (hdrOp x.hdr ≠ 1 → (t.stackOf k).replies = (s.stackOf k).replies ++ [{ hdr := replyHdr x.hdr 0 false false }])) ∧
  (∀ (s : State) (k j : Nat),
    ((s.stackOf k).replies[j]? = none → exec (.baseDieReply k j) s = .next s) ∧
    ∀ r, (s.stackOf k).replies[j]? = some r →
      let status := r.hdr.toNat / 2 ^ 49 % 4
      let s1 := s.updStack k fun t => { t with replies := t.replies.eraseIdx j }
      (status = 3 → exec (.baseDieReply k j) s = .next (s1.updDie (hdrDie r.hdr) fun d => { d with linkFaults := d.linkFaults + 1 })) ∧
      (status ≠ 3 → Sparse.get none (s.stackOf k).tags (tagKey r.hdr) = none → exec (.baseDieReply k j) s = .next s1) ∧
      ∀ x, status ≠ 3 → Sparse.get none (s.stackOf k).tags (tagKey r.hdr) = some x →
        let s2 := s1.updStack k fun t => { t with tags := Sparse.erase t.tags (tagKey r.hdr) }
        (x.dead = true → exec (.baseDieReply k j) s = .next s1) ∧
        (x.dead = false → hdrKind r.hdr ≠ 0 → exec (.baseDieReply k j) s = .next (s2.replyReport (hdrCol k x.hdr) false status)) ∧
        (x.dead = false → hdrKind r.hdr = 0 → exec (.baseDieReply k j) s =
          .next ((s2.replyReport (hdrCol k x.hdr) true status).columnIn (hdrDie r.hdr) (hdrCol k x.hdr) (hdrVdev x.hdr)))) ∧
  (∀ (s : State) (c : Col) (read : Bool) (status line j : Nat), s.lineAtCol c = some (line, j) →
    let s1 := s.postCol c status (line / 16384) (s.cadOf (line / 16384)).version
    s.replyReport c read 0 = s ∧ (status ≠ 0 → read = false ∨ status ≠ 2 → s.replyReport c read status = s1) ∧
      (status = 2 → s.replyReport c true status = s1.failedRead c)) ∧
  (∀ (s : State) (d v : Nat) (c : Col),
    (s.lineAtCol c = none → s.columnIn d c v = s) ∧
    ∀ line j, s.lineAtCol c = some (line, j) →
      let rest := (s.dieOf d).colsIn.filter fun y => y.line != line
      let others := (s.dieOf d).colsIn.filter fun y => y.line == line && y.pos != j
      (others.length < 4 → s.columnIn d c v = s.updDie d fun y => { y with colsIn := rest ++ { line := line, pos := j } :: others }) ∧
      (4 ≤ others.length → s.columnIn d c v = ((s.updDie d fun y => { y with colsIn := rest }).decoded line v (s.decode line)).1)) ∧
  ∀ (s : State) (k d p g : Nat) (x : Packet), Sparse.get none (s.stackOf k).tags (d * 512 + p * 8 + g) = some x →
    let e : Elem := { level := 1, stack := k, chan := p / 2, pch := p % 2 }
    let s1 := s.updStack k fun t => { t with
      tags := Sparse.set none t.tags (d * 512 + p * 8 + g) (some { x with dead := true }), waiting := t.waiting.erase x }
    let s2 := (s1.postFault { elem := e.word, kind := 4 }).drop e
    ((x.dead = true ∨ s.clock.toNat < x.time + 40000) → exec (.tagTimeout k d p g) s = .next s) ∧
    (x.dead = false → x.time + 40000 ≤ s.clock.toNat →
      exec (.tagTimeout k d p g) s = .next (if hdrKind x.hdr = 0 then s2.columnIn d (hdrCol k x.hdr) (hdrVdev x.hdr) else s2))

/-- R98, R99, R102, R105, R106, R111 to R118: tokens, refreshes, windows and self-refresh of a base die, its row log, and the
commands of its mailbox, of which one written while another is in progress is ignored; and the failure of its link.
The model's own choices in it: logs 30, 31 and 53; log 82 (a row that has been repaired leaves the row log) and log 17 (what the
check of a repaired unit says). -/
def Obligations.BaseDieUpkeep : Prop :=
  (∀ s : State, (s.clock.toNat / 20 ≤ s.refillAt → exec .tokenRefill s = .next s) ∧
    (s.refillAt < s.clock.toNat / 20 → (∀ x ∈ s.vdevs, qbRate x.2.qbcfg = 0) → exec .tokenRefill s = .next { s with refillAt := s.clock.toNat / 20 }) ∧
    ∀ v q, s.refillAt < s.clock.toNat / 20 → s.vdevs = [(v, q)] → qbRate q.qbcfg ≠ 0 → v < 96 ∨ v = 127 →
      ∃ t, exec .tokenRefill s = .next t ∧ { t with stks := s.stks, refillAt := s.refillAt } = s ∧ t.refillAt = s.clock.toNat / 20 ∧
        let fill := fun n => min (n + qbRate q.qbcfg * (s.clock.toNat / 20 - s.refillAt)) (qbDepth q.qbcfg * 6400)
        ∀ k, t.stackOf k = if k < 12 then { s.stackOf k with buckets := Sparse.upd 0 (s.stackOf k).buckets v fill } else s.stackOf k) ∧
  (∀ (s : State) (k p : Nat),
    let sr : SelfRef := Sparse.get {} (s.stackOf k).sr p
    let t := s.stackOf k
    let goTo := fun (st : SrState) => s.updStack k fun t => { t with sr := Sparse.set {} t.sr p { sr with state := st, timer := s.clock.toNat } }
    (s.clock.toNat < sr.refresh + 64000000 / 2 ^ sr.mult → exec (.refreshDue k p) s = .next s) ∧
    (sr.refresh + 64000000 / 2 ^ sr.mult ≤ s.clock.toNat → exec (.refreshDue k p) s = .next (s.updStack k fun t => { t with
      openRow := t.openRow.filter fun x => x.1 / 32 != p
      sr := Sparse.set {} t.sr p { sr with refresh := s.clock.toNat } })) ∧
    (s.clock.toNat / 64000000 ≤ t.hotWin → exec (.hotRowWindowEnd k) s = .next s) ∧
    (t.hotWin < s.clock.toNat / 64000000 →
      exec (.hotRowWindowEnd k) s = .next (s.updStack k fun t => { t with hot := [], hotWin := s.clock.toNat / 64000000 })) ∧
    (sr.state = .idle → t.srcfg.getLsbD 0 = true → sr.timer + t.srcfg.toNat / 65536 * 32 ≤ s.clock.toNat →
      exec (.selfRefreshTimerExpiry k p) s = .next (goTo .entering)) ∧
    ((sr.state ≠ .idle ∨ t.srcfg.getLsbD 0 = false ∨ s.clock.toNat < sr.timer + t.srcfg.toNat / 65536 * 32) →
      exec (.selfRefreshTimerExpiry k p) s = .next s) ∧
    ((sr.state ≠ .entering ∨ s.clock.toNat < sr.timer + 40) → exec (.selfRefreshEntryComplete k p) s = .next s) ∧
    (sr.state = .entering → sr.timer + 40 ≤ s.clock.toNat → ∃ u, exec (.selfRefreshEntryComplete k p) s = .next u ∧
      Sparse.get {} (u.stackOf k).sr p = { sr with
        state := if ∃ x ∈ t.waiting, hdrP x.hdr = p then .exiting else .selfref, timer := s.clock.toNat } ∧
      { u.stackOf k with sr := t.sr, replies := t.replies } = t ∧ { u with stks := s.stks } = s ∧ ∀ j, j ≠ k → u.stackOf j = s.stackOf j) ∧
    ((sr.state ≠ .exiting ∨ s.clock.toNat < sr.timer + 500) → exec (.selfRefreshExitComplete k p) s = .next s) ∧
    (sr.state = .exiting → sr.timer + 500 ≤ s.clock.toNat →
      ∃ u, exec (.selfRefreshExitComplete k p) s = .next u ∧ { u with stks := s.stks } = s ∧ (∀ j, j ≠ k → u.stackOf j = s.stackOf j) ∧
        { u.stackOf k with sr := t.sr } = t ∧
        Sparse.get {} (u.stackOf k).sr p =
          if ∃ x ∈ t.waiting, hdrP x.hdr = p then { sr with state := .active }
          else if sr.pending = true then { sr with state := .entering, timer := s.clock.toNat, pending := false }
          else { sr with state := .idle, timer := s.clock.toNat })) ∧
  (∀ (s : State) (k : Nat), exec (.rowLogExpiry k) s = .next (s.updStack k fun t => { t with
    rowLog := t.rowLog.filter fun r => decide (s.clock.toNat ≤ r.first + 2 ^ (s.mtcfg.toNat / 2 ^ 20 % 16) * 7200000000000) })) ∧
  (∀ (s : State) (k n : Nat) (fail : Word) (bad : Bool), (s.stackOf k).mbxBusy = true → (s.stackOf k).mbxCmd ≠ n →
    ∀ i ∈ ([(1, .mbxTrain k fail bad), (2, .mbxRowRepair k), (3, .mbxSetRefresh k), (4, .mbxReadRowLog k), (5, .mbxRepairRowsLeft k)] : List (Nat × Instr)),
      i.1 = n → exec i.2 s = .next (s.updStack k fun t => { t with mbxDropped := true })) ∧
  (∀ (s : State) (k : Nat) (fail : Word) (bad : Bool), (s.stackOf k).mbxBusy = false ∨ (s.stackOf k).mbxCmd = 1 →
    ∃ t, exec (.mbxTrain k fail bad) s = .next t ∧
      (∀ p bank row unit, p < 64 → bank < 32 → row < 16384 → unit < 64 →
        let c : Col := { stack := k, p := p, bank := bank, row := row, unit := unit }
        t.colData c = 0 ∧ t.colPsn c = false ∧ Sparse.get 0 t.chk c.index = 0) ∧
      (∀ j p bank row unit, j ≠ k → p < 64 → bank < 32 → row < 16384 → unit < 64 →
        let c : Col := { stack := j, p := p, bank := bank, row := row, unit := unit }
        t.colData c = s.colData c) ∧
      t.stackOf k = { s.stackOf k with trDone := true, trLinkErr := bad, linkDown := bad, trFail := fail, openRow := [], mbxCmd := 1, mbxBusy := false, mbxErr := 0 } ∧
      (∀ j, j ≠ k → t.stackOf j = s.stackOf j) ∧
      t.faults = s.faults ++ ((List.range 32).filter fun c => fail.getLsbD c).map (fun c =>
        { elem := Elem.word { level := 2, stack := k, chan := c }, kind := 5, time := s.clock.toNat }) ∧
      t.plan = (if s.bootDone then s.plan ++ (((List.range 32).filter fun c => fail.getLsbD c).map (fun c =>
          Turn.own (.rsdrop (Elem.word { level := 2, stack := k, chan := c })))
        ++ if bad then [.own (.rsdrop (Elem.word { level := 3, stack := k }))] else []) else s.plan)) ∧
  (∀ (s : State) (k : Nat), (s.stackOf k).mbxBusy = false ∨ (s.stackOf k).mbxCmd = 2 →
    let s0 := s.updStack k fun t => { t with mbxCmd := 2 }
    (mbxPlace (s.stackOf k).mbxArg0 = none → exec (.mbxRowRepair k) s = .next (s0.mbxEnd k 2)) ∧
    ∀ p bank row, mbxPlace (s.stackOf k).mbxArg0 = some (p, bank, row) →
      let c : Col := { stack := k, p := p, bank := bank, row := row, unit := 0 }
      (s.dropped c = true → exec (.mbxRowRepair k) s = .next (s0.mbxEnd k 4)) ∧
      (s.dropped c = false → 4 ≤ Sparse.get 0 (s.stackOf k).repairs (p * 32 + bank) → exec (.mbxRowRepair k) s = .next (s0.mbxEnd k 3)) ∧
      (s.dropped c = false → Sparse.get 0 (s.stackOf k).repairs (p * 32 + bank) < 4 → ∃ t, exec (.mbxRowRepair k) s = .next t ∧
        { t with broken := s.broken, chk := s.chk, stks := s.stks, faults := s.faults } = s ∧ (∀ j, j ≠ k → t.stackOf j = s.stackOf j) ∧
        (∀ u, u < 64 →
          let d : Col := { c with unit := u }
          Sparse.get false t.broken d.index = false ∧
          Sparse.get 0 t.chk d.index = if Sparse.get false s.broken d.index = true then 1 else Sparse.get 0 s.chk d.index) ∧
        t.stackOf k = { s.stackOf k with
          repairs := Sparse.upd 0 (s.stackOf k).repairs (p * 32 + bank) (· + 1), mbxCmd := 2, mbxBusy := false, mbxErr := 0
          rowLog := (s.stackOf k).rowLog.filter fun r => !(r.p == p && r.bank == bank && r.row == row) } ∧
        t.faults = s.faults ++ [{ elem := Elem.word { level := 0, stack := k, chan := p / 2, pch := p % 2, bank := bank }, kind := 6, rowid := row,
                                  count := s.logged c, time := s.clock.toNat }])) ∧
  (∀ (s : State) (k : Nat), (s.stackOf k).mbxBusy = false ∨ (s.stackOf k).mbxCmd = 3 →
    let p := (s.stackOf k).mbxArg0.toNat
    let m := (s.stackOf k).mbxArg1.toNat
    ((2 < m ∨ (63 < p ∧ p ≠ 255)) → exec (.mbxSetRefresh k) s = .next ((s.updStack k fun t => { t with mbxCmd := 3 }).mbxEnd k 2)) ∧
    (m ≤ 2 → (p ≤ 63 ∨ p = 255) → ∃ t, exec (.mbxSetRefresh k) s = .next t ∧ { t with stks := s.stks } = s ∧
      (∀ j, j ≠ k → t.stackOf j = s.stackOf j) ∧
      { t.stackOf k with sr := (s.stackOf k).sr } = { s.stackOf k with mbxCmd := 3, mbxBusy := false, mbxErr := 0 } ∧
      ∀ q, Sparse.get {} (t.stackOf k).sr q = let r : SelfRef := Sparse.get {} (s.stackOf k).sr q
        if (q = p ∧ p ≤ 63) ∨ (p = 255 ∧ q < 64) then { r with mult := m } else r)) ∧
  (∀ (s : State) (k : Nat), (s.stackOf k).mbxBusy = false ∨ (s.stackOf k).mbxCmd = 4 →
    ((s.stackOf k).rowLog.length ≤ (s.stackOf k).mbxArg0.toNat → exec (.mbxReadRowLog k) s = .next ((s.updStack k fun t => { t with mbxCmd := 4 }).mbxEnd k 2)) ∧
    (∀ r, (s.stackOf k).rowLog[(s.stackOf k).mbxArg0.toNat]? = some r → exec (.mbxReadRowLog k) s = .next (((s.updStack k fun t => { t with mbxCmd := 4 }).updStack k fun t => { t with
      mbxArg0 := BitVec.ofNat 32 (r.p * 2 ^ 25 + r.bank * 2 ^ 20 + r.row * 64), mbxArg1 := BitVec.ofNat 32 r.count }).mbxEnd k 0))) ∧
  (∀ (s : State) (k : Nat), (s.stackOf k).mbxBusy = false ∨ (s.stackOf k).mbxCmd = 5 →
    (mbxPlace (s.stackOf k).mbxArg0 = none → exec (.mbxRepairRowsLeft k) s = .next ((s.updStack k fun t => { t with mbxCmd := 5 }).mbxEnd k 2)) ∧
    ∀ p bank row, mbxPlace (s.stackOf k).mbxArg0 = some (p, bank, row) → exec (.mbxRepairRowsLeft k) s = .next (((s.updStack k fun t => { t with mbxCmd := 5 }).updStack k fun t => { t with
      mbxArg0 := BitVec.ofNat 32 (4 - Sparse.get 0 t.repairs (p * 32 + bank)) }).mbxEnd k 0)) ∧
  ∀ (s : State) (k : Nat), exec (.baseDieLinkFailure k) s = .next ((s.updStack k fun t => { t with linkDown := true }).drop { level := 3, stack := k })

/-- R126, R152 to R154, R194, R195, R202, R389, R391, R395, R396, R400, R416 to R418, R423, R477, R487: the choice of a group
at a run boundary, the end of a scrub, admission, the world switch at the end of a slice or of its function's work, the end of
LEFT, saving and restoring, and SHARE. The model's own choices in it: logs 2, 36 and 51; log 45 (the choice of a group and of the
paths that issue with it), log 58 (what PSAVE does to a group), logs 77 and 85 (what a saved context takes and how it comes back). -/
def Obligations.Scheduling : Prop :=
  (∀ (s : State) (k : Nat),
    ((Sparse.get {} s.runs k).on = true → exec (.groupSelect k) s = .next s) ∧
    ((Sparse.get {} s.runs k).on = false → s.chooseGroup k = none → exec (.groupSelect k) s = .next s) ∧
    ∀ key u g, (Sparse.get {} s.runs k).on = false → s.chooseGroup k = some (key, u, g) → (s.groupOf u g).inTx = false →
      ∃ t, exec (.groupSelect k) s = .next t ∧
        Sparse.get {} t.runs k = { on := true, uid := u, grp := g, slices := (s.groupOf u g).issueSet (s.clock.toNat + 1) } ∧
        (∀ j, j ≠ k → Sparse.get {} t.runs j = Sparse.get {} s.runs j) ∧
        { t with teams := s.teams, cores := s.cores, parts := s.parts, runs := s.runs } = s.farDone (.fetch u g) ∧
        (let sl := (s.groupOf u g).issueSet (s.clock.toNat + 1)
         t.groupOf u g = { s.groupOf u g with
           readyAt := 0
           paths := (s.groupOf u g).paths.map fun p => if p.slices &&& sl != 0 then { p with since := 0, due := false } else p }) ∧
        (∀ v j, (v, j) ≠ (u, g) → t.groupOf v j = s.groupOf v j) ∧
        Sparse.get 0 (t.coreOf (k / 4)).rr (k % 4) = key + 1) ∧
  (∀ (s : State) (c : Nat),
    ((s.coreOf c).scrubbing = false → exec (.scrubComplete c) s = .next s) ∧
    ((s.coreOf c).scrubbing = true → exec (.scrubComplete c) s = .next
      ((s.updCore c fun x => { x with scrubbing := false, scrubDone := true, scrubVdev := x.scrubFor }).updEngine (c / 4) fun e =>
        { e with scrubBy := if e.scrubBy = c + 1 then 0 else e.scrubBy }))) ∧
  (∀ (s : State) (id c : Nat), s.launchOf id = none → exec (.teamAdmission id c) s = .next s) ∧
  (∀ (s : State) (id c k : Nat) (l : Launch) (n : Node) (r : Room), s.launchOf id = some l → (s.partOf l.part).has (c / 4) = true →
    s.mayRun l.part l.fn = true → c < 192 → s.admissible l c = some (k, n, [(c, r)]) → n.cl = false →
    let s0 := s.abandonTest c
    (s0.prepared c l.fn = false → exec (.teamAdmission id c) s = .next (s0.prepare [c] l.fn)) ∧
    ∀ slot, s0.prepared c l.fn = true → (∀ x ∈ s0.teams, x.2.onCore = true → x.2.core / 4 = c / 4 → x.2.vf = l.fn) →
      s0.freePslot l.part n.lpBase [] = some slot →
      ∃ t, exec (.teamAdmission id c) s = .next t ∧ t.nextUid = s.nextUid + 1 ∧
        (∀ u, u ≠ s.nextUid → t.teamOf u = s.teamOf u) ∧
        t.teamOf s.nextUid = {
          place := .resident, part := l.part, vf := l.fn, asid := l.asid, prio := l.prio, launch := id, node := k
          x := n.admitted % n.x, y := n.admitted / n.x % n.y, z := n.admitted / n.x / n.y
          core := c, slot := r.slot, lanes := n.lanes, ngroup := n.groups, entry := n.entry, rank := c % 4, clHead := s.nextUid
          spBase := r.base, spSize := (n.scratch + 255) / 256, wincs := (s.partOf l.part).grant, pslot := slot, lpSize := n.lpSize
          lpBase := n.lpBase, bufBase := r.buf, bufCnt := n.bufs, tidBase := r.tid, tidCnt := n.tensor
          regs0 := n.regs0, regs1 := n.regs1, g0 := n.g0
          groups := (List.range n.groups).map fun g => (g, n.group g (r.quarters.getD g 0)) } ∧
        (∀ a, Mem.get (t.coreOf c).sp a = if r.base * 256 ≤ a ∧ a < r.base * 256 + n.argLen * 16 then
          BitVec.ofNat 8 (n.args / 256 ^ (a - r.base * 256)) else Mem.get (s0.coreOf c).sp a) ∧
        (∀ b, b < 4 → Sparse.get {} (t.coreOf c).bars (r.slot * 4 + b) = ({ exp := n.groups } : Bar)) ∧
        (∀ b, b < n.bufs → Sparse.get {} (t.coreOf c).bufs (r.buf + b) = ({ owner := r.slot } : Buf)) ∧
        t.launchOf id = some (l.updNode k fun n => { n with admitted := n.admitted + 1 })) ∧
  (∀ (n : Node) (g q : Nat), g < n.groups →
    let m := min 32 (n.lanes - 32 * g)
    n.group g q = {
      live := BitVec.ofNat 8 (2 ^ ((m + 3) / 4) - 1), nslice := (m + 3) / 4, role := decide (n.g0 ≤ g)
      budget := if n.g0 ≤ g then n.regs1 else n.regs0, quarter := q, lanes := BitVec.ofNat 32 (2 ^ m - 1)
      paths := [{ slices := BitVec.ofNat 8 (2 ^ ((m + 3) / 4) - 1), pc := n.entry }] }) ∧
  (∀ (s : State) (p : Nat),
    let x := s.partOf p
    let other := fun v => decide (v < 96) && x.vfmask.getLsbD v && v != x.cur && s.waiting p v
    (((∀ v, other v = false) ∨ (s.clock.toNat < x.sliceEnd ∧ s.busyFn p x.cur = true)) → exec (.worldSwitchQuantumExpiry p) s = .next s) ∧
    ∀ v, other v = true → (x.sliceEnd ≤ s.clock.toNat ∨ s.busyFn p x.cur = false) → x.plugin = none →
      ((x.cur < v ∧ (∀ w, other w = true → x.cur < w → v ≤ w)) ∨ ((∀ w, other w = true → w ≤ x.cur) ∧ ∀ w, other w = true → v ≤ w)) →
      exec (.worldSwitchQuantumExpiry p) s = .next
        (((s.teams.filter fun t => t.2.part == p && t.2.vf != v && t.2.place == .resident).map fun t => t.1).foldl (fun s u => s.requestSave u 1)
          (s.updPart p fun y => { y with cur := v, sliceEnd := s.clock.toNat + x.quantum * 2000 }))) ∧
  (∀ (s : State) (p : Nat),
    (((s.partOf p).plugin = none ∨ ∃ g, (s.partOf p).plugin = some g ∧ g.disabled = true) → exec (.pluginTimeout p) s = .next s) ∧
    ∀ g, (s.partOf p).plugin = some g → g.disabled = false → exec (.pluginTimeout p) s = .next { s with
      parts := Sparse.upd {} s.parts p fun x => { x with plugin := some { g with disabled := true } }
      faults := s.faults ++ [{ elem := BitVec.ofNat 32 p, kind := 11, time := s.clock.toNat }] }) ∧
  (∀ (s : State) (u : Nat),
    let t := s.teamOf u
    (t.req = true → t.place = .resident → t.deadline ≤ s.clock.toNat → t.cl = false → exec (.psaveDeadlineExpiry u) s = .next (s.psaveTeam u)) ∧
    ((t.req = false ∨ t.place ≠ .resident ∨ s.clock.toNat < t.deadline) → exec (.psaveDeadlineExpiry u) s = .next s)) ∧
  (∀ (s : State) (u : Nat) (which : List Nat),
    let t := s.teamOf u
    (t.cl = false → t.onCore = true → s.savable u = true → s.releaseStuck t.core = false →
      exec (.contextSave u which) s = .next ((s.saveTeam u).evict (t.core / 4) t.vf which)) ∧
    (t.onCore = false ∨ s.savable u = false → t.cl = false → exec (.contextSave u which) s = .next s)) ∧
  (∀ (s : State) (u c : Nat),
    let t := s.teamOf u
    let s0 := s.abandonTest c
    ((t.place ≠ .saved ∨ t.cl = false ∧ t.ready = false ∨ (s.partOf t.part).has (c / 4) = false ∨ s.mayRun t.part t.vf = false) →
      exec (.contextRestore u c) s = .next s) ∧
    ∀ r0 r, t.cl = false → t.place = .saved → t.ready = true → (s.partOf t.part).has (c / 4) = true → s.mayRun t.part t.vf = true → c < 192 →
      s.roomFor u c = some r0 →
      (s0.prepared c t.vf = false → exec (.contextRestore u c) s = .next (s0.prepare [c] t.vf)) ∧
      (s0.prepared c t.vf = true → (∀ x ∈ s0.teams, x.2.onCore = true → x.2.core / 4 = c / 4 → x.2.vf = t.vf) →
        let s1 := if t.core = c then s0 else s0.sealImage u
        let s2 := if t.core / 4 = c / 4 then s1 else s1.tilesOut u
        (s2.sealOk u = false → exec (.contextRestore u c) s = .next (s2.abortTeam u)) ∧
        (s2.sealOk u = true → (∀ k ∈ (s2.teamOf u).image.tileNos, Sparse.get 0 (s2.engineOf (c / 4)).owner k = 0) → s2.roomFor u c = some r →
          let s3 := s2.tilesIn u (c / 4)
          exec (.contextRestore u c) s = .next ((s3.putTeam u c r).wakeTeam u (s3.teamOf u))))) ∧
  ∀ s : State, (s.clock.toNat < s.shareAt + 200000 → exec .shareMeasurement s = .next s) ∧
    (s.shareAt + 200000 ≤ s.clock.toNat → exec .shareMeasurement s = .next { s with
      shareAt := s.clock.toNat
      parts := s.parts.map fun p => (p.1, { p.2 with share := min 255 (4 * p.2.shareAcc / (s.clock.toNat - s.shareAt)), shareAcc := 0 }) })

/-- R38, R50, R187, R219, R220, R381, R382, R384 to R386, R390 to R392, R394: a queue's notify, which stays behind the posted
writes sent before it, and its control register; and its commands once they are taken from it.
The model's own choices in it: logs 9, 19, 49, 52 and 74; log 75 (what an invalidation of stage 2, or of a partition, says to
peers that hold translations). -/
def Obligations.QueueCommands : Prop :=
  (∀ (s : State) (fn q : Nat) (v : Word),
    let x := s.queueOf fn q
    let tail := v.toNat % 65536
    let sent := (s.vdevOf fn).hostq
    ((∃ r ∈ sent, r.ro = false) → exec (.notify fn q v) s = .next (s.updVdev fn fun z =>
      { z with hostq := z.hostq ++ [{ kind := 3, off := q, x := v.setWidth 4096 }] })) ∧
    ((∀ r ∈ sent, r.ro = true) →
      ((x.en = false ∨ s.bootDone = false) → exec (.notify fn q v) s = .next s) ∧
      (x.en = true → s.bootDone = true → 2 ^ x.log2 < (tail + 65536 - x.head) % 65536 → exec (.notify fn q v) s = .next (s.haltQueue fn q 9)) ∧
      (x.en = true → s.bootDone = true → (tail + 65536 - x.head) % 65536 ≤ 2 ^ x.log2 → exec (.notify fn q v) s =
        .next (s.updQueue fn q fun x => { x with tail := tail, nopf := v.getLsbD 31, ahead := if v.getLsbD 31 then [] else x.ahead })))) ∧
  (∀ (s : State) (fn q : Nat) (v : Word),
    let x := s.queueOf fn q
    let lg := v.toNat / 2 ^ 24 % 16
    let prio := if v.toNat / 2 ^ 28 % 8 < 4 then v.toNat / 2 ^ 28 % 8 else x.prio
    ∃ t, exec (.qctlWrite fn q v) s = .next t ∧
      { t with vdevs := s.vdevs, wakes := s.wakes } = (if v.getLsbD 31 && !(s.queueOf fn q).en then s.farDone (.front fn) else s) ∧
      t.wakes = (if v.getLsbD 31 = true ∧ x.en = false then s.wakes.filter fun w => !(w.uid == queueAgent fn && w.grp == q) else s.wakes) ∧
      (v.getLsbD 31 = false → t.queueOf fn q = { x with
        en := false, prio := prio, log2 := if x.en = true ∨ lg < 4 ∨ 12 < lg then x.log2 else lg, asid := if x.en then x.asid else v.toNat % 65536 }) ∧
      (v.getLsbD 31 = true → x.en = true → t.queueOf fn q = { x with prio := prio }) ∧
      (v.getLsbD 31 = true → x.en = false → t.queueOf fn q = { x with
        en := true, prio := prio, log2 := if lg < 4 ∨ 12 < lg then x.log2 else lg, asid := v.toNat % 65536
        head := 0, tail := 0, halt := false, err := 0, ahead := []
        busy := x.busy.filter fun b => match b with | .launch .. => true | _ => false })) ∧
  (∀ (s : State) (fn q : Nat), s.bootDone = false →
    ∀ i ∈ [Instr.nopCommand fn q, .indirect fn q, .signal fn q, .qfence fn q, .invalStage1 fn q, .invalStage2 fn q, .invalPartition fn q,
      .replayRetry fn q, .replayFail fn q, .launch fn q, .partcfg fn q, .partrst fn q], exec i s = .next s) ∧
  (∀ (s s1 : State) (fn q w ind : Nat),
    let s2 := s1.pastCmd fn q
    let asid := (s2.queueOf fn q).asid
    (s.Takes s1 fn q w ind 0 → exec (.nopCommand fn q) s = .next ((s2.cmdDone fn q ind).readAhead fn q)) ∧
    (s.Takes s1 fn q w ind 5 → exec (.qfence fn q) s =
      .next (((s2.updQueue fn q fun x => { x with ahead := [] }).cmdDone fn q ind).readAhead fn q)) ∧
    (s.Takes s1 fn q w ind 2 →
      (ind ≠ 0 → exec (.indirect fn q) s = .next ((s2.haltQueue fn q 6).readAhead fn q)) ∧
      (ind = 0 → (dwordAt w 2 % 64 ≠ 0 ∨ wordAt w 4 % 64 ≠ 0 ∨ wordAt w 4 < 64 ∨ 2 ^ 20 < wordAt w 4) →
        exec (.indirect fn q) s = .next ((s2.haltQueue fn q 7).readAhead fn q)) ∧
      ∀ s3 p, ind = 0 → dwordAt w 2 % 64 = 0 → wordAt w 4 % 64 = 0 → 64 ≤ wordAt w 4 → wordAt w 4 ≤ 2 ^ 20 → s2.Proc s3 fn q p →
        exec (.indirect fn q) s = .next ((s3.updQueue fn q fun x =>
          { x with busy := x.busy ++ [.indirect x.nextInd (dwordAt w 2) (wordAt w 4)], nextInd := x.nextInd + 1 }).readAhead fn q)) ∧
    (s.Takes s1 fn q w ind 3 →
      let n := if w.testBit 192 then 8 else 4
      (dwordAt w 2 % n ≠ 0 → exec (.signal fn q) s = .next ((s2.haltQueue fn q 1).readAhead fn q)) ∧
      ∀ s3 s4 p d, dwordAt w 2 % n = 0 → s2.Proc s3 fn q p → s3.feAddr p asid fn (dwordAt w 2) .write = (s4, .ok d) →
        (isLocal d = false → ∀ s5,
          (∀ x, s4.outWrite (.front fn) d n (dwordAt w 4 % 2 ^ (8 * n)) = (s5, .ok x) →
            exec (.signal fn q) s = .next ((s5.cmdDone fn q ind).readAhead fn q)) ∧
          (s4.outWrite (.front fn) d n (dwordAt w 4 % 2 ^ (8 * n)) = (s5, .fault) →
            exec (.signal fn q) s = .next ((s5.haltQueue fn q 3).readAhead fn q)) ∧
          (s4.outWrite (.front fn) d n (dwordAt w 4 % 2 ^ (8 * n)) = (s5, .wait) →
            exec (.signal fn q) s = .next ((s5.unread s fn q).readAhead fn q))) ∧
        (isLocal d = true → s4.blocked (d / 128) noTeam 0 = false → exec (.signal fn q) s =
          .next (((s4.writeHome d n (dwordAt w 4 % 2 ^ (8 * n)) fn 3 1 noTeam 0).cmdDone fn q ind).readAhead fn q))) ∧
    (s.Takes s1 fn q w ind 7 → fn ≠ 127 → ∀ p, s2.partOfFn fn = some p →
      ∀ i ∈ ([(.replayRetry fn q, false, fun s n => s.replayRetry p n), (.replayFail fn q, true, fun s n => s.replayFail p n)] :
        List (Instr × Bool × (State → Nat → State))),
        (w.testBit 64 = i.2.1 → wordAt w 2 / 256 % 32 = 0 →
          exec i.1 s = .next (((i.2.2 s2 (dwordAt w 4)).cmdDone fn q ind).readAhead fn q)) ∧
        (w.testBit 64 = i.2.1 → wordAt w 2 / 256 % 32 ≠ 0 → exec i.1 s = .next ((s2.haltQueue fn q 1).readAhead fn q)) ∧
        (w.testBit 64 ≠ i.2.1 → exec i.1 s = .next s)) ∧
    (s.Takes s1 127 q w ind 6 →
      let p := wordAt w 2 / 256 % 32
      let s3 := s1.pastCmd 127 q
      let asid := wordAt w 3 % 65536
      ∀ i ∈ ([(.invalStage1 127 q, 0, fun s => s.invalidate p
              (fun t => !t.st2 && t.asid == asid && rangeMeets (t.va * 2 ^ t.log2) (2 ^ t.log2) (dwordAt w 4) (dwordAt w 6))
              (fun x => !x.st2 && x.asid == asid) fun a => a == asid),
          (.invalStage2 127 q, 1, fun s => if dwordAt w 6 = 0 then s
            else (s.invalidate p (fun _ => true) (fun _ => true) fun _ => true).peerInvalidate p (dwordAt w 4) (dwordAt w 6)),
          (.invalPartition 127 q, 2, fun s => (s.invalidate p (fun _ => true) (fun _ => true) fun _ => true).peerInvalidate p 0 (2 ^ 64))] :
        List (Instr × Nat × (State → State))),
        wordAt w 2 % 4 = i.2.1 → s3.inFlight p = false → exec i.1 s = .next (((i.2.2 s3).cmdDone 127 q ind).readAhead 127 q)) ∧
    (s.Takes s1 fn q w ind 6 → fn ≠ 127 →
      let own := (s2.vdevOf fn).holdsAsid (wordAt w 3 % 65536)
      (wordAt w 2 % 4 = 0 → wordAt w 2 / 256 % 32 ≠ 0 → exec (.invalStage1 fn q) s = .next ((s2.haltQueue fn q 1).readAhead fn q)) ∧
      (wordAt w 2 % 4 = 0 → wordAt w 2 / 256 % 32 = 0 → own = false → exec (.invalStage1 fn q) s = .next ((s2.haltQueue fn q 2).readAhead fn q)) ∧
      (∀ i ∈ ([(.invalStage2 fn q, 1), (.invalPartition fn q, 2)] : List (Instr × Nat)), wordAt w 2 % 4 = i.2 → wordAt w 2 / 256 % 32 = 0 →
        exec i.1 s = .next ((s2.haltQueue fn q 2).readAhead fn q)) ∧
      ∀ s3 p, wordAt w 2 % 4 = 0 → wordAt w 2 / 256 % 32 = 0 → own = true → s2.Proc s3 fn q p → s3.inFlight p = false →
        exec (.invalStage1 fn q) s = .next (((s3.invalidate p
          (fun t => !t.st2 && t.asid == wordAt w 3 % 65536 && rangeMeets (t.va * 2 ^ t.log2) (2 ^ t.log2) (dwordAt w 4) (dwordAt w 6))
          (fun x => !x.st2 && x.asid == wordAt w 3 % 65536) fun a => a == wordAt w 3 % 65536).cmdDone fn q ind).readAhead fn q)) ∧
    (s.Takes s1 fn q w ind 0x11 →
      (fn = 127 → s2.partStuck (wordAt w 2 % 32) = true → exec (.partrst fn q) s = .next ((s2.unread s fn q).readAhead fn q)) ∧
      (fn = 127 → s2.partStuck (wordAt w 2 % 32) = false → exec (.partrst fn q) s = .next (((s2.resetPart (wordAt w 2 % 32)).cmdDone fn q ind).readAhead fn q)) ∧
      (fn ≠ 127 → exec (.partrst fn q) s = .next ((s2.haltQueue fn q 2).readAhead fn q))) ∧
    (s.Takes s1 fn q w ind 0x10 →
      (fn ≠ 127 → exec (.partcfg fn q) s = .next ((s2.haltQueue fn q 2).readAhead fn q)) ∧
      (fn = 127 → dwordAt w 4 % 128 ≠ 0 → exec (.partcfg fn q) s = .next ((s2.haltQueue fn q 11).readAhead fn q)) ∧
      ∀ s3 d, fn = 127 → dwordAt w 4 % 128 = 0 → s2.feRead 0 0 127 (dwordAt w 4) 8 = (s3, .ok d) → exec (.partcfg fn q) s = .next
        ((if s3.descBad (wordAt w 2 % 32) d then s3.haltQueue fn q 11 else (s3.installPart (wordAt w 2 % 32) d).cmdDone fn q ind).readAhead fn q)) ∧
    (s.Takes s1 fn q w ind 1 →
      (dwordAt w 2 % 64 ≠ 0 → exec (.launch fn q) s = .next ((s2.haltQueue fn q 1).readAhead fn q)) ∧
      (dwordAt w 2 % 64 = 0 → fn = 127 → exec (.launch fn q) s = .next ((s2.haltQueue fn q 8).readAhead fn q)) ∧
      ∀ s3 s4 s5 p ws ks, dwordAt w 2 % 64 = 0 → fn ≠ 127 → s2.Proc s3 fn q p →
        s3.feBlocks p asid fn ((List.range (wordAt w 4 % 4096 + 1)).map fun k => dwordAt w 2 + 64 * k) = (s4, .ok ws) →
        s4.feBlocks p asid fn (ws.map fun w => dwordAt w 0 / 64 * 64) = (s5, .ok ks) →
        let bad := ws.any (fun w => dwordAt w 0 % 64 != 0) || (ws.zip ks).any fun x => kernelBad x.1 x.2
        (graphBad ws = true → exec (.launch fn q) s = .next ((s5.haltQueue fn q 4).readAhead fn q)) ∧
        (graphBad ws = false → bad = true → exec (.launch fn q) s = .next ((s5.haltQueue fn q 5).readAhead fn q)) ∧
        (graphBad ws = false → bad = false →
          let l : Launch := { fn := fn, q := q, part := p, asid := asid, prio := (s5.queueOf fn q).prio, nodes := (ws.zip ks).map fun x => nodeOf x.1 x.2 }
          let s6 : State := { s5 with launches := Sparse.set none s5.launches s5.nextLaunch (some l), nextLaunch := s5.nextLaunch + 1 }
          let s7 := s6.updQueue fn q fun x => { x with busy := x.busy ++ [.launch s5.nextLaunch ind] }
          exec (.launch fn q) s = .next (((s7.startNodes s5.nextLaunch).launchCheck s5.nextLaunch).readAhead fn q)))) ∧
  (∀ (s s1 : State) (fn q w ind : Nat), 
    let s2 := s1.pastCmd fn q
    let a := dwordAt w 2
    let v := BitVec.ofNat 32 (wordAt w 4)
    s.Takes s1 fn q w ind 4 → (s.queueOf fn q).waiteq = none →
    (a % 4 ≠ 0 → exec (.waiteq fn q) s = .next ((s2.haltQueue fn q 1).readAhead fn q)) ∧
    ∀ s3 s5 p line x, a % 4 = 0 → s2.Proc s3 fn q p →
      let s4 := s3.updQueue fn q fun x => { x with busy := x.busy ++ [.waiteq a v ind none] }
      s4.waitWord fn a p (s2.queueOf fn q).asid = (s5, line, .ok x) →
      exec (.waiteq fn q) s = .next (((if x = v.toNat then s5.updQueue fn q fun y => y.complete isWaiteq
        else s5.waiteqSleep fn q line).taken (.front fn)).readAhead fn q)) ∧
  ∀ (s s1 : State) (fn q a x : Nat) (line : Option Nat) (v : Word) (z : Option Sleep),
    (s.queueOf fn q).waiteq = some (a, v, z) →
    ((∃ y, z = some y ∧ (y.ovf = false ∨ s.clock.toNat < y.since + 8000)) → exec (.waiteq fn q) s = .next s) ∧
    ((∀ y, z = some y → y.ovf = true ∧ y.since + 8000 ≤ s.clock.toNat) →
      ((s.wakeQueue fn q).waitWord fn a ((s.partOfFn fn).getD 0) (s.queueOf fn q).asid = (s1, line, .ok x) →
        exec (.waiteq fn q) s = .next ((if x = v.toNat then s1.updQueue fn q fun y => y.complete isWaiteq else s1.waiteqSleep fn q line).taken
          (.front fn))) ∧
      ((s.wakeQueue fn q).waitWord fn a ((s.partOfFn fn).getD 0) (s.queueOf fn q).asid = (s1, line, .fault) →
        exec (.waiteq fn q) s = .next ((s1.updQueue fn q fun y => { y with busy := y.busy.filter fun b => !isWaiteq b }).haltQueue fn q 3)))

/-- R41, R42, R186 to R191, R426, R427, R429 to R434: accesses of the host through its window, function level resets, inbound
requests of peers with their answers and replay-reply cache, translation queries, completions and time-outs of outbound
requests, and the links. An access that goes on to a peer waits for its completion (R433).
The model's own choices in it: logs 8, 16, 37, 63 and 75; log 50 (an access that meets a poisoned line), log 65 (one whose
translation waits for the host), and logs 26 and 43 (what a reset of the whole device keeps, and its start-up). -/
def Obligations.HostAndPeers : Prop :=
  (∀ (s : State) (fn off n : Nat) (v : BitVec 4096) (ro : Bool) (x y : DWord) (op : BitVec 4),
    ∀ i ∈ ([(.hostBar4Read fn off n, { kind := 0, off := off, n := n }),
        (.hostBar4Write fn off n (v, ro), { kind := 1, off := off, n := n, x := v, ro := ro }),
        (.hostAtomicop fn off n op x y, { kind := 2, off := off, n := n, op := op.toNat, x := x.setWidth 4096, y := y })] : List (Instr × HostReq)),
      let r := i.2
      let back := fun (s : State) (v : Option Nat) => if r.kind = 1 then s
        else { s with out := s.out ++ [.hostRead fn off v.isSome (BitVec.ofNat 32768 (v.getD 0))] }
      let wait := fun (s : State) => s.updVdev fn fun z => { z with hostq := z.hostq ++ [r] }
      ((∃ e ∈ (s.vdevOf fn).hostq, r.behind e = true) → exec i.1 s = .next (wait s)) ∧
      ((∀ e ∈ (s.vdevOf fn).hostq, r.behind e = false) →
        (s.partOfFn fn = none → exec i.1 s = .next (back s none)) ∧
        ∀ p, s.partOfFn fn = some p →
          (r.fits = false → exec i.1 s = .next (back s none)) ∧
          ∀ s1, r.fits = true →
            (∀ f, s.ppaAll p fn (kindAcc r.kind) (cuts off n) = (s1, .error (.fault f)) → exec i.1 s = .next (back s1 none)) ∧
            (∀ e, s.ppaAll p fn (kindAcc r.kind) (cuts off n) = (s1, .error e) → (e = .held ∨ e = .ats) → exec i.1 s = .next (wait s1)) ∧
            ∀ ds, s.ppaAll p fn (kindAcc r.kind) (cuts off n) = (s1, .ok ds) →
              (s1.anyHeld ds = true → exec i.1 s = .next (wait s1)) ∧
              (s1.anyHeld ds = false →
                let z := s1.outerNow (.port fn) r.kind r.op r.x.toNat r.y.toNat fn ds
                (z.2 = none → exec i.1 s = .next (wait z.1)) ∧ ∀ v, z.2 = some v → exec i.1 s = .next (back z.1 v)))) ∧
  (∀ (s : State) (who : Asker) (kind op x y vdev : Nat) (ds : List (Nat × Nat)), (∀ d ∈ ds, d.1 / 2 ^ 50 % 4 ≠ 2) →
    s.outerNow who kind op x y vdev ds = ((s.outerAll who kind op y vdev x ds).1.taken who, some (s.outerAll who kind op y vdev x ds).2)) ∧
  (∀ a n : Nat, 0 < n → a % 128 + n ≤ 128 → cuts a n = [(a, n)]) ∧
  (∀ (s : State) (fn : Nat), fn ≠ 127 → exec (.functionLevelReset fn) s = .next ((s.farDone (.front fn)).updVdev fn fun v =>
    { v with queues := v.queues.map fun q => (q.1, { q.2 with en := false, ahead := [] }) })) ∧
  (∀ s : State, Sparse.wf {} s.stks = true → Sparse.wf {} s.cores = true → Sparse.wf {} s.engines = true → ∃ t w, exec (.functionLevelReset 127) s = .next t ∧ t.plan = .own (.startUp w false) :: s.plan ∧
    (∀ k, k < 12 → w.getLsbD k = (s.stackOf k).linkDown) ∧ t.bootDone = false ∧ t.teams = [] ∧ t.parts = [] ∧ t.vdevs = [] ∧ t.raw = [] ∧
    t.drops = s.drops ∧ t.faults = s.faults ∧ t.unusable = s.unusable ∧ t.storedAcc = s.storedAcc ∧ t.ownerKeys = s.ownerKeys ∧
    (∀ k, (t.stackOf k).repairs = (s.stackOf k).repairs) ∧
    (∀ e, (t.engineOf e).out = (s.engineOf e).out) ∧
    ∀ c, (t.coreOf c).quar = (s.coreOf c).quar ∧ (t.coreOf c).withdrawn = (s.coreOf c).withdrawn) ∧
  (∀ (s : State) (src tag off n : Nat) (v : BitVec 2048) (x y : DWord) (op : BitVec 4),
    ∀ i ∈ ([(.ualinkInboundRead src tag off n, { tag := tag, off := off, n := n, op := 16 }),
        (.ualinkInboundWrite src tag off n v, { tag := tag, off := off, n := n, op := 17, x := v }),
        (.ualinkInboundAtomic src tag off n op x y, { tag := tag, off := off, n := n, op := op.toNat, x := x.setWidth 2048, y := y }),
        (.peerTranslationQuery src off, { tag := 0, off := off, n := 0, op := 18 })] : List (Instr × Inbound)),
      let r := i.2
      let ans := fun (s : State) (ok : Bool) (d : Nat) => { s with out := s.out ++ [.peerReply src r.tag ok (BitVec.ofNat 2048 d)] }
      let done := fun (s : State) (ok : Bool) (d : Nat) => ans (if r.kind = 0 then s else s.updPeer src fun p => { p with
        cache := p.cache ++ [{ tag := r.tag, data := BitVec.ofNat 64 d, ok := ok, time := s.clock.toNat }] }) ok d
      let live := (s.peerOf src).cache.filter fun c => decide (s.clock.toNat < c.time + 2000000)
      let again := if r.kind = 0 then none else live.find? fun c => c.tag == r.tag
      let room := r.kind = 0 ∨ live.length < 256
      let wait := fun (s : State) => s.updPeer src fun p => { p with inq := p.inq ++ [r] }
      (s.accNone = true → exec i.1 s = .next s) ∧
      (s.accNone = false → src = s.accid ∨ 64 ≤ (s.peerOf src).inq.length → exec i.1 s = .next (ans (s.reject src) false 0)) ∧
      (s.accNone = false → src ≠ s.accid → (s.peerOf src).inq.length < 64 → (∃ e ∈ (s.peerOf src).inq, r.behind e = true) →
        exec i.1 s = .next (wait s)) ∧
      (s.accNone = false → src ≠ s.accid → (s.peerOf src).inq.length < 64 → (∀ e ∈ (s.peerOf src).inq, r.behind e = false) →
        (∀ c, again = some c → exec i.1 s = .next (ans s c.ok c.data.toNat)) ∧
        (again = none → ¬ room → exec i.1 s = .next (wait s)) ∧
        (again = none → room → r.fits = false → exec i.1 s = .next (done s false 0)) ∧
        (again = none → room → r.fits = true → ∀ s1,
          (s.inbound src r = (s1, .refused) → exec i.1 s = .next (done (s1.reject src) false 0)) ∧
          (∀ p c, s.inbound src r = (s1, .failed p c) → exec i.1 s = .next (done (s1.peerRecord src p off c (kindAcc r.kind)) false 0)) ∧
          (s.inbound src r = (s1, .wait) → exec i.1 s = .next (wait s1)) ∧
          ∀ p ds, s.inbound src r = (s1, .at_ p ds) →
            (r.op = 18 → exec i.1 s = .next (done (s1.recordQuery src p off) true (ds.headD (0, 0)).1)) ∧
            (r.op ≠ 18 →
              let z := s1.outerNow (.inbound src) r.kind r.op r.x.toNat r.y.toNat 127 ds
              (z.2 = none → exec i.1 s = .next (wait z.1)) ∧
              (z.2 = some none → exec i.1 s = .next (done z.1 false 0)) ∧
              ∀ o, z.2 = some (some o) → exec i.1 s = .next (done z.1 true o))))) ∧
  (∀ (s : State) (src : Nat) (r : Inbound),
    let e := s.patOf src r.off
    let o := r.off % 2 ^ 36
    let at_ := cuts (e.pbase.toNat + o) (if r.op = 18 then 1 else r.n)
    (s.drops = [] → s.broken = [] → s.chk = [] → s.psn = [] → e = Sparse.get {} s.pats (16 * src + r.off / 2 ^ 36 % 16)) ∧
    (e.v = false → s.inbound src r = (s, .refused)) ∧
    (e.v = true → ((e.size + 1) * 65536 ≤ o ∨ r.may e = false) → s.inbound src r = (s, .failed e.part .prot)) ∧
    (e.v = true → o < (e.size + 1) * 65536 → r.may e = true → ∀ s1,
      (∀ f, s.ppaAll e.part 127 (kindAcc r.kind) at_ = (s1, .error (.fault f)) → s.inbound src r = (s1, .failed e.part f.code)) ∧
      ∀ ds, s.ppaAll e.part 127 (kindAcc r.kind) at_ = (s1, .ok ds) →
        s.inbound src r = (s1, if r.op ≠ 18 ∧ s1.anyHeld ds = true then .wait else .at_ e.part ds))) ∧
  (∀ (s : State) (src : Nat),
    let s1 := s.updPeer src fun p => { p with cache := p.cache.filter fun c => decide (s.clock.toNat < c.time + 2000000) }
    exec (.replayReplyCacheExpiry src) s = .next (s1.drainInq src) ∧
    ((s.peerOf src).inq = [] → { s1.drainInq src with peers := s1.peers } = s1 ∧ ∀ a, (s1.drainInq src).peerOf a = s1.peerOf a)) ∧
  (∀ (s : State) (dest tag : Nat) (ok : Bool) (v : BitVec 2048),
    let p := s.peerOf dest
    ((p.out.find? (fun o => o.tag == tag) = none ∨ p.state = 2) → exec (.ualinkCompletion dest tag ok v) s = .next s) ∧
    ∀ o, p.out.find? (fun o => o.tag == tag) = some o → p.state ≠ 2 →
      let s1 := s.updPeer dest fun p => { p with state := 1, out := p.out.erase o }
      (o.ask.who = .gone → exec (.ualinkCompletion dest tag ok v) s = .next s1) ∧
      (∀ u k q l ms, o.ask.who = .lane u k q l ms → exec (.ualinkCompletion dest tag ok v) s = .next ((s1.updSent u k q l ms
        (if ok then fun m r => r.completed m (l / 32) (s1.laneAwaits u k q l) v else peerFail)).pump u k)) ∧
      (o.ask.who ≠ .gone → (∀ u k q l ms, o.ask.who ≠ .lane u k q l ms) → exec (.ualinkCompletion dest tag ok v) s = .next { s1 with
        answers := s1.answers ++ [{ ask := o.ask, v := if ok then some (v.toNat % 2 ^ (8 * o.ask.n)) else none }] })) ∧
  (∀ (m : MemOp) (r : LaneRec) (k : Nat) (v : BitVec 2048),
    (m.ret = false → r.completed m k true v = r ∧ r.completed m k false v = { r with sent := false, got := r.code == 0 }) ∧
    (m.ret = true → ¬ (levelOf r.addr.toNat = .lanePriv ∧ 4 < m.n) →
      r.completed m k false v = { r.setValue (v.toNat % 2 ^ (8 * m.n)) with sent := false, got := r.code == 0 }) ∧
    (m.ret = true → levelOf r.addr.toNat = .lanePriv → 4 < m.n →
      r.completed m 0 true v = { r with d0 := v.setWidth 32 } ∧ r.completed m 1 true v = { r with d1 := v.setWidth 32 })) ∧
  (∀ (s : State) (dest : Nat),
    let p := s.peerOf dest
    ((p.state = 2 ∨ ∀ o ∈ p.out, s.clock.toNat < o.time + 2000000) → exec (.peerRequestTimeout dest) s = .next s) ∧
    ∀ o, p.state ≠ 2 → p.out = [o] → o.time + 2000000 ≤ s.clock.toNat →
      let s1 := s.updPeer dest fun p => { p with state := 2, timeouts := min (p.timeouts + 1) 255, out := [] }
      (o.ask.who = .gone → exec (.peerRequestTimeout dest) s = .next (s1.peerLost dest)) ∧
      (∀ u k q l ms, o.ask.who = .lane u k q l ms →
        exec (.peerRequestTimeout dest) s = .next (((s1.updSent u k q l ms peerFail).pump u k).peerLost dest)) ∧
      (o.ask.who ≠ .gone → (∀ u k q l ms, o.ask.who ≠ .lane u k q l ms) → exec (.peerRequestTimeout dest) s = .next
        (({ s1 with answers := s1.answers ++ [{ ask := o.ask, v := none }] } : State).peerLost dest))) ∧
  ∀ (s : State) (port : Nat), port < 13 →
    (∃ t, exec (.ualinkLinkDown port) s = .next t ∧ { t with links := s.links } = s ∧
      ∀ k, k < 13 → t.links.getLsbD k = (s.links.getLsbD k && k != port)) ∧
    ∃ t, exec (.ualinkLinkUp port) s = .next t ∧ { t with links := s.links } = s ∧
      ∀ k, k < 13 → t.links.getLsbD k = (s.links.getLsbD k || (k == port && port != 0 && !s.accNone))

/-- R10, R465, R469 to R476: in-field test with a signed test kernel, link injectors, the trace ring's head, stall samples, debug
stops and the counter banks: who may claim, release and select, and what a claim by another leaves.
The model's own choices in it: logs 39 and 44; log 25 (the reasons of a sample) and log 89 (where a test kernel's results and its
expected digest stand). -/
def Obligations.TestAndTrace : Prop :=
  (∀ (s : State) (c : Nat) (given : List Byte),
    let x := s.coreOf c
    ((192 ≤ c ∨ s.iftctl.getLsbD 31 = false ∨ (x.testing = true ∧ x.scrubbing = true) ∨
        (x.testing = false ∧ (s.idleCore c = false ∨ s.testImage given = none))) →
      exec (.iftRun c given) s = .next s) ∧
    (∀ d, c < 192 → s.iftctl.getLsbD 31 = true → x.testing = false → s.idleCore c = true → s.testImage given = some d →
      exec (.iftRun c given) s = .next ((s.scrubStart c 127).updCore c fun y => { y with testing := true, testFails := 0, testDigest := d })) ∧
    (c < 192 → s.iftctl.getLsbD 31 = true → x.testing = true → x.scrubbing = false →
      (digest512 given = x.testDigest → exec (.iftRun c given) s =
        .next { s.updCore c fun y => { y with testing := false, testFails := 0 } with iftPass := (s.iftPass + 1) % 4096 }) ∧
      (digest512 given ≠ x.testDigest → x.testFails = 0 → exec (.iftRun c given) s = .next (s.updCore c fun y => { y with testFails := 1 })) ∧
      (digest512 given ≠ x.testDigest → x.testFails ≠ 0 → ∃ t, exec (.iftRun c given) s = .next t ∧
        { t with cores := s.cores, faults := s.faults, iftFail := s.iftFail } = s ∧
        t.coreOf c = { x with withdrawn := true, testing := false, testFails := 0 } ∧ (∀ d, d ≠ c → t.coreOf d = s.coreOf d) ∧
        t.iftFail = min (s.iftFail + 1) 255 ∧
        t.faults = s.faults ++ [{ elem := BitVec.ofNat 32 (c / 64 * 2 ^ 30 + c % 64 * 2 ^ 24), kind := 10, time := s.clock.toNat }]))) ∧
  (∀ (s : State) (image : List Byte) (d : BitVec 512), s.testImage image = some d →
    ∃ len, image.length = 64 + len + 3309 ∧ s.imageSigned 0 (image.take (64 + len)) (image.drop (64 + len)) = true ∧
      d = BitVec.ofNat 512 (fieldOf image len 64)) ∧
  (∀ (s : State) (p : Nat) (v : Word), 
    let old := Sparse.get 0 s.linj p
    (13 ≤ p → exec (.linkInjectorArm p v) s = .next s) ∧
    (p < 13 → ∃ t, exec (.linkInjectorArm p v) s = .next t ∧ { t with linj := s.linj, linjCnt := s.linjCnt } = s ∧
      (∀ q, Sparse.get 0 t.linjCnt q = if q = p then 0 else Sparse.get 0 s.linjCnt q) ∧
      ∀ q, Sparse.get 0 t.linj q = if q ≠ p then Sparse.get 0 s.linj q
        else if p = 0 ∨ v.toNat / 2 ^ 26 % 16 < 4 then v else (v &&& 0xC3FFFFFF) ||| (old &&& 0x3C000000)) ∧
    (old.toNat / 2 ^ 30 = 0 → exec (.linkInjection p) s = .next s) ∧
    (old.toNat / 2 ^ 30 ≠ 0 → exec (.linkInjection p) s = .next { s with
      linj := Sparse.set 0 s.linj p (old &&& 0x3FFFFFFF), linjCnt := Sparse.set 0 s.linjCnt p (old.toNat % 2 ^ 20 + 1) })) ∧
  (∀ (s : State) (p : Nat) (v : Word),
    exec (.trheadWrite p v) s = .next (s.updPart p fun x => if (v - x.trHead).toNat ≤ (x.trTail - x.trHead).toNat then { x with trHead := v } else x)) ∧
  (∀ (s : State) (k : Nat),
    let mine := fun (x : Nat × Team) (g : Nat × Group) => decide (x.2.core = k / 4) && x.2.onCore && decide (g.2.quarter = k % 4) && g.2.live != 0
    ((∀ x ∈ s.teams, ∀ g ∈ x.2.groups, mine x g = false) → exec (.stallSample k) s = .next s) ∧
    ∀ u t g y, s.teams = [(u, t)] → t.groups = [(g, y)] → mine (u, t) (g, y) = true →
      let p := y.pathOf (1#8 <<< lowSlice y.live)
      let r := s.sampleReason k u g p
      exec (.stallSample k) s = .next ((s.updCore (k / 4) fun c => { c with sample := Sparse.set 0 c.sample (k % 4) (t.slot * 32 + g + 1) }).writeTrace
        t.part (t.traceRec g p.slices 0 r.1 0 p.pc r.2))) ∧
  (∀ (s : State) (p : Nat) (v : Word),
    (v.getLsbD 0 = false → exec (.dbgstop p v) s = .next s) ∧
    (v.getLsbD 0 = true → Sparse.wf {} s.teams = true →
      let core := v.toNat / 2 ^ 30 * 64 + v.toNat / 2 ^ 24 % 64
      let named := fun (t : Team) => t.part == p && t.core == core && t.slot == v.toNat / 2 ^ 21 % 8
      let hit := fun (t : Team) => named t && (t.onCore || (t.place == .saved && !s.teams.any fun x => named x.2 && x.2.onCore))
      ∃ t, exec (.dbgstop p v) s = .next t ∧ { t with teams := s.teams } = s ∧
        ∀ u, (u, s.teamOf u) ∈ s.teams → t.teamOf u = if hit (s.teamOf u) then { s.teamOf u with
          groups := (s.teamOf u).groups.map fun g => (g.1, if v.getLsbD 1 || g.1 == v.toNat / 2 ^ 16 % 32 then { g.2 with dbg := true } else g.2) }
        else s.teamOf u)) ∧
  ∀ (s : State) (fn p b k : Nat) (v : Word),
    let x : Bank := Sparse.get {} (s.partOf p).banks b
    let may := (fn = 127 ∨ (fn < 96 ∧ (s.partOf p).vfmask.getLsbD fn = true)) ∧ b < 4
    let me := if fn = 127 then 128 else fn + 1
    let set := fun (y : Bank) => s.updPart p fun z => { z with banks := Sparse.set {} z.banks b y }
    (may → x.owner = 0 → exec (.ctrClaim fn p b) s = .next (set { x with owner := me })) ∧
    ((¬ may ∨ x.owner ≠ 0) → exec (.ctrClaim fn p b) s = .next s) ∧
    (may → x.owner = me →
      exec (.ctrRelease fn p b) s = .next (set {}) ∧
      (k < 8 → exec (.ctrselWrite fn p b k v) s = .next (set (
        let y := { x with sel := Sparse.set 0 x.sel k (v &&& 0x8000FFFF), moved := Sparse.erase x.moved k }
        { y with digest := y.digestNow }))) ∧
      exec (.capselWrite fn p b v) s = .next (set { x with
        capSel := if v.toNat % 16 < 6 then v &&& 0x80001F0F else (v &&& 0x80001F00) ||| (x.capSel &&& 0xF), capMin := 0xFFFFFFFF, capMax := 0, capCnt := 0, bins := [] })) ∧
    ((¬ may ∨ x.owner ≠ me) → exec (.ctrRelease fn p b) s = .next s ∧ exec (.ctrselWrite fn p b k v) s = .next s ∧
      exec (.capselWrite fn p b v) s = .next s)

/-- R430, R431, R433, R436, R442, R443, R477 to R480: the commands of the firmware's mailbox. Each ends with BUSY 0 and its ERR,
or, where R479 or R433 has it wait, waits.
The model's own choices in it: logs 6, 41 and 42; log 50 (a read that meets poison ends its command with the command's own ERR)
and log 7 (an installation that names a new standby alone). -/
def Obligations.FirmwareCommands : Prop :=
  (∀ (s : State), let p := s.fwArgOf 0
    (24 ≤ p → ∀ i ∈ [Instr.fwLoadPlugin, .fwUnloadPlugin, .exportPart, .importPart, .hold, .release], exec i s = .next (s.fwEnd 2)) ∧
    (p < 24 → (s.partOf p).valid = false → ∀ i ∈ [Instr.fwLoadPlugin, .importPart, .hold], exec i s = .next (s.fwEnd 6)) ∧
    (p < 24 →
      ((s.partOf p).plugin = none → exec .fwUnloadPlugin s = .next (s.fwEnd 6)) ∧
      ((s.partOf p).plugin ≠ none → exec .fwUnloadPlugin s = .next ((s.updPart p fun x => { x with plugin := none }).fwEnd 0)) ∧
      ((s.partOf p).hold = false → exec .release s = .next (s.fwEnd 6)) ∧
      ((s.partOf p).hold = true → exec .release s = .next ((s.updPart p fun x => { x with hold := false }).fwEnd 0)) ∧
      ((s.partOf p).valid = true →
        let us := (s.teams.filter fun t => t.2.part == p && t.2.onCore).map fun t => t.1
        let s1 := s.updPart p fun x => { x with hold := true }
        (us = [] → exec .hold s = .next (s1.fwEnd 0)) ∧
        (us ≠ [] → exec .hold s = .next (us.foldl (fun s u => s.requestSave u 2) s1))))) ∧
  (∀ (s s1 : State) (a n err : Nat) (acc : Acc) (f : State → List Byte → State),
    (fwRange a n = false → s.fwReach a n acc = (s, .fault)) ∧
    (fwRange a n = true → isLocal a = true → s.fwReach a n acc = (s, if s.rangeFree a n = true then .ok () else .wait)) ∧
    (s.fwReach a n .read = (s1, .fault) → s.fwFrom a n err f = s1.fwEnd 2) ∧
    (s.fwReach a n .read = (s1, .wait) → s.fwFrom a n err f = s1) ∧
    (s.fwReach a n .read = (s1, .ok ()) → ∀ s2,
      (s1.fwRead (n / 128 + 2) a n = (s2, none) → s.fwFrom a n err f = s2.fwEnd err) ∧
      ∀ bs, s1.fwRead (n / 128 + 2) a n = (s2, some bs) → s.fwFrom a n err f = f s2 bs)) ∧
  (∀ s : State, s.fwArgOf 0 < 24 → (s.partOf (s.fwArgOf 0)).valid = true →
    exec .fwLoadPlugin s = .next (s.fwFrom s.fwAddr 64 5 fun s1 h => match imageLen (s.fwArgOf 0) h with
      | none => s1.fwEnd 5
      | some len => s1.fwFrom s1.fwAddr (64 + len + 3309) 5 fun s2 bs =>
        if s2.imageSigned (fieldOf h 5 1) (bs.take (64 + len)) (bs.drop (64 + len)) then
          (s2.updPart (s.fwArgOf 0) fun p => { p with
            plugin := some { image := bs.take (64 + len) }
            measure := digest512 (natBytes 64 p.measure.toNat ++ natBytes 64 (digest512 (bs.take (64 + len))).toNat) }).fwEnd 0
        else s2.fwEnd 5)) ∧
  (∀ s : State,
    (3 ≤ s.fwArgOf 0 → exec .fwInstallCommunicator s = .next (s.fwEnd 2)) ∧
    ∀ s0 s1 s2 s3 bs c x ms, s.fwArgOf 0 < 3 → s.fwReach s.fwAddr 32 .read = (s0, .ok ()) → s0.fwRead 2 s.fwAddr 32 = (s1, some bs) →
      (commEntry bs = none → exec .fwInstallCommunicator s = .next (s1.fwEnd 2)) ∧
      (commEntry bs = some (c, x) → 
        let n := 2 * (x.nm1 + 1)
        (s1.dieOf (s.fwArgOf 0)).comms.length < 4096 → s1.fwReach x.mlist.toNat n .read = (s2, .ok ()) →
        s2.fwRead (n / 128 + 2) x.mlist.toNat n = (s3, some ms) → (∀ k, k ≤ x.nm1 → memberOk (fieldOf ms (2 * k) 2) = true) →
        let y := { x with members := (List.range (x.nm1 + 1)).map fun k => BitVec.ofNat 12 (fieldOf ms (2 * k) 2) }
        ((s3.commOf (s.fwArgOf 0) c).restandby y = false →
          exec .fwInstallCommunicator s = .next (((s3.commFailDie (s.fwArgOf 0) c).updComm (s.fwArgOf 0) c fun _ => y).fwEnd 0)) ∧
        ((s3.commOf (s.fwArgOf 0) c).restandby y = true →
          exec .fwInstallCommunicator s = .next ((s3.updComm (s.fwArgOf 0) c fun z => { z with stby := y.stby }).fwEnd 0)))) ∧
  (∀ s : State,
    (s.fwComm = none → exec .fwRemoveCommunicator s = .next (s.fwEnd 2) ∧ exec .fwOrderFailover s = .next (s.fwEnd 2)) ∧
    ∀ d c, s.fwComm = some (d, c) →
      exec .fwRemoveCommunicator s = .next (((s.commFailDie d c).updDie d fun y => { y with comms := Sparse.erase y.comms c }).fwEnd 0) ∧
      exec .fwOrderFailover s = .next ((s.elect d c).fwEnd 0)) ∧
  (∀ s : State,
    (2 ^ 14 ≤ s.fwArgOf 0 → exec .fwWritePeerAccess s = .next (s.fwEnd 2)) ∧
    ∀ s0 s1 bs, s.fwArgOf 0 < 2 ^ 14 → s.fwReach s.fwAddr 16 .read = (s0, .ok ()) → s0.fwRead 2 s.fwAddr 16 = (s1, some bs) →
      (patEntry bs = none → exec .fwWritePeerAccess s = .next (s1.fwEnd 2)) ∧
      ∀ e, patEntry bs = some e → exec .fwWritePeerAccess s = .next (State.fwEnd { s1 with pats := Sparse.set {} s1.pats (s.fwArgOf 0) e } 0)) ∧
  (∀ s : State, let a := s.fwArgOf 0
    (1024 ≤ a → exec .fwReadmitPeer s = .next (s.fwEnd 2)) ∧
    (a < 1024 → (s.peerOf a).state ≠ 2 → exec .fwReadmitPeer s = .next (s.fwEnd 6)) ∧
    (a < 1024 → (s.peerOf a).state = 2 → s.clock.toNat < (s.peerOf a).lastSent + 2000000 → exec .fwReadmitPeer s = .next s) ∧
    (a < 1024 → (s.peerOf a).state = 2 → (s.peerOf a).lastSent + 2000000 ≤ s.clock.toNat →
      exec .fwReadmitPeer s = .next ((s.updPeer a fun p => { p with state := 1, timeouts := 0 }).fwEnd 0))) ∧
  (∀ s : State, let p := s.fwArgOf 3; let a := s.fwAddr
    (24 ≤ p → exec .fwAttestationReport s = .next (s.fwEnd 2)) ∧
    (p < 24 → (s.partOf p).valid = false → exec .fwAttestationReport s = .next (s.fwEnd 6)) ∧
    (p < 24 → (s.partOf p).valid = true → (fwRange a 3549 = false ∨ s.inPart p a 3549 = false) → exec .fwAttestationReport s = .next (s.fwEnd 2)) ∧
    ∀ s0 s1 s2 nonce, p < 24 → (s.partOf p).valid = true → fwRange a 3549 = true → s.inPart p a 3549 = true →
      s.fwReach a 32 .read = (s0, .ok ()) → s0.fwRead 2 a 32 = (s1, some nonce) → s1.fwReach s1.fwAddr 3549 .write = (s2, .ok ()) →
      let body := natBytes 4 0x5A370A77 ++ natBytes 4 p ++ natBytes 8 s2.clock.toNat ++ nonce ++ natBytes 64 Config.romDigest.toNat
        ++ natBytes 64 (s2.partOf p).measure.toNat ++ natBytes 64 (digest512 (s2.partOf p).descBytes).toNat
      exec .fwAttestationReport s =
        .next ((s2.fwWrite 64 a (body ++ (Config.mlDsaSign (digest512 body) ++ List.replicate 3309 0).take 3309)).fwEnd 0)) ∧
  (∀ s : State, let p := s.fwArgOf 0; let a := s.fwAddr
    (p < 24 → (fwRange a 1184 = false ∨ (isLocal a = true ∧ s.inPart p a 1184 = false)) → exec .exportPart s = .next (s.fwEnd 2)) ∧
    (p < 24 → fwRange a 1184 = true → (isLocal a = true → s.inPart p a 1184 = true) →
      (s.quiescent p = false → exec .exportPart s = .next (s.fwEnd 7)) ∧
      (s.quiescent p = true → s.partStuck p = true → exec .exportPart s = .next s) ∧
      ∀ s1, s.quiescent p = true → s.partStuck p = false →
        (s.fwReach a 1184 .write = (s1, .wait) → exec .exportPart s = .next s1) ∧
        (s.fwReach a 1184 .write = (s1, .ok ()) → exec .exportPart s =
          .next (((((s1.fwWrite 32 a (s1.package p)).dropResidencies p).resetPart p).updPart p fun x => { x with valid := false }).fwEnd 0)))) ∧
  (∀ s : State, let p := s.fwArgOf 0
    p < 24 → (s.partOf p).valid = true →
    ((∃ t ∈ s.teams, t.2.part = p ∧ (t.2.onCore = true ∨ t.2.place = .saved)) → exec .importPart s = .next (s.fwEnd 6)) ∧
    ((∀ t ∈ s.teams, t.2.part = p → t.2.onCore = false ∧ t.2.place ≠ .saved) → exec .importPart s = .next (s.fwFrom s.fwAddr 1184 8 fun s1 bs =>
      if fieldOf bs 0 4 = 0x5A370E58 ∧ bytesNat (bs.drop 1120) = (digest512 (bs.take 1120)).toNat then
        (s1.updPart p fun x => x.unpack bs).fwEnd 0 else s1.fwEnd 8))) ∧
  ∀ s : State, let n := s.fwArgOf 0
    (n / 1024 % 2 ^ 21 ≠ 0 → exec .fwStoreAccid s = .next (s.fwEnd 2)) ∧
    (n / 1024 % 2 ^ 21 = 0 → exec .fwStoreAccid s =
      .next (State.fwEnd { s with storedAcc := if n.testBit 31 then none else some (n % 1024) } 0))

/-- What reset leaves, by the reset values that the register tables state; and that start-up is the first thing a device
does.
R55, R113, R118, R481 to R483: start-up, where it stops and what it leaves, the power monitors and the temperature
limits.
The model's own choices in it: logs 1, 11 and 43; logs 2, 13 and 15 (start-up is a turn that the device takes by itself). -/
def Obligations.ResetAndStartUp : Prop :=
  ((∀ p ∈ ([(0x1E000, 0), (0x1E014, 0), (0x1F000, 0x80000000), (0x1F004, 0), (0x1F010, 0), (0x1F100, 0), (0x20000, 0)] : List (Nat × Word)),
    State.reset.bar2Read p.1 = p.2) ∧
  (∀ p, p < 24 → State.reset.pageRead 127 p 0x008 = 0x0000000C ∧ State.reset.pageRead 127 p 0x00C = 0 ∧ State.reset.pageRead 127 p 0x010 = 0 ∧
    State.reset.pageRead 127 p 0x014 = 0 ∧ State.reset.pageRead 127 p 0x048 = 0x18000000 ∧ State.reset.pageRead 127 p 0xA00 = 0x08520840 ∧
    State.reset.pageRead 127 p 0xA10 = 0x10003201) ∧
  (∀ fn q, q < 32 → State.reset.bar0Read fn (0x2000 + 32 * q + 0x08) = 0x04000000 ∧ State.reset.bar0Read fn (0x2000 + 32 * q + 0x10) = 0) ∧
  State.reset.rsrate = 0x258 ∧ State.reset.pbctl = 0x80000018 ∧ State.reset.iftctl = 0x80000018 ∧ State.reset.pipecfg = 0x14 ∧
  (∀ c, (State.reset.coreOf c).scrubStat = 0x0000007F) ∧ (∀ v, (State.reset.vdevOf v).resq = 0x00010000 ∧ (State.reset.vdevOf v).l2maskL = 0xFFFFFFFF ∧
    (State.reset.vdevOf v).l2maskH = 0xFFFFFFFF ∧ (State.reset.vdevOf v).l2pol = 0) ∧
  State.reset.teams = [] ∧ State.reset.raw = [] ∧ Mem.wf State.reset.raw = true ∧
  step State.reset = exec (.startUp 0 false) { State.reset with clock := 1 }) ∧
  ((∀ (s : State) (failed : Word), let s0 := if s.bootDone || s.bootErr != 0 then s.coldReset else s
    exec (.startUp failed true) s = .next { s0 with bootStep := 0, bootErr := 1, bootDone := false } ∧
    (2 ≤ (s0.trainStacks failed).goneStacks.length →
      exec (.startUp failed false) s = .next { s0.trainStacks failed with bootStep := 2, bootErr := 2, bootDone := false }) ∧
    ((s0.trainStacks failed).goneStacks.length < 2 → (s0.trainStacks failed).buildCadastre = none →
      exec (.startUp failed false) s = .next { s0.trainStacks failed with bootStep := 2, bootErr := 3, bootDone := false }) ∧
    ∀ s2, (s0.trainStacks failed).goneStacks.length < 2 → (s0.trainStacks failed).buildCadastre = some s2 →
      ∃ t, exec (.startUp failed false) s = .next t ∧ t.bootDone = true ∧ t.bootStep = 5 ∧ t.bootErr = 0 ∧
        { t with cores := s2.cores, accid := s2.accid, accNone := s2.accNone, bootStep := s2.bootStep, bootErr := s2.bootErr,
                 bootDone := s2.bootDone } = s2 ∧
        (∀ c, t.coreOf c = if c < 192 then { s2.coreOf c with scrubDone := true, scrubVdev := 127 } else s2.coreOf c) ∧
        (t.accid, t.accNone) = (match s2.storedAcc with | some a => (a, false) | none => (s2.accid, s2.accNone))) ∧
  (∀ (s : State) (k : Nat), k < 12 → (s.stackOf k).trDone = false → ∀ failed : Word,
    ((s.trainStacks failed).stackOf k).trDone = true ∧ ((s.trainStacks failed).stackOf k).linkDown = failed.getLsbD k ∧
    (failed.getLsbD k = true → ({ level := 3, stack := k } : Elem) ∈ (s.trainStacks failed).drops)) ∧
  (∀ s : State, s.drops = [] → s.unusable = [] → s.buildCadastre = some { s with bootGone := none, nospare := false }) ∧
  (∀ (s : State) (i avg : Nat),
    (16 ≤ i → exec (.pwrmonUpdate i avg) s = .next s) ∧
    (i < 16 → exec (.pwrmonUpdate i avg) s = .next { s with
      pwrAvg := Sparse.set 0 s.pwrAvg i (avg % 65536), pwrPeak := Sparse.upd 0 s.pwrPeak i fun p => max p (avg % 65536) }) ∧
    exec (.pwrmonWrite i) s = .next { s with pwrPeak := Sparse.erase s.pwrPeak i }) ∧
  ∀ (s : State) (i : Nat),
    (i < 3 → exec (.thermalLimit false i) s = .next (s.updDie i fun d => { d with thermSlots := min (d.thermSlots + 1) (2 ^ 24 - 1) })) ∧
    (3 ≤ i → exec (.thermalLimit false i) s = .next s) ∧
    (i < 12 → ({ level := 3, stack := i } : Elem) ∉ s.drops → exec (.thermalLimit true i) s = .next (s.drop { level := 3, stack := i })) ∧
    ((12 ≤ i ∨ ({ level := 3, stack := i } : Elem) ∈ s.drops) → exec (.thermalLimit true i) s = .next s))

/-- R9, R10, R45, R47, R82, R100, R101, R104, R106, R108, R114, R117, R119, R135, R136, R364, R380 to R383, R428, R463, R467 to
R470, R473, R478, R481, R482: writes to registers: which field of which register takes what, what a reserved encoding leaves, and
the writes that are another step. After a failed start-up the registers of the physical function alone are there.
The model's own choices in it: logs 40 and 44. -/
def Obligations.RegisterWrites : Prop :=
  (∀ (s : State) (port bar off : Nat) (v : Word), ∃ t, exec (.registerWrite port bar off v) s = .next t) ∧
  (∀ (s : State) (port bar off : Nat) (v : Word), port ≠ 126 →
    (((off % 4 ≠ 0 ∧ bar ≠ 5) ∨ (96 ≤ port ∧ port ≠ 127) ∨ (port ≠ 127 ∧ s.bootErr ≠ 0) ∨ (bar = 2 ∧ port ≠ 127) ∨ bar = 1 ∨ bar = 3 ∨ bar = 4 ∨ 6 ≤ bar) →
      exec (.registerWrite port bar off v) s = .next s)) ∧
  (∀ (s : State) (fn : Nat) (v : Word), (fn < 96 ∧ s.bootErr = 0) ∨ fn = 127 →
    (∀ q, q < 32 → exec (.registerWrite fn 0 (4 * q) v) s = exec (.notify fn q v) s) ∧
    (∀ q, q < 32 → exec (.registerWrite fn 0 (0x2000 + 32 * q + 8) v) s = exec (.qctlWrite fn q v) s) ∧
    (∀ q, q < 32 → (s.queueOf fn q).en = true → ∀ r ∈ [0, 4], exec (.registerWrite fn 0 (0x2000 + 32 * q + r) v) s = .next (s.updQueue fn q id)) ∧
    (∀ q, q < 32 → (s.queueOf fn q).en = false →
      exec (.registerWrite fn 0 (0x2000 + 32 * q) v) s = .next (s.updQueue fn q fun x =>
        { x with base := (x.base &&& 0xFFFFFFFF00000000) ||| (v &&& 0xFFFFF000).setWidth 64 }) ∧
      exec (.registerWrite fn 0 (0x2000 + 32 * q + 4) v) s = .next (s.updQueue fn q fun x =>
        { x with base := (x.base &&& 0xFFFFFFFF) ||| ((v &&& if fn = 127 then 0xFFFFF else 0xFFFF).setWidth 64 <<< 32) }))) ∧
  (∀ (s : State) (p r : Nat) (v : Word), p < 24 → r < 4096 →
    exec (.registerWrite 127 2 (p * 4096 + r / 4 * 4) v) s = .next (s.pageWrite 127 p (r / 4 * 4) v)) ∧
  (∀ (s : State) (fn p r : Nat) (v : Word), fn < 96 → s.bootErr = 0 → s.partOfFn fn = some p → r < 4096 →
    exec (.registerWrite fn 0 (0x1000 + r / 4 * 4) v) s = .next (s.pageWrite fn p (r / 4 * 4) v)) ∧
  (∀ (s : State) (fn p : Nat) (v : Word),
    exec (.tqctlWrite p v) s = .next (s.pageWrite fn p 0x008 v) ∧ exec (.tqheadWrite p v) s = .next (s.pageWrite fn p 0x010 v) ∧
    exec (.trheadWrite p v) s = .next (s.pageWrite fn p 0x050 v) ∧ exec (.dbgstop p v) s = .next (s.pageWrite fn p 0x084 v) ∧
    s.pageWrite fn p 0x014 v = s.updPart p (fun x => { x with
      tqFovf := x.tqFovf && !v.getLsbD 31, tqLost := if v.getLsbD 31 then 0 else x.tqLost
      tqBadHead := x.tqBadHead && !v.getLsbD 29, tqRingf := x.tqRingf && !v.getLsbD 28 }) ∧
    s.pageWrite fn p 0x054 v = s.updPart p (fun x => { x with trDrop := 0 }) ∧
    s.pageWrite fn p 0x000 v = s.updPart p (fun x => { x with tqBase := (x.tqBase &&& 0xFFFFFFFF00000000) ||| (v &&& 0xFFFFF000).setWidth 64 }) ∧
    s.pageWrite fn p 0x004 v = s.updPart p (fun x => { x with tqBase := (x.tqBase &&& 0xFFFFFFFF) ||| ((v &&& 0xFFFF).setWidth 64 <<< 32) }) ∧
    s.pageWrite fn p 0x040 v = s.updPart p (fun x => { x with trBase := (x.trBase &&& 0xFFFFFFFF00000000) ||| (v &&& 0xFFFFF000).setWidth 64 }) ∧
    s.pageWrite fn p 0x044 v = s.updPart p (fun x => { x with trBase := (x.trBase &&& 0xFFFFFFFF) ||| ((v &&& 0xFFFF).setWidth 64 <<< 32) }) ∧
    s.pageWrite fn p 0x048 v = s.updPart p (fun x => { x with trCtl := trCtlWrite x.trCtl v }) ∧
    (∀ k, k < 4 →
      s.pageWrite fn p (0x060 + 8 * k) v = s.updPart p (fun x => { x with
        bpAddr := Sparse.upd 0 x.bpAddr k fun a => (a &&& 0xFFFFFFFF00000000) ||| v.setWidth 64 }) ∧
      s.pageWrite fn p (0x064 + 8 * k) v = s.updPart p (fun x => { x with
        bpAddr := Sparse.upd 0 x.bpAddr k fun a => (a &&& 0xFFFFFFFF) ||| (v.setWidth 64 <<< 32) })) ∧
    s.pageWrite fn p 0x080 v = s.updPart p (fun x => { x with bpEn := v.setWidth 4 }) ∧
    ∀ r ∈ [0x00C, 0x020, 0x024, 0x030, 0x04C, 0x100, 0x3FC, 0x400, 0x9FC, 0xA00, 0xA10, 0xA3C, 0xF00, 0xFFC], s.pageWrite fn p r v = s) ∧
  (∀ old v : Word,
    let keep := fun (lo len : Nat) (ok : Nat → Bool) =>
      (if ok (v.toNat / 2 ^ lo % 2 ^ len) then v.toNat / 2 ^ lo % 2 ^ len else old.toNat / 2 ^ lo % 2 ^ len) * 2 ^ lo
    let any := fun (_ : Nat) => true
    let pos := fun (n : Nat) => n != 0
    (trCtlWrite old v).toNat = keep 31 1 any + keep 26 5 (fun n => decide (6 ≤ n ∧ n ≤ 16)) + keep 22 4 any + keep 8 8 any ∧
    (∀ s : State, s.pbctl = old → ∃ t, exec (.registerWrite 126 0 1 v) s = .next t ∧ { t with pbctl := old } = s ∧
      t.pbctl.toNat = keep 31 1 any + keep 0 16 pos) ∧
    (∀ s : State, s.mtcfg = old → ∃ t, exec (.registerWrite 126 0 2 v) s = .next t ∧ { t with mtcfg := old } = s ∧
      t.mtcfg.toNat = keep 24 8 pos + keep 20 4 any + keep 14 6 pos + keep 9 5 pos + keep 4 5 pos) ∧
    (∀ s : State, s.pipecfg = old → ∃ t, exec (.registerWrite 126 0 3 v) s = .next t ∧ { t with pipecfg := old } = s ∧
      t.pipecfg.toNat = keep 0 5 pos) ∧
    (∀ s : State, s.iftctl = old → ∃ t, exec (.registerWrite 126 0 4 v) s = .next t ∧ { t with iftctl := old } = s ∧
      t.iftctl.toNat = keep 31 1 any + keep 0 16 any) ∧
    (∀ (s : State) (k : Nat), k < 12 → (s.stackOf k).hrcfg = old → ∃ w : Word,
      exec (.registerWrite 126 1 (16 * k) v) s = .next (s.updStack k fun t => { t with hrcfg := w }) ∧
      w.toNat = keep 16 16 pos + keep 8 8 pos + keep 0 1 any) ∧
    (∀ (s : State) (k : Nat), k < 12 → (s.stackOf k).srcfg = old → ∃ w : Word,
      exec (.registerWrite 126 1 (16 * k + 1) v) s = .next (s.updStack k fun t => { t with srcfg := w }) ∧
      w.toNat = keep 16 16 pos + keep 0 1 any) ∧
    ∀ (s : State) (d : Nat), d < 96 ∨ d = 127 →
      (s.vdevOf d).l2pol = old → ∃ w : Word, exec (.registerWrite 126 2 (16 * d + 2) v) s = .next (s.updVdev d fun x => { x with l2pol := w }) ∧
        w.toNat = keep 4 2 (fun n => decide (n ≤ 2)) + keep 2 2 (fun n => decide (n ≤ 2)) + keep 0 2 fun n => decide (n ≤ 2)) ∧
  (∀ (s : State) (d : Nat) (v : Word), d < 96 ∨ d = 127 →
    exec (.registerWrite 126 2 (16 * d) v) s = .next (s.updVdev d fun x => { x with l2maskL := v }) ∧
    exec (.registerWrite 126 2 (16 * d + 1) v) s = .next (s.updVdev d fun x => { x with l2maskH := v }) ∧
    (∃ w : Word, exec (.registerWrite 126 2 (16 * d + 3) v) s = .next (s.updVdev d fun x => { x with resq := w }) ∧
      w.toNat = (if v.toNat / 2 ^ 17 % 512 ≤ 256 then v.toNat / 2 ^ 17 % 512 else (s.vdevOf d).resq.toNat / 2 ^ 17 % 512) * 2 ^ 17 +
        (if v.toNat / 2 ^ 8 % 512 ≤ 256 then v.toNat / 2 ^ 8 % 512 else (s.vdevOf d).resq.toNat / 2 ^ 8 % 512) * 2 ^ 8) ∧
    ∃ t, exec (.registerWrite 126 2 (16 * d + 4) v) s = .next t ∧ { t with stks := s.stks, refillAt := s.refillAt, vdevs := s.vdevs } = s ∧
      let w := (t.vdevOf d).qbcfg
      w.toNat = v.toNat / 2 ^ 20 * 2 ^ 20 + (if v.toNat % 2 ^ 20 ≤ 96000 then v.toNat % 2 ^ 20 else (s.vdevOf d).qbcfg.toNat % 2 ^ 20) ∧
      t.vdevOf d = { s.vdevOf d with qbcfg := w } ∧ (∀ j, j ≠ d → t.vdevOf j = s.vdevOf j) ∧
      ∀ k, Sparse.get 0 (t.stackOf k).buckets d = min (Sparse.get 0 (s.refill.stackOf k).buckets d) (qbDepth w * 6400)) ∧
  (∀ (s : State) (k : Nat) (v : Word), k < 12 →
    exec (.registerWrite 126 1 (16 * k + 3) v) s = .next (s.updStack k fun t => { t with mbxArg0 := v }) ∧
    exec (.registerWrite 126 1 (16 * k + 4) v) s = .next (s.updStack k fun t => { t with mbxArg1 := v }) ∧
    exec (.registerWrite 126 1 (16 * k + 5) v) s = .next (s.updStack k fun t => { t with mbxDropped := t.mbxDropped && !v.getLsbD 30 })) ∧
  (∀ (s : State) (d : Nat) (v : Word), d < 3 →
    exec (.registerWrite 127 2 (0x1F020 + 16 * d) v) s = .next (s.updDie d fun x => { x with
      injTarget := if v.toNat / 2 ^ 30 = 3 then x.injTarget else v.toNat / 2 ^ 30, injRate := v.toNat % 2 ^ 30 }) ∧
    exec (.registerWrite 127 2 (0x1F024 + 16 * d) v) s = .next (s.updDie d fun x => { x with
      injSeedL := v, injX := x.injSeedH.setWidth 64 <<< 32 ||| v.setWidth 64 }) ∧
    exec (.registerWrite 127 2 (0x1F028 + 16 * d) v) s = .next (s.updDie d fun x => { x with
      injSeedH := v, injX := v.setWidth 64 <<< 32 ||| x.injSeedL.setWidth 64 }) ∧
    exec (.registerWrite 126 3 d v) s = .next (s.updDie d fun x => { x with
      rsBadDesc := x.rsBadDesc && !v.getLsbD 30, rsRefused := x.rsRefused && !v.getLsbD 29 })) ∧
  (∀ (s : State) (fn j : Nat) (v : Word), (fn < 96 ∧ s.bootErr = 0) ∨ fn = 127 → j < 2 → ∃ t, exec (.registerWrite fn 5 j v) s = .next t ∧
    { t with vdevs := s.vdevs, out := s.out } = s ∧ (∀ k, k ≠ fn → t.vdevOf k = s.vdevOf k) ∧
    { t.vdevOf fn with msixMask := (s.vdevOf fn).msixMask, msix := (s.vdevOf fn).msix } = s.vdevOf fn ∧
    (∀ k, k < 2 → (t.vdevOf fn).msixMask.getLsbD k = if k = j then v.getLsbD 0 else (s.vdevOf fn).msixMask.getLsbD k) ∧
    (∀ k, k < 2 → (t.vdevOf fn).msix.getLsbD k = ((s.vdevOf fn).msix.getLsbD k && (k != j || v.getLsbD 0))) ∧
    t.out = if v.getLsbD 0 = false ∧ (s.vdevOf fn).msix.getLsbD j = true then s.out ++ [.msix fn j] else s.out) ∧
  (∀ (s : State) (v : Word), let c := v.toNat % 256
    exec (.registerWrite 127 2 0x1E014 v) s = .next { s with fwDropped := s.fwDropped && !v.getLsbD 30 } ∧
    (s.fwBusy = true → exec (.registerWrite 127 2 0x1E000 v) s = .next { s with fwDropped := true }) ∧
    (s.fwBusy = false → (c = 0 ∨ 13 < c) → exec (.registerWrite 127 2 0x1E000 v) s = .next { s with fwCmd := c, fwErr := 1 }) ∧
    (s.fwBusy = false → 1 ≤ c → c ≤ 13 → exec (.registerWrite 127 2 0x1E000 v) s = .next { s with fwCmd := c, fwBusy := true, fwErr := 0 }) ∧
    (∀ k, k < 4 → exec (.registerWrite 127 2 (0x1E004 + 4 * k) v) s = .next { s with fwArg := Sparse.set 0 s.fwArg k v }) ∧
    exec (.registerWrite 127 2 0x1F010 v) s = .next { s with injpart := v.setWidth 24 } ∧
    (∀ k, k < 13 → exec (.registerWrite 127 2 (0x1F100 + 4 * k) v) s = exec (.linkInjectorArm k v) s) ∧
    ∀ k, k < 16 → exec (.registerWrite 127 2 (0x1F200 + 4 * k) v) s = exec (.pwrmonWrite k) s) ∧
  (∀ (s : State) (off : Nat) (v : Word),
    exec (.registerWrite 126 6 off v) s = exec (.rsdrop v) s ∧
    (off < 768 → exec (.registerWrite 126 7 off v) s = exec (.cecntWrite off) s) ∧
    ∃ t, exec (.registerWrite 126 0 0 v) s = .next t ∧ { t with rsrate := s.rsrate } = s ∧
      t.rsrate.toNat = if v.toNat % 65536 ≤ 2000 then v.toNat % 65536 else s.rsrate.toNat % 65536) ∧
  ∀ (s : State) (k : Nat) (v : Word), k < 12 →
    let c := v.toNat % 256
    exec (.registerWrite 126 1 (16 * k + 2) v) s = .next (s.updStack k fun t =>
      if t.mbxBusy then { t with mbxDropped := true } else if c = 0 ∨ 5 < c then { t with mbxCmd := c, mbxErr := 1 }
      else { t with mbxCmd := c, mbxBusy := true })

/-- R252, R254: decoding the word of a well-formed instruction gives that instruction back, with every operand. -/
def Obligations.DecodeEncode : Prop := ∀ i w, wellFormed i = true → encode i = some w → decodeWord w = .ok i

/-- R252, R254, R255, R265, R266: a word that decodes is the word of the one well-formed instruction it decodes to; the
opcodes of neither set's table are refused as such; and a role's budget refuses a word that names a register past it. -/
def Obligations.DecodeUnique : Prop :=
  (∀ w i, decodeWord w = .ok i → wellFormed i = true ∧ encode i = some w) ∧
  (∀ w : Word, w.msb = false → (fld w.toNat 24 6 = 0 ∨ fld w.toNat 24 6 = 0x0F) → decodeWord w = .error .reservedOpcode) ∧
  (∀ w : Word, w.msb = true → (fld w.toNat 24 6 = 0x28 ∨ 0x34 ≤ fld w.toNat 24 6) → decodeWord w = .error .reservedOpcode) ∧
  (∀ w : Word, w.msb = true → fld w.toNat 24 6 = 0 → w ≠ 0x80000000 → decodeWord w = .error .reservedField) ∧
  ∀ (b : Nat) (w : Word) (i : Instr), decodeFor b w = .ok i ↔ decodeWord w = .ok i ∧ laneRegsOf i ≤ b

/-- The words that chapters 8 to 12 write out, and the illegal ones beside them. -/
def Obligations.DecodeWords : Prop :=
  (∀ p ∈ ([(0x04428205, .ffma false 2 10 4 5), (0x2401837D, .iaddi false 0 6 6 0x7D), (0x070C8506, .fcmp false 0 3 2 10 6),
      (0x3402C516, .cvt false 0 11 10 5 2), (0x831C7FFF, .addi false 7 7 0xFFF), (0x8A447000, .cmpi false 4 1 7 0), (0xCF1FFFFA, .bc true 1 0xFFFFA),
      (0x80000000, .nop), (0x30020143, .dot4U false 0 8 2 3), (0x35408081, .slide false 2 2 1 0 0 1), (0x3900C080, .scan false 0 3 1 0),
      (0x374100A0, .tosReduce false 2 4 1 0x20), (0x8D047005, .mset false 1 7), (0x90900002, .bm false 1 1 2), (0xAD188143, .satom false 6 8 5 0 3),
      (0x3A420125, .ld false 2 8 2 4 5), (0x3B01C1AA, .st false 0 7 3 5 2), (0xA410A300, .resLoad false 4 10 12),
      (0x3E241446, .mma false 1 16 20 2 0 0 1 2), (0xA20D0040, .tidSet false 3 16 1), (0xA3C80040, .strBind false 50 1)] : List (Word × Instr)),
    decodeWord p.1 = .ok p.2) ∧
  ∀ w ∈ ([0x07008506, 0x3402C51F, 0xC0000000, 0x3A420127, 0x3B01C1A9, 0x3C0281DB, 0x3D03025A, 0x00000000, 0xFFFFFFFF] : List Word),
    ∃ r, decodeWord w = .error r

/-- R15, R33, R36, R200, R202, R203, R249, R266, R400, R402, R474: a step counts a cycle, in which ready groups grow older, and takes
one turn. A turn that was laid down is its step; events laid down for one cycle are taken in their order; a quarter whose run
goes on fetches the word at its path's program counter, and where the word's instruction is legal for its group and nothing stops or
holds it, the step is that instruction's; where it is not, the path takes ILL. The model's own choices in it: logs 2, 12 and 45; and
log 26: an instruction that a checker has caught is executed with what its entry captured at a turn of its own, which comes before
every other turn of the machine's. -/
def Obligations.StepRuns : Prop :=
  (∀ (s : State) (i : Instr) (rest : List Turn), s.plan = .event i :: rest → step s = exec i { s.tick with plan := s.tick.plan.tail }) ∧
  (∀ (s : State) (sites : List Nat) (ts : List (Instr ⊕ Ev)) (rest : List Turn), s.plan = .meet sites ts :: rest →
    let s0 : State := { s.tick with plan := s.tick.plan.tail }
    (s0.meetOrder sites ts = [] → step s = .next s0) ∧
    (∀ t, s0.meetOrder sites ts = [t] → step s = performOne t s0) ∧
    ∀ t u s1, s0.meetOrder sites ts = [t, u] → performOne t s0 = .next s1 → step s = performOne u s1) ∧
  (∀ s : State, s.tick.clock = s.clock + 1 ∧ s.tick.plan = s.plan ++ s.tick.plan.drop s.plan.length ∧ s.tick.raw = s.raw ∧
    ∀ u k, { s.tick.teamOf u with groups := (s.teamOf u).groups } = s.teamOf u ∧
      { s.tick.groupOf u k with readyAt := (s.groupOf u k).readyAt, paths := (s.groupOf u k).paths } = s.groupOf u k ∧
      (s.tick.groupOf u k).paths.map (fun p => { p with since := 0 }) = (s.groupOf u k).paths.map fun p => { p with since := 0 }) ∧
  (∀ s : State, s.plan = [] → s.tick.plan = [] →
    (∀ t rest, s.tick.urgent = t :: rest → step s = perform t s.tick) ∧
    (s.tick.urgent = [] → s.tick.turns = [] → step s = .next s.tick) ∧
    (s.tick.urgent = [] → s.tick.turns ≠ [] → ∃ t ∈ s.tick.turns, step s = perform t s.tick)) ∧
  (∀ (s : State) (k : Nat) (rest : List Turn) (x : Tlb) (way : Nat), s.plan = .issue k :: rest →
    let s0 : State := { s.tick with plan := s.tick.plan.tail, site := k }
    let g := s0.curGroup
    let t := s0.curTeam
    let pc := (g.pathOf s0.run.slices).pc
    let a := x.at_ pc.toNat
    let h := s0.homeOf (a / 128)
    let w := BitVec.ofNat 32 (bytesAt (s0.l2Line h (a / 128) way).data (a % 128) 4)
    let s1 := ((s0.countHome t.vf true).l2Touch h (a / 128) way true).taken (.fetch s0.run.uid s0.run.grp)
    s0.run.on = true → s0.stopFirst = none → levelOf pc.toNat = .global →
    s0.tlbFind t.core t.part t.asid pc.toNat .fetch = some x → x.check .fetch = none →
    isLocal a = true → s0.blocked (a / 128) noTeam 0 = false → h / 128 = t.core / 64 →
    s0.l2Find h (a / 128) = some way → (s0.l2Line h (a / 128) way).valid = 3 →
    (∀ i, decodeFor g.budget w = .ok i → (g.waitsFor s0.run.slices i).isSome = false → step s = exec i s1) ∧
    (∀ r, decodeFor g.budget w = .error r → step s = .next (s1.eachPath fun sl s => s.trapAt sl .ill))) ∧
  ∀ (s t : State) (u k : Nat) (rest : List Turn) (x : RqEntry) (i : Instr), s.plan = .redo u k :: rest →
    let s0 : State := { s.tick with plan := s.tick.plan.tail }
    ((s0.groupOf u k).redo = none → step s = .next s0) ∧
    ((s0.groupOf u k).redo = some (x, i) → exec i (s0.redoStart u k x i) = .next t → step s = .next (s0.redoEnd u k x i t))

/-- R7, R157: memory is one list for what it holds: two memories in canonical form that read alike are equal, a value reads
back from where it was written, lowest byte at the lowest address, and no other byte changes; and a column that is
written keeps the form, as host memory keeps every other byte.
The model's own choices in it: logs 8, 15 and 17. -/
def Obligations.MemoryForm : Prop :=
  (∀ m m' : Mem, Mem.wf m = true → Mem.wf m' = true → (∀ a, Mem.get m a = Mem.get m' a) → m = m') ∧
  (∀ (m : Mem) (a n v b : Nat), Mem.get (Mem.writeNat m a n v) b =
    if a ≤ b ∧ b < a + n then BitVec.ofNat 8 (v / 256 ^ (b - a)) else Mem.get m b) ∧
  (∀ (m : Mem) (a n v : Nat), Mem.readNat (Mem.writeNat m a n v) a n = v % 256 ^ n) ∧
  (∀ (m : Mem) (a n v mask b : Nat), Mem.get (Mem.writeMasked m a n v mask) b =
    if a ≤ b ∧ b < a + n ∧ mask.testBit (b - a) = true then BitVec.ofNat 8 (v / 256 ^ (b - a)) else Mem.get m b) ∧
  (∀ (s : State) (c : Col) (v : BitVec 256) (psn : Bool), Mem.wf s.raw = true → Mem.wf (s.colStore c v psn).raw = true) ∧
  (∀ (s : State) (a n v : Nat), (s.hostWrite a n v).hostRead a n = v % 256 ^ n ∧
    ∀ b, b < a ∨ a + n ≤ b → (s.hostWrite a n v).hostByte b = s.hostByte b) ∧
  ∀ (s : State) (c : Col) (v : BitVec 256) (psn : Bool), Sparse.get false s.broken c.index = false →
    (s.colStore c v psn).colData c = v ∧ (s.colStore c v psn).colPsn c = psn ∧ (s.colStore c v psn).colStatus c = 0
end

