-- ==== Sys2Proof/Laws/Encoding.lean ====
section
/-! SUPPORT. The fields of a number that is written as a sum of fields, and what decoding a sum of fields comes to. -/

namespace Sys2Proof.Laws

open Sys2Proof

theorem ende_eq (e : Bool) : ende e = e.toNat * 2 ^ 30 := by cases e <;> rfl

theorem ende_le (e : Bool) : ende e ≤ 2 ^ 30 := by cases e <;> decide

theorem bits_eq {n lo w : Nat} {b : BitVec w} (h : fld n lo w = b.toNat) : bits n lo w = b := by
  apply BitVec.eq_of_toNat_eq
  rw [bits, BitVec.toNat_ofNat, ← h, fld]

theorem runEnd_eq {n : Nat} {e : Bool} (h : fld n 30 1 = e.toNat) : runEnd n = e := by
  rw [runEnd, h]
  cases e <;> rfl

/-- A field of a word is a field of its number. -/
theorem toNat_bits {n lo w : Nat} : (bits n lo w).toNat = n / 2 ^ lo % 2 ^ w := by
  rw [bits, BitVec.toNat_ofNat]

/-- Bits that a list of fields takes, each a width and a value, the highest first. -/
def width : List (Nat × Nat) → Nat
  | [] => 0
  | (w, _) :: t => w + width t

/-- The number that the fields make. -/
def pack : List (Nat × Nat) → Nat
  | [] => 0
  | (_, x) :: t => x * 2 ^ width t + pack t

/-- Every value stands in its width. -/
def Fits : List (Nat × Nat) → Prop
  | [] => True
  | (w, x) :: t => x < 2 ^ w ∧ Fits t

/-- Every field of `n` reads as its value. -/
def Reads (n : Nat) : List (Nat × Nat) → Prop
  | [] => True
  | (w, x) :: t => fld n (width t) w = x ∧ Reads n t

theorem pack_lt : ∀ l, Fits l → pack l < 2 ^ width l
  | [], _ => Nat.one_pos
  | (w, x) :: t, ⟨hx, ht⟩ => by
    have := pack_lt t ht
    have hm : (x + 1) * 2 ^ width t ≤ 2 ^ w * 2 ^ width t := Nat.mul_le_mul_right _ hx
    rw [Nat.succ_mul] at hm
    simp only [pack, width, Nat.pow_add]
    omega

theorem reads_above : ∀ l, Fits l → ∀ hi, Reads (hi * 2 ^ width l + pack l) l
  | [], _, _ => trivial
  | (w, x) :: t, ⟨hx, ht⟩, hi => by
    have e : hi * 2 ^ width ((w, x) :: t) + pack ((w, x) :: t) = (hi * 2 ^ w + x) * 2 ^ width t + pack t := by
      simp only [pack, width, Nat.pow_add, Nat.add_mul, Nat.mul_assoc, Nat.add_assoc]
    refine ⟨?_, e ▸ reads_above t ht _⟩
    rw [e, fld, Nat.mul_comm, Nat.add_comm, Nat.add_mul_div_left _ _ (Nat.two_pow_pos _),
      Nat.div_eq_of_lt (pack_lt t ht), Nat.zero_add, Nat.mul_comm, Nat.add_comm, Nat.add_mul_mod_self_left,
      Nat.mod_eq_of_lt hx]

/-- Reading the fields of a packed number gives them back. -/
theorem read_pack (l : List (Nat × Nat)) (hl : Fits l) (n : Nat) (h : n = pack l) : n < 2 ^ width l ∧ Reads n l :=
  ⟨h ▸ pack_lt l hl, by simpa [h] using reads_above l hl 0⟩

theorem decodeWord_ofNat {n : Nat} {i : Instr} (hn : n < 2 ^ 32) (h : decodeRaw n = some i)
    (hw : wellFormed i = true) : decodeWord (BitVec.ofNat 32 n) = .ok i := by
  have h' : (BitVec.ofNat 32 n).toNat = n := by rw [BitVec.toNat_ofNat, Nat.mod_eq_of_lt hn]
  rw [decodeWord, h', h]
  exact if_pos hw

theorem decodeRaw_lane {n : Nat} {i : Instr} (hs : fld n 31 1 = 0) (h : decodeLane n = some i) :
    decodeRaw n = some i := by
  rw [decodeRaw, if_pos hs, h]

theorem decodeRaw_scalar {n : Nat} {i : Instr} (hs : fld n 31 1 = 1) (h : decodeScalar n = some i) :
    decodeRaw n = some i := by
  rw [decodeRaw, if_neg (by rw [hs]; decide), h]

end Sys2Proof.Laws
end

