-- ==== Sys2Proof/Laws/Exec.lean ====
section
/-! SUPPORT. One equation per constructor of Instr: what `exec` calls. -/

namespace Sys2Proof.Machine

theorem exec_fadd e k d a b s : exec (.fadd e k d a b) s = execFadd e k d a b s := rfl
theorem exec_fsub e k d a b s : exec (.fsub e k d a b) s = execFsub e k d a b s := rfl
theorem exec_fmul e k d a b s : exec (.fmul e k d a b) s = execFmul e k d a b s := rfl
theorem exec_ffma e k d a b s : exec (.ffma e k d a b) s = execFfma e k d a b s := rfl
theorem exec_fmin e k d a b s : exec (.fmin e k d a b) s = execFmin e k d a b s := rfl
theorem exec_fmax e k d a b s : exec (.fmax e k d a b) s = execFmax e k d a b s := rfl
theorem exec_fcmp e k m c a b s : exec (.fcmp e k m c a b) s = execFcmp e k m c a b s := rfl
theorem exec_fneg e k d a s : exec (.fneg e k d a) s = execFneg e k d a s := rfl
theorem exec_fabs e k d a s : exec (.fabs e k d a) s = execFabs e k d a s := rfl
theorem exec_fsqrt e k d a s : exec (.fsqrt e k d a) s = execFsqrt e k d a s := rfl
theorem exec_frcp e k d a s : exec (.frcp e k d a) s = execFrcp e k d a s := rfl
theorem exec_frsqrt e k d a s : exec (.frsqrt e k d a) s = execFrsqrt e k d a s := rfl
theorem exec_fexp2 e k d a s : exec (.fexp2 e k d a) s = execFexp2 e k d a s := rfl
theorem exec_flog2 e k d a s : exec (.flog2 e k d a) s = execFlog2 e k d a s := rfl
theorem exec_fsin e k d a s : exec (.fsin e k d a) s = execFsin e k d a s := rfl
theorem exec_fcos e k d a s : exec (.fcos e k d a) s = execFcos e k d a s := rfl
theorem exec_frint e k d a s : exec (.frint e k d a) s = execFrint e k d a s := rfl
theorem exec_ffloor e k d a s : exec (.ffloor e k d a) s = execFfloor e k d a s := rfl
theorem exec_fceil e k d a s : exec (.fceil e k d a) s = execFceil e k d a s := rfl
theorem exec_ftrunc e k d a s : exec (.ftrunc e k d a) s = execFtrunc e k d a s := rfl
theorem exec_fclass e k d a s : exec (.fclass e k d a) s = execFclass e k d a s := rfl
theorem exec_sel e k d a b s : exec (.sel e k d a b) s = execSel e k d a b s := rfl
theorem exec_hfma2 e k d a b s : exec (.hfma2 e k d a b) s = execHfma2 e k d a b s := rfl
theorem exec_bfma2 e k d a b s : exec (.bfma2 e k d a b) s = execBfma2 e k d a b s := rfl
theorem exec_ldAcq e k d a z sc s : exec (.ldAcq e k d a z sc) s = execLdAcq e k d a z sc s := rfl
theorem exec_stRel e k d a z sc s : exec (.stRel e k d a z sc) s = execStRel e k d a z sc s := rfl
theorem exec_pfx e k a b l s : exec (.pfx e k a b l) s = execPfx e k a b l s := rfl
theorem exec_iadd e k d a b s : exec (.iadd e k d a b) s = execIadd e k d a b s := rfl
theorem exec_isub e k d a b s : exec (.isub e k d a b) s = execIsub e k d a b s := rfl
theorem exec_imul e k d a b s : exec (.imul e k d a b) s = execImul e k d a b s := rfl
theorem exec_imulh e k d a b s : exec (.imulh e k d a b) s = execImulh e k d a b s := rfl
theorem exec_umulh e k d a b s : exec (.umulh e k d a b) s = execUmulh e k d a b s := rfl
theorem exec_imad e k d a b s : exec (.imad e k d a b) s = execImad e k d a b s := rfl
theorem exec_andLane e k d a b s : exec (.andLane e k d a b) s = execAndLane e k d a b s := rfl
theorem exec_orLane e k d a b s : exec (.orLane e k d a b) s = execOrLane e k d a b s := rfl
theorem exec_xorLane e k d a b s : exec (.xorLane e k d a b) s = execXorLane e k d a b s := rfl
theorem exec_shlLane e k d a b s : exec (.shlLane e k d a b) s = execShlLane e k d a b s := rfl
theorem exec_shrLane e k d a b s : exec (.shrLane e k d a b) s = execShrLane e k d a b s := rfl
theorem exec_sraLane e k d a b s : exec (.sraLane e k d a b) s = execSraLane e k d a b s := rfl
theorem exec_imin e k d a b s : exec (.imin e k d a b) s = execImin e k d a b s := rfl
theorem exec_imax e k d a b s : exec (.imax e k d a b) s = execImax e k d a b s := rfl
theorem exec_umin e k d a b s : exec (.umin e k d a b) s = execUmin e k d a b s := rfl
theorem exec_umax e k d a b s : exec (.umax e k d a b) s = execUmax e k d a b s := rfl
theorem exec_icmp e k m c a b s : exec (.icmp e k m c a b) s = execIcmp e k m c a b s := rfl
theorem exec_ineg e k d a s : exec (.ineg e k d a) s = execIneg e k d a s := rfl
theorem exec_iabs e k d a s : exec (.iabs e k d a) s = execIabs e k d a s := rfl
theorem exec_notLane e k d a s : exec (.notLane e k d a) s = execNotLane e k d a s := rfl
theorem exec_popcLane e k d a s : exec (.popcLane e k d a) s = execPopcLane e k d a s := rfl
theorem exec_clzLane e k d a s : exec (.clzLane e k d a) s = execClzLane e k d a s := rfl
theorem exec_ctzLane e k d a s : exec (.ctzLane e k d a) s = execCtzLane e k d a s := rfl
theorem exec_brev e k d a s : exec (.brev e k d a) s = execBrev e k d a s := rfl
theorem exec_bswap e k d a s : exec (.bswap e k d a) s = execBswap e k d a s := rfl
theorem exec_sext8 e k d a s : exec (.sext8 e k d a) s = execSext8 e k d a s := rfl
theorem exec_sext16 e k d a s : exec (.sext16 e k d a) s = execSext16 e k d a s := rfl
theorem exec_zext8 e k d a s : exec (.zext8 e k d a) s = execZext8 e k d a s := rfl
theorem exec_zext16 e k d a s : exec (.zext16 e k d a) s = execZext16 e k d a s := rfl
theorem exec_laneid e k d s : exec (.laneid e k d) s = execLaneid e k d s := rfl
theorem exec_bfx e k d a b s : exec (.bfx e k d a b) s = execBfx e k d a b s := rfl
theorem exec_bfi e k d a b s : exec (.bfi e k d a b) s = execBfi e k d a b s := rfl
theorem exec_iaddi e k d a i s : exec (.iaddi e k d a i) s = execIaddi e k d a i s := rfl
theorem exec_imuli e k d a i s : exec (.imuli e k d a i) s = execImuli e k d a i s := rfl
theorem exec_andiLane e k d a i s : exec (.andiLane e k d a i) s = execAndiLane e k d a i s := rfl
theorem exec_oriLane e k d a i s : exec (.oriLane e k d a i) s = execOriLane e k d a i s := rfl
theorem exec_xoriLane e k d a i s : exec (.xoriLane e k d a i) s = execXoriLane e k d a i s := rfl
theorem exec_shliLane e k d a i s : exec (.shliLane e k d a i) s = execShliLane e k d a i s := rfl
theorem exec_shriLane e k d a i s : exec (.shriLane e k d a i) s = execShriLane e k d a i s := rfl
theorem exec_sraiLane e k d a i s : exec (.sraiLane e k d a i) s = execSraiLane e k d a i s := rfl
theorem exec_srni e k d a i s : exec (.srni e k d a i) s = execSrni e k d a i s := rfl
theorem exec_add2s e k d a b s : exec (.add2s e k d a b) s = execAdd2s e k d a b s := rfl
theorem exec_sub2s e k d a b s : exec (.sub2s e k d a b) s = execSub2s e k d a b s := rfl
theorem exec_dot2S e k d a b s : exec (.dot2S e k d a b) s = execDot2S e k d a b s := rfl
theorem exec_dot2U e k d a b s : exec (.dot2U e k d a b) s = execDot2U e k d a b s := rfl
theorem exec_dot4S e k d a b s : exec (.dot4S e k d a b) s = execDot4S e k d a b s := rfl
theorem exec_dot4U e k d a b s : exec (.dot4U e k d a b) s = execDot4U e k d a b s := rfl
theorem exec_dot8S e k d a b s : exec (.dot8S e k d a b) s = execDot8S e k d a b s := rfl
theorem exec_dot8U e k d a b s : exec (.dot8U e k d a b) s = execDot8U e k d a b s := rfl
theorem exec_fdot4E4m3 e k d a b s : exec (.fdot4E4m3 e k d a b) s = execFdot4E4m3 e k d a b s := rfl
theorem exec_fdot4E5m2 e k d a b s : exec (.fdot4E5m2 e k d a b) s = execFdot4E5m2 e k d a b s := rfl
theorem exec_fdot8 e k d a b s : exec (.fdot8 e k d a b) s = execFdot8 e k d a b s := rfl
theorem exec_cvt e k d a c r s : exec (.cvt e k d a c r) s = execCvt e k d a c r s := rfl
theorem exec_slide e k d a f g n s : exec (.slide e k d a f g n) s = execSlide e k d a f g n s := rfl
theorem exec_shfl e k d a b s : exec (.shfl e k d a b) s = execShfl e k d a b s := rfl
theorem exec_tosLane e sc a n s : exec (.tosLane e sc a n) s = execTosLane e sc a n s := rfl
theorem exec_tosReduce e k sc a f s : exec (.tosReduce e k sc a f) s = execTosReduce e k sc a f s := rfl
theorem exec_tov e k d sc s : exec (.tov e k d sc) s = execTov e k d sc s := rfl
theorem exec_scan e k d a f s : exec (.scan e k d a f) s = execScan e k d a f s := rfl
theorem exec_ld e k d a b z s : exec (.ld e k d a b z) s = execLd e k d a b z s := rfl
theorem exec_st e k d a b z s : exec (.st e k d a b z) s = execSt e k d a b z s := rfl
theorem exec_atom e k d a o sc s : exec (.atom e k d a o sc) s = execAtom e k d a o sc s := rfl
theorem exec_red e k d a o sc s : exec (.red e k d a o sc) s = execRed e k d a o sc s := rfl
theorem exec_mma e k a x f r l z c s : exec (.mma e k a x f r l z c) s = execMma e k a x f r l z c s := rfl
theorem exec_accxRd e k a x w s : exec (.accxRd e k a x w) s = execAccxRd e k a x w s := rfl
theorem exec_accxWr e k a x w s : exec (.accxWr e k a x w) s = execAccxWr e k a x w s := rfl
theorem exec_accxRdz e k a x w s : exec (.accxRdz e k a x w) s = execAccxRdz e k a x w s := rfl
theorem exec_nop s : exec (.nop) s = execNop s := rfl
theorem exec_addScalar e d a b s : exec (.addScalar e d a b) s = execAddScalar e d a b s := rfl
theorem exec_subScalar e d a b s : exec (.subScalar e d a b) s = execSubScalar e d a b s := rfl
theorem exec_mulScalar e d a b s : exec (.mulScalar e d a b) s = execMulScalar e d a b s := rfl
theorem exec_mulh e d a b s : exec (.mulh e d a b) s = execMulh e d a b s := rfl
theorem exec_mulhu e d a b s : exec (.mulhu e d a b) s = execMulhu e d a b s := rfl
theorem exec_andScalar e d a b s : exec (.andScalar e d a b) s = execAndScalar e d a b s := rfl
theorem exec_orScalar e d a b s : exec (.orScalar e d a b) s = execOrScalar e d a b s := rfl
theorem exec_xorScalar e d a b s : exec (.xorScalar e d a b) s = execXorScalar e d a b s := rfl
theorem exec_shlScalar e d a b s : exec (.shlScalar e d a b) s = execShlScalar e d a b s := rfl
theorem exec_shrScalar e d a b s : exec (.shrScalar e d a b) s = execShrScalar e d a b s := rfl
theorem exec_sraScalar e d a b s : exec (.sraScalar e d a b) s = execSraScalar e d a b s := rfl
theorem exec_minScalar e d a b s : exec (.minScalar e d a b) s = execMinScalar e d a b s := rfl
theorem exec_maxScalar e d a b s : exec (.maxScalar e d a b) s = execMaxScalar e d a b s := rfl
theorem exec_minu e d a b s : exec (.minu e d a b) s = execMinu e d a b s := rfl
theorem exec_maxu e d a b s : exec (.maxu e d a b) s = execMaxu e d a b s := rfl
theorem exec_div e d a b s : exec (.div e d a b) s = execDiv e d a b s := rfl
theorem exec_divu e d a b s : exec (.divu e d a b) s = execDivu e d a b s := rfl
theorem exec_rem e d a b s : exec (.rem e d a b) s = execRem e d a b s := rfl
theorem exec_remu e d a b s : exec (.remu e d a b) s = execRemu e d a b s := rfl
theorem exec_popcScalar e d a s : exec (.popcScalar e d a) s = execPopcScalar e d a s := rfl
theorem exec_clzScalar e d a s : exec (.clzScalar e d a) s = execClzScalar e d a s := rfl
theorem exec_ctzScalar e d a s : exec (.ctzScalar e d a) s = execCtzScalar e d a s := rfl
theorem exec_cmp e c n a b s : exec (.cmp e c n a b) s = execCmp e c n a b s := rfl
theorem exec_addi e d a i s : exec (.addi e d a i) s = execAddi e d a i s := rfl
theorem exec_andiScalar e d a i s : exec (.andiScalar e d a i) s = execAndiScalar e d a i s := rfl
theorem exec_oriScalar e d a i s : exec (.oriScalar e d a i) s = execOriScalar e d a i s := rfl
theorem exec_xoriScalar e d a i s : exec (.xoriScalar e d a i) s = execXoriScalar e d a i s := rfl
theorem exec_shliScalar e d a i s : exec (.shliScalar e d a i) s = execShliScalar e d a i s := rfl
theorem exec_shriScalar e d a i s : exec (.shriScalar e d a i) s = execShriScalar e d a i s := rfl
theorem exec_sraiScalar e d a i s : exec (.sraiScalar e d a i) s = execSraiScalar e d a i s := rfl
theorem exec_cmpi e c n a i s : exec (.cmpi e c n a i) s = execCmpi e c n a i s := rfl
theorem exec_li e d i s : exec (.li e d i) s = execLi e d i s := rfl
theorem exec_lui e d i s : exec (.lui e d i) s = execLui e d i s := rfl
theorem exec_mand e d a b s : exec (.mand e d a b) s = execMand e d a b s := rfl
theorem exec_mor e d a b s : exec (.mor e d a b) s = execMor e d a b s := rfl
theorem exec_mxor e d a b s : exec (.mxor e d a b) s = execMxor e d a b s := rfl
theorem exec_mandn e d a b s : exec (.mandn e d a b) s = execMandn e d a b s := rfl
theorem exec_mnot e d a s : exec (.mnot e d a) s = execMnot e d a s := rfl
theorem exec_mset e d a s : exec (.mset e d a) s = execMset e d a s := rfl
theorem exec_mget e d a s : exec (.mget e d a) s = execMget e d a s := rfl
theorem exec_mpopc e d a s : exec (.mpopc e d a) s = execMpopc e d a s := rfl
theorem exec_mfirst e d a s : exec (.mfirst e d a) s = execMfirst e d a s := rfl
theorem exec_b e o s : exec (.b e o) s = execB e o s := rfl
theorem exec_bc e c o s : exec (.bc e c o) s = execBc e c o s := rfl
theorem exec_bm e z m o s : exec (.bm e z m o) s = execBm e z m o s := rfl
theorem exec_bmG e z m o s : exec (.bmG e z m o) s = execBmG e z m o s := rfl
theorem exec_bxPreq e p o s : exec (.bxPreq e p o) s = execBxPreq e p o s := rfl
theorem exec_bxD e p n f o s : exec (.bxD e p n f o) s = execBxD e p n f o s := rfl
theorem exec_call e o s : exec (.call e o) s = execCall e o s := rfl
theorem exec_jr e a s : exec (.jr e a) s = execJr e a s := rfl
theorem exec_couple e s : exec (.couple e) s = execCouple e s := rfl
theorem exec_exit e s : exec (.exit e) s = execExit e s := rfl
theorem exec_wait e l sc c t s : exec (.wait e l sc c t) s = execWait e l sc c t s := rfl
theorem exec_waitr e a c s : exec (.waitr e a c) s = execWaitr e a c s := rfl
theorem exec_fence e sc q s : exec (.fence e sc q) s = execFence e sc q s := rfl
theorem exec_xbegin e sc o s : exec (.xbegin e sc o) s = execXbegin e sc o s := rfl
theorem exec_xbeginNoTarget e sc s : exec (.xbeginNoTarget e sc) s = execXbeginNoTarget e sc s := rfl
theorem exec_xelse e o s : exec (.xelse e o) s = execXelse e o s := rfl
theorem exec_xend e s : exec (.xend e) s = execXend e s := rfl
theorem exec_xretry e s : exec (.xretry e) s = execXretry e s := rfl
theorem exec_xabort e c s : exec (.xabort e c) s = execXabort e c s := rfl
theorem exec_xstat e d s : exec (.xstat e d) s = execXstat e d s := rfl
theorem exec_barInit e a i s : exec (.barInit e a i) s = execBarInit e a i s := rfl
theorem exec_barArrive e d i s : exec (.barArrive e d i) s = execBarArrive e d i s := rfl
theorem exec_barWait e a i s : exec (.barWait e a i) s = execBarWait e a i s := rfl
theorem exec_barSync e d i s : exec (.barSync e d i) s = execBarSync e d i s := rfl
theorem exec_barRead e d i s : exec (.barRead e d i) s = execBarRead e d i s := rfl
theorem exec_bufArm e a h s : exec (.bufArm e a h) s = execBufArm e a h s := rfl
theorem exec_bufArrive e a h s : exec (.bufArrive e a h) s = execBufArrive e a h s := rfl
theorem exec_bufArriveCl e d a h s : exec (.bufArriveCl e d a h) s = execBufArriveCl e d a h s := rfl
theorem exec_bufWait e a h s : exec (.bufWait e a h) s = execBufWait e a h s := rfl
theorem exec_bufRel e h s : exec (.bufRel e h) s = execBufRel e h s := rfl
theorem exec_bufRgn e a h s : exec (.bufRgn e a h) s = execBufRgn e a h s := rfl
theorem exec_bufStat e d h s : exec (.bufStat e d h) s = execBufStat e d h s := rfl
theorem exec_bufCount e d h s : exec (.bufCount e d h) s = execBufCount e d h s := rfl
theorem exec_cpy e d a s : exec (.cpy e d a) s = execCpy e d a s := rfl
theorem exec_tidSet e d a t s : exec (.tidSet e d a t) s = execTidSet e d a t s := rfl
theorem exec_tidRd e d k t s : exec (.tidRd e d k t) s = execTidRd e d k t s := rfl
theorem exec_tidInv e t s : exec (.tidInv e t) s = execTidInv e t s := rfl
theorem exec_strBind e n t s : exec (.strBind e n t) s = execStrBind e n t s := rfl
theorem exec_strBindE e n t s : exec (.strBindE e n t) s = execStrBindE e n t s := rfl
theorem exec_strUnbind e n s : exec (.strUnbind e n) s = execStrUnbind e n s := rfl
theorem exec_strPeek e d n s : exec (.strPeek e d n) s = execStrPeek e d n s := rfl
theorem exec_strSeek e n a s : exec (.strSeek e n a) s = execStrSeek e n a s := rfl
theorem exec_resLoad e d a b s : exec (.resLoad e d a b) s = execResLoad e d a b s := rfl
theorem exec_resPin e d a s : exec (.resPin e d a) s = execResPin e d a s := rfl
theorem exec_resUnpin e d a s : exec (.resUnpin e d a) s = execResUnpin e d a s := rfl
theorem exec_resRevoke e d a s : exec (.resRevoke e d a) s = execResRevoke e d a s := rfl
theorem exec_resStat e d a s : exec (.resStat e d a) s = execResStat e d a s := rfl
theorem exec_resUse e d s : exec (.resUse e d) s = execResUse e d s := rfl
theorem exec_accAlloc e d a s : exec (.accAlloc e d a) s = execAccAlloc e d a s := rfl
theorem exec_accFree e a s : exec (.accFree e a) s = execAccFree e a s := rfl
theorem exec_accZero e a s : exec (.accZero e a) s = execAccZero e a s := rfl
theorem exec_collPost e d a s : exec (.collPost e d a) s = execCollPost e d a s := rfl
theorem exec_collCancel e d a s : exec (.collCancel e d a) s = execCollCancel e d a s := rfl
theorem exec_collStat e d a s : exec (.collStat e d a) s = execCollStat e d a s := rfl
theorem exec_trig e s : exec (.trig e) s = execTrig e s := rfl
theorem exec_ldsB32 e d a i s : exec (.ldsB32 e d a i) s = execLdsB32 e d a i s := rfl
theorem exec_ldsB64 e d a i s : exec (.ldsB64 e d a i) s = execLdsB64 e d a i s := rfl
theorem exec_stsB32 e d a i s : exec (.stsB32 e d a i) s = execStsB32 e d a i s := rfl
theorem exec_stsB64 e d a i s : exec (.stsB64 e d a i) s = execStsB64 e d a i s := rfl
theorem exec_satom e d a b o p s : exec (.satom e d a b o p) s = execSatom e d a b o p s := rfl
theorem exec_sysrd e d i s : exec (.sysrd e d i) s = execSysrd e d i s := rfl
theorem exec_syswr e a i s : exec (.syswr e a i) s = execSyswr e a i s := rfl
theorem exec_trap e i s : exec (.trap e i) s = execTrap e i s := rfl
theorem exec_brk e t s : exec (.brk e t) s = execBrk e t s := rfl
theorem exec_rte e s : exec (.rte e) s = execRte e s := rfl
theorem exec_yield e s : exec (.yield e) s = execYield e s := rfl
theorem exec_memlocQuery e a s : exec (.memlocQuery e a) s = execMemlocQuery e a s := rfl
theorem exec_fmodeWrite e a s : exec (.fmodeWrite e a) s = execFmodeWrite e a s := rfl
theorem exec_satfClear e a s : exec (.satfClear e a) s = execSatfClear e a s := rfl
theorem exec_rqdataWrite e a s : exec (.rqdataWrite e a) s = execRqdataWrite e a s := rfl
theorem exec_groupSelect site s : exec (.groupSelect site) s = execGroupSelect site s := rfl
theorem exec_walkEngineGrant die s : exec (.walkEngineGrant die) s = execWalkEngineGrant die s := rfl
theorem exec_atsTranslationCompletion fn asid ioPage log2 grant r w s : exec (.atsTranslationCompletion fn asid ioPage log2 grant r w) s = execAtsTranslationCompletion fn asid ioPage log2 grant r w s := rfl
theorem exec_atsInvalidateRequest fn base len s : exec (.atsInvalidateRequest fn base len) s = execAtsInvalidateRequest fn base len s := rfl
theorem exec_pageResponse fn ioPage ok s : exec (.pageResponse fn ioPage ok) s = execPageResponse fn ioPage ok s := rfl
theorem exec_memoryAccessCompletion uid grp s : exec (.memoryAccessCompletion uid grp) s = execMemoryAccessCompletion uid grp s := rfl
theorem exec_stalledRecordPost part s : exec (.stalledRecordPost part) s = execStalledRecordPost part s := rfl
theorem exec_tqheadWrite part v s : exec (.tqheadWrite part v) s = execTqheadWrite part v s := rfl
theorem exec_tqctlWrite part v s : exec (.tqctlWrite part v) s = execTqctlWrite part v s := rfl
theorem exec_commitLockGrant uid grp s : exec (.commitLockGrant uid grp) s = execCommitLockGrant uid grp s := rfl
theorem exec_overflowWake uid grp s : exec (.overflowWake uid grp) s = execOverflowWake uid grp s := rfl
theorem exec_homeSliceRead die dpa vdev cls s : exec (.homeSliceRead die dpa vdev cls) s = execHomeSliceRead die dpa vdev cls s := rfl
theorem exec_homeSliceWrite die dpa vdev cls n v s : exec (.homeSliceWrite die dpa vdev cls n v) s = execHomeSliceWrite die dpa vdev cls n v s := rfl
theorem exec_homeSliceAtomic die dpa vdev op x y s : exec (.homeSliceAtomic die dpa vdev op x y) s = execHomeSliceAtomic die dpa vdev op x y s := rfl
theorem exec_moved die parcel s : exec (.moved die parcel) s = execMoved die parcel s := rfl
theorem exec_rsdrop v s : exec (.rsdrop v) s = execRsdrop v s := rfl
theorem exec_resurveyTakeParcel die frame s : exec (.resurveyTakeParcel die frame) s = execResurveyTakeParcel die frame s := rfl
theorem exec_resurveyLineCopy die s : exec (.resurveyLineCopy die) s = execResurveyLineCopy die s := rfl
theorem exec_parcelSwitch die s : exec (.parcelSwitch die) s = execParcelSwitch die s := rfl
theorem exec_switchDrainComplete die s : exec (.switchDrainComplete die) s = execSwitchDrainComplete die s := rfl
theorem exec_singleParcelMove parcel pos s : exec (.singleParcelMove parcel pos) s = execSingleParcelMove parcel pos s := rfl
theorem exec_baseDieRead stack hdr s : exec (.baseDieRead stack hdr) s = execBaseDieRead stack hdr s := rfl
theorem exec_baseDieWrite stack hdr data s : exec (.baseDieWrite stack hdr data) s = execBaseDieWrite stack hdr data s := rfl
theorem exec_baseDieMaskedWrite stack hdr be data s : exec (.baseDieMaskedWrite stack hdr be data) s = execBaseDieMaskedWrite stack hdr be data s := rfl
theorem exec_refreshRate stack hdr s : exec (.refreshRate stack hdr) s = execRefreshRate stack hdr s := rfl
theorem exec_selfRefreshEntryRequest stack hdr s : exec (.selfRefreshEntryRequest stack hdr) s = execSelfRefreshEntryRequest stack hdr s := rfl
theorem exec_selfRefreshExitRequest stack hdr s : exec (.selfRefreshExitRequest stack hdr) s = execSelfRefreshExitRequest stack hdr s := rfl
theorem exec_neighbourRefresh stack hdr s : exec (.neighbourRefresh stack hdr) s = execNeighbourRefresh stack hdr s := rfl
theorem exec_baseDieReply stack idx s : exec (.baseDieReply stack idx) s = execBaseDieReply stack idx s := rfl
theorem exec_tagTimeout stack die p tag s : exec (.tagTimeout stack die p tag) s = execTagTimeout stack die p tag s := rfl
theorem exec_tokenRefill s : exec (.tokenRefill) s = execTokenRefill s := rfl
theorem exec_refreshDue stack p s : exec (.refreshDue stack p) s = execRefreshDue stack p s := rfl
theorem exec_hotRowWindowEnd stack s : exec (.hotRowWindowEnd stack) s = execHotRowWindowEnd stack s := rfl
theorem exec_selfRefreshTimerExpiry stack p s : exec (.selfRefreshTimerExpiry stack p) s = execSelfRefreshTimerExpiry stack p s := rfl
theorem exec_selfRefreshEntryComplete stack p s : exec (.selfRefreshEntryComplete stack p) s = execSelfRefreshEntryComplete stack p s := rfl
theorem exec_selfRefreshExitComplete stack p s : exec (.selfRefreshExitComplete stack p) s = execSelfRefreshExitComplete stack p s := rfl
theorem exec_perambulatorLineRead die s : exec (.perambulatorLineRead die) s = execPerambulatorLineRead die s := rfl
theorem exec_rowLogExpiry stack s : exec (.rowLogExpiry stack) s = execRowLogExpiry stack s := rfl
theorem exec_mbxTrain stack fail linkErr s : exec (.mbxTrain stack fail linkErr) s = execMbxTrain stack fail linkErr s := rfl
theorem exec_mbxRowRepair stack s : exec (.mbxRowRepair stack) s = execMbxRowRepair stack s := rfl
theorem exec_mbxSetRefresh stack s : exec (.mbxSetRefresh stack) s = execMbxSetRefresh stack s := rfl
theorem exec_mbxReadRowLog stack s : exec (.mbxReadRowLog stack) s = execMbxReadRowLog stack s := rfl
theorem exec_mbxRepairRowsLeft stack s : exec (.mbxRepairRowsLeft stack) s = execMbxRepairRowsLeft stack s := rfl
theorem exec_cecntWrite index s : exec (.cecntWrite index) s = execCecntWrite index s := rfl
theorem exec_bufferArrival cluster s : exec (.bufferArrival cluster) s = execBufferArrival cluster s := rfl
theorem exec_copyIssue uid s : exec (.copyIssue uid) s = execCopyIssue uid s := rfl
theorem exec_copyComplete uid slot s : exec (.copyComplete uid slot) s = execCopyComplete uid slot s := rfl
theorem exec_residencyFillComplete eng slot s : exec (.residencyFillComplete eng slot) s = execResidencyFillComplete eng slot s := rfl
theorem exec_engineGrant eng s : exec (.engineGrant eng) s = execEngineGrant eng s := rfl
theorem exec_scrubComplete core s : exec (.scrubComplete core) s = execScrubComplete core s := rfl
theorem exec_notify fn q v s : exec (.notify fn q v) s = execNotify fn q v s := rfl
theorem exec_qctlWrite fn q v s : exec (.qctlWrite fn q v) s = execQctlWrite fn q v s := rfl
theorem exec_nopCommand fn q s : exec (.nopCommand fn q) s = execNopCommand fn q s := rfl
theorem exec_launch fn q s : exec (.launch fn q) s = execLaunch fn q s := rfl
theorem exec_indirect fn q s : exec (.indirect fn q) s = execIndirect fn q s := rfl
theorem exec_signal fn q s : exec (.signal fn q) s = execSignal fn q s := rfl
theorem exec_waiteq fn q s : exec (.waiteq fn q) s = execWaiteq fn q s := rfl
theorem exec_qfence fn q s : exec (.qfence fn q) s = execQfence fn q s := rfl
theorem exec_invalStage1 fn q s : exec (.invalStage1 fn q) s = execInvalStage1 fn q s := rfl
theorem exec_invalStage2 fn q s : exec (.invalStage2 fn q) s = execInvalStage2 fn q s := rfl
theorem exec_invalPartition fn q s : exec (.invalPartition fn q) s = execInvalPartition fn q s := rfl
theorem exec_replayRetry fn q s : exec (.replayRetry fn q) s = execReplayRetry fn q s := rfl
theorem exec_replayFail fn q s : exec (.replayFail fn q) s = execReplayFail fn q s := rfl
theorem exec_partcfg fn q s : exec (.partcfg fn q) s = execPartcfg fn q s := rfl
theorem exec_partrst fn q s : exec (.partrst fn q) s = execPartrst fn q s := rfl
theorem exec_teamAdmission launch core s : exec (.teamAdmission launch core) s = execTeamAdmission launch core s := rfl
theorem exec_worldSwitchQuantumExpiry part s : exec (.worldSwitchQuantumExpiry part) s = execWorldSwitchQuantumExpiry part s := rfl
theorem exec_pluginTimeout part s : exec (.pluginTimeout part) s = execPluginTimeout part s := rfl
theorem exec_psaveDeadlineExpiry uid s : exec (.psaveDeadlineExpiry uid) s = execPsaveDeadlineExpiry uid s := rfl
theorem exec_contextSave uid evict s : exec (.contextSave uid evict) s = execContextSave uid evict s := rfl
theorem exec_contextRestore uid core s : exec (.contextRestore uid core) s = execContextRestore uid core s := rfl
theorem exec_shareMeasurement s : exec (.shareMeasurement) s = execShareMeasurement s := rfl
theorem exec_hostBar4Read fn off n s : exec (.hostBar4Read fn off n) s = execHostBar4Read fn off n s := rfl
theorem exec_hostBar4Write fn off n v s : exec (.hostBar4Write fn off n v) s = execHostBar4Write fn off n v s := rfl
theorem exec_hostAtomicop fn off n op x y s : exec (.hostAtomicop fn off n op x y) s = execHostAtomicop fn off n op x y s := rfl
theorem exec_functionLevelReset fn s : exec (.functionLevelReset fn) s = execFunctionLevelReset fn s := rfl
theorem exec_ualinkInboundRead src tag off n s : exec (.ualinkInboundRead src tag off n) s = execUalinkInboundRead src tag off n s := rfl
theorem exec_ualinkInboundWrite src tag off n v s : exec (.ualinkInboundWrite src tag off n v) s = execUalinkInboundWrite src tag off n v s := rfl
theorem exec_ualinkInboundAtomic src tag off n op x y s : exec (.ualinkInboundAtomic src tag off n op x y) s = execUalinkInboundAtomic src tag off n op x y s := rfl
theorem exec_peerTranslationQuery src off s : exec (.peerTranslationQuery src off) s = execPeerTranslationQuery src off s := rfl
theorem exec_replayReplyCacheExpiry src s : exec (.replayReplyCacheExpiry src) s = execReplayReplyCacheExpiry src s := rfl
theorem exec_ualinkCompletion dest tag ok v s : exec (.ualinkCompletion dest tag ok v) s = execUalinkCompletion dest tag ok v s := rfl
theorem exec_peerRequestTimeout dest s : exec (.peerRequestTimeout dest) s = execPeerRequestTimeout dest s := rfl
theorem exec_assignNum die comm src term tag s : exec (.assignNum die comm src term tag) s = execAssignNum die comm src term tag s := rfl
theorem exec_numbered die comm frm tag n s : exec (.numbered die comm frm tag n) s = execNumbered die comm frm tag n s := rfl
theorem exec_cancel die comm src term tag s : exec (.cancel die comm src term tag) s = execCancel die comm src term tag s := rfl
theorem exec_reply die comm frm tag status s : exec (.reply die comm frm tag status) s = execReply die comm frm tag status s := rfl
theorem exec_hole die comm frm tag n s : exec (.hole die comm frm tag n) s = execHole die comm frm tag n s := rfl
theorem exec_ready die comm src term n s : exec (.ready die comm src term n) s = execReady die comm src term n s := rfl
theorem exec_go die comm frm n s : exec (.go die comm frm n) s = execGo die comm frm n s := rfl
theorem exec_done die comm src term n s : exec (.done die comm src term n) s = execDone die comm src term n s := rfl
theorem exec_collect die comm frm s : exec (.collect die comm frm) s = execCollect die comm frm s := rfl
theorem exec_report die comm src term next known sent gone posted s : exec (.report die comm src term next known sent gone posted) s = execReport die comm src term next known sent gone posted s := rfl
theorem exec_failoverRequest die comm frm s : exec (.failoverRequest die comm frm) s = execFailoverRequest die comm frm s := rfl
theorem exec_sequencerTimeout die comm s : exec (.sequencerTimeout die comm) s = execSequencerTimeout die comm s := rfl
theorem exec_collectiveLocalCompletion die comm s : exec (.collectiveLocalCompletion die comm) s = execCollectiveLocalCompletion die comm s := rfl
theorem exec_iftRun core given s : exec (.iftRun core given) s = execIftRun core given s := rfl
theorem exec_linkInjectorArm port v s : exec (.linkInjectorArm port v) s = execLinkInjectorArm port v s := rfl
theorem exec_linkInjection port s : exec (.linkInjection port) s = execLinkInjection port s := rfl
theorem exec_stallSample site s : exec (.stallSample site) s = execStallSample site s := rfl
theorem exec_trheadWrite part v s : exec (.trheadWrite part v) s = execTrheadWrite part v s := rfl
theorem exec_dbgstop part v s : exec (.dbgstop part v) s = execDbgstop part v s := rfl
theorem exec_ctrClaim fn part bank s : exec (.ctrClaim fn part bank) s = execCtrClaim fn part bank s := rfl
theorem exec_ctrRelease fn part bank s : exec (.ctrRelease fn part bank) s = execCtrRelease fn part bank s := rfl
theorem exec_ctrselWrite fn part bank k v s : exec (.ctrselWrite fn part bank k v) s = execCtrselWrite fn part bank k v s := rfl
theorem exec_capselWrite fn part bank v s : exec (.capselWrite fn part bank v) s = execCapselWrite fn part bank v s := rfl
theorem exec_fwLoadPlugin s : exec (.fwLoadPlugin) s = execFwLoadPlugin s := rfl
theorem exec_fwUnloadPlugin s : exec (.fwUnloadPlugin) s = execFwUnloadPlugin s := rfl
theorem exec_fwInstallCommunicator s : exec (.fwInstallCommunicator) s = execFwInstallCommunicator s := rfl
theorem exec_fwRemoveCommunicator s : exec (.fwRemoveCommunicator) s = execFwRemoveCommunicator s := rfl
theorem exec_fwWritePeerAccess s : exec (.fwWritePeerAccess) s = execFwWritePeerAccess s := rfl
theorem exec_fwReadmitPeer s : exec (.fwReadmitPeer) s = execFwReadmitPeer s := rfl
theorem exec_fwOrderFailover s : exec (.fwOrderFailover) s = execFwOrderFailover s := rfl
theorem exec_fwAttestationReport s : exec (.fwAttestationReport) s = execFwAttestationReport s := rfl
theorem exec_exportPart s : exec (.exportPart) s = execExportPart s := rfl
theorem exec_importPart s : exec (.importPart) s = execImportPart s := rfl
theorem exec_hold s : exec (.hold) s = execHold s := rfl
theorem exec_release s : exec (.release) s = execRelease s := rfl
theorem exec_fwStoreAccid s : exec (.fwStoreAccid) s = execFwStoreAccid s := rfl
theorem exec_startUp failed romFault s : exec (.startUp failed romFault) s = execStartUp failed romFault s := rfl
theorem exec_pwrmonUpdate i avg s : exec (.pwrmonUpdate i avg) s = execPwrmonUpdate i avg s := rfl
theorem exec_pwrmonWrite i s : exec (.pwrmonWrite i) s = execPwrmonWrite i s := rfl
theorem exec_thermalLimit isStack i s : exec (.thermalLimit isStack i) s = execThermalLimit isStack i s := rfl
theorem exec_registerWrite port bar off v s : exec (.registerWrite port bar off v) s = execRegisterWrite port bar off v s := rfl
theorem exec_ualinkLinkDown port s : exec (.ualinkLinkDown port) s = execUalinkLinkDown port s := rfl
theorem exec_ualinkLinkUp port s : exec (.ualinkLinkUp port) s = execUalinkLinkUp port s := rfl
theorem exec_baseDieLinkFailure stack s : exec (.baseDieLinkFailure stack) s = execBaseDieLinkFailure stack s := rfl

end Sys2Proof.Machine
end

