-- ==== Sys2Proof/Laws/Sparse.lean ====
section
/-! SUPPORT. Laws of the sparse table: a read after a write, and the canonical form, which every operation keeps. The
reading laws hold for every table; only equality of equal tables rests on the canonical form. -/

namespace Sys2Proof

variable {α : Type}

/-! ## Reads after writes -/

@[simp] theorem Sparse.get_nil (d : α) (k : Nat) : Sparse.get d [] k = d := rfl

theorem Sparse.get_insert_self (d : α) (m : Sparse α) (k : Nat) (v : α) : Sparse.get d (Sparse.insert m k v) k = v := by
  induction m with
  | nil => simp [Sparse.insert, Sparse.get]
  | cons x m ih =>
    obtain ⟨j, w⟩ := x
    simp only [Sparse.insert]
    split
    · simp [Sparse.get]
    · split <;> simp_all [Sparse.get]

theorem Sparse.get_insert_ne (d : α) (m : Sparse α) {k j : Nat} (v : α) (h : j ≠ k) :
    Sparse.get d (Sparse.insert m k v) j = Sparse.get d m j := by
  induction m with
  | nil => simp [Sparse.insert, Sparse.get, h.symm]
  | cons x m ih =>
    obtain ⟨i, w⟩ := x
    simp only [Sparse.insert]
    split
    · subst_vars; simp [Sparse.get, h.symm]
    · split <;> simp_all [Sparse.get, h.symm]

theorem Sparse.get_erase_self (d : α) (m : Sparse α) (k : Nat) : Sparse.get d (Sparse.erase m k) k = d := by
  induction m with
  | nil => rfl
  | cons x m ih => obtain ⟨i, w⟩ := x; simp only [Sparse.erase]; split <;> simp_all [Sparse.get]

theorem Sparse.get_erase_ne (d : α) (m : Sparse α) {k j : Nat} (h : j ≠ k) :
    Sparse.get d (Sparse.erase m k) j = Sparse.get d m j := by
  induction m with
  | nil => rfl
  | cons x m ih =>
    obtain ⟨i, w⟩ := x
    simp only [Sparse.erase]
    split
    · subst_vars; simp [Sparse.get, h.symm, ih]
    · simp [Sparse.get, ih]

variable [DecidableEq α]

@[simp] theorem Sparse.get_set_self (d : α) (m : Sparse α) (k : Nat) (v : α) : Sparse.get d (Sparse.set d m k v) k = v := by
  unfold Sparse.set
  split
  · subst_vars; exact Sparse.get_erase_self ..
  · exact Sparse.get_insert_self ..

theorem Sparse.get_set_ne (d : α) (m : Sparse α) {k j : Nat} (v : α) (h : j ≠ k) :
    Sparse.get d (Sparse.set d m k v) j = Sparse.get d m j := by
  unfold Sparse.set
  split
  · exact Sparse.get_erase_ne _ _ h
  · exact Sparse.get_insert_ne _ _ _ h

theorem Sparse.get_set (d : α) (m : Sparse α) (k j : Nat) (v : α) :
    Sparse.get d (Sparse.set d m k v) j = if j = k then v else Sparse.get d m j := by
  split
  · subst_vars; simp
  · exact Sparse.get_set_ne d m v ‹_›

theorem Sparse.get_upd (d : α) (m : Sparse α) (k j : Nat) (f : α → α) :
    Sparse.get d (Sparse.upd d m k f) j = if j = k then f (Sparse.get d m k) else Sparse.get d m j := Sparse.get_set ..

@[simp] theorem Sparse.get_upd_self (d : α) (m : Sparse α) (k : Nat) (f : α → α) :
    Sparse.get d (Sparse.upd d m k f) k = f (Sparse.get d m k) := Sparse.get_set_self ..

theorem Sparse.get_upd_ne (d : α) (m : Sparse α) {k j : Nat} (f : α → α) (h : j ≠ k) :
    Sparse.get d (Sparse.upd d m k f) j = Sparse.get d m j := Sparse.get_set_ne d m _ h

/-- Writes of `f i` at `key i` for each `i` of a list, read at a key: the value of the one index that has it, else what
stood there. -/
theorem Sparse.get_foldl_set_ne {ι : Type} (d : α) (key : ι → Nat) (f : ι → α) (xs : List ι) (j : Nat) (h : ∀ i ∈ xs, key i ≠ j)
    (m : Sparse α) : Sparse.get d (xs.foldl (fun m i => Sparse.set d m (key i) (f i)) m) j = Sparse.get d m j := by
  induction xs generalizing m with
  | nil => rfl
  | cons x xs ih =>
    simp only [List.foldl_cons]
    rw [ih (fun i hi => h i (by simp [hi])), Sparse.get_set_ne]
    exact fun e => h x (by simp) e.symm

theorem Sparse.get_foldl_set {ι : Type} (d : α) (key : ι → Nat) (f : ι → α) (xs : List ι)
    (inj : ∀ a ∈ xs, ∀ b ∈ xs, key a = key b → f a = f b) (i : ι) (hi : i ∈ xs) (m : Sparse α) :
    Sparse.get d (xs.foldl (fun m i => Sparse.set d m (key i) (f i)) m) (key i) = f i := by
  induction xs generalizing m i with
  | nil => simp at hi
  | cons x xs ih =>
    simp only [List.foldl_cons]
    by_cases hm : ∃ y ∈ xs, key y = key i
    · obtain ⟨y, hy, e⟩ := hm
      rw [← e, inj i hi y (by simp [hy]) e.symm]
      exact ih (fun a ha b hb => inj a (by simp [ha]) b (by simp [hb])) y hy _
    · have hx : i = x := by
        rcases List.mem_cons.1 hi with h | h
        · exact h
        · exact absurd ⟨i, h, rfl⟩ hm
      subst hx
      rw [Sparse.get_foldl_set_ne d key f xs (key i) (fun y hy e => hm ⟨y, hy, e⟩)]
      simp

/-! ## The canonical form -/

omit [DecidableEq α] in
theorem Sparse.mem_erase {m : Sparse α} {k : Nat} {x : Nat × α} (h : x ∈ Sparse.erase m k) : x ∈ m := by
  induction m with
  | nil => simp [Sparse.erase] at h
  | cons y m ih =>
    obtain ⟨j, w⟩ := y
    simp only [Sparse.erase] at h
    split at h
    · exact List.mem_cons_of_mem _ (ih h)
    · rcases List.mem_cons.1 h with h | h
      · simp [h]
      · exact List.mem_cons_of_mem _ (ih h)

omit [DecidableEq α] in
theorem Sparse.mem_insert {m : Sparse α} {k : Nat} {v : α} {x : Nat × α} (h : x ∈ Sparse.insert m k v) : x = (k, v) ∨ x ∈ m := by
  induction m with
  | nil => exact .inl (by simpa [Sparse.insert] using h)
  | cons y m ih =>
    obtain ⟨j, w⟩ := y
    simp only [Sparse.insert] at h
    split at h
    · rcases List.mem_cons.1 h with h | h
      · exact .inl h
      · exact .inr (List.mem_cons_of_mem _ h)
    · split at h
      · rcases List.mem_cons.1 h with h | h
        · exact .inl h
        · exact .inr h
      · rcases List.mem_cons.1 h with h | h
        · exact .inr (by simp [h])
        · exact (ih h).imp id (List.mem_cons_of_mem _)

/-- The canonical form said of all entries at once. -/
theorem Sparse.wf_iff (d : α) (m : Sparse α) :
    Sparse.wf d m = true ↔ m.Pairwise (fun a b => a.1 < b.1) ∧ ∀ x ∈ m, x.2 ≠ d := by
  induction m with
  | nil => simp [Sparse.wf]
  | cons x m ih =>
    obtain ⟨j, v⟩ := x
    cases m with
    | nil => simp [Sparse.wf]
    | cons y m =>
      obtain ⟨k, w⟩ := y
      simp only [Sparse.wf, Bool.and_eq_true, decide_eq_true_eq, Bool.not_eq_true', decide_eq_false_iff_not, ih]
      simp only [List.pairwise_cons, List.mem_cons, forall_eq_or_imp]
      constructor
      · rintro ⟨⟨h1, h2⟩, ⟨h3, h4⟩, h5, h6⟩
        exact ⟨⟨⟨h1, fun a ha => Nat.lt_trans h1 (h3 a ha)⟩, h3, h4⟩, h2, h5, h6⟩
      · rintro ⟨⟨⟨h1, _⟩, h3, h4⟩, h2, h5, h6⟩
        exact ⟨⟨h1, h2⟩, ⟨h3, h4⟩, h5, h6⟩

theorem Sparse.wf_erase (d : α) {m : Sparse α} (k : Nat) (h : Sparse.wf d m = true) : Sparse.wf d (Sparse.erase m k) = true := by
  rw [Sparse.wf_iff] at h ⊢
  refine ⟨?_, fun x hx => h.2 x (Sparse.mem_erase hx)⟩
  have h1 := h.1
  clear h
  induction m with
  | nil => simp [Sparse.erase]
  | cons y m ih =>
    obtain ⟨j, w⟩ := y
    obtain ⟨ha, hb⟩ := List.pairwise_cons.1 h1
    simp only [Sparse.erase]
    split
    · exact ih hb
    · exact List.pairwise_cons.2 ⟨fun x hx => ha x (Sparse.mem_erase hx), ih hb⟩

theorem Sparse.wf_insert (d : α) {m : Sparse α} (k : Nat) {v : α} (hv : v ≠ d) (h : Sparse.wf d m = true) :
    Sparse.wf d (Sparse.insert m k v) = true := by
  rw [Sparse.wf_iff] at h ⊢
  refine ⟨?_, fun x hx => ?_⟩
  · have h1 := h.1
    clear h
    induction m with
    | nil => simp [Sparse.insert]
    | cons y m ih =>
      obtain ⟨j, w⟩ := y
      obtain ⟨ha, hb⟩ := List.pairwise_cons.1 h1
      simp only [Sparse.insert]
      split
      · subst_vars; exact List.pairwise_cons.2 ⟨ha, hb⟩
      · split
        · refine List.pairwise_cons.2 ⟨fun x hx => ?_, h1⟩
          rcases List.mem_cons.1 hx with hx | hx
          · subst hx; assumption
          · exact Nat.lt_trans ‹_› (ha x hx)
        · refine List.pairwise_cons.2 ⟨fun x hx => ?_, ih hb⟩
          rcases Sparse.mem_insert hx with hx | hx
          · subst hx; show j < k; omega
          · exact ha x hx
  · rcases Sparse.mem_insert hx with hx | hx
    · subst hx; exact hv
    · exact h.2 x hx

theorem Sparse.wf_set (d : α) {m : Sparse α} (k : Nat) (v : α) (h : Sparse.wf d m = true) : Sparse.wf d (Sparse.set d m k v) = true := by
  unfold Sparse.set
  split
  · exact Sparse.wf_erase d k h
  · exact Sparse.wf_insert d k ‹_› h

theorem Sparse.wf_upd (d : α) {m : Sparse α} (k : Nat) (f : α → α) (h : Sparse.wf d m = true) :
    Sparse.wf d (Sparse.upd d m k f) = true := Sparse.wf_set d k _ h

theorem Sparse.wf_filter (d : α) {m : Sparse α} (p : Nat × α → Bool) (h : Sparse.wf d m = true) : Sparse.wf d (m.filter p) = true := by
  rw [Sparse.wf_iff] at h ⊢
  exact ⟨h.1.filter p, fun x hx => h.2 x (List.mem_filter.1 hx).1⟩

end Sys2Proof
end

