-- ==== Sys2Proof/Laws/State.lean ====
section
/-! SUPPORT. The fields of State under its named updates, one law for each field an update leaves, and what an update makes
of the one it changes. -/

namespace Sys2Proof.Machine

/-! ## updTeam -/

section
variable (s : State) (u : Nat) (f : Team → Team)

@[simp] theorem State.updTeam_clock : (s.updTeam u f).clock = s.clock := rfl
@[simp] theorem State.updTeam_plan : (s.updTeam u f).plan = s.plan := rfl
@[simp] theorem State.updTeam_site : (s.updTeam u f).site = s.site := rfl
@[simp] theorem State.updTeam_draw : (s.updTeam u f).draw = s.draw := rfl
@[simp] theorem State.updTeam_runs : (s.updTeam u f).runs = s.runs := rfl
@[simp] theorem State.updTeam_nextUid : (s.updTeam u f).nextUid = s.nextUid := rfl
@[simp] theorem State.updTeam_launches : (s.updTeam u f).launches = s.launches := rfl
@[simp] theorem State.updTeam_nextLaunch : (s.updTeam u f).nextLaunch = s.nextLaunch := rfl
@[simp] theorem State.updTeam_cores : (s.updTeam u f).cores = s.cores := rfl
@[simp] theorem State.updTeam_dies : (s.updTeam u f).dies = s.dies := rfl
@[simp] theorem State.updTeam_engines : (s.updTeam u f).engines = s.engines := rfl
@[simp] theorem State.updTeam_stks : (s.updTeam u f).stks = s.stks := rfl
@[simp] theorem State.updTeam_raw : (s.updTeam u f).raw = s.raw := rfl
@[simp] theorem State.updTeam_psn : (s.updTeam u f).psn = s.psn := rfl
@[simp] theorem State.updTeam_chk : (s.updTeam u f).chk = s.chk := rfl
@[simp] theorem State.updTeam_broken : (s.updTeam u f).broken = s.broken := rfl
@[simp] theorem State.updTeam_st2At : (s.updTeam u f).st2At = s.st2At := rfl
@[simp] theorem State.updTeam_cad : (s.updTeam u f).cad = s.cad := rfl
@[simp] theorem State.updTeam_owner : (s.updTeam u f).owner = s.owner := rfl
@[simp] theorem State.updTeam_drops : (s.updTeam u f).drops = s.drops := rfl
@[simp] theorem State.updTeam_rsSingles : (s.updTeam u f).rsSingles = s.rsSingles := rfl
@[simp] theorem State.updTeam_rsCause : (s.updTeam u f).rsCause = s.rsCause := rfl
@[simp] theorem State.updTeam_rsSkip : (s.updTeam u f).rsSkip = s.rsSkip := rfl
@[simp] theorem State.updTeam_unusable : (s.updTeam u f).unusable = s.unusable := rfl
@[simp] theorem State.updTeam_nospare : (s.updTeam u f).nospare = s.nospare := rfl
@[simp] theorem State.updTeam_l2 : (s.updTeam u f).l2 = s.l2 := rfl
@[simp] theorem State.updTeam_l2plru : (s.updTeam u f).l2plru = s.l2plru := rfl
@[simp] theorem State.updTeam_cecnt : (s.updTeam u f).cecnt = s.cecnt := rfl
@[simp] theorem State.updTeam_refillAt : (s.updTeam u f).refillAt = s.refillAt := rfl
@[simp] theorem State.updTeam_mhpois : (s.updTeam u f).mhpois = s.mhpois := rfl
@[simp] theorem State.updTeam_rsrate : (s.updTeam u f).rsrate = s.rsrate := rfl
@[simp] theorem State.updTeam_pbctl : (s.updTeam u f).pbctl = s.pbctl := rfl
@[simp] theorem State.updTeam_mtcfg : (s.updTeam u f).mtcfg = s.mtcfg := rfl
@[simp] theorem State.updTeam_pipecfg : (s.updTeam u f).pipecfg = s.pipecfg := rfl
@[simp] theorem State.updTeam_iftctl : (s.updTeam u f).iftctl = s.iftctl := rfl
@[simp] theorem State.updTeam_iftFail : (s.updTeam u f).iftFail = s.iftFail := rfl
@[simp] theorem State.updTeam_iftAband : (s.updTeam u f).iftAband = s.iftAband := rfl
@[simp] theorem State.updTeam_iftPass : (s.updTeam u f).iftPass = s.iftPass := rfl
@[simp] theorem State.updTeam_faults : (s.updTeam u f).faults = s.faults := rfl
@[simp] theorem State.updTeam_regs : (s.updTeam u f).regs = s.regs := rfl
@[simp] theorem State.updTeam_wakes : (s.updTeam u f).wakes = s.wakes := rfl
@[simp] theorem State.updTeam_watch : (s.updTeam u f).watch = s.watch := rfl
@[simp] theorem State.updTeam_shadowWatch : (s.updTeam u f).shadowWatch = s.shadowWatch := rfl
@[simp] theorem State.updTeam_watchOvf : (s.updTeam u f).watchOvf = s.watchOvf := rfl
@[simp] theorem State.updTeam_wlocks : (s.updTeam u f).wlocks = s.wlocks := rfl
@[simp] theorem State.updTeam_parts : (s.updTeam u f).parts = s.parts := rfl
@[simp] theorem State.updTeam_vdevs : (s.updTeam u f).vdevs = s.vdevs := rfl
@[simp] theorem State.updTeam_misfire : (s.updTeam u f).misfire = s.misfire := rfl
@[simp] theorem State.updTeam_arrivals : (s.updTeam u f).arrivals = s.arrivals := rfl
@[simp] theorem State.updTeam_host : (s.updTeam u f).host = s.host := rfl
@[simp] theorem State.updTeam_peers : (s.updTeam u f).peers = s.peers := rfl
@[simp] theorem State.updTeam_pats : (s.updTeam u f).pats = s.pats := rfl
@[simp] theorem State.updTeam_accid : (s.updTeam u f).accid = s.accid := rfl
@[simp] theorem State.updTeam_accNone : (s.updTeam u f).accNone = s.accNone := rfl
@[simp] theorem State.updTeam_storedAcc : (s.updTeam u f).storedAcc = s.storedAcc := rfl
@[simp] theorem State.updTeam_links : (s.updTeam u f).links = s.links := rfl
@[simp] theorem State.updTeam_linj : (s.updTeam u f).linj = s.linj := rfl
@[simp] theorem State.updTeam_linjCnt : (s.updTeam u f).linjCnt = s.linjCnt := rfl
@[simp] theorem State.updTeam_injpart : (s.updTeam u f).injpart = s.injpart := rfl
@[simp] theorem State.updTeam_fwArg : (s.updTeam u f).fwArg = s.fwArg := rfl
@[simp] theorem State.updTeam_fwCmd : (s.updTeam u f).fwCmd = s.fwCmd := rfl
@[simp] theorem State.updTeam_fwBusy : (s.updTeam u f).fwBusy = s.fwBusy := rfl
@[simp] theorem State.updTeam_fwDropped : (s.updTeam u f).fwDropped = s.fwDropped := rfl
@[simp] theorem State.updTeam_fwErr : (s.updTeam u f).fwErr = s.fwErr := rfl
@[simp] theorem State.updTeam_ownerKeys : (s.updTeam u f).ownerKeys = s.ownerKeys := rfl
@[simp] theorem State.updTeam_bootGone : (s.updTeam u f).bootGone = s.bootGone := rfl
@[simp] theorem State.updTeam_bootStep : (s.updTeam u f).bootStep = s.bootStep := rfl
@[simp] theorem State.updTeam_bootErr : (s.updTeam u f).bootErr = s.bootErr := rfl
@[simp] theorem State.updTeam_bootDone : (s.updTeam u f).bootDone = s.bootDone := rfl
@[simp] theorem State.updTeam_pwrPeak : (s.updTeam u f).pwrPeak = s.pwrPeak := rfl
@[simp] theorem State.updTeam_pwrAvg : (s.updTeam u f).pwrAvg = s.pwrAvg := rfl
@[simp] theorem State.updTeam_out : (s.updTeam u f).out = s.out := rfl
@[simp] theorem State.updTeam_nkeys : (s.updTeam u f).nkeys = s.nkeys := rfl
@[simp] theorem State.updTeam_shareAt : (s.updTeam u f).shareAt = s.shareAt := rfl

end

/-! ## updGroup -/

section
variable (s : State) (u g : Nat) (f : Group → Group)

@[simp] theorem State.updGroup_clock : (s.updGroup u g f).clock = s.clock := rfl
@[simp] theorem State.updGroup_plan : (s.updGroup u g f).plan = s.plan := rfl
@[simp] theorem State.updGroup_site : (s.updGroup u g f).site = s.site := rfl
@[simp] theorem State.updGroup_draw : (s.updGroup u g f).draw = s.draw := rfl
@[simp] theorem State.updGroup_runs : (s.updGroup u g f).runs = s.runs := rfl
@[simp] theorem State.updGroup_nextUid : (s.updGroup u g f).nextUid = s.nextUid := rfl
@[simp] theorem State.updGroup_launches : (s.updGroup u g f).launches = s.launches := rfl
@[simp] theorem State.updGroup_nextLaunch : (s.updGroup u g f).nextLaunch = s.nextLaunch := rfl
@[simp] theorem State.updGroup_cores : (s.updGroup u g f).cores = s.cores := rfl
@[simp] theorem State.updGroup_dies : (s.updGroup u g f).dies = s.dies := rfl
@[simp] theorem State.updGroup_engines : (s.updGroup u g f).engines = s.engines := rfl
@[simp] theorem State.updGroup_stks : (s.updGroup u g f).stks = s.stks := rfl
@[simp] theorem State.updGroup_raw : (s.updGroup u g f).raw = s.raw := rfl
@[simp] theorem State.updGroup_psn : (s.updGroup u g f).psn = s.psn := rfl
@[simp] theorem State.updGroup_chk : (s.updGroup u g f).chk = s.chk := rfl
@[simp] theorem State.updGroup_broken : (s.updGroup u g f).broken = s.broken := rfl
@[simp] theorem State.updGroup_st2At : (s.updGroup u g f).st2At = s.st2At := rfl
@[simp] theorem State.updGroup_cad : (s.updGroup u g f).cad = s.cad := rfl
@[simp] theorem State.updGroup_owner : (s.updGroup u g f).owner = s.owner := rfl
@[simp] theorem State.updGroup_drops : (s.updGroup u g f).drops = s.drops := rfl
@[simp] theorem State.updGroup_rsSingles : (s.updGroup u g f).rsSingles = s.rsSingles := rfl
@[simp] theorem State.updGroup_rsCause : (s.updGroup u g f).rsCause = s.rsCause := rfl
@[simp] theorem State.updGroup_rsSkip : (s.updGroup u g f).rsSkip = s.rsSkip := rfl
@[simp] theorem State.updGroup_unusable : (s.updGroup u g f).unusable = s.unusable := rfl
@[simp] theorem State.updGroup_nospare : (s.updGroup u g f).nospare = s.nospare := rfl
@[simp] theorem State.updGroup_l2 : (s.updGroup u g f).l2 = s.l2 := rfl
@[simp] theorem State.updGroup_l2plru : (s.updGroup u g f).l2plru = s.l2plru := rfl
@[simp] theorem State.updGroup_cecnt : (s.updGroup u g f).cecnt = s.cecnt := rfl
@[simp] theorem State.updGroup_refillAt : (s.updGroup u g f).refillAt = s.refillAt := rfl
@[simp] theorem State.updGroup_mhpois : (s.updGroup u g f).mhpois = s.mhpois := rfl
@[simp] theorem State.updGroup_rsrate : (s.updGroup u g f).rsrate = s.rsrate := rfl
@[simp] theorem State.updGroup_pbctl : (s.updGroup u g f).pbctl = s.pbctl := rfl
@[simp] theorem State.updGroup_mtcfg : (s.updGroup u g f).mtcfg = s.mtcfg := rfl
@[simp] theorem State.updGroup_pipecfg : (s.updGroup u g f).pipecfg = s.pipecfg := rfl
@[simp] theorem State.updGroup_iftctl : (s.updGroup u g f).iftctl = s.iftctl := rfl
@[simp] theorem State.updGroup_iftFail : (s.updGroup u g f).iftFail = s.iftFail := rfl
@[simp] theorem State.updGroup_iftAband : (s.updGroup u g f).iftAband = s.iftAband := rfl
@[simp] theorem State.updGroup_iftPass : (s.updGroup u g f).iftPass = s.iftPass := rfl
@[simp] theorem State.updGroup_faults : (s.updGroup u g f).faults = s.faults := rfl
@[simp] theorem State.updGroup_regs : (s.updGroup u g f).regs = s.regs := rfl
@[simp] theorem State.updGroup_wakes : (s.updGroup u g f).wakes = s.wakes := rfl
@[simp] theorem State.updGroup_watch : (s.updGroup u g f).watch = s.watch := rfl
@[simp] theorem State.updGroup_shadowWatch : (s.updGroup u g f).shadowWatch = s.shadowWatch := rfl
@[simp] theorem State.updGroup_watchOvf : (s.updGroup u g f).watchOvf = s.watchOvf := rfl
@[simp] theorem State.updGroup_wlocks : (s.updGroup u g f).wlocks = s.wlocks := rfl
@[simp] theorem State.updGroup_parts : (s.updGroup u g f).parts = s.parts := rfl
@[simp] theorem State.updGroup_vdevs : (s.updGroup u g f).vdevs = s.vdevs := rfl
@[simp] theorem State.updGroup_misfire : (s.updGroup u g f).misfire = s.misfire := rfl
@[simp] theorem State.updGroup_arrivals : (s.updGroup u g f).arrivals = s.arrivals := rfl
@[simp] theorem State.updGroup_host : (s.updGroup u g f).host = s.host := rfl
@[simp] theorem State.updGroup_peers : (s.updGroup u g f).peers = s.peers := rfl
@[simp] theorem State.updGroup_pats : (s.updGroup u g f).pats = s.pats := rfl
@[simp] theorem State.updGroup_accid : (s.updGroup u g f).accid = s.accid := rfl
@[simp] theorem State.updGroup_accNone : (s.updGroup u g f).accNone = s.accNone := rfl
@[simp] theorem State.updGroup_storedAcc : (s.updGroup u g f).storedAcc = s.storedAcc := rfl
@[simp] theorem State.updGroup_links : (s.updGroup u g f).links = s.links := rfl
@[simp] theorem State.updGroup_linj : (s.updGroup u g f).linj = s.linj := rfl
@[simp] theorem State.updGroup_linjCnt : (s.updGroup u g f).linjCnt = s.linjCnt := rfl
@[simp] theorem State.updGroup_injpart : (s.updGroup u g f).injpart = s.injpart := rfl
@[simp] theorem State.updGroup_fwArg : (s.updGroup u g f).fwArg = s.fwArg := rfl
@[simp] theorem State.updGroup_fwCmd : (s.updGroup u g f).fwCmd = s.fwCmd := rfl
@[simp] theorem State.updGroup_fwBusy : (s.updGroup u g f).fwBusy = s.fwBusy := rfl
@[simp] theorem State.updGroup_fwDropped : (s.updGroup u g f).fwDropped = s.fwDropped := rfl
@[simp] theorem State.updGroup_fwErr : (s.updGroup u g f).fwErr = s.fwErr := rfl
@[simp] theorem State.updGroup_ownerKeys : (s.updGroup u g f).ownerKeys = s.ownerKeys := rfl
@[simp] theorem State.updGroup_bootGone : (s.updGroup u g f).bootGone = s.bootGone := rfl
@[simp] theorem State.updGroup_bootStep : (s.updGroup u g f).bootStep = s.bootStep := rfl
@[simp] theorem State.updGroup_bootErr : (s.updGroup u g f).bootErr = s.bootErr := rfl
@[simp] theorem State.updGroup_bootDone : (s.updGroup u g f).bootDone = s.bootDone := rfl
@[simp] theorem State.updGroup_pwrPeak : (s.updGroup u g f).pwrPeak = s.pwrPeak := rfl
@[simp] theorem State.updGroup_pwrAvg : (s.updGroup u g f).pwrAvg = s.pwrAvg := rfl
@[simp] theorem State.updGroup_out : (s.updGroup u g f).out = s.out := rfl
@[simp] theorem State.updGroup_nkeys : (s.updGroup u g f).nkeys = s.nkeys := rfl
@[simp] theorem State.updGroup_shareAt : (s.updGroup u g f).shareAt = s.shareAt := rfl

end

/-! ## updCur -/

section
variable (s : State) (f : Group → Group)

@[simp] theorem State.updCur_clock : (s.updCur f).clock = s.clock := rfl
@[simp] theorem State.updCur_plan : (s.updCur f).plan = s.plan := rfl
@[simp] theorem State.updCur_site : (s.updCur f).site = s.site := rfl
@[simp] theorem State.updCur_draw : (s.updCur f).draw = s.draw := rfl
@[simp] theorem State.updCur_runs : (s.updCur f).runs = s.runs := rfl
@[simp] theorem State.updCur_nextUid : (s.updCur f).nextUid = s.nextUid := rfl
@[simp] theorem State.updCur_launches : (s.updCur f).launches = s.launches := rfl
@[simp] theorem State.updCur_nextLaunch : (s.updCur f).nextLaunch = s.nextLaunch := rfl
@[simp] theorem State.updCur_cores : (s.updCur f).cores = s.cores := rfl
@[simp] theorem State.updCur_dies : (s.updCur f).dies = s.dies := rfl
@[simp] theorem State.updCur_engines : (s.updCur f).engines = s.engines := rfl
@[simp] theorem State.updCur_stks : (s.updCur f).stks = s.stks := rfl
@[simp] theorem State.updCur_raw : (s.updCur f).raw = s.raw := rfl
@[simp] theorem State.updCur_psn : (s.updCur f).psn = s.psn := rfl
@[simp] theorem State.updCur_chk : (s.updCur f).chk = s.chk := rfl
@[simp] theorem State.updCur_broken : (s.updCur f).broken = s.broken := rfl
@[simp] theorem State.updCur_st2At : (s.updCur f).st2At = s.st2At := rfl
@[simp] theorem State.updCur_cad : (s.updCur f).cad = s.cad := rfl
@[simp] theorem State.updCur_owner : (s.updCur f).owner = s.owner := rfl
@[simp] theorem State.updCur_drops : (s.updCur f).drops = s.drops := rfl
@[simp] theorem State.updCur_rsSingles : (s.updCur f).rsSingles = s.rsSingles := rfl
@[simp] theorem State.updCur_rsCause : (s.updCur f).rsCause = s.rsCause := rfl
@[simp] theorem State.updCur_rsSkip : (s.updCur f).rsSkip = s.rsSkip := rfl
@[simp] theorem State.updCur_unusable : (s.updCur f).unusable = s.unusable := rfl
@[simp] theorem State.updCur_nospare : (s.updCur f).nospare = s.nospare := rfl
@[simp] theorem State.updCur_l2 : (s.updCur f).l2 = s.l2 := rfl
@[simp] theorem State.updCur_l2plru : (s.updCur f).l2plru = s.l2plru := rfl
@[simp] theorem State.updCur_cecnt : (s.updCur f).cecnt = s.cecnt := rfl
@[simp] theorem State.updCur_refillAt : (s.updCur f).refillAt = s.refillAt := rfl
@[simp] theorem State.updCur_mhpois : (s.updCur f).mhpois = s.mhpois := rfl
@[simp] theorem State.updCur_rsrate : (s.updCur f).rsrate = s.rsrate := rfl
@[simp] theorem State.updCur_pbctl : (s.updCur f).pbctl = s.pbctl := rfl
@[simp] theorem State.updCur_mtcfg : (s.updCur f).mtcfg = s.mtcfg := rfl
@[simp] theorem State.updCur_pipecfg : (s.updCur f).pipecfg = s.pipecfg := rfl
@[simp] theorem State.updCur_iftctl : (s.updCur f).iftctl = s.iftctl := rfl
@[simp] theorem State.updCur_iftFail : (s.updCur f).iftFail = s.iftFail := rfl
@[simp] theorem State.updCur_iftAband : (s.updCur f).iftAband = s.iftAband := rfl
@[simp] theorem State.updCur_iftPass : (s.updCur f).iftPass = s.iftPass := rfl
@[simp] theorem State.updCur_faults : (s.updCur f).faults = s.faults := rfl
@[simp] theorem State.updCur_regs : (s.updCur f).regs = s.regs := rfl
@[simp] theorem State.updCur_wakes : (s.updCur f).wakes = s.wakes := rfl
@[simp] theorem State.updCur_watch : (s.updCur f).watch = s.watch := rfl
@[simp] theorem State.updCur_shadowWatch : (s.updCur f).shadowWatch = s.shadowWatch := rfl
@[simp] theorem State.updCur_watchOvf : (s.updCur f).watchOvf = s.watchOvf := rfl
@[simp] theorem State.updCur_wlocks : (s.updCur f).wlocks = s.wlocks := rfl
@[simp] theorem State.updCur_parts : (s.updCur f).parts = s.parts := rfl
@[simp] theorem State.updCur_vdevs : (s.updCur f).vdevs = s.vdevs := rfl
@[simp] theorem State.updCur_misfire : (s.updCur f).misfire = s.misfire := rfl
@[simp] theorem State.updCur_arrivals : (s.updCur f).arrivals = s.arrivals := rfl
@[simp] theorem State.updCur_host : (s.updCur f).host = s.host := rfl
@[simp] theorem State.updCur_peers : (s.updCur f).peers = s.peers := rfl
@[simp] theorem State.updCur_pats : (s.updCur f).pats = s.pats := rfl
@[simp] theorem State.updCur_accid : (s.updCur f).accid = s.accid := rfl
@[simp] theorem State.updCur_accNone : (s.updCur f).accNone = s.accNone := rfl
@[simp] theorem State.updCur_storedAcc : (s.updCur f).storedAcc = s.storedAcc := rfl
@[simp] theorem State.updCur_links : (s.updCur f).links = s.links := rfl
@[simp] theorem State.updCur_linj : (s.updCur f).linj = s.linj := rfl
@[simp] theorem State.updCur_linjCnt : (s.updCur f).linjCnt = s.linjCnt := rfl
@[simp] theorem State.updCur_injpart : (s.updCur f).injpart = s.injpart := rfl
@[simp] theorem State.updCur_fwArg : (s.updCur f).fwArg = s.fwArg := rfl
@[simp] theorem State.updCur_fwCmd : (s.updCur f).fwCmd = s.fwCmd := rfl
@[simp] theorem State.updCur_fwBusy : (s.updCur f).fwBusy = s.fwBusy := rfl
@[simp] theorem State.updCur_fwDropped : (s.updCur f).fwDropped = s.fwDropped := rfl
@[simp] theorem State.updCur_fwErr : (s.updCur f).fwErr = s.fwErr := rfl
@[simp] theorem State.updCur_ownerKeys : (s.updCur f).ownerKeys = s.ownerKeys := rfl
@[simp] theorem State.updCur_bootGone : (s.updCur f).bootGone = s.bootGone := rfl
@[simp] theorem State.updCur_bootStep : (s.updCur f).bootStep = s.bootStep := rfl
@[simp] theorem State.updCur_bootErr : (s.updCur f).bootErr = s.bootErr := rfl
@[simp] theorem State.updCur_bootDone : (s.updCur f).bootDone = s.bootDone := rfl
@[simp] theorem State.updCur_pwrPeak : (s.updCur f).pwrPeak = s.pwrPeak := rfl
@[simp] theorem State.updCur_pwrAvg : (s.updCur f).pwrAvg = s.pwrAvg := rfl
@[simp] theorem State.updCur_out : (s.updCur f).out = s.out := rfl
@[simp] theorem State.updCur_nkeys : (s.updCur f).nkeys = s.nkeys := rfl
@[simp] theorem State.updCur_shareAt : (s.updCur f).shareAt = s.shareAt := rfl

end

/-! ## updCore -/

section
variable (s : State) (c : Nat) (f : Core → Core)

@[simp] theorem State.updCore_clock : (s.updCore c f).clock = s.clock := rfl
@[simp] theorem State.updCore_plan : (s.updCore c f).plan = s.plan := rfl
@[simp] theorem State.updCore_site : (s.updCore c f).site = s.site := rfl
@[simp] theorem State.updCore_draw : (s.updCore c f).draw = s.draw := rfl
@[simp] theorem State.updCore_runs : (s.updCore c f).runs = s.runs := rfl
@[simp] theorem State.updCore_teams : (s.updCore c f).teams = s.teams := rfl
@[simp] theorem State.updCore_nextUid : (s.updCore c f).nextUid = s.nextUid := rfl
@[simp] theorem State.updCore_launches : (s.updCore c f).launches = s.launches := rfl
@[simp] theorem State.updCore_nextLaunch : (s.updCore c f).nextLaunch = s.nextLaunch := rfl
@[simp] theorem State.updCore_dies : (s.updCore c f).dies = s.dies := rfl
@[simp] theorem State.updCore_engines : (s.updCore c f).engines = s.engines := rfl
@[simp] theorem State.updCore_stks : (s.updCore c f).stks = s.stks := rfl
@[simp] theorem State.updCore_raw : (s.updCore c f).raw = s.raw := rfl
@[simp] theorem State.updCore_psn : (s.updCore c f).psn = s.psn := rfl
@[simp] theorem State.updCore_chk : (s.updCore c f).chk = s.chk := rfl
@[simp] theorem State.updCore_broken : (s.updCore c f).broken = s.broken := rfl
@[simp] theorem State.updCore_st2At : (s.updCore c f).st2At = s.st2At := rfl
@[simp] theorem State.updCore_cad : (s.updCore c f).cad = s.cad := rfl
@[simp] theorem State.updCore_owner : (s.updCore c f).owner = s.owner := rfl
@[simp] theorem State.updCore_drops : (s.updCore c f).drops = s.drops := rfl
@[simp] theorem State.updCore_rsSingles : (s.updCore c f).rsSingles = s.rsSingles := rfl
@[simp] theorem State.updCore_rsCause : (s.updCore c f).rsCause = s.rsCause := rfl
@[simp] theorem State.updCore_rsSkip : (s.updCore c f).rsSkip = s.rsSkip := rfl
@[simp] theorem State.updCore_unusable : (s.updCore c f).unusable = s.unusable := rfl
@[simp] theorem State.updCore_nospare : (s.updCore c f).nospare = s.nospare := rfl
@[simp] theorem State.updCore_l2 : (s.updCore c f).l2 = s.l2 := rfl
@[simp] theorem State.updCore_l2plru : (s.updCore c f).l2plru = s.l2plru := rfl
@[simp] theorem State.updCore_cecnt : (s.updCore c f).cecnt = s.cecnt := rfl
@[simp] theorem State.updCore_refillAt : (s.updCore c f).refillAt = s.refillAt := rfl
@[simp] theorem State.updCore_mhpois : (s.updCore c f).mhpois = s.mhpois := rfl
@[simp] theorem State.updCore_rsrate : (s.updCore c f).rsrate = s.rsrate := rfl
@[simp] theorem State.updCore_pbctl : (s.updCore c f).pbctl = s.pbctl := rfl
@[simp] theorem State.updCore_mtcfg : (s.updCore c f).mtcfg = s.mtcfg := rfl
@[simp] theorem State.updCore_pipecfg : (s.updCore c f).pipecfg = s.pipecfg := rfl
@[simp] theorem State.updCore_iftctl : (s.updCore c f).iftctl = s.iftctl := rfl
@[simp] theorem State.updCore_iftFail : (s.updCore c f).iftFail = s.iftFail := rfl
@[simp] theorem State.updCore_iftAband : (s.updCore c f).iftAband = s.iftAband := rfl
@[simp] theorem State.updCore_iftPass : (s.updCore c f).iftPass = s.iftPass := rfl
@[simp] theorem State.updCore_faults : (s.updCore c f).faults = s.faults := rfl
@[simp] theorem State.updCore_regs : (s.updCore c f).regs = s.regs := rfl
@[simp] theorem State.updCore_wakes : (s.updCore c f).wakes = s.wakes := rfl
@[simp] theorem State.updCore_watch : (s.updCore c f).watch = s.watch := rfl
@[simp] theorem State.updCore_shadowWatch : (s.updCore c f).shadowWatch = s.shadowWatch := rfl
@[simp] theorem State.updCore_watchOvf : (s.updCore c f).watchOvf = s.watchOvf := rfl
@[simp] theorem State.updCore_wlocks : (s.updCore c f).wlocks = s.wlocks := rfl
@[simp] theorem State.updCore_parts : (s.updCore c f).parts = s.parts := rfl
@[simp] theorem State.updCore_vdevs : (s.updCore c f).vdevs = s.vdevs := rfl
@[simp] theorem State.updCore_misfire : (s.updCore c f).misfire = s.misfire := rfl
@[simp] theorem State.updCore_arrivals : (s.updCore c f).arrivals = s.arrivals := rfl
@[simp] theorem State.updCore_host : (s.updCore c f).host = s.host := rfl
@[simp] theorem State.updCore_peers : (s.updCore c f).peers = s.peers := rfl
@[simp] theorem State.updCore_pats : (s.updCore c f).pats = s.pats := rfl
@[simp] theorem State.updCore_accid : (s.updCore c f).accid = s.accid := rfl
@[simp] theorem State.updCore_accNone : (s.updCore c f).accNone = s.accNone := rfl
@[simp] theorem State.updCore_storedAcc : (s.updCore c f).storedAcc = s.storedAcc := rfl
@[simp] theorem State.updCore_links : (s.updCore c f).links = s.links := rfl
@[simp] theorem State.updCore_linj : (s.updCore c f).linj = s.linj := rfl
@[simp] theorem State.updCore_linjCnt : (s.updCore c f).linjCnt = s.linjCnt := rfl
@[simp] theorem State.updCore_injpart : (s.updCore c f).injpart = s.injpart := rfl
@[simp] theorem State.updCore_fwArg : (s.updCore c f).fwArg = s.fwArg := rfl
@[simp] theorem State.updCore_fwCmd : (s.updCore c f).fwCmd = s.fwCmd := rfl
@[simp] theorem State.updCore_fwBusy : (s.updCore c f).fwBusy = s.fwBusy := rfl
@[simp] theorem State.updCore_fwDropped : (s.updCore c f).fwDropped = s.fwDropped := rfl
@[simp] theorem State.updCore_fwErr : (s.updCore c f).fwErr = s.fwErr := rfl
@[simp] theorem State.updCore_ownerKeys : (s.updCore c f).ownerKeys = s.ownerKeys := rfl
@[simp] theorem State.updCore_bootGone : (s.updCore c f).bootGone = s.bootGone := rfl
@[simp] theorem State.updCore_bootStep : (s.updCore c f).bootStep = s.bootStep := rfl
@[simp] theorem State.updCore_bootErr : (s.updCore c f).bootErr = s.bootErr := rfl
@[simp] theorem State.updCore_bootDone : (s.updCore c f).bootDone = s.bootDone := rfl
@[simp] theorem State.updCore_pwrPeak : (s.updCore c f).pwrPeak = s.pwrPeak := rfl
@[simp] theorem State.updCore_pwrAvg : (s.updCore c f).pwrAvg = s.pwrAvg := rfl
@[simp] theorem State.updCore_out : (s.updCore c f).out = s.out := rfl
@[simp] theorem State.updCore_nkeys : (s.updCore c f).nkeys = s.nkeys := rfl
@[simp] theorem State.updCore_shareAt : (s.updCore c f).shareAt = s.shareAt := rfl

end

/-! ## updDie -/

section
variable (s : State) (d : Nat) (f : Die → Die)

@[simp] theorem State.updDie_clock : (s.updDie d f).clock = s.clock := rfl
@[simp] theorem State.updDie_plan : (s.updDie d f).plan = s.plan := rfl
@[simp] theorem State.updDie_site : (s.updDie d f).site = s.site := rfl
@[simp] theorem State.updDie_draw : (s.updDie d f).draw = s.draw := rfl
@[simp] theorem State.updDie_runs : (s.updDie d f).runs = s.runs := rfl
@[simp] theorem State.updDie_teams : (s.updDie d f).teams = s.teams := rfl
@[simp] theorem State.updDie_nextUid : (s.updDie d f).nextUid = s.nextUid := rfl
@[simp] theorem State.updDie_launches : (s.updDie d f).launches = s.launches := rfl
@[simp] theorem State.updDie_nextLaunch : (s.updDie d f).nextLaunch = s.nextLaunch := rfl
@[simp] theorem State.updDie_cores : (s.updDie d f).cores = s.cores := rfl
@[simp] theorem State.updDie_engines : (s.updDie d f).engines = s.engines := rfl
@[simp] theorem State.updDie_stks : (s.updDie d f).stks = s.stks := rfl
@[simp] theorem State.updDie_raw : (s.updDie d f).raw = s.raw := rfl
@[simp] theorem State.updDie_psn : (s.updDie d f).psn = s.psn := rfl
@[simp] theorem State.updDie_chk : (s.updDie d f).chk = s.chk := rfl
@[simp] theorem State.updDie_broken : (s.updDie d f).broken = s.broken := rfl
@[simp] theorem State.updDie_st2At : (s.updDie d f).st2At = s.st2At := rfl
@[simp] theorem State.updDie_cad : (s.updDie d f).cad = s.cad := rfl
@[simp] theorem State.updDie_owner : (s.updDie d f).owner = s.owner := rfl
@[simp] theorem State.updDie_drops : (s.updDie d f).drops = s.drops := rfl
@[simp] theorem State.updDie_rsSingles : (s.updDie d f).rsSingles = s.rsSingles := rfl
@[simp] theorem State.updDie_rsCause : (s.updDie d f).rsCause = s.rsCause := rfl
@[simp] theorem State.updDie_rsSkip : (s.updDie d f).rsSkip = s.rsSkip := rfl
@[simp] theorem State.updDie_unusable : (s.updDie d f).unusable = s.unusable := rfl
@[simp] theorem State.updDie_nospare : (s.updDie d f).nospare = s.nospare := rfl
@[simp] theorem State.updDie_l2 : (s.updDie d f).l2 = s.l2 := rfl
@[simp] theorem State.updDie_l2plru : (s.updDie d f).l2plru = s.l2plru := rfl
@[simp] theorem State.updDie_cecnt : (s.updDie d f).cecnt = s.cecnt := rfl
@[simp] theorem State.updDie_refillAt : (s.updDie d f).refillAt = s.refillAt := rfl
@[simp] theorem State.updDie_mhpois : (s.updDie d f).mhpois = s.mhpois := rfl
@[simp] theorem State.updDie_rsrate : (s.updDie d f).rsrate = s.rsrate := rfl
@[simp] theorem State.updDie_pbctl : (s.updDie d f).pbctl = s.pbctl := rfl
@[simp] theorem State.updDie_mtcfg : (s.updDie d f).mtcfg = s.mtcfg := rfl
@[simp] theorem State.updDie_pipecfg : (s.updDie d f).pipecfg = s.pipecfg := rfl
@[simp] theorem State.updDie_iftctl : (s.updDie d f).iftctl = s.iftctl := rfl
@[simp] theorem State.updDie_iftFail : (s.updDie d f).iftFail = s.iftFail := rfl
@[simp] theorem State.updDie_iftAband : (s.updDie d f).iftAband = s.iftAband := rfl
@[simp] theorem State.updDie_iftPass : (s.updDie d f).iftPass = s.iftPass := rfl
@[simp] theorem State.updDie_faults : (s.updDie d f).faults = s.faults := rfl
@[simp] theorem State.updDie_regs : (s.updDie d f).regs = s.regs := rfl
@[simp] theorem State.updDie_wakes : (s.updDie d f).wakes = s.wakes := rfl
@[simp] theorem State.updDie_watch : (s.updDie d f).watch = s.watch := rfl
@[simp] theorem State.updDie_shadowWatch : (s.updDie d f).shadowWatch = s.shadowWatch := rfl
@[simp] theorem State.updDie_watchOvf : (s.updDie d f).watchOvf = s.watchOvf := rfl
@[simp] theorem State.updDie_wlocks : (s.updDie d f).wlocks = s.wlocks := rfl
@[simp] theorem State.updDie_parts : (s.updDie d f).parts = s.parts := rfl
@[simp] theorem State.updDie_vdevs : (s.updDie d f).vdevs = s.vdevs := rfl
@[simp] theorem State.updDie_misfire : (s.updDie d f).misfire = s.misfire := rfl
@[simp] theorem State.updDie_arrivals : (s.updDie d f).arrivals = s.arrivals := rfl
@[simp] theorem State.updDie_host : (s.updDie d f).host = s.host := rfl
@[simp] theorem State.updDie_peers : (s.updDie d f).peers = s.peers := rfl
@[simp] theorem State.updDie_pats : (s.updDie d f).pats = s.pats := rfl
@[simp] theorem State.updDie_accid : (s.updDie d f).accid = s.accid := rfl
@[simp] theorem State.updDie_accNone : (s.updDie d f).accNone = s.accNone := rfl
@[simp] theorem State.updDie_storedAcc : (s.updDie d f).storedAcc = s.storedAcc := rfl
@[simp] theorem State.updDie_links : (s.updDie d f).links = s.links := rfl
@[simp] theorem State.updDie_linj : (s.updDie d f).linj = s.linj := rfl
@[simp] theorem State.updDie_linjCnt : (s.updDie d f).linjCnt = s.linjCnt := rfl
@[simp] theorem State.updDie_injpart : (s.updDie d f).injpart = s.injpart := rfl
@[simp] theorem State.updDie_fwArg : (s.updDie d f).fwArg = s.fwArg := rfl
@[simp] theorem State.updDie_fwCmd : (s.updDie d f).fwCmd = s.fwCmd := rfl
@[simp] theorem State.updDie_fwBusy : (s.updDie d f).fwBusy = s.fwBusy := rfl
@[simp] theorem State.updDie_fwDropped : (s.updDie d f).fwDropped = s.fwDropped := rfl
@[simp] theorem State.updDie_fwErr : (s.updDie d f).fwErr = s.fwErr := rfl
@[simp] theorem State.updDie_ownerKeys : (s.updDie d f).ownerKeys = s.ownerKeys := rfl
@[simp] theorem State.updDie_bootGone : (s.updDie d f).bootGone = s.bootGone := rfl
@[simp] theorem State.updDie_bootStep : (s.updDie d f).bootStep = s.bootStep := rfl
@[simp] theorem State.updDie_bootErr : (s.updDie d f).bootErr = s.bootErr := rfl
@[simp] theorem State.updDie_bootDone : (s.updDie d f).bootDone = s.bootDone := rfl
@[simp] theorem State.updDie_pwrPeak : (s.updDie d f).pwrPeak = s.pwrPeak := rfl
@[simp] theorem State.updDie_pwrAvg : (s.updDie d f).pwrAvg = s.pwrAvg := rfl
@[simp] theorem State.updDie_out : (s.updDie d f).out = s.out := rfl
@[simp] theorem State.updDie_nkeys : (s.updDie d f).nkeys = s.nkeys := rfl
@[simp] theorem State.updDie_shareAt : (s.updDie d f).shareAt = s.shareAt := rfl

end

/-! ## updEngine -/

section
variable (s : State) (e : Nat) (f : Engine → Engine)

@[simp] theorem State.updEngine_clock : (s.updEngine e f).clock = s.clock := rfl
@[simp] theorem State.updEngine_plan : (s.updEngine e f).plan = s.plan := rfl
@[simp] theorem State.updEngine_site : (s.updEngine e f).site = s.site := rfl
@[simp] theorem State.updEngine_draw : (s.updEngine e f).draw = s.draw := rfl
@[simp] theorem State.updEngine_runs : (s.updEngine e f).runs = s.runs := rfl
@[simp] theorem State.updEngine_teams : (s.updEngine e f).teams = s.teams := rfl
@[simp] theorem State.updEngine_nextUid : (s.updEngine e f).nextUid = s.nextUid := rfl
@[simp] theorem State.updEngine_launches : (s.updEngine e f).launches = s.launches := rfl
@[simp] theorem State.updEngine_nextLaunch : (s.updEngine e f).nextLaunch = s.nextLaunch := rfl
@[simp] theorem State.updEngine_cores : (s.updEngine e f).cores = s.cores := rfl
@[simp] theorem State.updEngine_dies : (s.updEngine e f).dies = s.dies := rfl
@[simp] theorem State.updEngine_stks : (s.updEngine e f).stks = s.stks := rfl
@[simp] theorem State.updEngine_raw : (s.updEngine e f).raw = s.raw := rfl
@[simp] theorem State.updEngine_psn : (s.updEngine e f).psn = s.psn := rfl
@[simp] theorem State.updEngine_chk : (s.updEngine e f).chk = s.chk := rfl
@[simp] theorem State.updEngine_broken : (s.updEngine e f).broken = s.broken := rfl
@[simp] theorem State.updEngine_st2At : (s.updEngine e f).st2At = s.st2At := rfl
@[simp] theorem State.updEngine_cad : (s.updEngine e f).cad = s.cad := rfl
@[simp] theorem State.updEngine_owner : (s.updEngine e f).owner = s.owner := rfl
@[simp] theorem State.updEngine_drops : (s.updEngine e f).drops = s.drops := rfl
@[simp] theorem State.updEngine_rsSingles : (s.updEngine e f).rsSingles = s.rsSingles := rfl
@[simp] theorem State.updEngine_rsCause : (s.updEngine e f).rsCause = s.rsCause := rfl
@[simp] theorem State.updEngine_rsSkip : (s.updEngine e f).rsSkip = s.rsSkip := rfl
@[simp] theorem State.updEngine_unusable : (s.updEngine e f).unusable = s.unusable := rfl
@[simp] theorem State.updEngine_nospare : (s.updEngine e f).nospare = s.nospare := rfl
@[simp] theorem State.updEngine_l2 : (s.updEngine e f).l2 = s.l2 := rfl
@[simp] theorem State.updEngine_l2plru : (s.updEngine e f).l2plru = s.l2plru := rfl
@[simp] theorem State.updEngine_cecnt : (s.updEngine e f).cecnt = s.cecnt := rfl
@[simp] theorem State.updEngine_refillAt : (s.updEngine e f).refillAt = s.refillAt := rfl
@[simp] theorem State.updEngine_mhpois : (s.updEngine e f).mhpois = s.mhpois := rfl
@[simp] theorem State.updEngine_rsrate : (s.updEngine e f).rsrate = s.rsrate := rfl
@[simp] theorem State.updEngine_pbctl : (s.updEngine e f).pbctl = s.pbctl := rfl
@[simp] theorem State.updEngine_mtcfg : (s.updEngine e f).mtcfg = s.mtcfg := rfl
@[simp] theorem State.updEngine_pipecfg : (s.updEngine e f).pipecfg = s.pipecfg := rfl
@[simp] theorem State.updEngine_iftctl : (s.updEngine e f).iftctl = s.iftctl := rfl
@[simp] theorem State.updEngine_iftFail : (s.updEngine e f).iftFail = s.iftFail := rfl
@[simp] theorem State.updEngine_iftAband : (s.updEngine e f).iftAband = s.iftAband := rfl
@[simp] theorem State.updEngine_iftPass : (s.updEngine e f).iftPass = s.iftPass := rfl
@[simp] theorem State.updEngine_faults : (s.updEngine e f).faults = s.faults := rfl
@[simp] theorem State.updEngine_regs : (s.updEngine e f).regs = s.regs := rfl
@[simp] theorem State.updEngine_wakes : (s.updEngine e f).wakes = s.wakes := rfl
@[simp] theorem State.updEngine_watch : (s.updEngine e f).watch = s.watch := rfl
@[simp] theorem State.updEngine_shadowWatch : (s.updEngine e f).shadowWatch = s.shadowWatch := rfl
@[simp] theorem State.updEngine_watchOvf : (s.updEngine e f).watchOvf = s.watchOvf := rfl
@[simp] theorem State.updEngine_wlocks : (s.updEngine e f).wlocks = s.wlocks := rfl
@[simp] theorem State.updEngine_parts : (s.updEngine e f).parts = s.parts := rfl
@[simp] theorem State.updEngine_vdevs : (s.updEngine e f).vdevs = s.vdevs := rfl
@[simp] theorem State.updEngine_misfire : (s.updEngine e f).misfire = s.misfire := rfl
@[simp] theorem State.updEngine_arrivals : (s.updEngine e f).arrivals = s.arrivals := rfl
@[simp] theorem State.updEngine_host : (s.updEngine e f).host = s.host := rfl
@[simp] theorem State.updEngine_peers : (s.updEngine e f).peers = s.peers := rfl
@[simp] theorem State.updEngine_pats : (s.updEngine e f).pats = s.pats := rfl
@[simp] theorem State.updEngine_accid : (s.updEngine e f).accid = s.accid := rfl
@[simp] theorem State.updEngine_accNone : (s.updEngine e f).accNone = s.accNone := rfl
@[simp] theorem State.updEngine_storedAcc : (s.updEngine e f).storedAcc = s.storedAcc := rfl
@[simp] theorem State.updEngine_links : (s.updEngine e f).links = s.links := rfl
@[simp] theorem State.updEngine_linj : (s.updEngine e f).linj = s.linj := rfl
@[simp] theorem State.updEngine_linjCnt : (s.updEngine e f).linjCnt = s.linjCnt := rfl
@[simp] theorem State.updEngine_injpart : (s.updEngine e f).injpart = s.injpart := rfl
@[simp] theorem State.updEngine_fwArg : (s.updEngine e f).fwArg = s.fwArg := rfl
@[simp] theorem State.updEngine_fwCmd : (s.updEngine e f).fwCmd = s.fwCmd := rfl
@[simp] theorem State.updEngine_fwBusy : (s.updEngine e f).fwBusy = s.fwBusy := rfl
@[simp] theorem State.updEngine_fwDropped : (s.updEngine e f).fwDropped = s.fwDropped := rfl
@[simp] theorem State.updEngine_fwErr : (s.updEngine e f).fwErr = s.fwErr := rfl
@[simp] theorem State.updEngine_ownerKeys : (s.updEngine e f).ownerKeys = s.ownerKeys := rfl
@[simp] theorem State.updEngine_bootGone : (s.updEngine e f).bootGone = s.bootGone := rfl
@[simp] theorem State.updEngine_bootStep : (s.updEngine e f).bootStep = s.bootStep := rfl
@[simp] theorem State.updEngine_bootErr : (s.updEngine e f).bootErr = s.bootErr := rfl
@[simp] theorem State.updEngine_bootDone : (s.updEngine e f).bootDone = s.bootDone := rfl
@[simp] theorem State.updEngine_pwrPeak : (s.updEngine e f).pwrPeak = s.pwrPeak := rfl
@[simp] theorem State.updEngine_pwrAvg : (s.updEngine e f).pwrAvg = s.pwrAvg := rfl
@[simp] theorem State.updEngine_out : (s.updEngine e f).out = s.out := rfl
@[simp] theorem State.updEngine_nkeys : (s.updEngine e f).nkeys = s.nkeys := rfl
@[simp] theorem State.updEngine_shareAt : (s.updEngine e f).shareAt = s.shareAt := rfl

end

/-! ## updStack -/

section
variable (s : State) (k : Nat) (f : Stack → Stack)

@[simp] theorem State.updStack_clock : (s.updStack k f).clock = s.clock := rfl
@[simp] theorem State.updStack_plan : (s.updStack k f).plan = s.plan := rfl
@[simp] theorem State.updStack_site : (s.updStack k f).site = s.site := rfl
@[simp] theorem State.updStack_draw : (s.updStack k f).draw = s.draw := rfl
@[simp] theorem State.updStack_runs : (s.updStack k f).runs = s.runs := rfl
@[simp] theorem State.updStack_teams : (s.updStack k f).teams = s.teams := rfl
@[simp] theorem State.updStack_nextUid : (s.updStack k f).nextUid = s.nextUid := rfl
@[simp] theorem State.updStack_launches : (s.updStack k f).launches = s.launches := rfl
@[simp] theorem State.updStack_nextLaunch : (s.updStack k f).nextLaunch = s.nextLaunch := rfl
@[simp] theorem State.updStack_cores : (s.updStack k f).cores = s.cores := rfl
@[simp] theorem State.updStack_dies : (s.updStack k f).dies = s.dies := rfl
@[simp] theorem State.updStack_engines : (s.updStack k f).engines = s.engines := rfl
@[simp] theorem State.updStack_raw : (s.updStack k f).raw = s.raw := rfl
@[simp] theorem State.updStack_psn : (s.updStack k f).psn = s.psn := rfl
@[simp] theorem State.updStack_chk : (s.updStack k f).chk = s.chk := rfl
@[simp] theorem State.updStack_broken : (s.updStack k f).broken = s.broken := rfl
@[simp] theorem State.updStack_st2At : (s.updStack k f).st2At = s.st2At := rfl
@[simp] theorem State.updStack_cad : (s.updStack k f).cad = s.cad := rfl
@[simp] theorem State.updStack_owner : (s.updStack k f).owner = s.owner := rfl
@[simp] theorem State.updStack_drops : (s.updStack k f).drops = s.drops := rfl
@[simp] theorem State.updStack_rsSingles : (s.updStack k f).rsSingles = s.rsSingles := rfl
@[simp] theorem State.updStack_rsCause : (s.updStack k f).rsCause = s.rsCause := rfl
@[simp] theorem State.updStack_rsSkip : (s.updStack k f).rsSkip = s.rsSkip := rfl
@[simp] theorem State.updStack_unusable : (s.updStack k f).unusable = s.unusable := rfl
@[simp] theorem State.updStack_nospare : (s.updStack k f).nospare = s.nospare := rfl
@[simp] theorem State.updStack_l2 : (s.updStack k f).l2 = s.l2 := rfl
@[simp] theorem State.updStack_l2plru : (s.updStack k f).l2plru = s.l2plru := rfl
@[simp] theorem State.updStack_cecnt : (s.updStack k f).cecnt = s.cecnt := rfl
@[simp] theorem State.updStack_refillAt : (s.updStack k f).refillAt = s.refillAt := rfl
@[simp] theorem State.updStack_mhpois : (s.updStack k f).mhpois = s.mhpois := rfl
@[simp] theorem State.updStack_rsrate : (s.updStack k f).rsrate = s.rsrate := rfl
@[simp] theorem State.updStack_pbctl : (s.updStack k f).pbctl = s.pbctl := rfl
@[simp] theorem State.updStack_mtcfg : (s.updStack k f).mtcfg = s.mtcfg := rfl
@[simp] theorem State.updStack_pipecfg : (s.updStack k f).pipecfg = s.pipecfg := rfl
@[simp] theorem State.updStack_iftctl : (s.updStack k f).iftctl = s.iftctl := rfl
@[simp] theorem State.updStack_iftFail : (s.updStack k f).iftFail = s.iftFail := rfl
@[simp] theorem State.updStack_iftAband : (s.updStack k f).iftAband = s.iftAband := rfl
@[simp] theorem State.updStack_iftPass : (s.updStack k f).iftPass = s.iftPass := rfl
@[simp] theorem State.updStack_faults : (s.updStack k f).faults = s.faults := rfl
@[simp] theorem State.updStack_regs : (s.updStack k f).regs = s.regs := rfl
@[simp] theorem State.updStack_wakes : (s.updStack k f).wakes = s.wakes := rfl
@[simp] theorem State.updStack_watch : (s.updStack k f).watch = s.watch := rfl
@[simp] theorem State.updStack_shadowWatch : (s.updStack k f).shadowWatch = s.shadowWatch := rfl
@[simp] theorem State.updStack_watchOvf : (s.updStack k f).watchOvf = s.watchOvf := rfl
@[simp] theorem State.updStack_wlocks : (s.updStack k f).wlocks = s.wlocks := rfl
@[simp] theorem State.updStack_parts : (s.updStack k f).parts = s.parts := rfl
@[simp] theorem State.updStack_vdevs : (s.updStack k f).vdevs = s.vdevs := rfl
@[simp] theorem State.updStack_misfire : (s.updStack k f).misfire = s.misfire := rfl
@[simp] theorem State.updStack_arrivals : (s.updStack k f).arrivals = s.arrivals := rfl
@[simp] theorem State.updStack_host : (s.updStack k f).host = s.host := rfl
@[simp] theorem State.updStack_peers : (s.updStack k f).peers = s.peers := rfl
@[simp] theorem State.updStack_pats : (s.updStack k f).pats = s.pats := rfl
@[simp] theorem State.updStack_accid : (s.updStack k f).accid = s.accid := rfl
@[simp] theorem State.updStack_accNone : (s.updStack k f).accNone = s.accNone := rfl
@[simp] theorem State.updStack_storedAcc : (s.updStack k f).storedAcc = s.storedAcc := rfl
@[simp] theorem State.updStack_links : (s.updStack k f).links = s.links := rfl
@[simp] theorem State.updStack_linj : (s.updStack k f).linj = s.linj := rfl
@[simp] theorem State.updStack_linjCnt : (s.updStack k f).linjCnt = s.linjCnt := rfl
@[simp] theorem State.updStack_injpart : (s.updStack k f).injpart = s.injpart := rfl
@[simp] theorem State.updStack_fwArg : (s.updStack k f).fwArg = s.fwArg := rfl
@[simp] theorem State.updStack_fwCmd : (s.updStack k f).fwCmd = s.fwCmd := rfl
@[simp] theorem State.updStack_fwBusy : (s.updStack k f).fwBusy = s.fwBusy := rfl
@[simp] theorem State.updStack_fwDropped : (s.updStack k f).fwDropped = s.fwDropped := rfl
@[simp] theorem State.updStack_fwErr : (s.updStack k f).fwErr = s.fwErr := rfl
@[simp] theorem State.updStack_ownerKeys : (s.updStack k f).ownerKeys = s.ownerKeys := rfl
@[simp] theorem State.updStack_bootGone : (s.updStack k f).bootGone = s.bootGone := rfl
@[simp] theorem State.updStack_bootStep : (s.updStack k f).bootStep = s.bootStep := rfl
@[simp] theorem State.updStack_bootErr : (s.updStack k f).bootErr = s.bootErr := rfl
@[simp] theorem State.updStack_bootDone : (s.updStack k f).bootDone = s.bootDone := rfl
@[simp] theorem State.updStack_pwrPeak : (s.updStack k f).pwrPeak = s.pwrPeak := rfl
@[simp] theorem State.updStack_pwrAvg : (s.updStack k f).pwrAvg = s.pwrAvg := rfl
@[simp] theorem State.updStack_out : (s.updStack k f).out = s.out := rfl
@[simp] theorem State.updStack_nkeys : (s.updStack k f).nkeys = s.nkeys := rfl
@[simp] theorem State.updStack_shareAt : (s.updStack k f).shareAt = s.shareAt := rfl

end

/-! ## updPart -/

section
variable (s : State) (p : Nat) (f : Part → Part)

@[simp] theorem State.updPart_clock : (s.updPart p f).clock = s.clock := rfl
@[simp] theorem State.updPart_plan : (s.updPart p f).plan = s.plan := rfl
@[simp] theorem State.updPart_site : (s.updPart p f).site = s.site := rfl
@[simp] theorem State.updPart_draw : (s.updPart p f).draw = s.draw := rfl
@[simp] theorem State.updPart_runs : (s.updPart p f).runs = s.runs := rfl
@[simp] theorem State.updPart_teams : (s.updPart p f).teams = s.teams := rfl
@[simp] theorem State.updPart_nextUid : (s.updPart p f).nextUid = s.nextUid := rfl
@[simp] theorem State.updPart_launches : (s.updPart p f).launches = s.launches := rfl
@[simp] theorem State.updPart_nextLaunch : (s.updPart p f).nextLaunch = s.nextLaunch := rfl
@[simp] theorem State.updPart_cores : (s.updPart p f).cores = s.cores := rfl
@[simp] theorem State.updPart_dies : (s.updPart p f).dies = s.dies := rfl
@[simp] theorem State.updPart_engines : (s.updPart p f).engines = s.engines := rfl
@[simp] theorem State.updPart_stks : (s.updPart p f).stks = s.stks := rfl
@[simp] theorem State.updPart_raw : (s.updPart p f).raw = s.raw := rfl
@[simp] theorem State.updPart_psn : (s.updPart p f).psn = s.psn := rfl
@[simp] theorem State.updPart_chk : (s.updPart p f).chk = s.chk := rfl
@[simp] theorem State.updPart_broken : (s.updPart p f).broken = s.broken := rfl
@[simp] theorem State.updPart_st2At : (s.updPart p f).st2At = s.st2At := rfl
@[simp] theorem State.updPart_cad : (s.updPart p f).cad = s.cad := rfl
@[simp] theorem State.updPart_owner : (s.updPart p f).owner = s.owner := rfl
@[simp] theorem State.updPart_drops : (s.updPart p f).drops = s.drops := rfl
@[simp] theorem State.updPart_rsSingles : (s.updPart p f).rsSingles = s.rsSingles := rfl
@[simp] theorem State.updPart_rsCause : (s.updPart p f).rsCause = s.rsCause := rfl
@[simp] theorem State.updPart_rsSkip : (s.updPart p f).rsSkip = s.rsSkip := rfl
@[simp] theorem State.updPart_unusable : (s.updPart p f).unusable = s.unusable := rfl
@[simp] theorem State.updPart_nospare : (s.updPart p f).nospare = s.nospare := rfl
@[simp] theorem State.updPart_l2 : (s.updPart p f).l2 = s.l2 := rfl
@[simp] theorem State.updPart_l2plru : (s.updPart p f).l2plru = s.l2plru := rfl
@[simp] theorem State.updPart_cecnt : (s.updPart p f).cecnt = s.cecnt := rfl
@[simp] theorem State.updPart_refillAt : (s.updPart p f).refillAt = s.refillAt := rfl
@[simp] theorem State.updPart_mhpois : (s.updPart p f).mhpois = s.mhpois := rfl
@[simp] theorem State.updPart_rsrate : (s.updPart p f).rsrate = s.rsrate := rfl
@[simp] theorem State.updPart_pbctl : (s.updPart p f).pbctl = s.pbctl := rfl
@[simp] theorem State.updPart_mtcfg : (s.updPart p f).mtcfg = s.mtcfg := rfl
@[simp] theorem State.updPart_pipecfg : (s.updPart p f).pipecfg = s.pipecfg := rfl
@[simp] theorem State.updPart_iftctl : (s.updPart p f).iftctl = s.iftctl := rfl
@[simp] theorem State.updPart_iftFail : (s.updPart p f).iftFail = s.iftFail := rfl
@[simp] theorem State.updPart_iftAband : (s.updPart p f).iftAband = s.iftAband := rfl
@[simp] theorem State.updPart_iftPass : (s.updPart p f).iftPass = s.iftPass := rfl
@[simp] theorem State.updPart_faults : (s.updPart p f).faults = s.faults := rfl
@[simp] theorem State.updPart_regs : (s.updPart p f).regs = s.regs := rfl
@[simp] theorem State.updPart_wakes : (s.updPart p f).wakes = s.wakes := rfl
@[simp] theorem State.updPart_watch : (s.updPart p f).watch = s.watch := rfl
@[simp] theorem State.updPart_shadowWatch : (s.updPart p f).shadowWatch = s.shadowWatch := rfl
@[simp] theorem State.updPart_watchOvf : (s.updPart p f).watchOvf = s.watchOvf := rfl
@[simp] theorem State.updPart_wlocks : (s.updPart p f).wlocks = s.wlocks := rfl
@[simp] theorem State.updPart_vdevs : (s.updPart p f).vdevs = s.vdevs := rfl
@[simp] theorem State.updPart_misfire : (s.updPart p f).misfire = s.misfire := rfl
@[simp] theorem State.updPart_arrivals : (s.updPart p f).arrivals = s.arrivals := rfl
@[simp] theorem State.updPart_host : (s.updPart p f).host = s.host := rfl
@[simp] theorem State.updPart_peers : (s.updPart p f).peers = s.peers := rfl
@[simp] theorem State.updPart_pats : (s.updPart p f).pats = s.pats := rfl
@[simp] theorem State.updPart_accid : (s.updPart p f).accid = s.accid := rfl
@[simp] theorem State.updPart_accNone : (s.updPart p f).accNone = s.accNone := rfl
@[simp] theorem State.updPart_storedAcc : (s.updPart p f).storedAcc = s.storedAcc := rfl
@[simp] theorem State.updPart_links : (s.updPart p f).links = s.links := rfl
@[simp] theorem State.updPart_linj : (s.updPart p f).linj = s.linj := rfl
@[simp] theorem State.updPart_linjCnt : (s.updPart p f).linjCnt = s.linjCnt := rfl
@[simp] theorem State.updPart_injpart : (s.updPart p f).injpart = s.injpart := rfl
@[simp] theorem State.updPart_fwArg : (s.updPart p f).fwArg = s.fwArg := rfl
@[simp] theorem State.updPart_fwCmd : (s.updPart p f).fwCmd = s.fwCmd := rfl
@[simp] theorem State.updPart_fwBusy : (s.updPart p f).fwBusy = s.fwBusy := rfl
@[simp] theorem State.updPart_fwDropped : (s.updPart p f).fwDropped = s.fwDropped := rfl
@[simp] theorem State.updPart_fwErr : (s.updPart p f).fwErr = s.fwErr := rfl
@[simp] theorem State.updPart_ownerKeys : (s.updPart p f).ownerKeys = s.ownerKeys := rfl
@[simp] theorem State.updPart_bootGone : (s.updPart p f).bootGone = s.bootGone := rfl
@[simp] theorem State.updPart_bootStep : (s.updPart p f).bootStep = s.bootStep := rfl
@[simp] theorem State.updPart_bootErr : (s.updPart p f).bootErr = s.bootErr := rfl
@[simp] theorem State.updPart_bootDone : (s.updPart p f).bootDone = s.bootDone := rfl
@[simp] theorem State.updPart_pwrPeak : (s.updPart p f).pwrPeak = s.pwrPeak := rfl
@[simp] theorem State.updPart_pwrAvg : (s.updPart p f).pwrAvg = s.pwrAvg := rfl
@[simp] theorem State.updPart_out : (s.updPart p f).out = s.out := rfl
@[simp] theorem State.updPart_nkeys : (s.updPart p f).nkeys = s.nkeys := rfl
@[simp] theorem State.updPart_shareAt : (s.updPart p f).shareAt = s.shareAt := rfl

end

/-! ## updVdev -/

section
variable (s : State) (v : Nat) (f : Vdev → Vdev)

@[simp] theorem State.updVdev_clock : (s.updVdev v f).clock = s.clock := rfl
@[simp] theorem State.updVdev_plan : (s.updVdev v f).plan = s.plan := rfl
@[simp] theorem State.updVdev_site : (s.updVdev v f).site = s.site := rfl
@[simp] theorem State.updVdev_draw : (s.updVdev v f).draw = s.draw := rfl
@[simp] theorem State.updVdev_runs : (s.updVdev v f).runs = s.runs := rfl
@[simp] theorem State.updVdev_teams : (s.updVdev v f).teams = s.teams := rfl
@[simp] theorem State.updVdev_nextUid : (s.updVdev v f).nextUid = s.nextUid := rfl
@[simp] theorem State.updVdev_launches : (s.updVdev v f).launches = s.launches := rfl
@[simp] theorem State.updVdev_nextLaunch : (s.updVdev v f).nextLaunch = s.nextLaunch := rfl
@[simp] theorem State.updVdev_cores : (s.updVdev v f).cores = s.cores := rfl
@[simp] theorem State.updVdev_dies : (s.updVdev v f).dies = s.dies := rfl
@[simp] theorem State.updVdev_engines : (s.updVdev v f).engines = s.engines := rfl
@[simp] theorem State.updVdev_stks : (s.updVdev v f).stks = s.stks := rfl
@[simp] theorem State.updVdev_raw : (s.updVdev v f).raw = s.raw := rfl
@[simp] theorem State.updVdev_psn : (s.updVdev v f).psn = s.psn := rfl
@[simp] theorem State.updVdev_chk : (s.updVdev v f).chk = s.chk := rfl
@[simp] theorem State.updVdev_broken : (s.updVdev v f).broken = s.broken := rfl
@[simp] theorem State.updVdev_st2At : (s.updVdev v f).st2At = s.st2At := rfl
@[simp] theorem State.updVdev_cad : (s.updVdev v f).cad = s.cad := rfl
@[simp] theorem State.updVdev_owner : (s.updVdev v f).owner = s.owner := rfl
@[simp] theorem State.updVdev_drops : (s.updVdev v f).drops = s.drops := rfl
@[simp] theorem State.updVdev_rsSingles : (s.updVdev v f).rsSingles = s.rsSingles := rfl
@[simp] theorem State.updVdev_rsCause : (s.updVdev v f).rsCause = s.rsCause := rfl
@[simp] theorem State.updVdev_rsSkip : (s.updVdev v f).rsSkip = s.rsSkip := rfl
@[simp] theorem State.updVdev_unusable : (s.updVdev v f).unusable = s.unusable := rfl
@[simp] theorem State.updVdev_nospare : (s.updVdev v f).nospare = s.nospare := rfl
@[simp] theorem State.updVdev_l2 : (s.updVdev v f).l2 = s.l2 := rfl
@[simp] theorem State.updVdev_l2plru : (s.updVdev v f).l2plru = s.l2plru := rfl
@[simp] theorem State.updVdev_cecnt : (s.updVdev v f).cecnt = s.cecnt := rfl
@[simp] theorem State.updVdev_refillAt : (s.updVdev v f).refillAt = s.refillAt := rfl
@[simp] theorem State.updVdev_mhpois : (s.updVdev v f).mhpois = s.mhpois := rfl
@[simp] theorem State.updVdev_rsrate : (s.updVdev v f).rsrate = s.rsrate := rfl
@[simp] theorem State.updVdev_pbctl : (s.updVdev v f).pbctl = s.pbctl := rfl
@[simp] theorem State.updVdev_mtcfg : (s.updVdev v f).mtcfg = s.mtcfg := rfl
@[simp] theorem State.updVdev_pipecfg : (s.updVdev v f).pipecfg = s.pipecfg := rfl
@[simp] theorem State.updVdev_iftctl : (s.updVdev v f).iftctl = s.iftctl := rfl
@[simp] theorem State.updVdev_iftFail : (s.updVdev v f).iftFail = s.iftFail := rfl
@[simp] theorem State.updVdev_iftAband : (s.updVdev v f).iftAband = s.iftAband := rfl
@[simp] theorem State.updVdev_iftPass : (s.updVdev v f).iftPass = s.iftPass := rfl
@[simp] theorem State.updVdev_faults : (s.updVdev v f).faults = s.faults := rfl
@[simp] theorem State.updVdev_regs : (s.updVdev v f).regs = s.regs := rfl
@[simp] theorem State.updVdev_wakes : (s.updVdev v f).wakes = s.wakes := rfl
@[simp] theorem State.updVdev_watch : (s.updVdev v f).watch = s.watch := rfl
@[simp] theorem State.updVdev_shadowWatch : (s.updVdev v f).shadowWatch = s.shadowWatch := rfl
@[simp] theorem State.updVdev_watchOvf : (s.updVdev v f).watchOvf = s.watchOvf := rfl
@[simp] theorem State.updVdev_wlocks : (s.updVdev v f).wlocks = s.wlocks := rfl
@[simp] theorem State.updVdev_parts : (s.updVdev v f).parts = s.parts := rfl
@[simp] theorem State.updVdev_misfire : (s.updVdev v f).misfire = s.misfire := rfl
@[simp] theorem State.updVdev_arrivals : (s.updVdev v f).arrivals = s.arrivals := rfl
@[simp] theorem State.updVdev_host : (s.updVdev v f).host = s.host := rfl
@[simp] theorem State.updVdev_peers : (s.updVdev v f).peers = s.peers := rfl
@[simp] theorem State.updVdev_pats : (s.updVdev v f).pats = s.pats := rfl
@[simp] theorem State.updVdev_accid : (s.updVdev v f).accid = s.accid := rfl
@[simp] theorem State.updVdev_accNone : (s.updVdev v f).accNone = s.accNone := rfl
@[simp] theorem State.updVdev_storedAcc : (s.updVdev v f).storedAcc = s.storedAcc := rfl
@[simp] theorem State.updVdev_links : (s.updVdev v f).links = s.links := rfl
@[simp] theorem State.updVdev_linj : (s.updVdev v f).linj = s.linj := rfl
@[simp] theorem State.updVdev_linjCnt : (s.updVdev v f).linjCnt = s.linjCnt := rfl
@[simp] theorem State.updVdev_injpart : (s.updVdev v f).injpart = s.injpart := rfl
@[simp] theorem State.updVdev_fwArg : (s.updVdev v f).fwArg = s.fwArg := rfl
@[simp] theorem State.updVdev_fwCmd : (s.updVdev v f).fwCmd = s.fwCmd := rfl
@[simp] theorem State.updVdev_fwBusy : (s.updVdev v f).fwBusy = s.fwBusy := rfl
@[simp] theorem State.updVdev_fwDropped : (s.updVdev v f).fwDropped = s.fwDropped := rfl
@[simp] theorem State.updVdev_fwErr : (s.updVdev v f).fwErr = s.fwErr := rfl
@[simp] theorem State.updVdev_ownerKeys : (s.updVdev v f).ownerKeys = s.ownerKeys := rfl
@[simp] theorem State.updVdev_bootGone : (s.updVdev v f).bootGone = s.bootGone := rfl
@[simp] theorem State.updVdev_bootStep : (s.updVdev v f).bootStep = s.bootStep := rfl
@[simp] theorem State.updVdev_bootErr : (s.updVdev v f).bootErr = s.bootErr := rfl
@[simp] theorem State.updVdev_bootDone : (s.updVdev v f).bootDone = s.bootDone := rfl
@[simp] theorem State.updVdev_pwrPeak : (s.updVdev v f).pwrPeak = s.pwrPeak := rfl
@[simp] theorem State.updVdev_pwrAvg : (s.updVdev v f).pwrAvg = s.pwrAvg := rfl
@[simp] theorem State.updVdev_out : (s.updVdev v f).out = s.out := rfl
@[simp] theorem State.updVdev_nkeys : (s.updVdev v f).nkeys = s.nkeys := rfl
@[simp] theorem State.updVdev_shareAt : (s.updVdev v f).shareAt = s.shareAt := rfl

end

/-! ## endRun -/

section
variable (s : State) 

@[simp] theorem State.endRun_clock : (s.endRun).clock = s.clock := rfl
@[simp] theorem State.endRun_plan : (s.endRun).plan = s.plan := rfl
@[simp] theorem State.endRun_site : (s.endRun).site = s.site := rfl
@[simp] theorem State.endRun_draw : (s.endRun).draw = s.draw := rfl
@[simp] theorem State.endRun_teams : (s.endRun).teams = s.teams := rfl
@[simp] theorem State.endRun_nextUid : (s.endRun).nextUid = s.nextUid := rfl
@[simp] theorem State.endRun_launches : (s.endRun).launches = s.launches := rfl
@[simp] theorem State.endRun_nextLaunch : (s.endRun).nextLaunch = s.nextLaunch := rfl
@[simp] theorem State.endRun_cores : (s.endRun).cores = s.cores := rfl
@[simp] theorem State.endRun_dies : (s.endRun).dies = s.dies := rfl
@[simp] theorem State.endRun_engines : (s.endRun).engines = s.engines := rfl
@[simp] theorem State.endRun_stks : (s.endRun).stks = s.stks := rfl
@[simp] theorem State.endRun_raw : (s.endRun).raw = s.raw := rfl
@[simp] theorem State.endRun_psn : (s.endRun).psn = s.psn := rfl
@[simp] theorem State.endRun_chk : (s.endRun).chk = s.chk := rfl
@[simp] theorem State.endRun_broken : (s.endRun).broken = s.broken := rfl
@[simp] theorem State.endRun_st2At : (s.endRun).st2At = s.st2At := rfl
@[simp] theorem State.endRun_cad : (s.endRun).cad = s.cad := rfl
@[simp] theorem State.endRun_owner : (s.endRun).owner = s.owner := rfl
@[simp] theorem State.endRun_drops : (s.endRun).drops = s.drops := rfl
@[simp] theorem State.endRun_rsSingles : (s.endRun).rsSingles = s.rsSingles := rfl
@[simp] theorem State.endRun_rsCause : (s.endRun).rsCause = s.rsCause := rfl
@[simp] theorem State.endRun_rsSkip : (s.endRun).rsSkip = s.rsSkip := rfl
@[simp] theorem State.endRun_unusable : (s.endRun).unusable = s.unusable := rfl
@[simp] theorem State.endRun_nospare : (s.endRun).nospare = s.nospare := rfl
@[simp] theorem State.endRun_l2 : (s.endRun).l2 = s.l2 := rfl
@[simp] theorem State.endRun_l2plru : (s.endRun).l2plru = s.l2plru := rfl
@[simp] theorem State.endRun_cecnt : (s.endRun).cecnt = s.cecnt := rfl
@[simp] theorem State.endRun_refillAt : (s.endRun).refillAt = s.refillAt := rfl
@[simp] theorem State.endRun_mhpois : (s.endRun).mhpois = s.mhpois := rfl
@[simp] theorem State.endRun_rsrate : (s.endRun).rsrate = s.rsrate := rfl
@[simp] theorem State.endRun_pbctl : (s.endRun).pbctl = s.pbctl := rfl
@[simp] theorem State.endRun_mtcfg : (s.endRun).mtcfg = s.mtcfg := rfl
@[simp] theorem State.endRun_pipecfg : (s.endRun).pipecfg = s.pipecfg := rfl
@[simp] theorem State.endRun_iftctl : (s.endRun).iftctl = s.iftctl := rfl
@[simp] theorem State.endRun_iftFail : (s.endRun).iftFail = s.iftFail := rfl
@[simp] theorem State.endRun_iftAband : (s.endRun).iftAband = s.iftAband := rfl
@[simp] theorem State.endRun_iftPass : (s.endRun).iftPass = s.iftPass := rfl
@[simp] theorem State.endRun_faults : (s.endRun).faults = s.faults := rfl
@[simp] theorem State.endRun_regs : (s.endRun).regs = s.regs := rfl
@[simp] theorem State.endRun_wakes : (s.endRun).wakes = s.wakes := rfl
@[simp] theorem State.endRun_watch : (s.endRun).watch = s.watch := rfl
@[simp] theorem State.endRun_shadowWatch : (s.endRun).shadowWatch = s.shadowWatch := rfl
@[simp] theorem State.endRun_watchOvf : (s.endRun).watchOvf = s.watchOvf := rfl
@[simp] theorem State.endRun_wlocks : (s.endRun).wlocks = s.wlocks := rfl
@[simp] theorem State.endRun_parts : (s.endRun).parts = s.parts := rfl
@[simp] theorem State.endRun_vdevs : (s.endRun).vdevs = s.vdevs := rfl
@[simp] theorem State.endRun_misfire : (s.endRun).misfire = s.misfire := rfl
@[simp] theorem State.endRun_arrivals : (s.endRun).arrivals = s.arrivals := rfl
@[simp] theorem State.endRun_host : (s.endRun).host = s.host := rfl
@[simp] theorem State.endRun_peers : (s.endRun).peers = s.peers := rfl
@[simp] theorem State.endRun_pats : (s.endRun).pats = s.pats := rfl
@[simp] theorem State.endRun_accid : (s.endRun).accid = s.accid := rfl
@[simp] theorem State.endRun_accNone : (s.endRun).accNone = s.accNone := rfl
@[simp] theorem State.endRun_storedAcc : (s.endRun).storedAcc = s.storedAcc := rfl
@[simp] theorem State.endRun_links : (s.endRun).links = s.links := rfl
@[simp] theorem State.endRun_linj : (s.endRun).linj = s.linj := rfl
@[simp] theorem State.endRun_linjCnt : (s.endRun).linjCnt = s.linjCnt := rfl
@[simp] theorem State.endRun_injpart : (s.endRun).injpart = s.injpart := rfl
@[simp] theorem State.endRun_fwArg : (s.endRun).fwArg = s.fwArg := rfl
@[simp] theorem State.endRun_fwCmd : (s.endRun).fwCmd = s.fwCmd := rfl
@[simp] theorem State.endRun_fwBusy : (s.endRun).fwBusy = s.fwBusy := rfl
@[simp] theorem State.endRun_fwDropped : (s.endRun).fwDropped = s.fwDropped := rfl
@[simp] theorem State.endRun_fwErr : (s.endRun).fwErr = s.fwErr := rfl
@[simp] theorem State.endRun_ownerKeys : (s.endRun).ownerKeys = s.ownerKeys := rfl
@[simp] theorem State.endRun_bootGone : (s.endRun).bootGone = s.bootGone := rfl
@[simp] theorem State.endRun_bootStep : (s.endRun).bootStep = s.bootStep := rfl
@[simp] theorem State.endRun_bootErr : (s.endRun).bootErr = s.bootErr := rfl
@[simp] theorem State.endRun_bootDone : (s.endRun).bootDone = s.bootDone := rfl
@[simp] theorem State.endRun_pwrPeak : (s.endRun).pwrPeak = s.pwrPeak := rfl
@[simp] theorem State.endRun_pwrAvg : (s.endRun).pwrAvg = s.pwrAvg := rfl
@[simp] theorem State.endRun_out : (s.endRun).out = s.out := rfl
@[simp] theorem State.endRun_nkeys : (s.endRun).nkeys = s.nkeys := rfl
@[simp] theorem State.endRun_shareAt : (s.endRun).shareAt = s.shareAt := rfl

end

/-! ## What is read back -/

theorem State.teamOf_updTeam (s : State) (u j : Nat) (f : Team → Team) :
    (s.updTeam u f).teamOf j = if j = u then f (s.teamOf u) else s.teamOf j := Sparse.get_upd ..
@[simp] theorem State.teamOf_updTeam_self (s : State) (u : Nat) (f : Team → Team) : (s.updTeam u f).teamOf u = f (s.teamOf u) :=
  Sparse.get_upd_self ..
theorem State.teamOf_updTeam_ne (s : State) {u j : Nat} (f : Team → Team) (h : j ≠ u) : (s.updTeam u f).teamOf j = s.teamOf j :=
  Sparse.get_upd_ne _ _ _ h

theorem State.coreOf_updCore (s : State) (c j : Nat) (f : Core → Core) :
    (s.updCore c f).coreOf j = if j = c then f (s.coreOf c) else s.coreOf j := Sparse.get_upd ..
@[simp] theorem State.coreOf_updCore_self (s : State) (c : Nat) (f : Core → Core) : (s.updCore c f).coreOf c = f (s.coreOf c) :=
  Sparse.get_upd_self ..
theorem State.coreOf_updCore_ne (s : State) {c j : Nat} (f : Core → Core) (h : j ≠ c) : (s.updCore c f).coreOf j = s.coreOf j :=
  Sparse.get_upd_ne _ _ _ h

theorem State.dieOf_updDie (s : State) (d j : Nat) (f : Die → Die) :
    (s.updDie d f).dieOf j = if j = d then f (s.dieOf d) else s.dieOf j := Sparse.get_upd ..
@[simp] theorem State.dieOf_updDie_self (s : State) (d : Nat) (f : Die → Die) : (s.updDie d f).dieOf d = f (s.dieOf d) :=
  Sparse.get_upd_self ..
theorem State.dieOf_updDie_ne (s : State) {d j : Nat} (f : Die → Die) (h : j ≠ d) : (s.updDie d f).dieOf j = s.dieOf j :=
  Sparse.get_upd_ne _ _ _ h

theorem State.engineOf_updEngine (s : State) (e j : Nat) (f : Engine → Engine) :
    (s.updEngine e f).engineOf j = if j = e then f (s.engineOf e) else s.engineOf j := Sparse.get_upd ..
@[simp] theorem State.engineOf_updEngine_self (s : State) (e : Nat) (f : Engine → Engine) : (s.updEngine e f).engineOf e = f (s.engineOf e) :=
  Sparse.get_upd_self ..
theorem State.engineOf_updEngine_ne (s : State) {e j : Nat} (f : Engine → Engine) (h : j ≠ e) : (s.updEngine e f).engineOf j = s.engineOf j :=
  Sparse.get_upd_ne _ _ _ h

theorem State.stackOf_updStack (s : State) (k j : Nat) (f : Stack → Stack) :
    (s.updStack k f).stackOf j = if j = k then f (s.stackOf k) else s.stackOf j := Sparse.get_upd ..
@[simp] theorem State.stackOf_updStack_self (s : State) (k : Nat) (f : Stack → Stack) : (s.updStack k f).stackOf k = f (s.stackOf k) :=
  Sparse.get_upd_self ..
theorem State.stackOf_updStack_ne (s : State) {k j : Nat} (f : Stack → Stack) (h : j ≠ k) : (s.updStack k f).stackOf j = s.stackOf j :=
  Sparse.get_upd_ne _ _ _ h

theorem State.partOf_updPart (s : State) (p j : Nat) (f : Part → Part) :
    (s.updPart p f).partOf j = if j = p then f (s.partOf p) else s.partOf j := Sparse.get_upd ..
@[simp] theorem State.partOf_updPart_self (s : State) (p : Nat) (f : Part → Part) : (s.updPart p f).partOf p = f (s.partOf p) :=
  Sparse.get_upd_self ..
theorem State.partOf_updPart_ne (s : State) {p j : Nat} (f : Part → Part) (h : j ≠ p) : (s.updPart p f).partOf j = s.partOf j :=
  Sparse.get_upd_ne _ _ _ h

theorem State.vdevOf_updVdev (s : State) (v j : Nat) (f : Vdev → Vdev) :
    (s.updVdev v f).vdevOf j = if j = v then f (s.vdevOf v) else s.vdevOf j := Sparse.get_upd ..
@[simp] theorem State.vdevOf_updVdev_self (s : State) (v : Nat) (f : Vdev → Vdev) : (s.updVdev v f).vdevOf v = f (s.vdevOf v) :=
  Sparse.get_upd_self ..
theorem State.vdevOf_updVdev_ne (s : State) {v j : Nat} (f : Vdev → Vdev) (h : j ≠ v) : (s.updVdev v f).vdevOf j = s.vdevOf j :=
  Sparse.get_upd_ne _ _ _ h

@[simp] theorem State.teamOf_updCore (s : State) (j : Nat) (c : Nat) (f : Core → Core) : (s.updCore c f).teamOf j = s.teamOf j := rfl
@[simp] theorem State.teamOf_updDie (s : State) (j : Nat) (d : Nat) (f : Die → Die) : (s.updDie d f).teamOf j = s.teamOf j := rfl
@[simp] theorem State.teamOf_updEngine (s : State) (j : Nat) (e : Nat) (f : Engine → Engine) : (s.updEngine e f).teamOf j = s.teamOf j := rfl
@[simp] theorem State.teamOf_updStack (s : State) (j : Nat) (k : Nat) (f : Stack → Stack) : (s.updStack k f).teamOf j = s.teamOf j := rfl
@[simp] theorem State.teamOf_updPart (s : State) (j : Nat) (p : Nat) (f : Part → Part) : (s.updPart p f).teamOf j = s.teamOf j := rfl
@[simp] theorem State.teamOf_updVdev (s : State) (j : Nat) (v : Nat) (f : Vdev → Vdev) : (s.updVdev v f).teamOf j = s.teamOf j := rfl
@[simp] theorem State.teamOf_endRun (s : State) (j : Nat) : s.endRun.teamOf j = s.teamOf j := rfl
@[simp] theorem State.coreOf_updTeam (s : State) (j : Nat) (u : Nat) (f : Team → Team) : (s.updTeam u f).coreOf j = s.coreOf j := rfl
@[simp] theorem State.coreOf_updGroup (s : State) (j : Nat) (u g : Nat) (f : Group → Group) : (s.updGroup u g f).coreOf j = s.coreOf j := rfl
@[simp] theorem State.coreOf_updCur (s : State) (j : Nat) (f : Group → Group) : (s.updCur f).coreOf j = s.coreOf j := rfl
@[simp] theorem State.coreOf_updDie (s : State) (j : Nat) (d : Nat) (f : Die → Die) : (s.updDie d f).coreOf j = s.coreOf j := rfl
@[simp] theorem State.coreOf_updEngine (s : State) (j : Nat) (e : Nat) (f : Engine → Engine) : (s.updEngine e f).coreOf j = s.coreOf j := rfl
@[simp] theorem State.coreOf_updStack (s : State) (j : Nat) (k : Nat) (f : Stack → Stack) : (s.updStack k f).coreOf j = s.coreOf j := rfl
@[simp] theorem State.coreOf_updPart (s : State) (j : Nat) (p : Nat) (f : Part → Part) : (s.updPart p f).coreOf j = s.coreOf j := rfl
@[simp] theorem State.coreOf_updVdev (s : State) (j : Nat) (v : Nat) (f : Vdev → Vdev) : (s.updVdev v f).coreOf j = s.coreOf j := rfl
@[simp] theorem State.coreOf_endRun (s : State) (j : Nat) : s.endRun.coreOf j = s.coreOf j := rfl
@[simp] theorem State.dieOf_updTeam (s : State) (j : Nat) (u : Nat) (f : Team → Team) : (s.updTeam u f).dieOf j = s.dieOf j := rfl
@[simp] theorem State.dieOf_updGroup (s : State) (j : Nat) (u g : Nat) (f : Group → Group) : (s.updGroup u g f).dieOf j = s.dieOf j := rfl
@[simp] theorem State.dieOf_updCur (s : State) (j : Nat) (f : Group → Group) : (s.updCur f).dieOf j = s.dieOf j := rfl
@[simp] theorem State.dieOf_updCore (s : State) (j : Nat) (c : Nat) (f : Core → Core) : (s.updCore c f).dieOf j = s.dieOf j := rfl
@[simp] theorem State.dieOf_updEngine (s : State) (j : Nat) (e : Nat) (f : Engine → Engine) : (s.updEngine e f).dieOf j = s.dieOf j := rfl
@[simp] theorem State.dieOf_updStack (s : State) (j : Nat) (k : Nat) (f : Stack → Stack) : (s.updStack k f).dieOf j = s.dieOf j := rfl
@[simp] theorem State.dieOf_updPart (s : State) (j : Nat) (p : Nat) (f : Part → Part) : (s.updPart p f).dieOf j = s.dieOf j := rfl
@[simp] theorem State.dieOf_updVdev (s : State) (j : Nat) (v : Nat) (f : Vdev → Vdev) : (s.updVdev v f).dieOf j = s.dieOf j := rfl
@[simp] theorem State.dieOf_endRun (s : State) (j : Nat) : s.endRun.dieOf j = s.dieOf j := rfl
@[simp] theorem State.engineOf_updTeam (s : State) (j : Nat) (u : Nat) (f : Team → Team) : (s.updTeam u f).engineOf j = s.engineOf j := rfl
@[simp] theorem State.engineOf_updGroup (s : State) (j : Nat) (u g : Nat) (f : Group → Group) : (s.updGroup u g f).engineOf j = s.engineOf j := rfl
@[simp] theorem State.engineOf_updCur (s : State) (j : Nat) (f : Group → Group) : (s.updCur f).engineOf j = s.engineOf j := rfl
@[simp] theorem State.engineOf_updCore (s : State) (j : Nat) (c : Nat) (f : Core → Core) : (s.updCore c f).engineOf j = s.engineOf j := rfl
@[simp] theorem State.engineOf_updDie (s : State) (j : Nat) (d : Nat) (f : Die → Die) : (s.updDie d f).engineOf j = s.engineOf j := rfl
@[simp] theorem State.engineOf_updStack (s : State) (j : Nat) (k : Nat) (f : Stack → Stack) : (s.updStack k f).engineOf j = s.engineOf j := rfl
@[simp] theorem State.engineOf_updPart (s : State) (j : Nat) (p : Nat) (f : Part → Part) : (s.updPart p f).engineOf j = s.engineOf j := rfl
@[simp] theorem State.engineOf_updVdev (s : State) (j : Nat) (v : Nat) (f : Vdev → Vdev) : (s.updVdev v f).engineOf j = s.engineOf j := rfl
@[simp] theorem State.engineOf_endRun (s : State) (j : Nat) : s.endRun.engineOf j = s.engineOf j := rfl
@[simp] theorem State.stackOf_updTeam (s : State) (j : Nat) (u : Nat) (f : Team → Team) : (s.updTeam u f).stackOf j = s.stackOf j := rfl
@[simp] theorem State.stackOf_updGroup (s : State) (j : Nat) (u g : Nat) (f : Group → Group) : (s.updGroup u g f).stackOf j = s.stackOf j := rfl
@[simp] theorem State.stackOf_updCur (s : State) (j : Nat) (f : Group → Group) : (s.updCur f).stackOf j = s.stackOf j := rfl
@[simp] theorem State.stackOf_updCore (s : State) (j : Nat) (c : Nat) (f : Core → Core) : (s.updCore c f).stackOf j = s.stackOf j := rfl
@[simp] theorem State.stackOf_updDie (s : State) (j : Nat) (d : Nat) (f : Die → Die) : (s.updDie d f).stackOf j = s.stackOf j := rfl
@[simp] theorem State.stackOf_updEngine (s : State) (j : Nat) (e : Nat) (f : Engine → Engine) : (s.updEngine e f).stackOf j = s.stackOf j := rfl
@[simp] theorem State.stackOf_updPart (s : State) (j : Nat) (p : Nat) (f : Part → Part) : (s.updPart p f).stackOf j = s.stackOf j := rfl
@[simp] theorem State.stackOf_updVdev (s : State) (j : Nat) (v : Nat) (f : Vdev → Vdev) : (s.updVdev v f).stackOf j = s.stackOf j := rfl
@[simp] theorem State.stackOf_endRun (s : State) (j : Nat) : s.endRun.stackOf j = s.stackOf j := rfl
@[simp] theorem State.partOf_updTeam (s : State) (j : Nat) (u : Nat) (f : Team → Team) : (s.updTeam u f).partOf j = s.partOf j := rfl
@[simp] theorem State.partOf_updGroup (s : State) (j : Nat) (u g : Nat) (f : Group → Group) : (s.updGroup u g f).partOf j = s.partOf j := rfl
@[simp] theorem State.partOf_updCur (s : State) (j : Nat) (f : Group → Group) : (s.updCur f).partOf j = s.partOf j := rfl
@[simp] theorem State.partOf_updCore (s : State) (j : Nat) (c : Nat) (f : Core → Core) : (s.updCore c f).partOf j = s.partOf j := rfl
@[simp] theorem State.partOf_updDie (s : State) (j : Nat) (d : Nat) (f : Die → Die) : (s.updDie d f).partOf j = s.partOf j := rfl
@[simp] theorem State.partOf_updEngine (s : State) (j : Nat) (e : Nat) (f : Engine → Engine) : (s.updEngine e f).partOf j = s.partOf j := rfl
@[simp] theorem State.partOf_updStack (s : State) (j : Nat) (k : Nat) (f : Stack → Stack) : (s.updStack k f).partOf j = s.partOf j := rfl
@[simp] theorem State.partOf_updVdev (s : State) (j : Nat) (v : Nat) (f : Vdev → Vdev) : (s.updVdev v f).partOf j = s.partOf j := rfl
@[simp] theorem State.partOf_endRun (s : State) (j : Nat) : s.endRun.partOf j = s.partOf j := rfl
@[simp] theorem State.vdevOf_updTeam (s : State) (j : Nat) (u : Nat) (f : Team → Team) : (s.updTeam u f).vdevOf j = s.vdevOf j := rfl
@[simp] theorem State.vdevOf_updGroup (s : State) (j : Nat) (u g : Nat) (f : Group → Group) : (s.updGroup u g f).vdevOf j = s.vdevOf j := rfl
@[simp] theorem State.vdevOf_updCur (s : State) (j : Nat) (f : Group → Group) : (s.updCur f).vdevOf j = s.vdevOf j := rfl
@[simp] theorem State.vdevOf_updCore (s : State) (j : Nat) (c : Nat) (f : Core → Core) : (s.updCore c f).vdevOf j = s.vdevOf j := rfl
@[simp] theorem State.vdevOf_updDie (s : State) (j : Nat) (d : Nat) (f : Die → Die) : (s.updDie d f).vdevOf j = s.vdevOf j := rfl
@[simp] theorem State.vdevOf_updEngine (s : State) (j : Nat) (e : Nat) (f : Engine → Engine) : (s.updEngine e f).vdevOf j = s.vdevOf j := rfl
@[simp] theorem State.vdevOf_updStack (s : State) (j : Nat) (k : Nat) (f : Stack → Stack) : (s.updStack k f).vdevOf j = s.vdevOf j := rfl
@[simp] theorem State.vdevOf_updPart (s : State) (j : Nat) (p : Nat) (f : Part → Part) : (s.updPart p f).vdevOf j = s.vdevOf j := rfl
@[simp] theorem State.vdevOf_endRun (s : State) (j : Nat) : s.endRun.vdevOf j = s.vdevOf j := rfl

@[simp] theorem Team.group_updGroup_self (t : Team) (g : Nat) (f : Group → Group) : (t.updGroup g f).group g = f (t.group g) :=
  Sparse.get_upd_self ..
theorem Team.group_updGroup_ne (t : Team) {g j : Nat} (f : Group → Group) (h : j ≠ g) : (t.updGroup g f).group j = t.group j :=
  Sparse.get_upd_ne _ _ _ h

@[simp] theorem State.groupOf_updGroup_self (s : State) (u g : Nat) (f : Group → Group) :
    (s.updGroup u g f).groupOf u g = f (s.groupOf u g) := by
  simp [State.groupOf, State.updGroup]

theorem State.groupOf_updGroup_ne (s : State) {u g v j : Nat} (f : Group → Group) (h : v ≠ u ∨ j ≠ g) :
    (s.updGroup u g f).groupOf v j = s.groupOf v j := by
  unfold State.groupOf State.updGroup
  by_cases e : v = u
  · subst e
    simp only [State.teamOf_updTeam_self]
    exact Team.group_updGroup_ne _ _ (by simpa using h)
  · rw [State.teamOf_updTeam_ne _ _ e]

@[simp] theorem State.run_updGroup (s : State) (u g : Nat) (f : Group → Group) : (s.updGroup u g f).run = s.run := rfl
@[simp] theorem State.run_updTeam (s : State) (u : Nat) (f : Team → Team) : (s.updTeam u f).run = s.run := rfl
@[simp] theorem State.run_updCur (s : State) (f : Group → Group) : (s.updCur f).run = s.run := rfl
@[simp] theorem State.curGroup_updCur (s : State) (f : Group → Group) : (s.updCur f).curGroup = f s.curGroup :=
  State.groupOf_updGroup_self ..
@[simp] theorem State.curTeam_part_updCur (s : State) (f : Group → Group) : (s.updCur f).curTeam.part = s.curTeam.part := by
  simp [State.curTeam, State.updCur, State.updGroup, Team.updGroup]

end Sys2Proof.Machine
end

