-- ==== Sys2Proof/Laws/Groups.lean ====
section
/-! SUPPORT. The registers of a group after its named operations: what each writes, and what it leaves (R193, R204, R250,
R251, R274, R304, R357). -/

namespace Sys2Proof.Machine

/-! ## Slices and lanes -/

theorem mem_sliceList {sl : BitVec 8} {k : Nat} : k ∈ sliceList sl ↔ k < 8 ∧ sl.getLsbD k = true := by
  simp [sliceList]

theorem mem_laneList {w : Word} {l : Nat} : l ∈ laneList w ↔ l < 32 ∧ w.getLsbD l = true := by
  simp [laneList]

/-! ## Lane registers -/

theorem Group.vreg_writeV_on (g : Group) {act : Word} (n : Nat) (f : Nat → Word) {l : Nat} (hl : l < 32)
    (h : act.getLsbD l = true) : (g.writeV act n f).vreg n l = f l := by
  unfold Group.writeV Group.vreg
  exact Sparse.get_foldl_set 0 (fun l => n * 32 + l) f (laneList act)
    (fun a _ b _ e => by have h : a = b := by omega
                         rw [h]) l (mem_laneList.2 ⟨hl, h⟩) g.vregs

theorem Group.vreg_writeV_off (g : Group) {act : Word} (n : Nat) (f : Nat → Word) {m l : Nat} (hl : l < 32)
    (h : m ≠ n ∨ act.getLsbD l = false) : (g.writeV act n f).vreg m l = g.vreg m l := by
  unfold Group.writeV Group.vreg
  refine Sparse.get_foldl_set_ne 0 (fun l => n * 32 + l) f (laneList act) (m * 32 + l) (fun i hi e => ?_) g.vregs
  obtain ⟨h1, h2⟩ := mem_laneList.1 hi
  have e' : n = m ∧ i = l := by omega
  rcases h with h | h
  · exact h e'.1.symm
  · rw [e'.2, h] at h2; exact absurd h2 (by simp)

/-! ## Masks -/

theorem Group.mask_setMask (g : Group) (k j : Nat) (act v : Word) :
    (g.setMask k act v).mask j = if j = k ∧ k ≠ 0 then (g.mask k &&& ~~~act) ||| (v &&& act) else g.mask j := by
  unfold Group.setMask
  by_cases hk : k = 0
  · simp [hk]
  · rw [if_neg hk]
    by_cases hj : j = k
    · subst hj; simp [Group.mask, hk]
    · simp [Group.mask, hj, Sparse.get_set_ne]

/-! ## Scalar registers -/

@[simp] theorem Group.setS_streams (g : Group) (k n : Nat) (v : Word) : (g.setS k n v).streams = g.streams := by
  unfold Group.setS; split <;> (try split) <;> rfl

@[simp] theorem Group.setS_atTrap (g : Group) (k n : Nat) (v : Word) : (g.setS k n v).atTrap = g.atTrap := by
  unfold Group.setS; split <;> (try split) <;> rfl

@[simp] theorem Group.setS_bound (g : Group) (k n m : Nat) (v : Word) : (g.setS k n v).bound m = g.bound m := by
  simp [Group.bound, Group.streamOf]

@[simp] theorem Group.setS_streamOf (g : Group) (k n m : Nat) (v : Word) : (g.setS k n v).streamOf m = g.streamOf m := by
  simp [Group.streamOf]

/-- A scalar write changes the scalar registers alone. -/
theorem Group.setS_frame (g : Group) (k n : Nat) (v : Word) :
    { g.setS k n v with sregs := g.sregs, banks := g.banks } = g := by
  unfold Group.setS; split <;> (try split) <;> rfl

theorem Group.sreg_open (g : Group) (j : Nat) {m : Nat} (h0 : m ≠ 0) (hb : g.bound m = false) :
    g.sreg j m = if g.banked m then Sparse.get 0 g.banks (j * 4 + (m - 56)) else Sparse.get 0 g.sregs (j * 64 + m) := by
  simp [Group.sreg, h0, hb]

theorem Group.setS_open (g : Group) (k : Nat) {n : Nat} (v : Word) (h0 : n ≠ 0) (hb : g.bound n = false) :
    g.setS k n v = if g.banked n then { g with banks := Sparse.set 0 g.banks (k * 4 + (n - 56)) v }
      else { g with sregs := Sparse.set 0 g.sregs (k * 64 + n) v } := by
  simp [Group.setS, h0, hb]

theorem Group.banked_lt {g : Group} {n : Nat} (h : g.banked n = true) : 56 ≤ n ∧ n < 60 := by
  simp [Group.banked] at h; omega

theorem Group.sreg_setS (g : Group) {k j n m : Nat} (v : Word) (hn : n < 64) (hm : m < 64) :
    (g.setS k n v).sreg j m = if j = k ∧ m = n ∧ n ≠ 0 ∧ g.bound n = false then v else g.sreg j m := by
  by_cases hd : n = 0 ∨ g.bound n = true
  · have e : g.setS k n v = g := by rcases hd with h | h <;> simp [Group.setS, h]
    rw [e, if_neg]
    rintro ⟨-, -, h1, h2⟩
    rcases hd with h | h
    · exact h1 h
    · simp [h] at h2
  · obtain ⟨h0, hb⟩ : n ≠ 0 ∧ g.bound n = false := by simpa using hd
    by_cases hm' : m = 0 ∨ g.bound m = true
    · have e : (g.setS k n v).sreg j m = g.sreg j m := by
        rcases hm' with h | h
        · simp [Group.sreg, h]
        · simp [Group.sreg, h]
      rw [e, if_neg]
      rintro ⟨-, rfl, -, -⟩
      rcases hm' with h | h
      · exact h0 h
      · simp [h] at hb
    · obtain ⟨m0, mb⟩ : m ≠ 0 ∧ g.bound m = false := by simpa using hm'
      rw [Group.sreg_open _ j m0 (by simpa using mb), Group.sreg_open g j m0 mb, Group.setS_open g k v h0 hb]
      by_cases hB : g.banked n = true
      · have l1 := Group.banked_lt hB
        rw [if_pos hB]
        have eB : ∀ b, ({ g with banks := b } : Group).banked m = g.banked m := fun _ => rfl
        rw [eB]
        by_cases hC : g.banked m = true
        · have l2 := Group.banked_lt hC
          simp only [hC, if_true, Sparse.get_set]
          by_cases hc : j = k ∧ m = n
          · simp [hc, h0, hb]
          · rw [if_neg (by omega), if_neg (fun h => hc ⟨h.1, h.2.1⟩)]
        · rw [if_neg hC, if_neg hC, if_neg]
          rintro ⟨-, rfl, -, -⟩
          exact hC hB
      · rw [if_neg hB]
        have eB : ∀ b, ({ g with sregs := b } : Group).banked m = g.banked m := fun _ => rfl
        rw [eB]
        by_cases hC : g.banked m = true
        · rw [if_pos hC, if_pos hC, if_neg]
          rintro ⟨-, rfl, -, -⟩
          exact hB hC
        · simp only [hC, Bool.false_eq_true, if_false, Sparse.get_set]
          by_cases hc : j = k ∧ m = n
          · simp [hc, h0, hb]
          · rw [if_neg (by omega), if_neg (fun h => hc ⟨h.1, h.2.1⟩)]

/-! ### The slices of a set write -/

theorem Group.foldl_setS_bound (xs : List Nat) (n m : Nat) (f : Nat → Word) (g : Group) :
    (xs.foldl (fun g k => g.setS k n (f k)) g).bound m = g.bound m := by
  induction xs generalizing g with
  | nil => rfl
  | cons x xs ih => simp [ih]

theorem Group.foldl_setS_frame (xs : List Nat) (n : Nat) (f : Nat → Word) (g : Group) :
    { xs.foldl (fun g k => g.setS k n (f k)) g with sregs := g.sregs, banks := g.banks } = g := by
  induction xs generalizing g with
  | nil => rfl
  | cons x xs ih =>
    simp only [List.foldl_cons]
    have h1 := ih (g.setS x n (f x))
    have h2 := g.setS_frame x n (f x)
    rw [← h1] at h2
    exact h2

theorem Group.sreg_foldl_setS (xs : List Nat) {n m j : Nat} (f : Nat → Word) (hn : n < 64) (hm : m < 64) (g : Group) :
    (xs.foldl (fun g k => g.setS k n (f k)) g).sreg j m
      = if j ∈ xs ∧ m = n ∧ n ≠ 0 ∧ g.bound n = false then f j else g.sreg j m := by
  induction xs generalizing g with
  | nil => simp
  | cons x xs ih =>
    simp only [List.foldl_cons, ih, Group.setS_bound, Group.sreg_setS g (f x) hn hm, List.mem_cons]
    by_cases hx : j = x
    · subst hx
      by_cases hc : m = n ∧ n ≠ 0 ∧ g.bound n = false
      · simp [hc]
      · rw [if_neg (fun h => hc h.2), if_neg (fun h => hc h.2), if_neg (fun h => hc h.2)]
    · simp [hx]

theorem Group.sreg_writeS (g : Group) (sl : BitVec 8) {n m j : Nat} (f : Nat → Word) (hn : n < 64) (hm : m < 64) :
    (g.writeS sl n f).sreg j m
      = if (j < 8 ∧ sl.getLsbD j = true) ∧ m = n ∧ n ≠ 0 ∧ g.bound n = false then f j else g.sreg j m := by
  rw [Group.writeS, Group.sreg_foldl_setS _ f hn hm]
  simp only [mem_sliceList]

theorem Group.writeS_frame (g : Group) (sl : BitVec 8) (n : Nat) (f : Nat → Word) :
    { g.writeS sl n f with sregs := g.sregs, banks := g.banks } = g := Group.foldl_setS_frame ..

theorem Group.writeS_bound (g : Group) (sl : BitVec 8) (n m : Nat) (f : Nat → Word) : (g.writeS sl n f).bound m = g.bound m :=
  Group.foldl_setS_bound ..

/-- A write of s0 or of a bound register is discarded. -/
theorem Group.writeS_discard (g : Group) (sl : BitVec 8) (n : Nat) (f : Nat → Word) (h : n = 0 ∨ g.bound n = true) :
    g.writeS sl n f = g := by
  unfold Group.writeS
  generalize sliceList sl = xs
  induction xs with
  | nil => rfl
  | cons x xs ih =>
    have : g.setS x n (f x) = g := by rcases h with h | h <;> simp [Group.setS, h]
    simp [this, ih]

/-! ## Flags -/

theorem Group.setFlag_frame (g : Group) (k n : Nat) (v : Bool) : { g.setFlag k n v with cflags := g.cflags } = g := by
  unfold Group.setFlag; rfl

theorem Group.writeFlag_frame (g : Group) (sl : BitVec 8) (n : Nat) (f : Nat → Bool) :
    { g.writeFlag sl n f with cflags := g.cflags } = g := by
  unfold Group.writeFlag
  generalize sliceList sl = xs
  induction xs generalizing g with
  | nil => rfl
  | cons x xs ih =>
    simp only [List.foldl_cons]
    have h1 := ih (g.setFlag x n (f x))
    have h2 := g.setFlag_frame x n (f x)
    rw [← h1] at h2
    exact h2

theorem Group.cflag_setFlag (g : Group) {k j n m : Nat} (v : Bool) (hj : j < 8) (hn : n < 4) (hm : m < 4) :
    (g.setFlag k n v).cflag j m = if j = k ∧ m = n then v else g.cflag j m := by
  unfold Group.cflag Group.setFlag
  have hb : ∀ i, i < 32 → ((1#32 <<< (k * 4 + n)).getLsbD i = decide (i = k * 4 + n)) := by
    intro i hi
    simp only [BitVec.getLsbD_shiftLeft, hi, decide_true, Bool.true_and, BitVec.getLsbD_one]
    by_cases h : i = k * 4 + n
    · subst h; simp
    · by_cases h2 : i < k * 4 + n
      · simp [h2, h]
      · have : i - (k * 4 + n) ≠ 0 := by omega
        simp [h, this]
  have hi : j * 4 + m < 32 := by omega
  have he : (j * 4 + m = k * 4 + n) ↔ (j = k ∧ m = n) := by omega
  cases v
  · simp only [Bool.false_eq_true, if_false, BitVec.getLsbD_and, BitVec.getLsbD_not, hi, decide_true, Bool.true_and, hb _ hi]
    by_cases h : j = k ∧ m = n
    · simp [h]
    · rw [if_neg h]; simp [mt he.1 h]
  · simp only [if_true, BitVec.getLsbD_or, hb _ hi]
    by_cases h : j = k ∧ m = n
    · simp [h]
    · rw [if_neg h]; simp [mt he.1 h]

theorem Group.cflag_writeFlag (g : Group) (sl : BitVec 8) {n m j : Nat} (f : Nat → Bool) (hj : j < 8) (hn : n < 4) (hm : m < 4) :
    (g.writeFlag sl n f).cflag j m = if sl.getLsbD j = true ∧ m = n then f j else g.cflag j m := by
  have key : ∀ (xs : List Nat), (∀ x ∈ xs, x < 8) → ∀ g : Group,
      (xs.foldl (fun g k => g.setFlag k n (f k)) g).cflag j m = if j ∈ xs ∧ m = n then f j else g.cflag j m := by
    intro xs
    induction xs with
    | nil => simp
    | cons x xs ih =>
      intro hx g
      simp only [List.foldl_cons, List.mem_cons]
      rw [ih (fun y hy => hx y (by simp [hy])), Group.cflag_setFlag g (f x) hj hn hm]
      by_cases h : j = x
      · subst h; by_cases hm' : m = n <;> simp [hm']
      · simp [h]
  rw [Group.writeFlag, key _ (fun x hx => (mem_sliceList.1 hx).1)]
  simp [mem_sliceList, hj]

/-! ## Streams -/

theorem Group.advance_frame (g : Group) (ns : List Nat) : { g.advance ns with streams := g.streams } = g := by
  unfold Group.advance
  generalize ns.eraseDups = xs
  induction xs generalizing g with
  | nil => rfl
  | cons x xs ih =>
    simp only [List.foldl_cons]
    split
    · have h1 := ih { g with streams := Sparse.upd {} g.streams x Stream.advance }
      have h2 : { ({ g with streams := Sparse.upd {} g.streams x Stream.advance } : Group) with streams := g.streams } = g := rfl
      rw [← h1] at h2
      exact h2
    · exact ih g

theorem nodup_eraseDups (xs : List Nat) : xs.eraseDups.Nodup := by
  induction h : xs.length using Nat.strongRecOn generalizing xs with
  | _ n ih =>
    cases xs with
    | nil => simp
    | cons x xs =>
      rw [List.eraseDups_cons, List.nodup_cons]
      refine ⟨by simp, ih _ ?_ _ rfl⟩
      subst h
      exact Nat.lt_succ_of_le (List.length_filter_le ..)

/-- R357: the walks of the registers that are read advance once each. -/
theorem Group.streamOf_advance (g : Group) (ns : List Nat) (m : Nat) :
    (g.advance ns).streamOf m = if m ∈ ns ∧ g.bound m = true then (g.streamOf m).advance else g.streamOf m := by
  have key : ∀ (xs : List Nat), xs.Nodup → ∀ g : Group,
      (xs.foldl (fun g n => if g.bound n then { g with streams := Sparse.upd {} g.streams n Stream.advance } else g) g).streamOf m
        = if m ∈ xs ∧ g.bound m = true then (g.streamOf m).advance else g.streamOf m := by
    intro xs
    induction xs with
    | nil => simp
    | cons x xs ih =>
      intro hn g
      obtain ⟨h1, h2⟩ := List.nodup_cons.1 hn
      simp only [List.foldl_cons]
      rw [ih h2]
      by_cases hb : g.bound x = true
      · rw [if_pos hb]
        have e1 : ∀ j, ({ g with streams := Sparse.upd {} g.streams x Stream.advance } : Group).streamOf j
            = if j = x then (g.streamOf x).advance else g.streamOf j := fun j => Sparse.get_upd ..
        have e2 : ({ g with streams := Sparse.upd {} g.streams x Stream.advance } : Group).bound m = g.bound m := by
          simp only [Group.bound, e1]
          by_cases h : m = x
          · subst h; simp [Stream.advance]
          · simp [h]
        rw [e1, e2]
        by_cases h : m = x
        · subst h; simp [h1, hb]
        · simp [h]
      · rw [if_neg hb]
        by_cases h : m = x
        · subst h; simp [hb]
        · simp [h]
  rw [Group.advance, key _ (nodup_eraseDups ns)]
  simp

end Sys2Proof.Machine
end

