-- ==== Sys2Proof/Laws/Goes.lean ====
section
/-! SUPPORT. What the plain end of an instruction leaves: one lemma for the run's count, one for a change of the running
group, one for an instruction that a checker lets pass. -/

namespace Sys2Proof.Machine

theorem State.OnlyGroup.refl_upd (s : State) (f : Group → Group) : s.OnlyGroup (s.updCur f) (f s.curGroup) where
  rest := rfl
  teams u hu := by simp [State.updCur, State.updGroup, State.teamOf, State.updTeam, Sparse.get_upd_ne _ _ _ hu]
  team := by simp [State.updCur, State.updGroup, State.teamOf, State.updTeam, Team.updGroup, State.curTeam]
  groups g hg := by
    simp [State.updCur, State.updGroup, State.groupOf, State.teamOf, State.updTeam, Team.updGroup, Team.group,
      Sparse.get_upd_ne _ _ _ hg]
  group := by
    simp [State.updCur, State.updGroup, State.groupOf, State.teamOf, State.updTeam, Team.updGroup, Team.group, State.curGroup]
  runs _ _ := rfl

/-- A further change of the running group. -/
theorem State.OnlyGroup.upd {s t : State} {h : Group} (ht : s.OnlyGroup t h) (hr : t.run = s.run) (f : Group → Group) :
    s.OnlyGroup (t.updCur f) (f h) := by
  have hu := State.OnlyGroup.refl_upd t f
  rw [show t.curGroup = h from (by rw [State.curGroup, hr]; exact ht.group)] at hu
  refine ⟨ht.rest, fun u hx => (hu.teams u (by rw [hr]; exact hx)).trans (ht.teams u hx), ?_,
    fun g hg => ?_, ?_, ht.runs⟩
  · have h1 := hu.team
    have h2 := ht.team
    unfold State.curTeam at *
    rw [hr] at h1
    rw [← h1] at h2
    exact h2
  · have h1 := hu.groups g (by rw [hr]; exact hg)
    rw [hr] at h1
    exact h1.trans (ht.groups g hg)
  · have h1 := hu.group
    rw [hr] at h1
    exact h1

/-- The run's count changes nothing but the run of the site. -/
theorem State.tally_only (s : State) (e : Bool) :
    { s.tally e with runs := s.runs } = s ∧ ∀ k, k ≠ s.site → Sparse.get {} (s.tally e).runs k = Sparse.get {} s.runs k := by
  unfold State.tally State.endRun
  dsimp only
  split
  · exact ⟨rfl, fun _ _ => rfl⟩
  · split
    · exact ⟨rfl, fun k hk => Sparse.get_set_ne ({} : Run) s.runs ({} : Run) hk⟩
    · exact ⟨rfl, fun k hk => Sparse.get_set_ne ({} : Run) s.runs { s.run with count := s.run.count + 1 } hk⟩

@[simp] theorem State.tally_teams (s : State) (e : Bool) : (s.tally e).teams = s.teams := by
  have h := congrArg State.teams (State.tally_only s e).1
  exact h

@[simp] theorem State.tally_site (s : State) (e : Bool) : (s.tally e).site = s.site := by
  have h := congrArg State.site (State.tally_only s e).1
  exact h

theorem State.tally_run (s : State) (e : Bool) (h : s.run.on = true) :
    (s.tally e).run = if e = true ∨ 24 ≤ s.run.count + 1 then {} else { s.run with count := s.run.count + 1 } := by
  unfold State.tally State.endRun
  simp only [h, Bool.not_true, Bool.false_eq_true, if_false]
  by_cases hc : e = true ∨ 24 ≤ s.run.count + 1
  · have hc' : (e || decide (24 ≤ s.run.count + 1)) = true := by simpa using hc
    rw [if_pos hc', if_pos hc]
    simp [State.run]
  · have hc' : ¬ ((e || decide (24 ≤ s.run.count + 1)) = true) := by simpa using hc
    rw [if_neg hc', if_neg hc]
    simp [State.run]

/-- A change of the running group and the plain end of the instruction. -/
theorem State.goes_retire (s : State) (f : Group → Group) (e : Bool) (h : s.run.on = true) :
    s.Goes ((s.updCur f).retire e) e ((f s.curGroup).stepPast s.run.slices) := by
  have hu := (State.OnlyGroup.refl_upd s f).upd rfl fun g => g.stepPast s.run.slices
  unfold State.retire
  rw [show (s.updCur f).run = s.run from rfl]
  generalize ht : (s.updCur f).updCur (fun g => g.stepPast s.run.slices) = t at hu ⊢
  have hrt : t.run = s.run := by rw [← ht]; rfl
  have hst : t.site = s.site := by rw [← ht]; rfl
  have hrs : t.runs = s.runs := by rw [← ht]; rfl
  have ho := State.tally_only t e
  refine ⟨⟨?_, ?_, ?_, ?_, ?_, ?_⟩, ?_⟩
  · have h1 := hu.rest
    have h2 := ho.1
    rw [← h2] at h1
    exact h1
  · intro u hx; simpa [State.teamOf] using hu.teams u hx
  · simpa [State.teamOf] using hu.team
  · intro g hg; simpa [State.groupOf, State.teamOf] using hu.groups g hg
  · simpa [State.groupOf, State.teamOf] using hu.group
  · intro k hk; rw [ho.2 k (by rw [hst]; exact hk), hrs]
  · rw [State.Counted, State.tally_run t e (by rw [hrt]; exact h), hrt]

/-- R459: with no input fault and no test partition, no check fails. -/
theorem State.checkOp_calm {s : State} (h : s.Calm) (us : List Nat) : s.checkOp us = (s, none) := by
  have hf : (us.find? fun u => s.misfire.contains (unitId s.site u)) = none := by
    rw [h.misfire]; exact List.find?_eq_none.2 fun _ _ => by simp
  unfold State.checkOp
  rw [hf]
  simp [h.test]

theorem State.checked_calm {s : State} (h : s.Calm) (us : List Nat) (e : Bool) (w : Option Word) (act : Word)
    (adv : Group → Group) (data : Nat → LaneRec) (f : State → State) : s.checked us e w act adv data f = (f s).retire e := by
  unfold State.checked
  rw [State.checkOp_calm h]

/-- A checked instruction that changes the running group alone. -/
theorem State.goes_checked {s : State} (h : s.Calm) (us : List Nat) (e : Bool) (w : Option Word) (act : Word)
    (adv : Group → Group) (data : Nat → LaneRec) (f : Group → Group) :
    s.Goes (s.checked us e w act adv data fun s => s.updCur f) e ((f s.curGroup).stepPast s.run.slices) := by
  rw [State.checked_calm h]
  exact State.goes_retire s f e h.on

/-! ## The groups of scalar instructions -/

theorem Group.moved_stepPast {g h : Group} (sl : BitVec 8) (hp : h.paths = g.paths) : g.Moved (h.stepPast sl) sl := by
  unfold Group.Moved Group.stepPast
  rw [hp]

theorem Group.copy_writeS (g : Group) (sl : BitVec 8) (d : Nat) (v : Nat → Word) {k n : Nat} (hk : k < 8) (hn : n < 64)
    (hd : d < 64) : (g.writeS sl d v).copy k n =
      if sl.getLsbD k = true ∧ n = d ∧ g.Open d ∧ g.banked d = false then v k else g.copy k n := by
  by_cases ho : g.Open d
  · by_cases hb : g.banked d = true
    · rw [if_neg (by simp [hb])]
      have key : ∀ (xs : List Nat) (g' : Group), g'.bound d = false → g'.banked d = true →
          (xs.foldl (fun g k => g.setS k d (v k)) g').sregs = g'.sregs := by
        intro xs
        induction xs with
        | nil => intros; rfl
        | cons x xs ih =>
          intro g' h1 h2
          rw [List.foldl_cons, ih _ (by simpa using h1) (by simpa [Group.banked] using h2), Group.setS_open _ _ _ ho.1 h1, if_pos h2]
      exact congrArg (Sparse.get 0 · (k * 64 + n)) (key _ g ho.2 hb)
    · have hb' : g.banked d = false := by simpa using hb
      have key : ∀ (xs : List Nat) (g' : Group), g'.bound d = false → g'.banked d = false →
          (xs.foldl (fun g k => g.setS k d (v k)) g').sregs
            = xs.foldl (fun m k => Sparse.set 0 m (k * 64 + d) (v k)) g'.sregs := by
        intro xs
        induction xs with
        | nil => intros; rfl
        | cons x xs ih =>
          intro g' h1 h2
          rw [List.foldl_cons, ih _ (by simpa using h1) (by simpa [Group.banked] using h2), Group.setS_open _ _ _ ho.1 h1,
            if_neg (by simp [h2])]
          rfl
      have e1 : (g.writeS sl d v).copy k n
          = Sparse.get 0 ((sliceList sl).foldl (fun m k => Sparse.set 0 m (k * 64 + d) (v k)) g.sregs) (k * 64 + n) :=
        congrArg (Sparse.get 0 · (k * 64 + n)) (key _ g ho.2 hb')
      rw [e1]
      by_cases hc : sl.getLsbD k = true ∧ n = d
      · rw [if_pos ⟨hc.1, hc.2, ho, hb'⟩, hc.2]
        exact Sparse.get_foldl_set 0 (fun k => k * 64 + d) v _ (fun a _ b _ e => congrArg v (by omega)) k (mem_sliceList.2 ⟨hk, hc.1⟩) _
      · rw [if_neg fun x => hc ⟨x.1, x.2.1⟩]
        refine Sparse.get_foldl_set_ne 0 (fun k => k * 64 + d) v _ _ (fun i hi e => hc ?_) _
        have h2 := (mem_sliceList.1 hi)
        have : i = k ∧ d = n := by omega
        exact ⟨this.1 ▸ h2.2, this.2.symm⟩
  · rw [if_neg fun x => ho x.2.2.1, Group.writeS_discard]
    by_cases h0 : d = 0
    · exact .inl h0
    · right
      cases hb : g.bound d
      · exact absurd ⟨h0, hb⟩ ho
      · rfl

theorem Group.bank_writeS (g : Group) (sl : BitVec 8) (d : Nat) (v : Nat → Word) {k n : Nat} (hk : k < 8) (hn : n < 4) :
    (g.writeS sl d v).bank k n =
      if sl.getLsbD k = true ∧ 56 + n = d ∧ g.Open d ∧ g.banked d = true then v k else g.bank k n := by
  by_cases ho : g.Open d
  · by_cases hb : g.banked d = true
    · have hl := Group.banked_lt hb
      have key : ∀ (xs : List Nat) (g' : Group), g'.bound d = false → g'.banked d = true →
          (xs.foldl (fun g k => g.setS k d (v k)) g').banks
            = xs.foldl (fun m k => Sparse.set 0 m (k * 4 + (d - 56)) (v k)) g'.banks := by
        intro xs
        induction xs with
        | nil => intros; rfl
        | cons x xs ih =>
          intro g' h1 h2
          rw [List.foldl_cons, ih _ (by simpa using h1) (by simpa [Group.banked] using h2), Group.setS_open _ _ _ ho.1 h1,
            if_pos h2]
          rfl
      have e1 : (g.writeS sl d v).bank k n
          = Sparse.get 0 ((sliceList sl).foldl (fun m k => Sparse.set 0 m (k * 4 + (d - 56)) (v k)) g.banks) (k * 4 + n) :=
        congrArg (Sparse.get 0 · (k * 4 + n)) (key _ g ho.2 hb)
      rw [e1]
      by_cases hc : sl.getLsbD k = true ∧ 56 + n = d
      · have hn' : n = d - 56 := by omega
        rw [if_pos ⟨hc.1, hc.2, ho, hb⟩, hn']
        exact Sparse.get_foldl_set 0 (fun k => k * 4 + (d - 56)) v _ (fun a _ b _ e => congrArg v (by omega)) k (mem_sliceList.2 ⟨hk, hc.1⟩) _
      · rw [if_neg fun x => hc ⟨x.1, x.2.1⟩]
        refine Sparse.get_foldl_set_ne 0 (fun k => k * 4 + (d - 56)) v _ _ (fun i hi e => hc ?_) _
        have h2 := (mem_sliceList.1 hi)
        have : i = k ∧ d - 56 = n := by omega
        exact ⟨this.1 ▸ h2.2, by omega⟩
    · have hb' : g.banked d = false := by simpa using hb
      rw [if_neg (by simp [hb'])]
      have key : ∀ (xs : List Nat) (g' : Group), g'.bound d = false → g'.banked d = false →
          (xs.foldl (fun g k => g.setS k d (v k)) g').banks = g'.banks := by
        intro xs
        induction xs with
        | nil => intros; rfl
        | cons x xs ih =>
          intro g' h1 h2
          rw [List.foldl_cons, ih _ (by simpa using h1) (by simpa [Group.banked] using h2), Group.setS_open _ _ _ ho.1 h1,
            if_neg (by simp [h2])]
      exact congrArg (Sparse.get 0 · (k * 4 + n)) (key _ g ho.2 hb')
  · rw [if_neg fun x => ho x.2.2.1, Group.writeS_discard]
    by_cases h0 : d = 0
    · exact .inl h0
    · right
      cases hb : g.bound d
      · exact absurd ⟨h0, hb⟩ ho
      · rfl

theorem Group.scalarWritten_writeS (g : Group) (sl : BitVec 8) {d : Nat} (v : Nat → Word) (hd : d < 64) :
    g.ScalarWritten (g.writeS sl d v) sl d v :=
  ⟨fun _ _ hk hn => Group.copy_writeS g sl d v hk hn hd, fun _ _ hk hn => Group.bank_writeS g sl d v hk hn⟩

/-- What a scalar write, the walks and the end of the instruction leave of a group. -/
theorem Group.scalarResult (g : Group) (sl : BitVec 8) (srcs : List Nat) {d : Nat} (v : Nat → Word) (hd : d < 64) :
    g.ScalarResult (((g.writeS sl d v).advance srcs).stepPast sl) sl srcs d v := by
  have hf := Group.writeS_frame g sl d v
  have ha := Group.advance_frame (g.writeS sl d v) srcs
  generalize hw : g.writeS sl d v = w at hf ha
  have e1 : (w.advance srcs).sregs = w.sregs := by have h := congrArg Group.sregs ha; exact h
  have e2 : (w.advance srcs).banks = w.banks := by have h := congrArg Group.banks ha; exact h
  have e3 : (w.advance srcs).paths = w.paths := by have h := congrArg Group.paths ha; exact h
  have e4 : w.paths = g.paths := by have h := congrArg Group.paths hf; exact h
  have e5 : w.streams = g.streams := by have h := congrArg Group.streams hf; exact h
  have hs := Group.scalarWritten_writeS g sl v hd
  rw [hw] at hs
  refine ⟨⟨fun k n hk hn => ?_, fun k n hk hn => ?_⟩, fun n => ?_, Group.moved_stepPast sl (e3.trans e4), ?_⟩
  · rw [← hs.copies k n hk hn]; exact congrArg (Sparse.get 0 · (k * 64 + n)) e1
  · rw [← hs.banks k n hk hn]; exact congrArg (Sparse.get 0 · (k * 4 + n)) e2
  · have h1 := Group.streamOf_advance w srcs n
    have h2 : w.bound n = g.bound n := by rw [← hw]; exact Group.writeS_bound ..
    have h3 : w.streamOf n = g.streamOf n := congrArg (Sparse.get ({} : Stream) · n) e5
    rw [h2, h3] at h1
    exact h1
  · rw [← ha] at hf
    have e6 : g.paths = (w.advance srcs).paths := (e3.trans e4).symm
    have e7 : g.streams = w.streams := e5.symm
    rw [e6, e7]
    exact hf

end Sys2Proof.Machine
end

