-- ==== Sys2Proof/Laws/Memory.lean ====
section
/-! SUPPORT. The memory: what its reads give after its writes, and that every operation on it keeps the canonical form. -/

namespace Sys2Proof.Machine

@[simp] theorem Mem.get_nil (a : Nat) : Mem.get [] a = 0 := rfl

theorem Mem.get_set (m : Mem) (a b : Nat) (v : Byte) : Mem.get (Mem.set m a v) b = if b = a then v else Mem.get m b :=
  Sparse.get_set 0 m a b v

theorem Mem.wf_nil : Mem.wf [] = true := rfl

theorem Mem.wf_set {m : Mem} (a : Nat) (v : Byte) (h : Mem.wf m = true) : Mem.wf (Mem.set m a v) = true :=
  Sparse.wf_set 0 a v h

theorem Mem.wf_writeNat {m : Mem} (a n v : Nat) (h : Mem.wf m = true) : Mem.wf (Mem.writeNat m a n v) = true := by
  induction n generalizing m a v with
  | zero => exact h
  | succ n ih => exact ih _ _ (Mem.wf_set _ _ h)

theorem Mem.wf_writeMasked {m : Mem} (a n v mask : Nat) (h : Mem.wf m = true) : Mem.wf (Mem.writeMasked m a n v mask) = true := by
  induction n with
  | zero => exact h
  | succ n ih =>
    unfold Mem.writeMasked
    dsimp only
    split
    · exact Mem.wf_set _ _ ih
    · exact ih

/-- What a range taken out leaves. -/
theorem Mem.wf_without {m : Mem} (lo n : Nat) (h : Mem.wf m = true) : Mem.wf (Sparse.without m lo n) = true :=
  Sparse.wf_filter 0 _ h

/-- A part of a memory that is kept (R394). -/
theorem Mem.wf_filter {m : Mem} (p : Host.Cell → Bool) (h : Mem.wf m = true) : Mem.wf (m.filter p) = true :=
  Sparse.wf_filter 0 p h

/-- R418: a range as it goes into an image. -/
theorem Mem.wf_slice {m : Mem} (lo n : Nat) (h : Mem.wf m = true) : Mem.wf (Sparse.slice m lo n) = true := by
  have h1 : Mem.wf (m.filter fun x => decide (lo ≤ x.1) && decide (x.1 < lo + n)) = true := Mem.wf_filter _ h
  have hr : ∀ x ∈ m.filter (fun x => decide (lo ≤ x.1) && decide (x.1 < lo + n)), lo ≤ x.1 := fun x hx => by
    have := (List.mem_filter.1 hx).2
    simp at this
    exact this.1
  unfold Mem.wf at *
  rw [Sparse.wf_iff] at h1 ⊢
  unfold Sparse.slice
  refine ⟨?_, ?_⟩
  · rw [List.pairwise_map]
    refine List.Pairwise.imp_of_mem (fun {a b} ha hb hab => ?_) h1.1
    have := hr a ha
    have := hr b hb
    show a.1 - lo < b.1 - lo
    omega
  · intro x hx
    obtain ⟨y, hy, rfl⟩ := List.mem_map.1 hx
    exact h1.2 y hy

/-- R487: a range as it comes out of an image. -/
theorem Mem.wf_splice {m x : Mem} (lo n : Nat) (h : Mem.wf m = true) (hx : Mem.wf x = true) : Mem.wf (Sparse.splice m lo n x) = true := by
  unfold Sparse.splice
  have hv : ∀ y ∈ x, y.2 ≠ 0 := ((Sparse.wf_iff 0 x).1 hx).2
  have hm := Mem.wf_without lo n h
  clear hx h
  generalize Sparse.without m lo n = w at hm
  induction x generalizing w with
  | nil => exact hm
  | cons y x ih =>
    exact ih (fun z hz => hv z (List.mem_cons_of_mem _ hz)) _ (Sparse.wf_insert 0 _ (hv y (List.mem_cons_self ..)) hm)

end Sys2Proof.Machine
end

