-- ==== Sys2Proof/Laws/PerInstr.lean ====
section
/-! SUPPORT. Decoding and encoding agree, one lemma per constructor of Instr: the layouts first, each said once. -/

namespace Sys2Proof.Laws

open Sys2Proof

/-- Decoding the word of a well-formed instruction gives that instruction back. -/
def RoundTrip.Statement (i : Instr) : Prop :=
  wellFormed i = true → ∀ w, encode i = some w → decodeWord w = .ok i

theorem noWord {i : Instr} (h : encodeNat i = none) : RoundTrip.Statement i := by
  intro _ w hw
  rw [encode, h] at hw
  cases hw

theorem ofRaw {i : Instr} {n : Nat} (he : encodeNat i = some n) (hn : n < 2 ^ 32) (h : decodeRaw n = some i) :
    RoundTrip.Statement i := by
  intro hw w hw'
  rw [encode, he] at hw'
  cases hw'
  exact decodeWord_ofNat hn h hw

theorem layout1 (op c : Nat) (hop : op < 64) (hc : c = 0 * 2 ^ 31 + op * 2 ^ 24) (e : Bool)
    (x0 : BitVec 3) (x1 : BitVec 7) (x2 : BitVec 7) (x3 : BitVec 7) (n : Nat)
    (h : n = c + ende e + x0.toNat * 2097152 + x1.toNat * 16384 + x2.toNat * 128 + x3.toNat) :
    n < 2 ^ 32 ∧ fld n 31 1 = 0 ∧ fld n 24 6 = op ∧ runEnd n = e ∧ bits n 21 3 = x0 ∧ bits n 14 7 = x1 ∧ bits n 7 7 = x2 ∧ bits n 0 7 = x3 := by
  obtain ⟨hl, hs, he, ho, hx0, hx1, hx2, hx3, -⟩ := read_pack [(1, 0), (1, e.toNat), (6, op), (3, x0.toNat), (7, x1.toNat), (7, x2.toNat), (7, x3.toNat)]
    ⟨by decide, Bool.toNat_lt e, hop, x0.isLt, x1.isLt, x2.isLt, x3.isLt, trivial⟩ n
    (by simp only [pack, width, ende_eq, hc] at h ⊢; apply Nat.le_antisymm <;> omega)
  exact ⟨hl, hs, ho, runEnd_eq he, bits_eq hx0, bits_eq hx1, bits_eq hx2, bits_eq hx3⟩

theorem layout2 (op c : Nat) (hop : op < 64) (hc : c = 0 * 2 ^ 31 + op * 2 ^ 24) (e : Bool)
    (x0 : BitVec 3) (x1 : BitVec 3) (x2 : BitVec 4) (x3 : BitVec 7) (x4 : BitVec 7) (n : Nat)
    (h : n = c + ende e + x0.toNat * 2097152 + x1.toNat * 262144 + x2.toNat * 16384 + x3.toNat * 128 + x4.toNat) :
    n < 2 ^ 32 ∧ fld n 31 1 = 0 ∧ fld n 24 6 = op ∧ runEnd n = e ∧ bits n 21 3 = x0 ∧ bits n 18 3 = x1 ∧ bits n 14 4 = x2 ∧ bits n 7 7 = x3 ∧ bits n 0 7 = x4 := by
  obtain ⟨hl, hs, he, ho, hx0, hx1, hx2, hx3, hx4, -⟩ := read_pack [(1, 0), (1, e.toNat), (6, op), (3, x0.toNat), (3, x1.toNat), (4, x2.toNat), (7, x3.toNat), (7, x4.toNat)]
    ⟨by decide, Bool.toNat_lt e, hop, x0.isLt, x1.isLt, x2.isLt, x3.isLt, x4.isLt, trivial⟩ n
    (by simp only [pack, width, ende_eq, hc] at h ⊢; apply Nat.le_antisymm <;> omega)
  exact ⟨hl, hs, ho, runEnd_eq he, bits_eq hx0, bits_eq hx1, bits_eq hx2, bits_eq hx3, bits_eq hx4⟩

theorem layout3 (op r c : Nat) (hop : op < 64) (hr : r < 2 ^ 7) (hc : c = 0 * 2 ^ 31 + op * 2 ^ 24 + r * 2 ^ 0) (e : Bool)
    (x0 : BitVec 3) (x1 : BitVec 7) (x2 : BitVec 7) (n : Nat)
    (h : n = c + ende e + x0.toNat * 2097152 + x1.toNat * 16384 + x2.toNat * 128) :
    n < 2 ^ 32 ∧ fld n 31 1 = 0 ∧ fld n 24 6 = op ∧ runEnd n = e ∧ fld n 0 7 = r ∧ bits n 21 3 = x0 ∧ bits n 14 7 = x1 ∧ bits n 7 7 = x2 := by
  obtain ⟨hl, hs, he, ho, hx0, hx1, hx2, hr, -⟩ := read_pack [(1, 0), (1, e.toNat), (6, op), (3, x0.toNat), (7, x1.toNat), (7, x2.toNat), (7, r)]
    ⟨by decide, Bool.toNat_lt e, hop, x0.isLt, x1.isLt, x2.isLt, hr, trivial⟩ n
    (by simp only [pack, width, ende_eq, hc] at h ⊢; apply Nat.le_antisymm <;> omega)
  exact ⟨hl, hs, ho, runEnd_eq he, hr, bits_eq hx0, bits_eq hx1, bits_eq hx2⟩

theorem layout4 (op r c : Nat) (hop : op < 64) (hr : r < 2 ^ 1) (hc : c = 0 * 2 ^ 31 + op * 2 ^ 24 + r * 2 ^ 6) (e : Bool)
    (x0 : BitVec 3) (x1 : BitVec 7) (x2 : BitVec 7) (x3 : BitVec 3) (x4 : BitVec 3) (n : Nat)
    (h : n = c + ende e + x0.toNat * 2097152 + x1.toNat * 16384 + x2.toNat * 128 + x3.toNat * 8 + x4.toNat) :
    n < 2 ^ 32 ∧ fld n 31 1 = 0 ∧ fld n 24 6 = op ∧ runEnd n = e ∧ fld n 6 1 = r ∧ bits n 21 3 = x0 ∧ bits n 14 7 = x1 ∧ bits n 7 7 = x2 ∧ bits n 3 3 = x3 ∧ bits n 0 3 = x4 := by
  obtain ⟨hl, hs, he, ho, hx0, hx1, hx2, hr, hx3, hx4, -⟩ := read_pack [(1, 0), (1, e.toNat), (6, op), (3, x0.toNat), (7, x1.toNat), (7, x2.toNat), (1, r), (3, x3.toNat), (3, x4.toNat)]
    ⟨by decide, Bool.toNat_lt e, hop, x0.isLt, x1.isLt, x2.isLt, hr, x3.isLt, x4.isLt, trivial⟩ n
    (by simp only [pack, width, ende_eq, hc] at h ⊢; apply Nat.le_antisymm <;> omega)
  exact ⟨hl, hs, ho, runEnd_eq he, hr, bits_eq hx0, bits_eq hx1, bits_eq hx2, bits_eq hx3, bits_eq hx4⟩

theorem layout5 (op r c : Nat) (hop : op < 64) (hr : r < 2 ^ 7) (hc : c = 0 * 2 ^ 31 + op * 2 ^ 24 + r * 2 ^ 14) (e : Bool)
    (x0 : BitVec 3) (x1 : BitVec 7) (x2 : BitVec 4) (x3 : BitVec 3) (n : Nat)
    (h : n = c + ende e + x0.toNat * 2097152 + x1.toNat * 128 + x2.toNat * 8 + x3.toNat) :
    n < 2 ^ 32 ∧ fld n 31 1 = 0 ∧ fld n 24 6 = op ∧ runEnd n = e ∧ fld n 14 7 = r ∧ bits n 21 3 = x0 ∧ bits n 7 7 = x1 ∧ bits n 3 4 = x2 ∧ bits n 0 3 = x3 := by
  obtain ⟨hl, hs, he, ho, hx0, hr, hx1, hx2, hx3, -⟩ := read_pack [(1, 0), (1, e.toNat), (6, op), (3, x0.toNat), (7, r), (7, x1.toNat), (4, x2.toNat), (3, x3.toNat)]
    ⟨by decide, Bool.toNat_lt e, hop, x0.isLt, hr, x1.isLt, x2.isLt, x3.isLt, trivial⟩ n
    (by simp only [pack, width, ende_eq, hc] at h ⊢; apply Nat.le_antisymm <;> omega)
  exact ⟨hl, hs, ho, runEnd_eq he, hr, bits_eq hx0, bits_eq hx1, bits_eq hx2, bits_eq hx3⟩

theorem layout6 (op r c : Nat) (hop : op < 64) (hr : r < 2 ^ 14) (hc : c = 0 * 2 ^ 31 + op * 2 ^ 24 + r * 2 ^ 0) (e : Bool)
    (x0 : BitVec 3) (x1 : BitVec 7) (n : Nat)
    (h : n = c + ende e + x0.toNat * 2097152 + x1.toNat * 16384) :
    n < 2 ^ 32 ∧ fld n 31 1 = 0 ∧ fld n 24 6 = op ∧ runEnd n = e ∧ fld n 0 14 = r ∧ bits n 21 3 = x0 ∧ bits n 14 7 = x1 := by
  obtain ⟨hl, hs, he, ho, hx0, hx1, hr, -⟩ := read_pack [(1, 0), (1, e.toNat), (6, op), (3, x0.toNat), (7, x1.toNat), (14, r)]
    ⟨by decide, Bool.toNat_lt e, hop, x0.isLt, x1.isLt, hr, trivial⟩ n
    (by simp only [pack, width, ende_eq, hc] at h ⊢; apply Nat.le_antisymm <;> omega)
  exact ⟨hl, hs, ho, runEnd_eq he, hr, bits_eq hx0, bits_eq hx1⟩

theorem layout7 (op r c : Nat) (hop : op < 64) (hr : r < 2 ^ 2) (hc : c = 0 * 2 ^ 31 + op * 2 ^ 24 + r * 2 ^ 5) (e : Bool)
    (x0 : BitVec 3) (x1 : BitVec 7) (x2 : BitVec 7) (x3 : BitVec 5) (n : Nat)
    (h : n = c + ende e + x0.toNat * 2097152 + x1.toNat * 16384 + x2.toNat * 128 + x3.toNat) :
    n < 2 ^ 32 ∧ fld n 31 1 = 0 ∧ fld n 24 6 = op ∧ runEnd n = e ∧ fld n 5 2 = r ∧ bits n 21 3 = x0 ∧ bits n 14 7 = x1 ∧ bits n 7 7 = x2 ∧ bits n 0 5 = x3 := by
  obtain ⟨hl, hs, he, ho, hx0, hx1, hx2, hr, hx3, -⟩ := read_pack [(1, 0), (1, e.toNat), (6, op), (3, x0.toNat), (7, x1.toNat), (7, x2.toNat), (2, r), (5, x3.toNat)]
    ⟨by decide, Bool.toNat_lt e, hop, x0.isLt, x1.isLt, x2.isLt, hr, x3.isLt, trivial⟩ n
    (by simp only [pack, width, ende_eq, hc] at h ⊢; apply Nat.le_antisymm <;> omega)
  exact ⟨hl, hs, ho, runEnd_eq he, hr, bits_eq hx0, bits_eq hx1, bits_eq hx2, bits_eq hx3⟩

theorem layout8 (op r c : Nat) (hop : op < 64) (hr : r < 2 ^ 1) (hc : c = 0 * 2 ^ 31 + op * 2 ^ 24 + r * 2 ^ 6) (e : Bool)
    (x0 : BitVec 3) (x1 : BitVec 7) (x2 : BitVec 7) (x3 : BitVec 6) (n : Nat)
    (h : n = c + ende e + x0.toNat * 2097152 + x1.toNat * 16384 + x2.toNat * 128 + x3.toNat) :
    n < 2 ^ 32 ∧ fld n 31 1 = 0 ∧ fld n 24 6 = op ∧ runEnd n = e ∧ fld n 6 1 = r ∧ bits n 21 3 = x0 ∧ bits n 14 7 = x1 ∧ bits n 7 7 = x2 ∧ bits n 0 6 = x3 := by
  obtain ⟨hl, hs, he, ho, hx0, hx1, hx2, hr, hx3, -⟩ := read_pack [(1, 0), (1, e.toNat), (6, op), (3, x0.toNat), (7, x1.toNat), (7, x2.toNat), (1, r), (6, x3.toNat)]
    ⟨by decide, Bool.toNat_lt e, hop, x0.isLt, x1.isLt, x2.isLt, hr, x3.isLt, trivial⟩ n
    (by simp only [pack, width, ende_eq, hc] at h ⊢; apply Nat.le_antisymm <;> omega)
  exact ⟨hl, hs, ho, runEnd_eq he, hr, bits_eq hx0, bits_eq hx1, bits_eq hx2, bits_eq hx3⟩

theorem layout9 (op c : Nat) (hop : op < 64) (hc : c = 0 * 2 ^ 31 + op * 2 ^ 24) (e : Bool)
    (x0 : BitVec 3) (x1 : BitVec 7) (x2 : BitVec 7) (x3 : BitVec 5) (x4 : BitVec 2) (n : Nat)
    (h : n = c + ende e + x0.toNat * 2097152 + x1.toNat * 16384 + x2.toNat * 128 + x3.toNat * 4 + x4.toNat) :
    n < 2 ^ 32 ∧ fld n 31 1 = 0 ∧ fld n 24 6 = op ∧ runEnd n = e ∧ bits n 21 3 = x0 ∧ bits n 14 7 = x1 ∧ bits n 7 7 = x2 ∧ bits n 2 5 = x3 ∧ bits n 0 2 = x4 := by
  obtain ⟨hl, hs, he, ho, hx0, hx1, hx2, hx3, hx4, -⟩ := read_pack [(1, 0), (1, e.toNat), (6, op), (3, x0.toNat), (7, x1.toNat), (7, x2.toNat), (5, x3.toNat), (2, x4.toNat)]
    ⟨by decide, Bool.toNat_lt e, hop, x0.isLt, x1.isLt, x2.isLt, x3.isLt, x4.isLt, trivial⟩ n
    (by simp only [pack, width, ende_eq, hc] at h ⊢; apply Nat.le_antisymm <;> omega)
  exact ⟨hl, hs, ho, runEnd_eq he, bits_eq hx0, bits_eq hx1, bits_eq hx2, bits_eq hx3, bits_eq hx4⟩

theorem layout10 (op c : Nat) (hop : op < 64) (hc : c = 0 * 2 ^ 31 + op * 2 ^ 24) (e : Bool)
    (x0 : BitVec 3) (x1 : BitVec 7) (x2 : BitVec 7) (x3 : BitVec 2) (x4 : BitVec 1) (x5 : BitVec 4) (n : Nat)
    (h : n = c + ende e + x0.toNat * 2097152 + x1.toNat * 16384 + x2.toNat * 128 + x3.toNat * 32 + x4.toNat * 16 + x5.toNat) :
    n < 2 ^ 32 ∧ fld n 31 1 = 0 ∧ fld n 24 6 = op ∧ runEnd n = e ∧ bits n 21 3 = x0 ∧ bits n 14 7 = x1 ∧ bits n 7 7 = x2 ∧ bits n 5 2 = x3 ∧ bits n 4 1 = x4 ∧ bits n 0 4 = x5 := by
  obtain ⟨hl, hs, he, ho, hx0, hx1, hx2, hx3, hx4, hx5, -⟩ := read_pack [(1, 0), (1, e.toNat), (6, op), (3, x0.toNat), (7, x1.toNat), (7, x2.toNat), (2, x3.toNat), (1, x4.toNat), (4, x5.toNat)]
    ⟨by decide, Bool.toNat_lt e, hop, x0.isLt, x1.isLt, x2.isLt, x3.isLt, x4.isLt, x5.isLt, trivial⟩ n
    (by simp only [pack, width, ende_eq, hc] at h ⊢; apply Nat.le_antisymm <;> omega)
  exact ⟨hl, hs, ho, runEnd_eq he, bits_eq hx0, bits_eq hx1, bits_eq hx2, bits_eq hx3, bits_eq hx4, bits_eq hx5⟩

theorem layout11 (op r c : Nat) (hop : op < 64) (hr : r < 2 ^ 4) (hc : c = 0 * 2 ^ 31 + op * 2 ^ 24 + r * 2 ^ 20) (e : Bool)
    (x0 : BitVec 6) (x1 : BitVec 7) (x2 : BitVec 5) (n : Nat)
    (h : n = c + ende e + x0.toNat * 16384 + x1.toNat * 128 + x2.toNat) :
    n < 2 ^ 32 ∧ fld n 31 1 = 0 ∧ fld n 24 6 = op ∧ runEnd n = e ∧ fld n 20 4 = r ∧ bits n 14 6 = x0 ∧ bits n 7 7 = x1 ∧ bits n 0 5 = x2 := by
  obtain ⟨hl, hs, he, ho, hr, hx0, hx1, -, hx2, -⟩ := read_pack [(1, 0), (1, e.toNat), (6, op), (4, r), (6, x0.toNat), (7, x1.toNat), (2, 0), (5, x2.toNat)]
    ⟨by decide, Bool.toNat_lt e, hop, hr, x0.isLt, x1.isLt, Nat.two_pow_pos _, x2.isLt, trivial⟩ n
    (by simp only [pack, width, ende_eq, hc] at h ⊢; apply Nat.le_antisymm <;> omega)
  exact ⟨hl, hs, ho, runEnd_eq he, hr, bits_eq hx0, bits_eq hx1, bits_eq hx2⟩

theorem layout12 (op r c : Nat) (hop : op < 64) (hr : r < 2 ^ 1) (hc : c = 0 * 2 ^ 31 + op * 2 ^ 24 + r * 2 ^ 20) (e : Bool)
    (x0 : BitVec 3) (x1 : BitVec 6) (x2 : BitVec 7) (x3 : BitVec 7) (n : Nat)
    (h : n = c + ende e + x0.toNat * 2097152 + x1.toNat * 16384 + x2.toNat * 128 + x3.toNat) :
    n < 2 ^ 32 ∧ fld n 31 1 = 0 ∧ fld n 24 6 = op ∧ runEnd n = e ∧ fld n 20 1 = r ∧ bits n 21 3 = x0 ∧ bits n 14 6 = x1 ∧ bits n 7 7 = x2 ∧ bits n 0 7 = x3 := by
  obtain ⟨hl, hs, he, ho, hx0, hr, hx1, hx2, hx3, -⟩ := read_pack [(1, 0), (1, e.toNat), (6, op), (3, x0.toNat), (1, r), (6, x1.toNat), (7, x2.toNat), (7, x3.toNat)]
    ⟨by decide, Bool.toNat_lt e, hop, x0.isLt, hr, x1.isLt, x2.isLt, x3.isLt, trivial⟩ n
    (by simp only [pack, width, ende_eq, hc] at h ⊢; apply Nat.le_antisymm <;> omega)
  exact ⟨hl, hs, ho, runEnd_eq he, hr, bits_eq hx0, bits_eq hx1, bits_eq hx2, bits_eq hx3⟩

theorem layout13 (op r c : Nat) (hop : op < 64) (hr : r < 2 ^ 1) (hc : c = 0 * 2 ^ 31 + op * 2 ^ 24 + r * 2 ^ 13) (e : Bool)
    (x0 : BitVec 3) (x1 : BitVec 7) (x2 : BitVec 6) (n : Nat)
    (h : n = c + ende e + x0.toNat * 2097152 + x1.toNat * 16384 + x2.toNat * 128) :
    n < 2 ^ 32 ∧ fld n 31 1 = 0 ∧ fld n 24 6 = op ∧ runEnd n = e ∧ fld n 13 1 = r ∧ bits n 21 3 = x0 ∧ bits n 14 7 = x1 ∧ bits n 7 6 = x2 := by
  obtain ⟨hl, hs, he, ho, hx0, hx1, hr, hx2, -, -⟩ := read_pack [(1, 0), (1, e.toNat), (6, op), (3, x0.toNat), (7, x1.toNat), (1, r), (6, x2.toNat), (7, 0)]
    ⟨by decide, Bool.toNat_lt e, hop, x0.isLt, x1.isLt, hr, x2.isLt, Nat.two_pow_pos _, trivial⟩ n
    (by simp only [pack, width, ende_eq, hc] at h ⊢; apply Nat.le_antisymm <;> omega)
  exact ⟨hl, hs, ho, runEnd_eq he, hr, bits_eq hx0, bits_eq hx1, bits_eq hx2⟩

theorem layout14 (op c : Nat) (hop : op < 64) (hc : c = 0 * 2 ^ 31 + op * 2 ^ 24) (e : Bool)
    (x0 : BitVec 3) (x1 : BitVec 7) (x2 : BitVec 7) (x3 : BitVec 4) (x4 : BitVec 3) (n : Nat)
    (h : n = c + ende e + x0.toNat * 2097152 + x1.toNat * 16384 + x2.toNat * 128 + x3.toNat * 8 + x4.toNat) :
    n < 2 ^ 32 ∧ fld n 31 1 = 0 ∧ fld n 24 6 = op ∧ runEnd n = e ∧ bits n 21 3 = x0 ∧ bits n 14 7 = x1 ∧ bits n 7 7 = x2 ∧ bits n 3 4 = x3 ∧ bits n 0 3 = x4 := by
  obtain ⟨hl, hs, he, ho, hx0, hx1, hx2, hx3, hx4, -⟩ := read_pack [(1, 0), (1, e.toNat), (6, op), (3, x0.toNat), (7, x1.toNat), (7, x2.toNat), (4, x3.toNat), (3, x4.toNat)]
    ⟨by decide, Bool.toNat_lt e, hop, x0.isLt, x1.isLt, x2.isLt, x3.isLt, x4.isLt, trivial⟩ n
    (by simp only [pack, width, ende_eq, hc] at h ⊢; apply Nat.le_antisymm <;> omega)
  exact ⟨hl, hs, ho, runEnd_eq he, bits_eq hx0, bits_eq hx1, bits_eq hx2, bits_eq hx3, bits_eq hx4⟩

theorem layout15 (op c : Nat) (hop : op < 64) (hc : c = 0 * 2 ^ 31 + op * 2 ^ 24) (e : Bool)
    (x0 : BitVec 3) (x1 : BitVec 7) (x2 : BitVec 6) (x3 : BitVec 3) (x4 : BitVec 1) (x5 : BitVec 1) (x6 : BitVec 1) (x7 : BitVec 2) (n : Nat)
    (h : n = c + ende e + x0.toNat * 2097152 + x1.toNat * 16384 + x2.toNat * 256 + x3.toNat * 32 + x4.toNat * 16 + x5.toNat * 8 + x6.toNat * 4 + x7.toNat) :
    n < 2 ^ 32 ∧ fld n 31 1 = 0 ∧ fld n 24 6 = op ∧ runEnd n = e ∧ bits n 21 3 = x0 ∧ bits n 14 7 = x1 ∧ bits n 8 6 = x2 ∧ bits n 5 3 = x3 ∧ bits n 4 1 = x4 ∧ bits n 3 1 = x5 ∧ bits n 2 1 = x6 ∧ bits n 0 2 = x7 := by
  obtain ⟨hl, hs, he, ho, hx0, hx1, hx2, hx3, hx4, hx5, hx6, hx7, -⟩ := read_pack [(1, 0), (1, e.toNat), (6, op), (3, x0.toNat), (7, x1.toNat), (6, x2.toNat), (3, x3.toNat), (1, x4.toNat), (1, x5.toNat), (1, x6.toNat), (2, x7.toNat)]
    ⟨by decide, Bool.toNat_lt e, hop, x0.isLt, x1.isLt, x2.isLt, x3.isLt, x4.isLt, x5.isLt, x6.isLt, x7.isLt, trivial⟩ n
    (by simp only [pack, width, ende_eq, hc] at h ⊢; apply Nat.le_antisymm <;> omega)
  exact ⟨hl, hs, ho, runEnd_eq he, bits_eq hx0, bits_eq hx1, bits_eq hx2, bits_eq hx3, bits_eq hx4, bits_eq hx5, bits_eq hx6, bits_eq hx7⟩

theorem layout16 (op r c : Nat) (hop : op < 64) (hr : r < 2 ^ 6) (hc : c = 0 * 2 ^ 31 + op * 2 ^ 24 + r * 2 ^ 2) (e : Bool)
    (x0 : BitVec 3) (x1 : BitVec 7) (x2 : BitVec 6) (x3 : BitVec 2) (n : Nat)
    (h : n = c + ende e + x0.toNat * 2097152 + x1.toNat * 16384 + x2.toNat * 256 + x3.toNat) :
    n < 2 ^ 32 ∧ fld n 31 1 = 0 ∧ fld n 24 6 = op ∧ runEnd n = e ∧ fld n 2 6 = r ∧ bits n 21 3 = x0 ∧ bits n 14 7 = x1 ∧ bits n 8 6 = x2 ∧ bits n 0 2 = x3 := by
  obtain ⟨hl, hs, he, ho, hx0, hx1, hx2, hr, hx3, -⟩ := read_pack [(1, 0), (1, e.toNat), (6, op), (3, x0.toNat), (7, x1.toNat), (6, x2.toNat), (6, r), (2, x3.toNat)]
    ⟨by decide, Bool.toNat_lt e, hop, x0.isLt, x1.isLt, x2.isLt, hr, x3.isLt, trivial⟩ n
    (by simp only [pack, width, ende_eq, hc] at h ⊢; apply Nat.le_antisymm <;> omega)
  exact ⟨hl, hs, ho, runEnd_eq he, hr, bits_eq hx0, bits_eq hx1, bits_eq hx2, bits_eq hx3⟩

theorem layout17 (op r c : Nat) (hop : op < 64) (hr : r < 2 ^ 6) (hc : c = 1 * 2 ^ 31 + op * 2 ^ 24 + r * 2 ^ 0) (e : Bool)
    (x0 : BitVec 6) (x1 : BitVec 6) (x2 : BitVec 6) (n : Nat)
    (h : n = c + ende e + x0.toNat * 262144 + x1.toNat * 4096 + x2.toNat * 64) :
    n < 2 ^ 32 ∧ fld n 31 1 = 1 ∧ fld n 24 6 = op ∧ runEnd n = e ∧ fld n 0 6 = r ∧ bits n 18 6 = x0 ∧ bits n 12 6 = x1 ∧ bits n 6 6 = x2 := by
  obtain ⟨hl, hs, he, ho, hx0, hx1, hx2, hr, -⟩ := read_pack [(1, 1), (1, e.toNat), (6, op), (6, x0.toNat), (6, x1.toNat), (6, x2.toNat), (6, r)]
    ⟨by decide, Bool.toNat_lt e, hop, x0.isLt, x1.isLt, x2.isLt, hr, trivial⟩ n
    (by simp only [pack, width, ende_eq, hc] at h ⊢; apply Nat.le_antisymm <;> omega)
  exact ⟨hl, hs, ho, runEnd_eq he, hr, bits_eq hx0, bits_eq hx1, bits_eq hx2⟩

theorem layout18 (op r c : Nat) (hop : op < 64) (hr : r < 2 ^ 12) (hc : c = 1 * 2 ^ 31 + op * 2 ^ 24 + r * 2 ^ 0) (e : Bool)
    (x0 : BitVec 6) (x1 : BitVec 6) (n : Nat)
    (h : n = c + ende e + x0.toNat * 262144 + x1.toNat * 4096) :
    n < 2 ^ 32 ∧ fld n 31 1 = 1 ∧ fld n 24 6 = op ∧ runEnd n = e ∧ fld n 0 12 = r ∧ bits n 18 6 = x0 ∧ bits n 12 6 = x1 := by
  obtain ⟨hl, hs, he, ho, hx0, hx1, hr, -⟩ := read_pack [(1, 1), (1, e.toNat), (6, op), (6, x0.toNat), (6, x1.toNat), (12, r)]
    ⟨by decide, Bool.toNat_lt e, hop, x0.isLt, x1.isLt, hr, trivial⟩ n
    (by simp only [pack, width, ende_eq, hc] at h ⊢; apply Nat.le_antisymm <;> omega)
  exact ⟨hl, hs, ho, runEnd_eq he, hr, bits_eq hx0, bits_eq hx1⟩

theorem layout19 (op r c : Nat) (hop : op < 64) (hr : r < 2 ^ 6) (hc : c = 1 * 2 ^ 31 + op * 2 ^ 24 + r * 2 ^ 0) (e : Bool)
    (x0 : BitVec 4) (x1 : BitVec 2) (x2 : BitVec 6) (x3 : BitVec 6) (n : Nat)
    (h : n = c + ende e + x0.toNat * 1048576 + x1.toNat * 262144 + x2.toNat * 4096 + x3.toNat * 64) :
    n < 2 ^ 32 ∧ fld n 31 1 = 1 ∧ fld n 24 6 = op ∧ runEnd n = e ∧ fld n 0 6 = r ∧ bits n 20 4 = x0 ∧ bits n 18 2 = x1 ∧ bits n 12 6 = x2 ∧ bits n 6 6 = x3 := by
  obtain ⟨hl, hs, he, ho, hx0, hx1, hx2, hx3, hr, -⟩ := read_pack [(1, 1), (1, e.toNat), (6, op), (4, x0.toNat), (2, x1.toNat), (6, x2.toNat), (6, x3.toNat), (6, r)]
    ⟨by decide, Bool.toNat_lt e, hop, x0.isLt, x1.isLt, x2.isLt, x3.isLt, hr, trivial⟩ n
    (by simp only [pack, width, ende_eq, hc] at h ⊢; apply Nat.le_antisymm <;> omega)
  exact ⟨hl, hs, ho, runEnd_eq he, hr, bits_eq hx0, bits_eq hx1, bits_eq hx2, bits_eq hx3⟩

theorem layout20 (op c : Nat) (hop : op < 64) (hc : c = 1 * 2 ^ 31 + op * 2 ^ 24) (e : Bool)
    (x0 : BitVec 6) (x1 : BitVec 6) (x2 : BitVec 12) (n : Nat)
    (h : n = c + ende e + x0.toNat * 262144 + x1.toNat * 4096 + x2.toNat) :
    n < 2 ^ 32 ∧ fld n 31 1 = 1 ∧ fld n 24 6 = op ∧ runEnd n = e ∧ bits n 18 6 = x0 ∧ bits n 12 6 = x1 ∧ bits n 0 12 = x2 := by
  obtain ⟨hl, hs, he, ho, hx0, hx1, hx2, -⟩ := read_pack [(1, 1), (1, e.toNat), (6, op), (6, x0.toNat), (6, x1.toNat), (12, x2.toNat)]
    ⟨by decide, Bool.toNat_lt e, hop, x0.isLt, x1.isLt, x2.isLt, trivial⟩ n
    (by simp only [pack, width, ende_eq, hc] at h ⊢; apply Nat.le_antisymm <;> omega)
  exact ⟨hl, hs, ho, runEnd_eq he, bits_eq hx0, bits_eq hx1, bits_eq hx2⟩

theorem layout21 (op r c : Nat) (hop : op < 64) (hr : r < 2 ^ 7) (hc : c = 1 * 2 ^ 31 + op * 2 ^ 24 + r * 2 ^ 5) (e : Bool)
    (x0 : BitVec 6) (x1 : BitVec 6) (x2 : BitVec 5) (n : Nat)
    (h : n = c + ende e + x0.toNat * 262144 + x1.toNat * 4096 + x2.toNat) :
    n < 2 ^ 32 ∧ fld n 31 1 = 1 ∧ fld n 24 6 = op ∧ runEnd n = e ∧ fld n 5 7 = r ∧ bits n 18 6 = x0 ∧ bits n 12 6 = x1 ∧ bits n 0 5 = x2 := by
  obtain ⟨hl, hs, he, ho, hx0, hx1, hr, hx2, -⟩ := read_pack [(1, 1), (1, e.toNat), (6, op), (6, x0.toNat), (6, x1.toNat), (7, r), (5, x2.toNat)]
    ⟨by decide, Bool.toNat_lt e, hop, x0.isLt, x1.isLt, hr, x2.isLt, trivial⟩ n
    (by simp only [pack, width, ende_eq, hc] at h ⊢; apply Nat.le_antisymm <;> omega)
  exact ⟨hl, hs, ho, runEnd_eq he, hr, bits_eq hx0, bits_eq hx1, bits_eq hx2⟩

theorem layout22 (op c : Nat) (hop : op < 64) (hc : c = 1 * 2 ^ 31 + op * 2 ^ 24) (e : Bool)
    (x0 : BitVec 4) (x1 : BitVec 2) (x2 : BitVec 6) (x3 : BitVec 12) (n : Nat)
    (h : n = c + ende e + x0.toNat * 1048576 + x1.toNat * 262144 + x2.toNat * 4096 + x3.toNat) :
    n < 2 ^ 32 ∧ fld n 31 1 = 1 ∧ fld n 24 6 = op ∧ runEnd n = e ∧ bits n 20 4 = x0 ∧ bits n 18 2 = x1 ∧ bits n 12 6 = x2 ∧ bits n 0 12 = x3 := by
  obtain ⟨hl, hs, he, ho, hx0, hx1, hx2, hx3, -⟩ := read_pack [(1, 1), (1, e.toNat), (6, op), (4, x0.toNat), (2, x1.toNat), (6, x2.toNat), (12, x3.toNat)]
    ⟨by decide, Bool.toNat_lt e, hop, x0.isLt, x1.isLt, x2.isLt, x3.isLt, trivial⟩ n
    (by simp only [pack, width, ende_eq, hc] at h ⊢; apply Nat.le_antisymm <;> omega)
  exact ⟨hl, hs, ho, runEnd_eq he, bits_eq hx0, bits_eq hx1, bits_eq hx2, bits_eq hx3⟩

theorem layout23 (op c : Nat) (hop : op < 64) (hc : c = 1 * 2 ^ 31 + op * 2 ^ 24) (e : Bool)
    (x0 : BitVec 6) (x1 : BitVec 18) (n : Nat)
    (h : n = c + ende e + x0.toNat * 262144 + x1.toNat) :
    n < 2 ^ 32 ∧ fld n 31 1 = 1 ∧ fld n 24 6 = op ∧ runEnd n = e ∧ bits n 18 6 = x0 ∧ bits n 0 18 = x1 := by
  obtain ⟨hl, hs, he, ho, hx0, hx1, -⟩ := read_pack [(1, 1), (1, e.toNat), (6, op), (6, x0.toNat), (18, x1.toNat)]
    ⟨by decide, Bool.toNat_lt e, hop, x0.isLt, x1.isLt, trivial⟩ n
    (by simp only [pack, width, ende_eq, hc] at h ⊢; apply Nat.le_antisymm <;> omega)
  exact ⟨hl, hs, ho, runEnd_eq he, bits_eq hx0, bits_eq hx1⟩

theorem layout24 (op r c : Nat) (hop : op < 64) (hr : r < 2 ^ 4) (hc : c = 1 * 2 ^ 31 + op * 2 ^ 24 + r * 2 ^ 14) (e : Bool)
    (x0 : BitVec 6) (x1 : BitVec 14) (n : Nat)
    (h : n = c + ende e + x0.toNat * 262144 + x1.toNat) :
    n < 2 ^ 32 ∧ fld n 31 1 = 1 ∧ fld n 24 6 = op ∧ runEnd n = e ∧ fld n 14 4 = r ∧ bits n 18 6 = x0 ∧ bits n 0 14 = x1 := by
  obtain ⟨hl, hs, he, ho, hx0, hr, hx1, -⟩ := read_pack [(1, 1), (1, e.toNat), (6, op), (6, x0.toNat), (4, r), (14, x1.toNat)]
    ⟨by decide, Bool.toNat_lt e, hop, x0.isLt, hr, x1.isLt, trivial⟩ n
    (by simp only [pack, width, ende_eq, hc] at h ⊢; apply Nat.le_antisymm <;> omega)
  exact ⟨hl, hs, ho, runEnd_eq he, hr, bits_eq hx0, bits_eq hx1⟩

theorem layout25 (op r c : Nat) (hop : op < 64) (hr : r < 2 ^ 3) (hc : c = 1 * 2 ^ 31 + op * 2 ^ 24 + r * 2 ^ 21) (e : Bool)
    (x0 : BitVec 3) (x1 : BitVec 3) (x2 : BitVec 3) (n : Nat)
    (h : n = c + ende e + x0.toNat * 262144 + x1.toNat * 4096 + x2.toNat * 64) :
    n < 2 ^ 32 ∧ fld n 31 1 = 1 ∧ fld n 24 6 = op ∧ runEnd n = e ∧ fld n 21 3 = r ∧ bits n 18 3 = x0 ∧ bits n 12 3 = x1 ∧ bits n 6 3 = x2 := by
  obtain ⟨hl, hs, he, ho, hr, hx0, -, hx1, -, hx2, -, -⟩ := read_pack [(1, 1), (1, e.toNat), (6, op), (3, r), (3, x0.toNat), (3, 0), (3, x1.toNat), (3, 0), (3, x2.toNat), (6, 0)]
    ⟨by decide, Bool.toNat_lt e, hop, hr, x0.isLt, Nat.two_pow_pos _, x1.isLt, Nat.two_pow_pos _, x2.isLt, Nat.two_pow_pos _, trivial⟩ n
    (by simp only [pack, width, ende_eq, hc] at h ⊢; apply Nat.le_antisymm <;> omega)
  exact ⟨hl, hs, ho, runEnd_eq he, hr, bits_eq hx0, bits_eq hx1, bits_eq hx2⟩

theorem layout26 (op r c : Nat) (hop : op < 64) (hr : r < 2 ^ 6) (hc : c = 1 * 2 ^ 31 + op * 2 ^ 24 + r * 2 ^ 0) (e : Bool)
    (x0 : BitVec 3) (x1 : BitVec 3) (x2 : BitVec 3) (n : Nat)
    (h : n = c + ende e + x0.toNat * 262144 + x1.toNat * 4096 + x2.toNat * 64) :
    n < 2 ^ 32 ∧ fld n 31 1 = 1 ∧ fld n 24 6 = op ∧ runEnd n = e ∧ fld n 0 6 = r ∧ bits n 18 3 = x0 ∧ bits n 12 3 = x1 ∧ bits n 6 3 = x2 := by
  obtain ⟨hl, hs, he, ho, -, hx0, -, hx1, -, hx2, hr, -⟩ := read_pack [(1, 1), (1, e.toNat), (6, op), (3, 0), (3, x0.toNat), (3, 0), (3, x1.toNat), (3, 0), (3, x2.toNat), (6, r)]
    ⟨by decide, Bool.toNat_lt e, hop, Nat.two_pow_pos _, x0.isLt, Nat.two_pow_pos _, x1.isLt, Nat.two_pow_pos _, x2.isLt, hr, trivial⟩ n
    (by simp only [pack, width, ende_eq, hc] at h ⊢; apply Nat.le_antisymm <;> omega)
  exact ⟨hl, hs, ho, runEnd_eq he, hr, bits_eq hx0, bits_eq hx1, bits_eq hx2⟩

theorem layout27 (op r c : Nat) (hop : op < 64) (hr : r < 2 ^ 12) (hc : c = 1 * 2 ^ 31 + op * 2 ^ 24 + r * 2 ^ 0) (e : Bool)
    (x0 : BitVec 3) (x1 : BitVec 3) (n : Nat)
    (h : n = c + ende e + x0.toNat * 262144 + x1.toNat * 4096) :
    n < 2 ^ 32 ∧ fld n 31 1 = 1 ∧ fld n 24 6 = op ∧ runEnd n = e ∧ fld n 0 12 = r ∧ bits n 18 3 = x0 ∧ bits n 12 3 = x1 := by
  obtain ⟨hl, hs, he, ho, -, hx0, -, hx1, hr, -⟩ := read_pack [(1, 1), (1, e.toNat), (6, op), (3, 0), (3, x0.toNat), (3, 0), (3, x1.toNat), (12, r)]
    ⟨by decide, Bool.toNat_lt e, hop, Nat.two_pow_pos _, x0.isLt, Nat.two_pow_pos _, x1.isLt, hr, trivial⟩ n
    (by simp only [pack, width, ende_eq, hc] at h ⊢; apply Nat.le_antisymm <;> omega)
  exact ⟨hl, hs, ho, runEnd_eq he, hr, bits_eq hx0, bits_eq hx1⟩

theorem layout28 (op r c : Nat) (hop : op < 64) (hr : r < 2 ^ 12) (hc : c = 1 * 2 ^ 31 + op * 2 ^ 24 + r * 2 ^ 0) (e : Bool)
    (x0 : BitVec 3) (x1 : BitVec 6) (n : Nat)
    (h : n = c + ende e + x0.toNat * 262144 + x1.toNat * 4096) :
    n < 2 ^ 32 ∧ fld n 31 1 = 1 ∧ fld n 24 6 = op ∧ runEnd n = e ∧ fld n 0 12 = r ∧ bits n 18 3 = x0 ∧ bits n 12 6 = x1 := by
  obtain ⟨hl, hs, he, ho, -, hx0, hx1, hr, -⟩ := read_pack [(1, 1), (1, e.toNat), (6, op), (3, 0), (3, x0.toNat), (6, x1.toNat), (12, r)]
    ⟨by decide, Bool.toNat_lt e, hop, Nat.two_pow_pos _, x0.isLt, x1.isLt, hr, trivial⟩ n
    (by simp only [pack, width, ende_eq, hc] at h ⊢; apply Nat.le_antisymm <;> omega)
  exact ⟨hl, hs, ho, runEnd_eq he, hr, bits_eq hx0, bits_eq hx1⟩

theorem layout29 (op r c : Nat) (hop : op < 64) (hr : r < 2 ^ 12) (hc : c = 1 * 2 ^ 31 + op * 2 ^ 24 + r * 2 ^ 0) (e : Bool)
    (x0 : BitVec 6) (x1 : BitVec 3) (n : Nat)
    (h : n = c + ende e + x0.toNat * 262144 + x1.toNat * 4096) :
    n < 2 ^ 32 ∧ fld n 31 1 = 1 ∧ fld n 24 6 = op ∧ runEnd n = e ∧ fld n 0 12 = r ∧ bits n 18 6 = x0 ∧ bits n 12 3 = x1 := by
  obtain ⟨hl, hs, he, ho, hx0, -, hx1, hr, -⟩ := read_pack [(1, 1), (1, e.toNat), (6, op), (6, x0.toNat), (3, 0), (3, x1.toNat), (12, r)]
    ⟨by decide, Bool.toNat_lt e, hop, x0.isLt, Nat.two_pow_pos _, x1.isLt, hr, trivial⟩ n
    (by simp only [pack, width, ende_eq, hc] at h ⊢; apply Nat.le_antisymm <;> omega)
  exact ⟨hl, hs, ho, runEnd_eq he, hr, bits_eq hx0, bits_eq hx1⟩

theorem layout30 (op r c : Nat) (hop : op < 64) (hr : r < 2 ^ 4) (hc : c = 1 * 2 ^ 31 + op * 2 ^ 24 + r * 2 ^ 20) (e : Bool)
    (x0 : BitVec 20) (n : Nat)
    (h : n = c + ende e + x0.toNat) :
    n < 2 ^ 32 ∧ fld n 31 1 = 1 ∧ fld n 24 6 = op ∧ runEnd n = e ∧ fld n 20 4 = r ∧ bits n 0 20 = x0 := by
  obtain ⟨hl, hs, he, ho, hr, hx0, -⟩ := read_pack [(1, 1), (1, e.toNat), (6, op), (4, r), (20, x0.toNat)]
    ⟨by decide, Bool.toNat_lt e, hop, hr, x0.isLt, trivial⟩ n
    (by simp only [pack, width, ende_eq, hc] at h ⊢; apply Nat.le_antisymm <;> omega)
  exact ⟨hl, hs, ho, runEnd_eq he, hr, bits_eq hx0⟩

theorem layout31 (op c : Nat) (hop : op < 64) (hc : c = 1 * 2 ^ 31 + op * 2 ^ 24) (e : Bool)
    (x0 : BitVec 4) (x1 : BitVec 20) (n : Nat)
    (h : n = c + ende e + x0.toNat * 1048576 + x1.toNat) :
    n < 2 ^ 32 ∧ fld n 31 1 = 1 ∧ fld n 24 6 = op ∧ runEnd n = e ∧ bits n 20 4 = x0 ∧ bits n 0 20 = x1 := by
  obtain ⟨hl, hs, he, ho, hx0, hx1, -⟩ := read_pack [(1, 1), (1, e.toNat), (6, op), (4, x0.toNat), (20, x1.toNat)]
    ⟨by decide, Bool.toNat_lt e, hop, x0.isLt, x1.isLt, trivial⟩ n
    (by simp only [pack, width, ende_eq, hc] at h ⊢; apply Nat.le_antisymm <;> omega)
  exact ⟨hl, hs, ho, runEnd_eq he, bits_eq hx0, bits_eq hx1⟩

theorem layout32 (op r c : Nat) (hop : op < 64) (hr : r < 2 ^ 1) (hc : c = 1 * 2 ^ 31 + op * 2 ^ 24 + r * 2 ^ 19) (e : Bool)
    (x0 : BitVec 1) (x1 : BitVec 3) (x2 : BitVec 19) (n : Nat)
    (h : n = c + ende e + x0.toNat * 8388608 + x1.toNat * 1048576 + x2.toNat) :
    n < 2 ^ 32 ∧ fld n 31 1 = 1 ∧ fld n 24 6 = op ∧ runEnd n = e ∧ fld n 19 1 = r ∧ bits n 23 1 = x0 ∧ bits n 20 3 = x1 ∧ bits n 0 19 = x2 := by
  obtain ⟨hl, hs, he, ho, hx0, hx1, hr, hx2, -⟩ := read_pack [(1, 1), (1, e.toNat), (6, op), (1, x0.toNat), (3, x1.toNat), (1, r), (19, x2.toNat)]
    ⟨by decide, Bool.toNat_lt e, hop, x0.isLt, x1.isLt, hr, x2.isLt, trivial⟩ n
    (by simp only [pack, width, ende_eq, hc] at h ⊢; apply Nat.le_antisymm <;> omega)
  exact ⟨hl, hs, ho, runEnd_eq he, hr, bits_eq hx0, bits_eq hx1, bits_eq hx2⟩

theorem layout33 (op r c : Nat) (hop : op < 64) (hr : r < 2 ^ 3) (hc : c = 1 * 2 ^ 31 + op * 2 ^ 24 + r * 2 ^ 21) (e : Bool)
    (x0 : BitVec 1) (x1 : BitVec 15) (n : Nat)
    (h : n = c + ende e + x0.toNat * 1048576 + x1.toNat) :
    n < 2 ^ 32 ∧ fld n 31 1 = 1 ∧ fld n 24 6 = op ∧ runEnd n = e ∧ fld n 21 3 = r ∧ bits n 20 1 = x0 ∧ bits n 0 15 = x1 := by
  obtain ⟨hl, hs, he, ho, hr, hx0, -, hx1, -⟩ := read_pack [(1, 1), (1, e.toNat), (6, op), (3, r), (1, x0.toNat), (5, 0), (15, x1.toNat)]
    ⟨by decide, Bool.toNat_lt e, hop, hr, x0.isLt, Nat.two_pow_pos _, x1.isLt, trivial⟩ n
    (by simp only [pack, width, ende_eq, hc] at h ⊢; apply Nat.le_antisymm <;> omega)
  exact ⟨hl, hs, ho, runEnd_eq he, hr, bits_eq hx0, bits_eq hx1⟩

theorem layout34 (op r c : Nat) (hop : op < 64) (hr : r < 2 ^ 3) (hc : c = 1 * 2 ^ 31 + op * 2 ^ 24 + r * 2 ^ 21) (e : Bool)
    (x0 : BitVec 1) (x1 : BitVec 3) (x2 : BitVec 2) (x3 : BitVec 15) (n : Nat)
    (h : n = c + ende e + x0.toNat * 1048576 + x1.toNat * 131072 + x2.toNat * 32768 + x3.toNat) :
    n < 2 ^ 32 ∧ fld n 31 1 = 1 ∧ fld n 24 6 = op ∧ runEnd n = e ∧ fld n 21 3 = r ∧ bits n 20 1 = x0 ∧ bits n 17 3 = x1 ∧ bits n 15 2 = x2 ∧ bits n 0 15 = x3 := by
  obtain ⟨hl, hs, he, ho, hr, hx0, hx1, hx2, hx3, -⟩ := read_pack [(1, 1), (1, e.toNat), (6, op), (3, r), (1, x0.toNat), (3, x1.toNat), (2, x2.toNat), (15, x3.toNat)]
    ⟨by decide, Bool.toNat_lt e, hop, hr, x0.isLt, x1.isLt, x2.isLt, x3.isLt, trivial⟩ n
    (by simp only [pack, width, ende_eq, hc] at h ⊢; apply Nat.le_antisymm <;> omega)
  exact ⟨hl, hs, ho, runEnd_eq he, hr, bits_eq hx0, bits_eq hx1, bits_eq hx2, bits_eq hx3⟩

theorem layout35 (op r c : Nat) (hop : op < 64) (hr : r < 2 ^ 6) (hc : c = 1 * 2 ^ 31 + op * 2 ^ 24 + r * 2 ^ 18) (e : Bool)
    (x0 : BitVec 6) (n : Nat)
    (h : n = c + ende e + x0.toNat * 4096) :
    n < 2 ^ 32 ∧ fld n 31 1 = 1 ∧ fld n 24 6 = op ∧ runEnd n = e ∧ fld n 18 6 = r ∧ bits n 12 6 = x0 := by
  obtain ⟨hl, hs, he, ho, hr, hx0, -, -⟩ := read_pack [(1, 1), (1, e.toNat), (6, op), (6, r), (6, x0.toNat), (12, 0)]
    ⟨by decide, Bool.toNat_lt e, hop, hr, x0.isLt, Nat.two_pow_pos _, trivial⟩ n
    (by simp only [pack, width, ende_eq, hc] at h ⊢; apply Nat.le_antisymm <;> omega)
  exact ⟨hl, hs, ho, runEnd_eq he, hr, bits_eq hx0⟩

theorem layout36 (op r c : Nat) (hop : op < 64) (hr : r < 2 ^ 24) (hc : c = 1 * 2 ^ 31 + op * 2 ^ 24 + r * 2 ^ 0) (e : Bool)
    (n : Nat)
    (h : n = c + ende e) :
    n < 2 ^ 32 ∧ fld n 31 1 = 1 ∧ fld n 24 6 = op ∧ runEnd n = e ∧ fld n 0 24 = r := by
  obtain ⟨hl, hs, he, ho, hr, -⟩ := read_pack [(1, 1), (1, e.toNat), (6, op), (24, r)]
    ⟨by decide, Bool.toNat_lt e, hop, hr, trivial⟩ n
    (by simp only [pack, width, ende_eq, hc] at h ⊢; apply Nat.le_antisymm <;> omega)
  exact ⟨hl, hs, ho, runEnd_eq he, hr⟩

theorem layout37 (op c : Nat) (hop : op < 64) (hc : c = 1 * 2 ^ 31 + op * 2 ^ 24) (e : Bool)
    (x0 : BitVec 6) (x1 : BitVec 6) (x2 : BitVec 6) (x3 : BitVec 6) (n : Nat)
    (h : n = c + ende e + x0.toNat * 262144 + x1.toNat * 4096 + x2.toNat * 64 + x3.toNat) :
    n < 2 ^ 32 ∧ fld n 31 1 = 1 ∧ fld n 24 6 = op ∧ runEnd n = e ∧ bits n 18 6 = x0 ∧ bits n 12 6 = x1 ∧ bits n 6 6 = x2 ∧ bits n 0 6 = x3 := by
  obtain ⟨hl, hs, he, ho, hx0, hx1, hx2, hx3, -⟩ := read_pack [(1, 1), (1, e.toNat), (6, op), (6, x0.toNat), (6, x1.toNat), (6, x2.toNat), (6, x3.toNat)]
    ⟨by decide, Bool.toNat_lt e, hop, x0.isLt, x1.isLt, x2.isLt, x3.isLt, trivial⟩ n
    (by simp only [pack, width, ende_eq, hc] at h ⊢; apply Nat.le_antisymm <;> omega)
  exact ⟨hl, hs, ho, runEnd_eq he, bits_eq hx0, bits_eq hx1, bits_eq hx2, bits_eq hx3⟩

theorem layout38 (op r c : Nat) (hop : op < 64) (hr : r < 2 ^ 6) (hc : c = 1 * 2 ^ 31 + op * 2 ^ 24 + r * 2 ^ 18) (e : Bool)
    (x0 : BitVec 6) (x1 : BitVec 2) (n : Nat)
    (h : n = c + ende e + x0.toNat * 4096 + x1.toNat) :
    n < 2 ^ 32 ∧ fld n 31 1 = 1 ∧ fld n 24 6 = op ∧ runEnd n = e ∧ fld n 18 6 = r ∧ bits n 12 6 = x0 ∧ bits n 0 2 = x1 := by
  obtain ⟨hl, hs, he, ho, hr, hx0, -, hx1, -⟩ := read_pack [(1, 1), (1, e.toNat), (6, op), (6, r), (6, x0.toNat), (10, 0), (2, x1.toNat)]
    ⟨by decide, Bool.toNat_lt e, hop, hr, x0.isLt, Nat.two_pow_pos _, x1.isLt, trivial⟩ n
    (by simp only [pack, width, ende_eq, hc] at h ⊢; apply Nat.le_antisymm <;> omega)
  exact ⟨hl, hs, ho, runEnd_eq he, hr, bits_eq hx0, bits_eq hx1⟩

theorem layout39 (op r c : Nat) (hop : op < 64) (hr : r < 2 ^ 19) (hc : c = 1 * 2 ^ 31 + op * 2 ^ 24 + r * 2 ^ 5) (e : Bool)
    (x0 : BitVec 3) (x1 : BitVec 2) (n : Nat)
    (h : n = c + ende e + x0.toNat * 4 + x1.toNat) :
    n < 2 ^ 32 ∧ fld n 31 1 = 1 ∧ fld n 24 6 = op ∧ runEnd n = e ∧ fld n 5 19 = r ∧ bits n 2 3 = x0 ∧ bits n 0 2 = x1 := by
  obtain ⟨hl, hs, he, ho, hr, hx0, hx1, -⟩ := read_pack [(1, 1), (1, e.toNat), (6, op), (19, r), (3, x0.toNat), (2, x1.toNat)]
    ⟨by decide, Bool.toNat_lt e, hop, hr, x0.isLt, x1.isLt, trivial⟩ n
    (by simp only [pack, width, ende_eq, hc] at h ⊢; apply Nat.le_antisymm <;> omega)
  exact ⟨hl, hs, ho, runEnd_eq he, hr, bits_eq hx0, bits_eq hx1⟩

theorem layout40 (op r c : Nat) (hop : op < 64) (hr : r < 2 ^ 1) (hc : c = 1 * 2 ^ 31 + op * 2 ^ 24 + r * 2 ^ 23) (e : Bool)
    (x0 : BitVec 3) (x1 : BitVec 20) (n : Nat)
    (h : n = c + ende e + x0.toNat * 1048576 + x1.toNat) :
    n < 2 ^ 32 ∧ fld n 31 1 = 1 ∧ fld n 24 6 = op ∧ runEnd n = e ∧ fld n 23 1 = r ∧ bits n 20 3 = x0 ∧ bits n 0 20 = x1 := by
  obtain ⟨hl, hs, he, ho, hr, hx0, hx1, -⟩ := read_pack [(1, 1), (1, e.toNat), (6, op), (1, r), (3, x0.toNat), (20, x1.toNat)]
    ⟨by decide, Bool.toNat_lt e, hop, hr, x0.isLt, x1.isLt, trivial⟩ n
    (by simp only [pack, width, ende_eq, hc] at h ⊢; apply Nat.le_antisymm <;> omega)
  exact ⟨hl, hs, ho, runEnd_eq he, hr, bits_eq hx0, bits_eq hx1⟩

theorem layout41 (op r c : Nat) (hop : op < 64) (hr : r < 2 ^ 1) (hc : c = 1 * 2 ^ 31 + op * 2 ^ 24 + r * 2 ^ 23) (e : Bool)
    (x0 : BitVec 3) (n : Nat)
    (h : n = c + ende e + x0.toNat * 1048576) :
    n < 2 ^ 32 ∧ fld n 31 1 = 1 ∧ fld n 24 6 = op ∧ runEnd n = e ∧ fld n 23 1 = r ∧ bits n 20 3 = x0 := by
  obtain ⟨hl, hs, he, ho, hr, hx0, -, -⟩ := read_pack [(1, 1), (1, e.toNat), (6, op), (1, r), (3, x0.toNat), (20, 0)]
    ⟨by decide, Bool.toNat_lt e, hop, hr, x0.isLt, Nat.two_pow_pos _, trivial⟩ n
    (by simp only [pack, width, ende_eq, hc] at h ⊢; apply Nat.le_antisymm <;> omega)
  exact ⟨hl, hs, ho, runEnd_eq he, hr, bits_eq hx0⟩

theorem layout42 (op r c : Nat) (hop : op < 64) (hr : r < 2 ^ 16) (hc : c = 1 * 2 ^ 31 + op * 2 ^ 24 + r * 2 ^ 8) (e : Bool)
    (x0 : BitVec 8) (n : Nat)
    (h : n = c + ende e + x0.toNat) :
    n < 2 ^ 32 ∧ fld n 31 1 = 1 ∧ fld n 24 6 = op ∧ runEnd n = e ∧ fld n 8 16 = r ∧ bits n 0 8 = x0 := by
  obtain ⟨hl, hs, he, ho, hr, hx0, -⟩ := read_pack [(1, 1), (1, e.toNat), (6, op), (16, r), (8, x0.toNat)]
    ⟨by decide, Bool.toNat_lt e, hop, hr, x0.isLt, trivial⟩ n
    (by simp only [pack, width, ende_eq, hc] at h ⊢; apply Nat.le_antisymm <;> omega)
  exact ⟨hl, hs, ho, runEnd_eq he, hr, bits_eq hx0⟩

theorem layout43 (op r c : Nat) (hop : op < 64) (hr : r < 2 ^ 18) (hc : c = 1 * 2 ^ 31 + op * 2 ^ 24 + r * 2 ^ 0) (e : Bool)
    (x0 : BitVec 6) (n : Nat)
    (h : n = c + ende e + x0.toNat * 262144) :
    n < 2 ^ 32 ∧ fld n 31 1 = 1 ∧ fld n 24 6 = op ∧ runEnd n = e ∧ fld n 0 18 = r ∧ bits n 18 6 = x0 := by
  obtain ⟨hl, hs, he, ho, hx0, hr, -⟩ := read_pack [(1, 1), (1, e.toNat), (6, op), (6, x0.toNat), (18, r)]
    ⟨by decide, Bool.toNat_lt e, hop, x0.isLt, hr, trivial⟩ n
    (by simp only [pack, width, ende_eq, hc] at h ⊢; apply Nat.le_antisymm <;> omega)
  exact ⟨hl, hs, ho, runEnd_eq he, hr, bits_eq hx0⟩

theorem layout44 (op r c : Nat) (hop : op < 64) (hr : r < 2 ^ 6) (hc : c = 1 * 2 ^ 31 + op * 2 ^ 24 + r * 2 ^ 18) (e : Bool)
    (x0 : BitVec 6) (x1 : BitVec 6) (n : Nat)
    (h : n = c + ende e + x0.toNat * 4096 + x1.toNat * 64) :
    n < 2 ^ 32 ∧ fld n 31 1 = 1 ∧ fld n 24 6 = op ∧ runEnd n = e ∧ fld n 18 6 = r ∧ bits n 12 6 = x0 ∧ bits n 6 6 = x1 := by
  obtain ⟨hl, hs, he, ho, hr, hx0, hx1, -, -⟩ := read_pack [(1, 1), (1, e.toNat), (6, op), (6, r), (6, x0.toNat), (6, x1.toNat), (6, 0)]
    ⟨by decide, Bool.toNat_lt e, hop, hr, x0.isLt, x1.isLt, Nat.two_pow_pos _, trivial⟩ n
    (by simp only [pack, width, ende_eq, hc] at h ⊢; apply Nat.le_antisymm <;> omega)
  exact ⟨hl, hs, ho, runEnd_eq he, hr, bits_eq hx0, bits_eq hx1⟩

theorem layout45 (op r c : Nat) (hop : op < 64) (hr : r < 2 ^ 6) (hc : c = 1 * 2 ^ 31 + op * 2 ^ 24 + r * 2 ^ 0) (e : Bool)
    (x0 : BitVec 6) (x1 : BitVec 6) (n : Nat)
    (h : n = c + ende e + x0.toNat * 262144 + x1.toNat * 64) :
    n < 2 ^ 32 ∧ fld n 31 1 = 1 ∧ fld n 24 6 = op ∧ runEnd n = e ∧ fld n 0 6 = r ∧ bits n 18 6 = x0 ∧ bits n 6 6 = x1 := by
  obtain ⟨hl, hs, he, ho, hx0, -, hx1, hr, -⟩ := read_pack [(1, 1), (1, e.toNat), (6, op), (6, x0.toNat), (6, 0), (6, x1.toNat), (6, r)]
    ⟨by decide, Bool.toNat_lt e, hop, x0.isLt, Nat.two_pow_pos _, x1.isLt, hr, trivial⟩ n
    (by simp only [pack, width, ende_eq, hc] at h ⊢; apply Nat.le_antisymm <;> omega)
  exact ⟨hl, hs, ho, runEnd_eq he, hr, bits_eq hx0, bits_eq hx1⟩

theorem layout46 (op r c : Nat) (hop : op < 64) (hr : r < 2 ^ 6) (hc : c = 1 * 2 ^ 31 + op * 2 ^ 24 + r * 2 ^ 0) (e : Bool)
    (x0 : BitVec 6) (x1 : BitVec 6) (n : Nat)
    (h : n = c + ende e + x0.toNat * 4096 + x1.toNat * 64) :
    n < 2 ^ 32 ∧ fld n 31 1 = 1 ∧ fld n 24 6 = op ∧ runEnd n = e ∧ fld n 0 6 = r ∧ bits n 12 6 = x0 ∧ bits n 6 6 = x1 := by
  obtain ⟨hl, hs, he, ho, -, hx0, hx1, hr, -⟩ := read_pack [(1, 1), (1, e.toNat), (6, op), (6, 0), (6, x0.toNat), (6, x1.toNat), (6, r)]
    ⟨by decide, Bool.toNat_lt e, hop, Nat.two_pow_pos _, x0.isLt, x1.isLt, hr, trivial⟩ n
    (by simp only [pack, width, ende_eq, hc] at h ⊢; apply Nat.le_antisymm <;> omega)
  exact ⟨hl, hs, ho, runEnd_eq he, hr, bits_eq hx0, bits_eq hx1⟩

theorem layout47 (op r c : Nat) (hop : op < 64) (hr : r < 2 ^ 6) (hc : c = 1 * 2 ^ 31 + op * 2 ^ 24 + r * 2 ^ 0) (e : Bool)
    (x0 : BitVec 6) (n : Nat)
    (h : n = c + ende e + x0.toNat * 64) :
    n < 2 ^ 32 ∧ fld n 31 1 = 1 ∧ fld n 24 6 = op ∧ runEnd n = e ∧ fld n 0 6 = r ∧ bits n 6 6 = x0 := by
  obtain ⟨hl, hs, he, ho, -, hx0, hr, -⟩ := read_pack [(1, 1), (1, e.toNat), (6, op), (12, 0), (6, x0.toNat), (6, r)]
    ⟨by decide, Bool.toNat_lt e, hop, Nat.two_pow_pos _, x0.isLt, hr, trivial⟩ n
    (by simp only [pack, width, ende_eq, hc] at h ⊢; apply Nat.le_antisymm <;> omega)
  exact ⟨hl, hs, ho, runEnd_eq he, hr, bits_eq hx0⟩

theorem layout48 (op r c : Nat) (hop : op < 64) (hr : r < 2 ^ 6) (hc : c = 1 * 2 ^ 31 + op * 2 ^ 24 + r * 2 ^ 0) (e : Bool)
    (x0 : BitVec 6) (x1 : BitVec 3) (x2 : BitVec 6) (n : Nat)
    (h : n = c + ende e + x0.toNat * 262144 + x1.toNat * 4096 + x2.toNat * 64) :
    n < 2 ^ 32 ∧ fld n 31 1 = 1 ∧ fld n 24 6 = op ∧ runEnd n = e ∧ fld n 0 6 = r ∧ bits n 18 6 = x0 ∧ bits n 12 3 = x1 ∧ bits n 6 6 = x2 := by
  obtain ⟨hl, hs, he, ho, hx0, -, hx1, hx2, hr, -⟩ := read_pack [(1, 1), (1, e.toNat), (6, op), (6, x0.toNat), (3, 0), (3, x1.toNat), (6, x2.toNat), (6, r)]
    ⟨by decide, Bool.toNat_lt e, hop, x0.isLt, Nat.two_pow_pos _, x1.isLt, x2.isLt, hr, trivial⟩ n
    (by simp only [pack, width, ende_eq, hc] at h ⊢; apply Nat.le_antisymm <;> omega)
  exact ⟨hl, hs, ho, runEnd_eq he, hr, bits_eq hx0, bits_eq hx1, bits_eq hx2⟩

theorem layout49 (op r c : Nat) (hop : op < 64) (hr : r < 2 ^ 6) (hc : c = 1 * 2 ^ 31 + op * 2 ^ 24 + r * 2 ^ 12) (e : Bool)
    (x0 : BitVec 6) (x1 : BitVec 6) (n : Nat)
    (h : n = c + ende e + x0.toNat * 262144 + x1.toNat * 64) :
    n < 2 ^ 32 ∧ fld n 31 1 = 1 ∧ fld n 24 6 = op ∧ runEnd n = e ∧ fld n 12 6 = r ∧ bits n 18 6 = x0 ∧ bits n 6 6 = x1 := by
  obtain ⟨hl, hs, he, ho, hx0, hr, hx1, -, -⟩ := read_pack [(1, 1), (1, e.toNat), (6, op), (6, x0.toNat), (6, r), (6, x1.toNat), (6, 0)]
    ⟨by decide, Bool.toNat_lt e, hop, x0.isLt, hr, x1.isLt, Nat.two_pow_pos _, trivial⟩ n
    (by simp only [pack, width, ende_eq, hc] at h ⊢; apply Nat.le_antisymm <;> omega)
  exact ⟨hl, hs, ho, runEnd_eq he, hr, bits_eq hx0, bits_eq hx1⟩

theorem layout50 (op r c : Nat) (hop : op < 64) (hr : r < 2 ^ 12) (hc : c = 1 * 2 ^ 31 + op * 2 ^ 24 + r * 2 ^ 0) (e : Bool)
    (x0 : BitVec 6) (n : Nat)
    (h : n = c + ende e + x0.toNat * 4096) :
    n < 2 ^ 32 ∧ fld n 31 1 = 1 ∧ fld n 24 6 = op ∧ runEnd n = e ∧ fld n 0 12 = r ∧ bits n 12 6 = x0 := by
  obtain ⟨hl, hs, he, ho, -, hx0, hr, -⟩ := read_pack [(1, 1), (1, e.toNat), (6, op), (6, 0), (6, x0.toNat), (12, r)]
    ⟨by decide, Bool.toNat_lt e, hop, Nat.two_pow_pos _, x0.isLt, hr, trivial⟩ n
    (by simp only [pack, width, ende_eq, hc] at h ⊢; apply Nat.le_antisymm <;> omega)
  exact ⟨hl, hs, ho, runEnd_eq he, hr, bits_eq hx0⟩

theorem layout51 (op c : Nat) (hop : op < 64) (hc : c = 1 * 2 ^ 31 + op * 2 ^ 24) (e : Bool)
    (x0 : BitVec 6) (x1 : BitVec 6) (x2 : BitVec 6) (x3 : BitVec 3) (x4 : BitVec 3) (n : Nat)
    (h : n = c + ende e + x0.toNat * 262144 + x1.toNat * 4096 + x2.toNat * 64 + x3.toNat * 8 + x4.toNat) :
    n < 2 ^ 32 ∧ fld n 31 1 = 1 ∧ fld n 24 6 = op ∧ runEnd n = e ∧ bits n 18 6 = x0 ∧ bits n 12 6 = x1 ∧ bits n 6 6 = x2 ∧ bits n 3 3 = x3 ∧ bits n 0 3 = x4 := by
  obtain ⟨hl, hs, he, ho, hx0, hx1, hx2, hx3, hx4, -⟩ := read_pack [(1, 1), (1, e.toNat), (6, op), (6, x0.toNat), (6, x1.toNat), (6, x2.toNat), (3, x3.toNat), (3, x4.toNat)]
    ⟨by decide, Bool.toNat_lt e, hop, x0.isLt, x1.isLt, x2.isLt, x3.isLt, x4.isLt, trivial⟩ n
    (by simp only [pack, width, ende_eq, hc] at h ⊢; apply Nat.le_antisymm <;> omega)
  exact ⟨hl, hs, ho, runEnd_eq he, bits_eq hx0, bits_eq hx1, bits_eq hx2, bits_eq hx3, bits_eq hx4⟩

theorem layout52 (op r c : Nat) (hop : op < 64) (hr : r < 2 ^ 6) (hc : c = 1 * 2 ^ 31 + op * 2 ^ 24 + r * 2 ^ 12) (e : Bool)
    (x0 : BitVec 6) (x1 : BitVec 12) (n : Nat)
    (h : n = c + ende e + x0.toNat * 262144 + x1.toNat) :
    n < 2 ^ 32 ∧ fld n 31 1 = 1 ∧ fld n 24 6 = op ∧ runEnd n = e ∧ fld n 12 6 = r ∧ bits n 18 6 = x0 ∧ bits n 0 12 = x1 := by
  obtain ⟨hl, hs, he, ho, hx0, hr, hx1, -⟩ := read_pack [(1, 1), (1, e.toNat), (6, op), (6, x0.toNat), (6, r), (12, x1.toNat)]
    ⟨by decide, Bool.toNat_lt e, hop, x0.isLt, hr, x1.isLt, trivial⟩ n
    (by simp only [pack, width, ende_eq, hc] at h ⊢; apply Nat.le_antisymm <;> omega)
  exact ⟨hl, hs, ho, runEnd_eq he, hr, bits_eq hx0, bits_eq hx1⟩

theorem layout53 (op r c : Nat) (hop : op < 64) (hr : r < 2 ^ 6) (hc : c = 1 * 2 ^ 31 + op * 2 ^ 24 + r * 2 ^ 18) (e : Bool)
    (x0 : BitVec 6) (x1 : BitVec 12) (n : Nat)
    (h : n = c + ende e + x0.toNat * 4096 + x1.toNat) :
    n < 2 ^ 32 ∧ fld n 31 1 = 1 ∧ fld n 24 6 = op ∧ runEnd n = e ∧ fld n 18 6 = r ∧ bits n 12 6 = x0 ∧ bits n 0 12 = x1 := by
  obtain ⟨hl, hs, he, ho, hr, hx0, hx1, -⟩ := read_pack [(1, 1), (1, e.toNat), (6, op), (6, r), (6, x0.toNat), (12, x1.toNat)]
    ⟨by decide, Bool.toNat_lt e, hop, hr, x0.isLt, x1.isLt, trivial⟩ n
    (by simp only [pack, width, ende_eq, hc] at h ⊢; apply Nat.le_antisymm <;> omega)
  exact ⟨hl, hs, ho, runEnd_eq he, hr, bits_eq hx0, bits_eq hx1⟩

theorem layout54 (op r c : Nat) (hop : op < 64) (hr : r < 2 ^ 6) (hc : c = 1 * 2 ^ 31 + op * 2 ^ 24 + r * 2 ^ 18) (e : Bool)
    (x0 : BitVec 18) (n : Nat)
    (h : n = c + ende e + x0.toNat) :
    n < 2 ^ 32 ∧ fld n 31 1 = 1 ∧ fld n 24 6 = op ∧ runEnd n = e ∧ fld n 18 6 = r ∧ bits n 0 18 = x0 := by
  obtain ⟨hl, hs, he, ho, hr, hx0, -⟩ := read_pack [(1, 1), (1, e.toNat), (6, op), (6, r), (18, x0.toNat)]
    ⟨by decide, Bool.toNat_lt e, hop, hr, x0.isLt, trivial⟩ n
    (by simp only [pack, width, ende_eq, hc] at h ⊢; apply Nat.le_antisymm <;> omega)
  exact ⟨hl, hs, ho, runEnd_eq he, hr, bits_eq hx0⟩

theorem layout55 (op r c : Nat) (hop : op < 64) (hr : r < 2 ^ 8) (hc : c = 1 * 2 ^ 31 + op * 2 ^ 24 + r * 2 ^ 16) (e : Bool)
    (x0 : BitVec 16) (n : Nat)
    (h : n = c + ende e + x0.toNat) :
    n < 2 ^ 32 ∧ fld n 31 1 = 1 ∧ fld n 24 6 = op ∧ runEnd n = e ∧ fld n 16 8 = r ∧ bits n 0 16 = x0 := by
  obtain ⟨hl, hs, he, ho, hr, hx0, -⟩ := read_pack [(1, 1), (1, e.toNat), (6, op), (8, r), (16, x0.toNat)]
    ⟨by decide, Bool.toNat_lt e, hop, hr, x0.isLt, trivial⟩ n
    (by simp only [pack, width, ende_eq, hc] at h ⊢; apply Nat.le_antisymm <;> omega)
  exact ⟨hl, hs, ho, runEnd_eq he, hr, bits_eq hx0⟩

theorem lane1 {n : Nat} (ho : fld n 24 6 = 1) : decodeLane n =
    some (.fadd (runEnd n) (bits n 21 3) (bits n 14 7) (bits n 7 7) (bits n 0 7)) := by
  unfold decodeLane; rw [ho]; rfl

theorem lane2 {n : Nat} (ho : fld n 24 6 = 2) : decodeLane n =
    some (.fsub (runEnd n) (bits n 21 3) (bits n 14 7) (bits n 7 7) (bits n 0 7)) := by
  unfold decodeLane; rw [ho]; rfl

theorem lane3 {n : Nat} (ho : fld n 24 6 = 3) : decodeLane n =
    some (.fmul (runEnd n) (bits n 21 3) (bits n 14 7) (bits n 7 7) (bits n 0 7)) := by
  unfold decodeLane; rw [ho]; rfl

theorem lane4 {n : Nat} (ho : fld n 24 6 = 4) : decodeLane n =
    some (.ffma (runEnd n) (bits n 21 3) (bits n 14 7) (bits n 7 7) (bits n 0 7)) := by
  unfold decodeLane; rw [ho]; rfl

theorem lane5 {n : Nat} (ho : fld n 24 6 = 5) : decodeLane n =
    some (.fmin (runEnd n) (bits n 21 3) (bits n 14 7) (bits n 7 7) (bits n 0 7)) := by
  unfold decodeLane; rw [ho]; rfl

theorem lane6 {n : Nat} (ho : fld n 24 6 = 6) : decodeLane n =
    some (.fmax (runEnd n) (bits n 21 3) (bits n 14 7) (bits n 7 7) (bits n 0 7)) := by
  unfold decodeLane; rw [ho]; rfl

theorem lane7 {n : Nat} (ho : fld n 24 6 = 7) : decodeLane n =
    some (.fcmp (runEnd n) (bits n 21 3) (bits n 18 3) (bits n 14 4) (bits n 7 7) (bits n 0 7)) := by
  unfold decodeLane; rw [ho]; rfl

theorem lane8 {n : Nat} (ho : fld n 24 6 = 8) : decodeLane n =
    if fld n 0 7 = 0 then some (.fneg (runEnd n) (bits n 21 3) (bits n 14 7) (bits n 7 7))
    else if fld n 0 7 = 1 then some (.fabs (runEnd n) (bits n 21 3) (bits n 14 7) (bits n 7 7))
    else if fld n 0 7 = 2 then some (.fsqrt (runEnd n) (bits n 21 3) (bits n 14 7) (bits n 7 7))
    else if fld n 0 7 = 3 then some (.frcp (runEnd n) (bits n 21 3) (bits n 14 7) (bits n 7 7))
    else if fld n 0 7 = 4 then some (.frsqrt (runEnd n) (bits n 21 3) (bits n 14 7) (bits n 7 7))
    else if fld n 0 7 = 5 then some (.fexp2 (runEnd n) (bits n 21 3) (bits n 14 7) (bits n 7 7))
    else if fld n 0 7 = 6 then some (.flog2 (runEnd n) (bits n 21 3) (bits n 14 7) (bits n 7 7))
    else if fld n 0 7 = 7 then some (.fsin (runEnd n) (bits n 21 3) (bits n 14 7) (bits n 7 7))
    else if fld n 0 7 = 8 then some (.fcos (runEnd n) (bits n 21 3) (bits n 14 7) (bits n 7 7))
    else if fld n 0 7 = 9 then some (.frint (runEnd n) (bits n 21 3) (bits n 14 7) (bits n 7 7))
    else if fld n 0 7 = 10 then some (.ffloor (runEnd n) (bits n 21 3) (bits n 14 7) (bits n 7 7))
    else if fld n 0 7 = 11 then some (.fceil (runEnd n) (bits n 21 3) (bits n 14 7) (bits n 7 7))
    else if fld n 0 7 = 12 then some (.ftrunc (runEnd n) (bits n 21 3) (bits n 14 7) (bits n 7 7))
    else if fld n 0 7 = 13 then some (.fclass (runEnd n) (bits n 21 3) (bits n 14 7) (bits n 7 7))
    else none := by
  unfold decodeLane; rw [ho]; rfl

theorem lane9 {n : Nat} (ho : fld n 24 6 = 9) : decodeLane n =
    some (.sel (runEnd n) (bits n 21 3) (bits n 14 7) (bits n 7 7) (bits n 0 7)) := by
  unfold decodeLane; rw [ho]; rfl

theorem lane10 {n : Nat} (ho : fld n 24 6 = 10) : decodeLane n =
    some (.hfma2 (runEnd n) (bits n 21 3) (bits n 14 7) (bits n 7 7) (bits n 0 7)) := by
  unfold decodeLane; rw [ho]; rfl

theorem lane11 {n : Nat} (ho : fld n 24 6 = 11) : decodeLane n =
    some (.bfma2 (runEnd n) (bits n 21 3) (bits n 14 7) (bits n 7 7) (bits n 0 7)) := by
  unfold decodeLane; rw [ho]; rfl

theorem lane12 {n : Nat} (ho : fld n 24 6 = 12) : decodeLane n =
    if fld n 6 1 = 0 then some (.ldAcq (runEnd n) (bits n 21 3) (bits n 14 7) (bits n 7 7) (bits n 3 3) (bits n 0 3))
    else none := by
  unfold decodeLane; rw [ho]; rfl

theorem lane13 {n : Nat} (ho : fld n 24 6 = 13) : decodeLane n =
    if fld n 6 1 = 0 then some (.stRel (runEnd n) (bits n 21 3) (bits n 14 7) (bits n 7 7) (bits n 3 3) (bits n 0 3))
    else none := by
  unfold decodeLane; rw [ho]; rfl

theorem lane14 {n : Nat} (ho : fld n 24 6 = 14) : decodeLane n =
    if fld n 14 7 = 0 then some (.pfx (runEnd n) (bits n 21 3) (bits n 7 7) (bits n 3 4) (bits n 0 3))
    else none := by
  unfold decodeLane; rw [ho]; rfl

theorem lane16 {n : Nat} (ho : fld n 24 6 = 16) : decodeLane n =
    some (.iadd (runEnd n) (bits n 21 3) (bits n 14 7) (bits n 7 7) (bits n 0 7)) := by
  unfold decodeLane; rw [ho]; rfl

theorem lane17 {n : Nat} (ho : fld n 24 6 = 17) : decodeLane n =
    some (.isub (runEnd n) (bits n 21 3) (bits n 14 7) (bits n 7 7) (bits n 0 7)) := by
  unfold decodeLane; rw [ho]; rfl

theorem lane18 {n : Nat} (ho : fld n 24 6 = 18) : decodeLane n =
    some (.imul (runEnd n) (bits n 21 3) (bits n 14 7) (bits n 7 7) (bits n 0 7)) := by
  unfold decodeLane; rw [ho]; rfl

theorem lane19 {n : Nat} (ho : fld n 24 6 = 19) : decodeLane n =
    some (.imulh (runEnd n) (bits n 21 3) (bits n 14 7) (bits n 7 7) (bits n 0 7)) := by
  unfold decodeLane; rw [ho]; rfl

theorem lane20 {n : Nat} (ho : fld n 24 6 = 20) : decodeLane n =
    some (.umulh (runEnd n) (bits n 21 3) (bits n 14 7) (bits n 7 7) (bits n 0 7)) := by
  unfold decodeLane; rw [ho]; rfl

theorem lane21 {n : Nat} (ho : fld n 24 6 = 21) : decodeLane n =
    some (.imad (runEnd n) (bits n 21 3) (bits n 14 7) (bits n 7 7) (bits n 0 7)) := by
  unfold decodeLane; rw [ho]; rfl

theorem lane22 {n : Nat} (ho : fld n 24 6 = 22) : decodeLane n =
    some (.andLane (runEnd n) (bits n 21 3) (bits n 14 7) (bits n 7 7) (bits n 0 7)) := by
  unfold decodeLane; rw [ho]; rfl

theorem lane23 {n : Nat} (ho : fld n 24 6 = 23) : decodeLane n =
    some (.orLane (runEnd n) (bits n 21 3) (bits n 14 7) (bits n 7 7) (bits n 0 7)) := by
  unfold decodeLane; rw [ho]; rfl

theorem lane24 {n : Nat} (ho : fld n 24 6 = 24) : decodeLane n =
    some (.xorLane (runEnd n) (bits n 21 3) (bits n 14 7) (bits n 7 7) (bits n 0 7)) := by
  unfold decodeLane; rw [ho]; rfl

theorem lane25 {n : Nat} (ho : fld n 24 6 = 25) : decodeLane n =
    some (.shlLane (runEnd n) (bits n 21 3) (bits n 14 7) (bits n 7 7) (bits n 0 7)) := by
  unfold decodeLane; rw [ho]; rfl

theorem lane26 {n : Nat} (ho : fld n 24 6 = 26) : decodeLane n =
    some (.shrLane (runEnd n) (bits n 21 3) (bits n 14 7) (bits n 7 7) (bits n 0 7)) := by
  unfold decodeLane; rw [ho]; rfl

theorem lane27 {n : Nat} (ho : fld n 24 6 = 27) : decodeLane n =
    some (.sraLane (runEnd n) (bits n 21 3) (bits n 14 7) (bits n 7 7) (bits n 0 7)) := by
  unfold decodeLane; rw [ho]; rfl

theorem lane28 {n : Nat} (ho : fld n 24 6 = 28) : decodeLane n =
    some (.imin (runEnd n) (bits n 21 3) (bits n 14 7) (bits n 7 7) (bits n 0 7)) := by
  unfold decodeLane; rw [ho]; rfl

theorem lane29 {n : Nat} (ho : fld n 24 6 = 29) : decodeLane n =
    some (.imax (runEnd n) (bits n 21 3) (bits n 14 7) (bits n 7 7) (bits n 0 7)) := by
  unfold decodeLane; rw [ho]; rfl

theorem lane30 {n : Nat} (ho : fld n 24 6 = 30) : decodeLane n =
    some (.umin (runEnd n) (bits n 21 3) (bits n 14 7) (bits n 7 7) (bits n 0 7)) := by
  unfold decodeLane; rw [ho]; rfl

theorem lane31 {n : Nat} (ho : fld n 24 6 = 31) : decodeLane n =
    some (.umax (runEnd n) (bits n 21 3) (bits n 14 7) (bits n 7 7) (bits n 0 7)) := by
  unfold decodeLane; rw [ho]; rfl

theorem lane32 {n : Nat} (ho : fld n 24 6 = 32) : decodeLane n =
    some (.icmp (runEnd n) (bits n 21 3) (bits n 18 3) (bits n 14 4) (bits n 7 7) (bits n 0 7)) := by
  unfold decodeLane; rw [ho]; rfl

theorem lane33 {n : Nat} (ho : fld n 24 6 = 33) : decodeLane n =
    if fld n 0 14 = 12 then some (.laneid (runEnd n) (bits n 21 3) (bits n 14 7))
    else if fld n 0 7 = 0 then some (.ineg (runEnd n) (bits n 21 3) (bits n 14 7) (bits n 7 7))
    else if fld n 0 7 = 1 then some (.iabs (runEnd n) (bits n 21 3) (bits n 14 7) (bits n 7 7))
    else if fld n 0 7 = 2 then some (.notLane (runEnd n) (bits n 21 3) (bits n 14 7) (bits n 7 7))
    else if fld n 0 7 = 3 then some (.popcLane (runEnd n) (bits n 21 3) (bits n 14 7) (bits n 7 7))
    else if fld n 0 7 = 4 then some (.clzLane (runEnd n) (bits n 21 3) (bits n 14 7) (bits n 7 7))
    else if fld n 0 7 = 5 then some (.ctzLane (runEnd n) (bits n 21 3) (bits n 14 7) (bits n 7 7))
    else if fld n 0 7 = 6 then some (.brev (runEnd n) (bits n 21 3) (bits n 14 7) (bits n 7 7))
    else if fld n 0 7 = 7 then some (.bswap (runEnd n) (bits n 21 3) (bits n 14 7) (bits n 7 7))
    else if fld n 0 7 = 8 then some (.sext8 (runEnd n) (bits n 21 3) (bits n 14 7) (bits n 7 7))
    else if fld n 0 7 = 9 then some (.sext16 (runEnd n) (bits n 21 3) (bits n 14 7) (bits n 7 7))
    else if fld n 0 7 = 10 then some (.zext8 (runEnd n) (bits n 21 3) (bits n 14 7) (bits n 7 7))
    else if fld n 0 7 = 11 then some (.zext16 (runEnd n) (bits n 21 3) (bits n 14 7) (bits n 7 7))
    else none := by
  unfold decodeLane; rw [ho]; rfl

theorem lane34 {n : Nat} (ho : fld n 24 6 = 34) : decodeLane n =
    some (.bfx (runEnd n) (bits n 21 3) (bits n 14 7) (bits n 7 7) (bits n 0 7)) := by
  unfold decodeLane; rw [ho]; rfl

theorem lane35 {n : Nat} (ho : fld n 24 6 = 35) : decodeLane n =
    some (.bfi (runEnd n) (bits n 21 3) (bits n 14 7) (bits n 7 7) (bits n 0 7)) := by
  unfold decodeLane; rw [ho]; rfl

theorem lane36 {n : Nat} (ho : fld n 24 6 = 36) : decodeLane n =
    some (.iaddi (runEnd n) (bits n 21 3) (bits n 14 7) (bits n 7 7) (bits n 0 7)) := by
  unfold decodeLane; rw [ho]; rfl

theorem lane37 {n : Nat} (ho : fld n 24 6 = 37) : decodeLane n =
    some (.imuli (runEnd n) (bits n 21 3) (bits n 14 7) (bits n 7 7) (bits n 0 7)) := by
  unfold decodeLane; rw [ho]; rfl

theorem lane38 {n : Nat} (ho : fld n 24 6 = 38) : decodeLane n =
    some (.andiLane (runEnd n) (bits n 21 3) (bits n 14 7) (bits n 7 7) (bits n 0 7)) := by
  unfold decodeLane; rw [ho]; rfl

theorem lane39 {n : Nat} (ho : fld n 24 6 = 39) : decodeLane n =
    some (.oriLane (runEnd n) (bits n 21 3) (bits n 14 7) (bits n 7 7) (bits n 0 7)) := by
  unfold decodeLane; rw [ho]; rfl

theorem lane40 {n : Nat} (ho : fld n 24 6 = 40) : decodeLane n =
    some (.xoriLane (runEnd n) (bits n 21 3) (bits n 14 7) (bits n 7 7) (bits n 0 7)) := by
  unfold decodeLane; rw [ho]; rfl

theorem lane41 {n : Nat} (ho : fld n 24 6 = 41) : decodeLane n =
    if fld n 5 2 = 0 then some (.shliLane (runEnd n) (bits n 21 3) (bits n 14 7) (bits n 7 7) (bits n 0 5))
    else none := by
  unfold decodeLane; rw [ho]; rfl

theorem lane42 {n : Nat} (ho : fld n 24 6 = 42) : decodeLane n =
    if fld n 5 2 = 0 then some (.shriLane (runEnd n) (bits n 21 3) (bits n 14 7) (bits n 7 7) (bits n 0 5))
    else none := by
  unfold decodeLane; rw [ho]; rfl

theorem lane43 {n : Nat} (ho : fld n 24 6 = 43) : decodeLane n =
    if fld n 5 2 = 0 then some (.sraiLane (runEnd n) (bits n 21 3) (bits n 14 7) (bits n 7 7) (bits n 0 5))
    else none := by
  unfold decodeLane; rw [ho]; rfl

theorem lane44 {n : Nat} (ho : fld n 24 6 = 44) : decodeLane n =
    if fld n 5 2 = 0 then some (.srni (runEnd n) (bits n 21 3) (bits n 14 7) (bits n 7 7) (bits n 0 5))
    else none := by
  unfold decodeLane; rw [ho]; rfl

theorem lane45 {n : Nat} (ho : fld n 24 6 = 45) : decodeLane n =
    some (.add2s (runEnd n) (bits n 21 3) (bits n 14 7) (bits n 7 7) (bits n 0 7)) := by
  unfold decodeLane; rw [ho]; rfl

theorem lane46 {n : Nat} (ho : fld n 24 6 = 46) : decodeLane n =
    some (.sub2s (runEnd n) (bits n 21 3) (bits n 14 7) (bits n 7 7) (bits n 0 7)) := by
  unfold decodeLane; rw [ho]; rfl

theorem lane47 {n : Nat} (ho : fld n 24 6 = 47) : decodeLane n =
    if fld n 6 1 = 0 then some (.dot2S (runEnd n) (bits n 21 3) (bits n 14 7) (bits n 7 7) (bits n 0 6))
    else if fld n 6 1 = 1 then some (.dot2U (runEnd n) (bits n 21 3) (bits n 14 7) (bits n 7 7) (bits n 0 6))
    else none := by
  unfold decodeLane; rw [ho]; rfl

theorem lane48 {n : Nat} (ho : fld n 24 6 = 48) : decodeLane n =
    if fld n 6 1 = 0 then some (.dot4S (runEnd n) (bits n 21 3) (bits n 14 7) (bits n 7 7) (bits n 0 6))
    else if fld n 6 1 = 1 then some (.dot4U (runEnd n) (bits n 21 3) (bits n 14 7) (bits n 7 7) (bits n 0 6))
    else none := by
  unfold decodeLane; rw [ho]; rfl

theorem lane49 {n : Nat} (ho : fld n 24 6 = 49) : decodeLane n =
    if fld n 6 1 = 0 then some (.dot8S (runEnd n) (bits n 21 3) (bits n 14 7) (bits n 7 7) (bits n 0 6))
    else if fld n 6 1 = 1 then some (.dot8U (runEnd n) (bits n 21 3) (bits n 14 7) (bits n 7 7) (bits n 0 6))
    else none := by
  unfold decodeLane; rw [ho]; rfl

theorem lane50 {n : Nat} (ho : fld n 24 6 = 50) : decodeLane n =
    if fld n 6 1 = 0 then some (.fdot4E4m3 (runEnd n) (bits n 21 3) (bits n 14 7) (bits n 7 7) (bits n 0 6))
    else if fld n 6 1 = 1 then some (.fdot4E5m2 (runEnd n) (bits n 21 3) (bits n 14 7) (bits n 7 7) (bits n 0 6))
    else none := by
  unfold decodeLane; rw [ho]; rfl

theorem lane51 {n : Nat} (ho : fld n 24 6 = 51) : decodeLane n =
    if fld n 6 1 = 0 then some (.fdot8 (runEnd n) (bits n 21 3) (bits n 14 7) (bits n 7 7) (bits n 0 6))
    else none := by
  unfold decodeLane; rw [ho]; rfl

theorem lane52 {n : Nat} (ho : fld n 24 6 = 52) : decodeLane n =
    some (.cvt (runEnd n) (bits n 21 3) (bits n 14 7) (bits n 7 7) (bits n 2 5) (bits n 0 2)) := by
  unfold decodeLane; rw [ho]; rfl

theorem lane53 {n : Nat} (ho : fld n 24 6 = 53) : decodeLane n =
    some (.slide (runEnd n) (bits n 21 3) (bits n 14 7) (bits n 7 7) (bits n 5 2) (bits n 4 1) (bits n 0 4)) := by
  unfold decodeLane; rw [ho]; rfl

theorem lane54 {n : Nat} (ho : fld n 24 6 = 54) : decodeLane n =
    some (.shfl (runEnd n) (bits n 21 3) (bits n 14 7) (bits n 7 7) (bits n 0 7)) := by
  unfold decodeLane; rw [ho]; rfl

theorem lane55 {n : Nat} (ho : fld n 24 6 = 55) : decodeLane n =
    if fld n 20 4 = 0 ∧ fld n 5 2 = 0 then some (.tosLane (runEnd n) (bits n 14 6) (bits n 7 7) (bits n 0 5))
    else if fld n 20 1 = 0 then some (.tosReduce (runEnd n) (bits n 21 3) (bits n 14 6) (bits n 7 7) (bits n 0 7))
    else none := by
  unfold decodeLane; rw [ho]; rfl

theorem lane56 {n : Nat} (ho : fld n 24 6 = 56) : decodeLane n =
    if fld n 13 1 = 0 ∧ fld n 0 7 = 0 then some (.tov (runEnd n) (bits n 21 3) (bits n 14 7) (bits n 7 6))
    else none := by
  unfold decodeLane; rw [ho]; rfl

theorem lane57 {n : Nat} (ho : fld n 24 6 = 57) : decodeLane n =
    some (.scan (runEnd n) (bits n 21 3) (bits n 14 7) (bits n 7 7) (bits n 0 7)) := by
  unfold decodeLane; rw [ho]; rfl

theorem lane58 {n : Nat} (ho : fld n 24 6 = 58) : decodeLane n =
    some (.ld (runEnd n) (bits n 21 3) (bits n 14 7) (bits n 7 7) (bits n 3 4) (bits n 0 3)) := by
  unfold decodeLane; rw [ho]; rfl

theorem lane59 {n : Nat} (ho : fld n 24 6 = 59) : decodeLane n =
    some (.st (runEnd n) (bits n 21 3) (bits n 14 7) (bits n 7 7) (bits n 3 4) (bits n 0 3)) := by
  unfold decodeLane; rw [ho]; rfl

theorem lane60 {n : Nat} (ho : fld n 24 6 = 60) : decodeLane n =
    some (.atom (runEnd n) (bits n 21 3) (bits n 14 7) (bits n 7 7) (bits n 3 4) (bits n 0 3)) := by
  unfold decodeLane; rw [ho]; rfl

theorem lane61 {n : Nat} (ho : fld n 24 6 = 61) : decodeLane n =
    some (.red (runEnd n) (bits n 21 3) (bits n 14 7) (bits n 7 7) (bits n 3 4) (bits n 0 3)) := by
  unfold decodeLane; rw [ho]; rfl

theorem lane62 {n : Nat} (ho : fld n 24 6 = 62) : decodeLane n =
    some (.mma (runEnd n) (bits n 21 3) (bits n 14 7) (bits n 8 6) (bits n 5 3) (bits n 4 1) (bits n 3 1) (bits n 2 1) (bits n 0 2)) := by
  unfold decodeLane; rw [ho]; rfl

theorem lane63 {n : Nat} (ho : fld n 24 6 = 63) : decodeLane n =
    if fld n 2 6 = 0 then some (.accxRd (runEnd n) (bits n 21 3) (bits n 14 7) (bits n 8 6) (bits n 0 2))
    else if fld n 2 6 = 8 then some (.accxWr (runEnd n) (bits n 21 3) (bits n 14 7) (bits n 8 6) (bits n 0 2))
    else if fld n 2 6 = 16 then some (.accxRdz (runEnd n) (bits n 21 3) (bits n 14 7) (bits n 8 6) (bits n 0 2))
    else none := by
  unfold decodeLane; rw [ho]; rfl

theorem scalar1 {n : Nat} (ho : fld n 24 6 = 1) : decodeScalar n =
    if fld n 0 12 = 19 then some (.popcScalar (runEnd n) (bits n 18 6) (bits n 12 6))
    else if fld n 0 12 = 20 then some (.clzScalar (runEnd n) (bits n 18 6) (bits n 12 6))
    else if fld n 0 12 = 21 then some (.ctzScalar (runEnd n) (bits n 18 6) (bits n 12 6))
    else if fld n 0 6 = 0 then some (.addScalar (runEnd n) (bits n 18 6) (bits n 12 6) (bits n 6 6))
    else if fld n 0 6 = 1 then some (.subScalar (runEnd n) (bits n 18 6) (bits n 12 6) (bits n 6 6))
    else if fld n 0 6 = 2 then some (.mulScalar (runEnd n) (bits n 18 6) (bits n 12 6) (bits n 6 6))
    else if fld n 0 6 = 3 then some (.mulh (runEnd n) (bits n 18 6) (bits n 12 6) (bits n 6 6))
    else if fld n 0 6 = 4 then some (.mulhu (runEnd n) (bits n 18 6) (bits n 12 6) (bits n 6 6))
    else if fld n 0 6 = 5 then some (.andScalar (runEnd n) (bits n 18 6) (bits n 12 6) (bits n 6 6))
    else if fld n 0 6 = 6 then some (.orScalar (runEnd n) (bits n 18 6) (bits n 12 6) (bits n 6 6))
    else if fld n 0 6 = 7 then some (.xorScalar (runEnd n) (bits n 18 6) (bits n 12 6) (bits n 6 6))
    else if fld n 0 6 = 8 then some (.shlScalar (runEnd n) (bits n 18 6) (bits n 12 6) (bits n 6 6))
    else if fld n 0 6 = 9 then some (.shrScalar (runEnd n) (bits n 18 6) (bits n 12 6) (bits n 6 6))
    else if fld n 0 6 = 10 then some (.sraScalar (runEnd n) (bits n 18 6) (bits n 12 6) (bits n 6 6))
    else if fld n 0 6 = 11 then some (.minScalar (runEnd n) (bits n 18 6) (bits n 12 6) (bits n 6 6))
    else if fld n 0 6 = 12 then some (.maxScalar (runEnd n) (bits n 18 6) (bits n 12 6) (bits n 6 6))
    else if fld n 0 6 = 13 then some (.minu (runEnd n) (bits n 18 6) (bits n 12 6) (bits n 6 6))
    else if fld n 0 6 = 14 then some (.maxu (runEnd n) (bits n 18 6) (bits n 12 6) (bits n 6 6))
    else if fld n 0 6 = 15 then some (.div (runEnd n) (bits n 18 6) (bits n 12 6) (bits n 6 6))
    else if fld n 0 6 = 16 then some (.divu (runEnd n) (bits n 18 6) (bits n 12 6) (bits n 6 6))
    else if fld n 0 6 = 17 then some (.rem (runEnd n) (bits n 18 6) (bits n 12 6) (bits n 6 6))
    else if fld n 0 6 = 18 then some (.remu (runEnd n) (bits n 18 6) (bits n 12 6) (bits n 6 6))
    else none := by
  unfold decodeScalar; rw [ho]; rfl

theorem scalar2 {n : Nat} (ho : fld n 24 6 = 2) : decodeScalar n =
    if fld n 0 6 = 0 then some (.cmp (runEnd n) (bits n 20 4) (bits n 18 2) (bits n 12 6) (bits n 6 6))
    else none := by
  unfold decodeScalar; rw [ho]; rfl

theorem scalar3 {n : Nat} (ho : fld n 24 6 = 3) : decodeScalar n =
    some (.addi (runEnd n) (bits n 18 6) (bits n 12 6) (bits n 0 12)) := by
  unfold decodeScalar; rw [ho]; rfl

theorem scalar4 {n : Nat} (ho : fld n 24 6 = 4) : decodeScalar n =
    some (.andiScalar (runEnd n) (bits n 18 6) (bits n 12 6) (bits n 0 12)) := by
  unfold decodeScalar; rw [ho]; rfl

theorem scalar5 {n : Nat} (ho : fld n 24 6 = 5) : decodeScalar n =
    some (.oriScalar (runEnd n) (bits n 18 6) (bits n 12 6) (bits n 0 12)) := by
  unfold decodeScalar; rw [ho]; rfl

theorem scalar6 {n : Nat} (ho : fld n 24 6 = 6) : decodeScalar n =
    some (.xoriScalar (runEnd n) (bits n 18 6) (bits n 12 6) (bits n 0 12)) := by
  unfold decodeScalar; rw [ho]; rfl

theorem scalar7 {n : Nat} (ho : fld n 24 6 = 7) : decodeScalar n =
    if fld n 5 7 = 0 then some (.shliScalar (runEnd n) (bits n 18 6) (bits n 12 6) (bits n 0 5))
    else none := by
  unfold decodeScalar; rw [ho]; rfl

theorem scalar8 {n : Nat} (ho : fld n 24 6 = 8) : decodeScalar n =
    if fld n 5 7 = 0 then some (.shriScalar (runEnd n) (bits n 18 6) (bits n 12 6) (bits n 0 5))
    else none := by
  unfold decodeScalar; rw [ho]; rfl

theorem scalar9 {n : Nat} (ho : fld n 24 6 = 9) : decodeScalar n =
    if fld n 5 7 = 0 then some (.sraiScalar (runEnd n) (bits n 18 6) (bits n 12 6) (bits n 0 5))
    else none := by
  unfold decodeScalar; rw [ho]; rfl

theorem scalar10 {n : Nat} (ho : fld n 24 6 = 10) : decodeScalar n =
    some (.cmpi (runEnd n) (bits n 20 4) (bits n 18 2) (bits n 12 6) (bits n 0 12)) := by
  unfold decodeScalar; rw [ho]; rfl

theorem scalar11 {n : Nat} (ho : fld n 24 6 = 11) : decodeScalar n =
    some (.li (runEnd n) (bits n 18 6) (bits n 0 18)) := by
  unfold decodeScalar; rw [ho]; rfl

theorem scalar12 {n : Nat} (ho : fld n 24 6 = 12) : decodeScalar n =
    if fld n 14 4 = 0 then some (.lui (runEnd n) (bits n 18 6) (bits n 0 14))
    else none := by
  unfold decodeScalar; rw [ho]; rfl

theorem scalar13 {n : Nat} (ho : fld n 24 6 = 13) : decodeScalar n =
    if fld n 21 3 = 0 ∧ fld n 15 3 = 0 ∧ fld n 0 12 = 4 then some (.mnot (runEnd n) (bits n 18 3) (bits n 12 3))
    else if fld n 21 3 = 0 ∧ fld n 15 3 = 0 ∧ fld n 9 3 = 0 ∧ fld n 0 6 = 0 then some (.mand (runEnd n) (bits n 18 3) (bits n 12 3) (bits n 6 3))
    else if fld n 21 3 = 0 ∧ fld n 15 3 = 0 ∧ fld n 9 3 = 0 ∧ fld n 0 6 = 1 then some (.mor (runEnd n) (bits n 18 3) (bits n 12 3) (bits n 6 3))
    else if fld n 21 3 = 0 ∧ fld n 15 3 = 0 ∧ fld n 9 3 = 0 ∧ fld n 0 6 = 2 then some (.mxor (runEnd n) (bits n 18 3) (bits n 12 3) (bits n 6 3))
    else if fld n 21 3 = 0 ∧ fld n 15 3 = 0 ∧ fld n 9 3 = 0 ∧ fld n 0 6 = 3 then some (.mandn (runEnd n) (bits n 18 3) (bits n 12 3) (bits n 6 3))
    else if fld n 21 3 = 0 ∧ fld n 0 12 = 5 then some (.mset (runEnd n) (bits n 18 3) (bits n 12 6))
    else if fld n 15 3 = 0 ∧ fld n 0 12 = 6 then some (.mget (runEnd n) (bits n 18 6) (bits n 12 3))
    else if fld n 15 3 = 0 ∧ fld n 0 12 = 7 then some (.mpopc (runEnd n) (bits n 18 6) (bits n 12 3))
    else if fld n 15 3 = 0 ∧ fld n 0 12 = 8 then some (.mfirst (runEnd n) (bits n 18 6) (bits n 12 3))
    else none := by
  unfold decodeScalar; rw [ho]; rfl

theorem scalar14 {n : Nat} (ho : fld n 24 6 = 14) : decodeScalar n =
    if fld n 20 4 = 0 then some (.b (runEnd n) (bits n 0 20))
    else none := by
  unfold decodeScalar; rw [ho]; rfl

theorem scalar15 {n : Nat} (ho : fld n 24 6 = 15) : decodeScalar n =
    some (.bc (runEnd n) (bits n 20 4) (bits n 0 20)) := by
  unfold decodeScalar; rw [ho]; rfl

theorem scalar16 {n : Nat} (ho : fld n 24 6 = 16) : decodeScalar n =
    if fld n 19 1 = 0 then some (.bm (runEnd n) (bits n 23 1) (bits n 20 3) (bits n 0 19))
    else if fld n 19 1 = 1 then some (.bmG (runEnd n) (bits n 23 1) (bits n 20 3) (bits n 0 19))
    else none := by
  unfold decodeScalar; rw [ho]; rfl

theorem scalar17 {n : Nat} (ho : fld n 24 6 = 17) : decodeScalar n =
    if fld n 21 3 = 0 ∧ fld n 15 5 = 0 then some (.bxPreq (runEnd n) (bits n 20 1) (bits n 0 15))
    else if fld n 21 3 = 1 then some (.bxD (runEnd n) (bits n 20 1) (bits n 17 3) (bits n 15 2) (bits n 0 15))
    else none := by
  unfold decodeScalar; rw [ho]; rfl

theorem scalar18 {n : Nat} (ho : fld n 24 6 = 18) : decodeScalar n =
    if fld n 20 4 = 0 then some (.call (runEnd n) (bits n 0 20))
    else none := by
  unfold decodeScalar; rw [ho]; rfl

theorem scalar19 {n : Nat} (ho : fld n 24 6 = 19) : decodeScalar n =
    if fld n 18 6 = 0 ∧ fld n 0 12 = 0 then some (.jr (runEnd n) (bits n 12 6))
    else none := by
  unfold decodeScalar; rw [ho]; rfl

theorem scalar20 {n : Nat} (ho : fld n 24 6 = 20) : decodeScalar n =
    if fld n 0 24 = 0 then some (.couple (runEnd n))
    else none := by
  unfold decodeScalar; rw [ho]; rfl

theorem scalar21 {n : Nat} (ho : fld n 24 6 = 21) : decodeScalar n =
    if fld n 0 24 = 0 then some (.exit (runEnd n))
    else none := by
  unfold decodeScalar; rw [ho]; rfl

theorem scalar22 {n : Nat} (ho : fld n 24 6 = 22) : decodeScalar n =
    some (.wait (runEnd n) (bits n 18 6) (bits n 12 6) (bits n 6 6) (bits n 0 6)) := by
  unfold decodeScalar; rw [ho]; rfl

theorem scalar23 {n : Nat} (ho : fld n 24 6 = 23) : decodeScalar n =
    if fld n 18 6 = 0 ∧ fld n 2 10 = 0 then some (.waitr (runEnd n) (bits n 12 6) (bits n 0 2))
    else none := by
  unfold decodeScalar; rw [ho]; rfl

theorem scalar24 {n : Nat} (ho : fld n 24 6 = 24) : decodeScalar n =
    if fld n 5 19 = 0 then some (.fence (runEnd n) (bits n 2 3) (bits n 0 2))
    else none := by
  unfold decodeScalar; rw [ho]; rfl

theorem scalar25 {n : Nat} (ho : fld n 24 6 = 25) : decodeScalar n =
    if fld n 23 1 = 0 ∧ fld n 0 20 = 0 then some (.xbeginNoTarget (runEnd n) (bits n 20 3))
    else if fld n 23 1 = 1 then some (.xbegin (runEnd n) (bits n 20 3) (bits n 0 20))
    else none := by
  unfold decodeScalar; rw [ho]; rfl

theorem scalar26 {n : Nat} (ho : fld n 24 6 = 26) : decodeScalar n =
    if fld n 20 4 = 0 then some (.xelse (runEnd n) (bits n 0 20))
    else none := by
  unfold decodeScalar; rw [ho]; rfl

theorem scalar27 {n : Nat} (ho : fld n 24 6 = 27) : decodeScalar n =
    if fld n 0 24 = 0 then some (.xend (runEnd n))
    else none := by
  unfold decodeScalar; rw [ho]; rfl

theorem scalar28 {n : Nat} (ho : fld n 24 6 = 28) : decodeScalar n =
    if fld n 0 24 = 0 then some (.xretry (runEnd n))
    else none := by
  unfold decodeScalar; rw [ho]; rfl

theorem scalar29 {n : Nat} (ho : fld n 24 6 = 29) : decodeScalar n =
    if fld n 8 16 = 0 then some (.xabort (runEnd n) (bits n 0 8))
    else none := by
  unfold decodeScalar; rw [ho]; rfl

theorem scalar30 {n : Nat} (ho : fld n 24 6 = 30) : decodeScalar n =
    if fld n 0 18 = 0 then some (.xstat (runEnd n) (bits n 18 6))
    else none := by
  unfold decodeScalar; rw [ho]; rfl

theorem scalar31 {n : Nat} (ho : fld n 24 6 = 31) : decodeScalar n =
    if fld n 18 6 = 0 ∧ fld n 0 6 = 0 then some (.barInit (runEnd n) (bits n 12 6) (bits n 6 6))
    else if fld n 12 6 = 0 ∧ fld n 0 6 = 1 then some (.barArrive (runEnd n) (bits n 18 6) (bits n 6 6))
    else if fld n 18 6 = 0 ∧ fld n 0 6 = 2 then some (.barWait (runEnd n) (bits n 12 6) (bits n 6 6))
    else if fld n 12 6 = 0 ∧ fld n 0 6 = 3 then some (.barSync (runEnd n) (bits n 18 6) (bits n 6 6))
    else if fld n 12 6 = 0 ∧ fld n 0 6 = 4 then some (.barRead (runEnd n) (bits n 18 6) (bits n 6 6))
    else none := by
  unfold decodeScalar; rw [ho]; rfl

theorem scalar32 {n : Nat} (ho : fld n 24 6 = 32) : decodeScalar n =
    if fld n 12 12 = 0 ∧ fld n 0 6 = 4 then some (.bufRel (runEnd n) (bits n 6 6))
    else if fld n 18 6 = 0 ∧ fld n 0 6 = 0 then some (.bufArm (runEnd n) (bits n 12 6) (bits n 6 6))
    else if fld n 18 6 = 0 ∧ fld n 0 6 = 1 then some (.bufArrive (runEnd n) (bits n 12 6) (bits n 6 6))
    else if fld n 18 6 = 0 ∧ fld n 0 6 = 3 then some (.bufWait (runEnd n) (bits n 12 6) (bits n 6 6))
    else if fld n 18 6 = 0 ∧ fld n 0 6 = 5 then some (.bufRgn (runEnd n) (bits n 12 6) (bits n 6 6))
    else if fld n 12 6 = 0 ∧ fld n 0 6 = 6 then some (.bufStat (runEnd n) (bits n 18 6) (bits n 6 6))
    else if fld n 12 6 = 0 ∧ fld n 0 6 = 7 then some (.bufCount (runEnd n) (bits n 18 6) (bits n 6 6))
    else if fld n 0 6 = 2 then some (.bufArriveCl (runEnd n) (bits n 18 6) (bits n 12 6) (bits n 6 6))
    else none := by
  unfold decodeScalar; rw [ho]; rfl

theorem scalar33 {n : Nat} (ho : fld n 24 6 = 33) : decodeScalar n =
    if fld n 0 12 = 0 then some (.cpy (runEnd n) (bits n 18 6) (bits n 12 6))
    else none := by
  unfold decodeScalar; rw [ho]; rfl

theorem scalar34 {n : Nat} (ho : fld n 24 6 = 34) : decodeScalar n =
    if fld n 12 12 = 0 ∧ fld n 0 6 = 2 then some (.tidInv (runEnd n) (bits n 6 6))
    else if fld n 15 3 = 0 ∧ fld n 0 6 = 1 then some (.tidRd (runEnd n) (bits n 18 6) (bits n 12 3) (bits n 6 6))
    else if fld n 0 6 = 0 then some (.tidSet (runEnd n) (bits n 18 6) (bits n 12 6) (bits n 6 6))
    else none := by
  unfold decodeScalar; rw [ho]; rfl

theorem scalar35 {n : Nat} (ho : fld n 24 6 = 35) : decodeScalar n =
    if fld n 0 18 = 2 then some (.strUnbind (runEnd n) (bits n 18 6))
    else if fld n 12 6 = 0 ∧ fld n 0 6 = 0 then some (.strBind (runEnd n) (bits n 18 6) (bits n 6 6))
    else if fld n 12 6 = 0 ∧ fld n 0 6 = 1 then some (.strBindE (runEnd n) (bits n 18 6) (bits n 6 6))
    else if fld n 0 12 = 3 then some (.strPeek (runEnd n) (bits n 18 6) (bits n 12 6))
    else if fld n 0 12 = 4 then some (.strSeek (runEnd n) (bits n 18 6) (bits n 12 6))
    else none := by
  unfold decodeScalar; rw [ho]; rfl

theorem scalar36 {n : Nat} (ho : fld n 24 6 = 36) : decodeScalar n =
    if fld n 0 18 = 5 then some (.resUse (runEnd n) (bits n 18 6))
    else if fld n 0 12 = 1 then some (.resPin (runEnd n) (bits n 18 6) (bits n 12 6))
    else if fld n 0 12 = 2 then some (.resUnpin (runEnd n) (bits n 18 6) (bits n 12 6))
    else if fld n 0 12 = 3 then some (.resRevoke (runEnd n) (bits n 18 6) (bits n 12 6))
    else if fld n 0 12 = 4 then some (.resStat (runEnd n) (bits n 18 6) (bits n 12 6))
    else if fld n 0 6 = 0 then some (.resLoad (runEnd n) (bits n 18 6) (bits n 12 6) (bits n 6 6))
    else none := by
  unfold decodeScalar; rw [ho]; rfl

theorem scalar37 {n : Nat} (ho : fld n 24 6 = 37) : decodeScalar n =
    if fld n 18 6 = 0 ∧ fld n 0 12 = 1 then some (.accFree (runEnd n) (bits n 12 6))
    else if fld n 18 6 = 0 ∧ fld n 0 12 = 2 then some (.accZero (runEnd n) (bits n 12 6))
    else if fld n 0 12 = 0 then some (.accAlloc (runEnd n) (bits n 18 6) (bits n 12 6))
    else none := by
  unfold decodeScalar; rw [ho]; rfl

theorem scalar38 {n : Nat} (ho : fld n 24 6 = 38) : decodeScalar n =
    if fld n 0 12 = 0 then some (.collPost (runEnd n) (bits n 18 6) (bits n 12 6))
    else if fld n 0 12 = 1 then some (.collCancel (runEnd n) (bits n 18 6) (bits n 12 6))
    else if fld n 0 12 = 2 then some (.collStat (runEnd n) (bits n 18 6) (bits n 12 6))
    else none := by
  unfold decodeScalar; rw [ho]; rfl

theorem scalar39 {n : Nat} (ho : fld n 24 6 = 39) : decodeScalar n =
    if fld n 0 24 = 0 then some (.trig (runEnd n))
    else none := by
  unfold decodeScalar; rw [ho]; rfl

theorem scalar41 {n : Nat} (ho : fld n 24 6 = 41) : decodeScalar n =
    some (.ldsB32 (runEnd n) (bits n 18 6) (bits n 12 6) (bits n 0 12)) := by
  unfold decodeScalar; rw [ho]; rfl

theorem scalar42 {n : Nat} (ho : fld n 24 6 = 42) : decodeScalar n =
    some (.ldsB64 (runEnd n) (bits n 18 6) (bits n 12 6) (bits n 0 12)) := by
  unfold decodeScalar; rw [ho]; rfl

theorem scalar43 {n : Nat} (ho : fld n 24 6 = 43) : decodeScalar n =
    some (.stsB32 (runEnd n) (bits n 18 6) (bits n 12 6) (bits n 0 12)) := by
  unfold decodeScalar; rw [ho]; rfl

theorem scalar44 {n : Nat} (ho : fld n 24 6 = 44) : decodeScalar n =
    some (.stsB64 (runEnd n) (bits n 18 6) (bits n 12 6) (bits n 0 12)) := by
  unfold decodeScalar; rw [ho]; rfl

theorem scalar45 {n : Nat} (ho : fld n 24 6 = 45) : decodeScalar n =
    some (.satom (runEnd n) (bits n 18 6) (bits n 12 6) (bits n 6 6) (bits n 3 3) (bits n 0 3)) := by
  unfold decodeScalar; rw [ho]; rfl

theorem scalar46 {n : Nat} (ho : fld n 24 6 = 46) : decodeScalar n =
    if fld n 12 6 = 0 then some (.sysrd (runEnd n) (bits n 18 6) (bits n 0 12))
    else none := by
  unfold decodeScalar; rw [ho]; rfl

theorem scalar47 {n : Nat} (ho : fld n 24 6 = 47) : decodeScalar n =
    if fld n 18 6 = 0 then some (.syswr (runEnd n) (bits n 12 6) (bits n 0 12))
    else none := by
  unfold decodeScalar; rw [ho]; rfl

theorem scalar48 {n : Nat} (ho : fld n 24 6 = 48) : decodeScalar n =
    if fld n 18 6 = 0 then some (.trap (runEnd n) (bits n 0 18))
    else none := by
  unfold decodeScalar; rw [ho]; rfl

theorem scalar49 {n : Nat} (ho : fld n 24 6 = 49) : decodeScalar n =
    if fld n 16 8 = 0 then some (.brk (runEnd n) (bits n 0 16))
    else none := by
  unfold decodeScalar; rw [ho]; rfl

theorem scalar50 {n : Nat} (ho : fld n 24 6 = 50) : decodeScalar n =
    if fld n 0 24 = 0 then some (.rte (runEnd n))
    else none := by
  unfold decodeScalar; rw [ho]; rfl

theorem scalar51 {n : Nat} (ho : fld n 24 6 = 51) : decodeScalar n =
    if fld n 0 24 = 0 then some (.yield (runEnd n))
    else none := by
  unfold decodeScalar; rw [ho]; rfl

theorem RoundTrip.fadd e k d a b : RoundTrip.Statement (.fadd e k d a b) := by
  generalize hN : 0x01000000 + ende e + k.toNat * 2097152 + d.toNat * 16384 + a.toNat * 128 + b.toNat = u
  obtain ⟨hn, hs, ho, he, h0, h1, h2, h3⟩ := layout1 1 _ (by decide) rfl e k d a b u hN.symm
  refine ofRaw (congrArg some hN) hn (decodeRaw_lane hs ?_)
  rw [lane1 ho, he, h0, h1, h2, h3]

theorem RoundTrip.fsub e k d a b : RoundTrip.Statement (.fsub e k d a b) := by
  generalize hN : 0x02000000 + ende e + k.toNat * 2097152 + d.toNat * 16384 + a.toNat * 128 + b.toNat = u
  obtain ⟨hn, hs, ho, he, h0, h1, h2, h3⟩ := layout1 2 _ (by decide) rfl e k d a b u hN.symm
  refine ofRaw (congrArg some hN) hn (decodeRaw_lane hs ?_)
  rw [lane2 ho, he, h0, h1, h2, h3]

theorem RoundTrip.fmul e k d a b : RoundTrip.Statement (.fmul e k d a b) := by
  generalize hN : 0x03000000 + ende e + k.toNat * 2097152 + d.toNat * 16384 + a.toNat * 128 + b.toNat = u
  obtain ⟨hn, hs, ho, he, h0, h1, h2, h3⟩ := layout1 3 _ (by decide) rfl e k d a b u hN.symm
  refine ofRaw (congrArg some hN) hn (decodeRaw_lane hs ?_)
  rw [lane3 ho, he, h0, h1, h2, h3]

theorem RoundTrip.ffma e k d a b : RoundTrip.Statement (.ffma e k d a b) := by
  generalize hN : 0x04000000 + ende e + k.toNat * 2097152 + d.toNat * 16384 + a.toNat * 128 + b.toNat = u
  obtain ⟨hn, hs, ho, he, h0, h1, h2, h3⟩ := layout1 4 _ (by decide) rfl e k d a b u hN.symm
  refine ofRaw (congrArg some hN) hn (decodeRaw_lane hs ?_)
  rw [lane4 ho, he, h0, h1, h2, h3]

theorem RoundTrip.fmin e k d a b : RoundTrip.Statement (.fmin e k d a b) := by
  generalize hN : 0x05000000 + ende e + k.toNat * 2097152 + d.toNat * 16384 + a.toNat * 128 + b.toNat = u
  obtain ⟨hn, hs, ho, he, h0, h1, h2, h3⟩ := layout1 5 _ (by decide) rfl e k d a b u hN.symm
  refine ofRaw (congrArg some hN) hn (decodeRaw_lane hs ?_)
  rw [lane5 ho, he, h0, h1, h2, h3]

theorem RoundTrip.fmax e k d a b : RoundTrip.Statement (.fmax e k d a b) := by
  generalize hN : 0x06000000 + ende e + k.toNat * 2097152 + d.toNat * 16384 + a.toNat * 128 + b.toNat = u
  obtain ⟨hn, hs, ho, he, h0, h1, h2, h3⟩ := layout1 6 _ (by decide) rfl e k d a b u hN.symm
  refine ofRaw (congrArg some hN) hn (decodeRaw_lane hs ?_)
  rw [lane6 ho, he, h0, h1, h2, h3]

theorem RoundTrip.fcmp e k m c a b : RoundTrip.Statement (.fcmp e k m c a b) := by
  generalize hN : 0x07000000 + ende e + k.toNat * 2097152 + m.toNat * 262144 + c.toNat * 16384 + a.toNat * 128 + b.toNat = u
  obtain ⟨hn, hs, ho, he, h0, h1, h2, h3, h4⟩ := layout2 7 _ (by decide) rfl e k m c a b u hN.symm
  refine ofRaw (congrArg some hN) hn (decodeRaw_lane hs ?_)
  rw [lane7 ho, he, h0, h1, h2, h3, h4]

theorem RoundTrip.fneg e k d a : RoundTrip.Statement (.fneg e k d a) := by
  generalize hN : 0x08000000 + ende e + k.toNat * 2097152 + d.toNat * 16384 + a.toNat * 128 = u
  obtain ⟨hn, hs, ho, he, hr, h0, h1, h2⟩ := layout3 8 0 _ (by decide) (by decide) rfl e k d a u hN.symm
  refine ofRaw (congrArg some hN) hn (decodeRaw_lane hs ?_)
  rw [lane8 ho]
  simp [he, h0, h1, h2, hr]

theorem RoundTrip.fabs e k d a : RoundTrip.Statement (.fabs e k d a) := by
  generalize hN : 0x08000001 + ende e + k.toNat * 2097152 + d.toNat * 16384 + a.toNat * 128 = u
  obtain ⟨hn, hs, ho, he, hr, h0, h1, h2⟩ := layout3 8 1 _ (by decide) (by decide) rfl e k d a u hN.symm
  refine ofRaw (congrArg some hN) hn (decodeRaw_lane hs ?_)
  rw [lane8 ho]
  simp [he, h0, h1, h2, hr]

theorem RoundTrip.fsqrt e k d a : RoundTrip.Statement (.fsqrt e k d a) := by
  generalize hN : 0x08000002 + ende e + k.toNat * 2097152 + d.toNat * 16384 + a.toNat * 128 = u
  obtain ⟨hn, hs, ho, he, hr, h0, h1, h2⟩ := layout3 8 2 _ (by decide) (by decide) rfl e k d a u hN.symm
  refine ofRaw (congrArg some hN) hn (decodeRaw_lane hs ?_)
  rw [lane8 ho]
  simp [he, h0, h1, h2, hr]

theorem RoundTrip.frcp e k d a : RoundTrip.Statement (.frcp e k d a) := by
  generalize hN : 0x08000003 + ende e + k.toNat * 2097152 + d.toNat * 16384 + a.toNat * 128 = u
  obtain ⟨hn, hs, ho, he, hr, h0, h1, h2⟩ := layout3 8 3 _ (by decide) (by decide) rfl e k d a u hN.symm
  refine ofRaw (congrArg some hN) hn (decodeRaw_lane hs ?_)
  rw [lane8 ho]
  simp [he, h0, h1, h2, hr]

theorem RoundTrip.frsqrt e k d a : RoundTrip.Statement (.frsqrt e k d a) := by
  generalize hN : 0x08000004 + ende e + k.toNat * 2097152 + d.toNat * 16384 + a.toNat * 128 = u
  obtain ⟨hn, hs, ho, he, hr, h0, h1, h2⟩ := layout3 8 4 _ (by decide) (by decide) rfl e k d a u hN.symm
  refine ofRaw (congrArg some hN) hn (decodeRaw_lane hs ?_)
  rw [lane8 ho]
  simp [he, h0, h1, h2, hr]

theorem RoundTrip.fexp2 e k d a : RoundTrip.Statement (.fexp2 e k d a) := by
  generalize hN : 0x08000005 + ende e + k.toNat * 2097152 + d.toNat * 16384 + a.toNat * 128 = u
  obtain ⟨hn, hs, ho, he, hr, h0, h1, h2⟩ := layout3 8 5 _ (by decide) (by decide) rfl e k d a u hN.symm
  refine ofRaw (congrArg some hN) hn (decodeRaw_lane hs ?_)
  rw [lane8 ho]
  simp [he, h0, h1, h2, hr]

theorem RoundTrip.flog2 e k d a : RoundTrip.Statement (.flog2 e k d a) := by
  generalize hN : 0x08000006 + ende e + k.toNat * 2097152 + d.toNat * 16384 + a.toNat * 128 = u
  obtain ⟨hn, hs, ho, he, hr, h0, h1, h2⟩ := layout3 8 6 _ (by decide) (by decide) rfl e k d a u hN.symm
  refine ofRaw (congrArg some hN) hn (decodeRaw_lane hs ?_)
  rw [lane8 ho]
  simp [he, h0, h1, h2, hr]

theorem RoundTrip.fsin e k d a : RoundTrip.Statement (.fsin e k d a) := by
  generalize hN : 0x08000007 + ende e + k.toNat * 2097152 + d.toNat * 16384 + a.toNat * 128 = u
  obtain ⟨hn, hs, ho, he, hr, h0, h1, h2⟩ := layout3 8 7 _ (by decide) (by decide) rfl e k d a u hN.symm
  refine ofRaw (congrArg some hN) hn (decodeRaw_lane hs ?_)
  rw [lane8 ho]
  simp [he, h0, h1, h2, hr]

theorem RoundTrip.fcos e k d a : RoundTrip.Statement (.fcos e k d a) := by
  generalize hN : 0x08000008 + ende e + k.toNat * 2097152 + d.toNat * 16384 + a.toNat * 128 = u
  obtain ⟨hn, hs, ho, he, hr, h0, h1, h2⟩ := layout3 8 8 _ (by decide) (by decide) rfl e k d a u hN.symm
  refine ofRaw (congrArg some hN) hn (decodeRaw_lane hs ?_)
  rw [lane8 ho]
  simp [he, h0, h1, h2, hr]

theorem RoundTrip.frint e k d a : RoundTrip.Statement (.frint e k d a) := by
  generalize hN : 0x08000009 + ende e + k.toNat * 2097152 + d.toNat * 16384 + a.toNat * 128 = u
  obtain ⟨hn, hs, ho, he, hr, h0, h1, h2⟩ := layout3 8 9 _ (by decide) (by decide) rfl e k d a u hN.symm
  refine ofRaw (congrArg some hN) hn (decodeRaw_lane hs ?_)
  rw [lane8 ho]
  simp [he, h0, h1, h2, hr]

theorem RoundTrip.ffloor e k d a : RoundTrip.Statement (.ffloor e k d a) := by
  generalize hN : 0x0800000A + ende e + k.toNat * 2097152 + d.toNat * 16384 + a.toNat * 128 = u
  obtain ⟨hn, hs, ho, he, hr, h0, h1, h2⟩ := layout3 8 10 _ (by decide) (by decide) rfl e k d a u hN.symm
  refine ofRaw (congrArg some hN) hn (decodeRaw_lane hs ?_)
  rw [lane8 ho]
  simp [he, h0, h1, h2, hr]

theorem RoundTrip.fceil e k d a : RoundTrip.Statement (.fceil e k d a) := by
  generalize hN : 0x0800000B + ende e + k.toNat * 2097152 + d.toNat * 16384 + a.toNat * 128 = u
  obtain ⟨hn, hs, ho, he, hr, h0, h1, h2⟩ := layout3 8 11 _ (by decide) (by decide) rfl e k d a u hN.symm
  refine ofRaw (congrArg some hN) hn (decodeRaw_lane hs ?_)
  rw [lane8 ho]
  simp [he, h0, h1, h2, hr]

theorem RoundTrip.ftrunc e k d a : RoundTrip.Statement (.ftrunc e k d a) := by
  generalize hN : 0x0800000C + ende e + k.toNat * 2097152 + d.toNat * 16384 + a.toNat * 128 = u
  obtain ⟨hn, hs, ho, he, hr, h0, h1, h2⟩ := layout3 8 12 _ (by decide) (by decide) rfl e k d a u hN.symm
  refine ofRaw (congrArg some hN) hn (decodeRaw_lane hs ?_)
  rw [lane8 ho]
  simp [he, h0, h1, h2, hr]

theorem RoundTrip.fclass e k d a : RoundTrip.Statement (.fclass e k d a) := by
  generalize hN : 0x0800000D + ende e + k.toNat * 2097152 + d.toNat * 16384 + a.toNat * 128 = u
  obtain ⟨hn, hs, ho, he, hr, h0, h1, h2⟩ := layout3 8 13 _ (by decide) (by decide) rfl e k d a u hN.symm
  refine ofRaw (congrArg some hN) hn (decodeRaw_lane hs ?_)
  rw [lane8 ho]
  simp [he, h0, h1, h2, hr]

theorem RoundTrip.sel e k d a b : RoundTrip.Statement (.sel e k d a b) := by
  generalize hN : 0x09000000 + ende e + k.toNat * 2097152 + d.toNat * 16384 + a.toNat * 128 + b.toNat = u
  obtain ⟨hn, hs, ho, he, h0, h1, h2, h3⟩ := layout1 9 _ (by decide) rfl e k d a b u hN.symm
  refine ofRaw (congrArg some hN) hn (decodeRaw_lane hs ?_)
  rw [lane9 ho, he, h0, h1, h2, h3]

theorem RoundTrip.hfma2 e k d a b : RoundTrip.Statement (.hfma2 e k d a b) := by
  generalize hN : 0x0A000000 + ende e + k.toNat * 2097152 + d.toNat * 16384 + a.toNat * 128 + b.toNat = u
  obtain ⟨hn, hs, ho, he, h0, h1, h2, h3⟩ := layout1 10 _ (by decide) rfl e k d a b u hN.symm
  refine ofRaw (congrArg some hN) hn (decodeRaw_lane hs ?_)
  rw [lane10 ho, he, h0, h1, h2, h3]

theorem RoundTrip.bfma2 e k d a b : RoundTrip.Statement (.bfma2 e k d a b) := by
  generalize hN : 0x0B000000 + ende e + k.toNat * 2097152 + d.toNat * 16384 + a.toNat * 128 + b.toNat = u
  obtain ⟨hn, hs, ho, he, h0, h1, h2, h3⟩ := layout1 11 _ (by decide) rfl e k d a b u hN.symm
  refine ofRaw (congrArg some hN) hn (decodeRaw_lane hs ?_)
  rw [lane11 ho, he, h0, h1, h2, h3]

theorem RoundTrip.ldAcq e k d a z s : RoundTrip.Statement (.ldAcq e k d a z s) := by
  generalize hN : 0x0C000000 + ende e + k.toNat * 2097152 + d.toNat * 16384 + a.toNat * 128 + z.toNat * 8 + s.toNat = u
  obtain ⟨hn, hs, ho, he, hr, h0, h1, h2, h3, h4⟩ := layout4 12 0 _ (by decide) (by decide) rfl e k d a z s u hN.symm
  refine ofRaw (congrArg some hN) hn (decodeRaw_lane hs ?_)
  rw [lane12 ho]
  simp [he, h0, h1, h2, h3, h4, hr]

theorem RoundTrip.stRel e k d a z s : RoundTrip.Statement (.stRel e k d a z s) := by
  generalize hN : 0x0D000000 + ende e + k.toNat * 2097152 + d.toNat * 16384 + a.toNat * 128 + z.toNat * 8 + s.toNat = u
  obtain ⟨hn, hs, ho, he, hr, h0, h1, h2, h3, h4⟩ := layout4 13 0 _ (by decide) (by decide) rfl e k d a z s u hN.symm
  refine ofRaw (congrArg some hN) hn (decodeRaw_lane hs ?_)
  rw [lane13 ho]
  simp [he, h0, h1, h2, h3, h4, hr]

theorem RoundTrip.pfx e k a b l : RoundTrip.Statement (.pfx e k a b l) := by
  generalize hN : 0x0E000000 + ende e + k.toNat * 2097152 + a.toNat * 128 + b.toNat * 8 + l.toNat = u
  obtain ⟨hn, hs, ho, he, hr, h0, h1, h2, h3⟩ := layout5 14 0 _ (by decide) (by decide) rfl e k a b l u hN.symm
  refine ofRaw (congrArg some hN) hn (decodeRaw_lane hs ?_)
  rw [lane14 ho]
  simp [he, h0, h1, h2, h3, hr]

theorem RoundTrip.iadd e k d a b : RoundTrip.Statement (.iadd e k d a b) := by
  generalize hN : 0x10000000 + ende e + k.toNat * 2097152 + d.toNat * 16384 + a.toNat * 128 + b.toNat = u
  obtain ⟨hn, hs, ho, he, h0, h1, h2, h3⟩ := layout1 16 _ (by decide) rfl e k d a b u hN.symm
  refine ofRaw (congrArg some hN) hn (decodeRaw_lane hs ?_)
  rw [lane16 ho, he, h0, h1, h2, h3]

theorem RoundTrip.isub e k d a b : RoundTrip.Statement (.isub e k d a b) := by
  generalize hN : 0x11000000 + ende e + k.toNat * 2097152 + d.toNat * 16384 + a.toNat * 128 + b.toNat = u
  obtain ⟨hn, hs, ho, he, h0, h1, h2, h3⟩ := layout1 17 _ (by decide) rfl e k d a b u hN.symm
  refine ofRaw (congrArg some hN) hn (decodeRaw_lane hs ?_)
  rw [lane17 ho, he, h0, h1, h2, h3]

theorem RoundTrip.imul e k d a b : RoundTrip.Statement (.imul e k d a b) := by
  generalize hN : 0x12000000 + ende e + k.toNat * 2097152 + d.toNat * 16384 + a.toNat * 128 + b.toNat = u
  obtain ⟨hn, hs, ho, he, h0, h1, h2, h3⟩ := layout1 18 _ (by decide) rfl e k d a b u hN.symm
  refine ofRaw (congrArg some hN) hn (decodeRaw_lane hs ?_)
  rw [lane18 ho, he, h0, h1, h2, h3]

theorem RoundTrip.imulh e k d a b : RoundTrip.Statement (.imulh e k d a b) := by
  generalize hN : 0x13000000 + ende e + k.toNat * 2097152 + d.toNat * 16384 + a.toNat * 128 + b.toNat = u
  obtain ⟨hn, hs, ho, he, h0, h1, h2, h3⟩ := layout1 19 _ (by decide) rfl e k d a b u hN.symm
  refine ofRaw (congrArg some hN) hn (decodeRaw_lane hs ?_)
  rw [lane19 ho, he, h0, h1, h2, h3]

theorem RoundTrip.umulh e k d a b : RoundTrip.Statement (.umulh e k d a b) := by
  generalize hN : 0x14000000 + ende e + k.toNat * 2097152 + d.toNat * 16384 + a.toNat * 128 + b.toNat = u
  obtain ⟨hn, hs, ho, he, h0, h1, h2, h3⟩ := layout1 20 _ (by decide) rfl e k d a b u hN.symm
  refine ofRaw (congrArg some hN) hn (decodeRaw_lane hs ?_)
  rw [lane20 ho, he, h0, h1, h2, h3]

theorem RoundTrip.imad e k d a b : RoundTrip.Statement (.imad e k d a b) := by
  generalize hN : 0x15000000 + ende e + k.toNat * 2097152 + d.toNat * 16384 + a.toNat * 128 + b.toNat = u
  obtain ⟨hn, hs, ho, he, h0, h1, h2, h3⟩ := layout1 21 _ (by decide) rfl e k d a b u hN.symm
  refine ofRaw (congrArg some hN) hn (decodeRaw_lane hs ?_)
  rw [lane21 ho, he, h0, h1, h2, h3]

theorem RoundTrip.andLane e k d a b : RoundTrip.Statement (.andLane e k d a b) := by
  generalize hN : 0x16000000 + ende e + k.toNat * 2097152 + d.toNat * 16384 + a.toNat * 128 + b.toNat = u
  obtain ⟨hn, hs, ho, he, h0, h1, h2, h3⟩ := layout1 22 _ (by decide) rfl e k d a b u hN.symm
  refine ofRaw (congrArg some hN) hn (decodeRaw_lane hs ?_)
  rw [lane22 ho, he, h0, h1, h2, h3]

theorem RoundTrip.orLane e k d a b : RoundTrip.Statement (.orLane e k d a b) := by
  generalize hN : 0x17000000 + ende e + k.toNat * 2097152 + d.toNat * 16384 + a.toNat * 128 + b.toNat = u
  obtain ⟨hn, hs, ho, he, h0, h1, h2, h3⟩ := layout1 23 _ (by decide) rfl e k d a b u hN.symm
  refine ofRaw (congrArg some hN) hn (decodeRaw_lane hs ?_)
  rw [lane23 ho, he, h0, h1, h2, h3]

theorem RoundTrip.xorLane e k d a b : RoundTrip.Statement (.xorLane e k d a b) := by
  generalize hN : 0x18000000 + ende e + k.toNat * 2097152 + d.toNat * 16384 + a.toNat * 128 + b.toNat = u
  obtain ⟨hn, hs, ho, he, h0, h1, h2, h3⟩ := layout1 24 _ (by decide) rfl e k d a b u hN.symm
  refine ofRaw (congrArg some hN) hn (decodeRaw_lane hs ?_)
  rw [lane24 ho, he, h0, h1, h2, h3]

theorem RoundTrip.shlLane e k d a b : RoundTrip.Statement (.shlLane e k d a b) := by
  generalize hN : 0x19000000 + ende e + k.toNat * 2097152 + d.toNat * 16384 + a.toNat * 128 + b.toNat = u
  obtain ⟨hn, hs, ho, he, h0, h1, h2, h3⟩ := layout1 25 _ (by decide) rfl e k d a b u hN.symm
  refine ofRaw (congrArg some hN) hn (decodeRaw_lane hs ?_)
  rw [lane25 ho, he, h0, h1, h2, h3]

theorem RoundTrip.shrLane e k d a b : RoundTrip.Statement (.shrLane e k d a b) := by
  generalize hN : 0x1A000000 + ende e + k.toNat * 2097152 + d.toNat * 16384 + a.toNat * 128 + b.toNat = u
  obtain ⟨hn, hs, ho, he, h0, h1, h2, h3⟩ := layout1 26 _ (by decide) rfl e k d a b u hN.symm
  refine ofRaw (congrArg some hN) hn (decodeRaw_lane hs ?_)
  rw [lane26 ho, he, h0, h1, h2, h3]

theorem RoundTrip.sraLane e k d a b : RoundTrip.Statement (.sraLane e k d a b) := by
  generalize hN : 0x1B000000 + ende e + k.toNat * 2097152 + d.toNat * 16384 + a.toNat * 128 + b.toNat = u
  obtain ⟨hn, hs, ho, he, h0, h1, h2, h3⟩ := layout1 27 _ (by decide) rfl e k d a b u hN.symm
  refine ofRaw (congrArg some hN) hn (decodeRaw_lane hs ?_)
  rw [lane27 ho, he, h0, h1, h2, h3]

theorem RoundTrip.imin e k d a b : RoundTrip.Statement (.imin e k d a b) := by
  generalize hN : 0x1C000000 + ende e + k.toNat * 2097152 + d.toNat * 16384 + a.toNat * 128 + b.toNat = u
  obtain ⟨hn, hs, ho, he, h0, h1, h2, h3⟩ := layout1 28 _ (by decide) rfl e k d a b u hN.symm
  refine ofRaw (congrArg some hN) hn (decodeRaw_lane hs ?_)
  rw [lane28 ho, he, h0, h1, h2, h3]

theorem RoundTrip.imax e k d a b : RoundTrip.Statement (.imax e k d a b) := by
  generalize hN : 0x1D000000 + ende e + k.toNat * 2097152 + d.toNat * 16384 + a.toNat * 128 + b.toNat = u
  obtain ⟨hn, hs, ho, he, h0, h1, h2, h3⟩ := layout1 29 _ (by decide) rfl e k d a b u hN.symm
  refine ofRaw (congrArg some hN) hn (decodeRaw_lane hs ?_)
  rw [lane29 ho, he, h0, h1, h2, h3]

theorem RoundTrip.umin e k d a b : RoundTrip.Statement (.umin e k d a b) := by
  generalize hN : 0x1E000000 + ende e + k.toNat * 2097152 + d.toNat * 16384 + a.toNat * 128 + b.toNat = u
  obtain ⟨hn, hs, ho, he, h0, h1, h2, h3⟩ := layout1 30 _ (by decide) rfl e k d a b u hN.symm
  refine ofRaw (congrArg some hN) hn (decodeRaw_lane hs ?_)
  rw [lane30 ho, he, h0, h1, h2, h3]

theorem RoundTrip.umax e k d a b : RoundTrip.Statement (.umax e k d a b) := by
  generalize hN : 0x1F000000 + ende e + k.toNat * 2097152 + d.toNat * 16384 + a.toNat * 128 + b.toNat = u
  obtain ⟨hn, hs, ho, he, h0, h1, h2, h3⟩ := layout1 31 _ (by decide) rfl e k d a b u hN.symm
  refine ofRaw (congrArg some hN) hn (decodeRaw_lane hs ?_)
  rw [lane31 ho, he, h0, h1, h2, h3]

theorem RoundTrip.icmp e k m c a b : RoundTrip.Statement (.icmp e k m c a b) := by
  generalize hN : 0x20000000 + ende e + k.toNat * 2097152 + m.toNat * 262144 + c.toNat * 16384 + a.toNat * 128 + b.toNat = u
  obtain ⟨hn, hs, ho, he, h0, h1, h2, h3, h4⟩ := layout2 32 _ (by decide) rfl e k m c a b u hN.symm
  refine ofRaw (congrArg some hN) hn (decodeRaw_lane hs ?_)
  rw [lane32 ho, he, h0, h1, h2, h3, h4]

theorem RoundTrip.ineg e k d a : RoundTrip.Statement (.ineg e k d a) := by
  generalize hN : 0x21000000 + ende e + k.toNat * 2097152 + d.toNat * 16384 + a.toNat * 128 = u
  obtain ⟨hn, hs, ho, he, hr, h0, h1, h2⟩ := layout3 33 0 _ (by decide) (by decide) rfl e k d a u hN.symm
  have q0_14_12 : ¬ (fld u 0 14 = 12) := by unfold fld at *; omega
  refine ofRaw (congrArg some hN) hn (decodeRaw_lane hs ?_)
  rw [lane33 ho]
  simp [he, h0, h1, h2, hr, q0_14_12]

theorem RoundTrip.iabs e k d a : RoundTrip.Statement (.iabs e k d a) := by
  generalize hN : 0x21000001 + ende e + k.toNat * 2097152 + d.toNat * 16384 + a.toNat * 128 = u
  obtain ⟨hn, hs, ho, he, hr, h0, h1, h2⟩ := layout3 33 1 _ (by decide) (by decide) rfl e k d a u hN.symm
  have q0_14_12 : ¬ (fld u 0 14 = 12) := by unfold fld at *; omega
  refine ofRaw (congrArg some hN) hn (decodeRaw_lane hs ?_)
  rw [lane33 ho]
  simp [he, h0, h1, h2, hr, q0_14_12]

theorem RoundTrip.notLane e k d a : RoundTrip.Statement (.notLane e k d a) := by
  generalize hN : 0x21000002 + ende e + k.toNat * 2097152 + d.toNat * 16384 + a.toNat * 128 = u
  obtain ⟨hn, hs, ho, he, hr, h0, h1, h2⟩ := layout3 33 2 _ (by decide) (by decide) rfl e k d a u hN.symm
  have q0_14_12 : ¬ (fld u 0 14 = 12) := by unfold fld at *; omega
  refine ofRaw (congrArg some hN) hn (decodeRaw_lane hs ?_)
  rw [lane33 ho]
  simp [he, h0, h1, h2, hr, q0_14_12]

theorem RoundTrip.popcLane e k d a : RoundTrip.Statement (.popcLane e k d a) := by
  generalize hN : 0x21000003 + ende e + k.toNat * 2097152 + d.toNat * 16384 + a.toNat * 128 = u
  obtain ⟨hn, hs, ho, he, hr, h0, h1, h2⟩ := layout3 33 3 _ (by decide) (by decide) rfl e k d a u hN.symm
  have q0_14_12 : ¬ (fld u 0 14 = 12) := by unfold fld at *; omega
  refine ofRaw (congrArg some hN) hn (decodeRaw_lane hs ?_)
  rw [lane33 ho]
  simp [he, h0, h1, h2, hr, q0_14_12]

theorem RoundTrip.clzLane e k d a : RoundTrip.Statement (.clzLane e k d a) := by
  generalize hN : 0x21000004 + ende e + k.toNat * 2097152 + d.toNat * 16384 + a.toNat * 128 = u
  obtain ⟨hn, hs, ho, he, hr, h0, h1, h2⟩ := layout3 33 4 _ (by decide) (by decide) rfl e k d a u hN.symm
  have q0_14_12 : ¬ (fld u 0 14 = 12) := by unfold fld at *; omega
  refine ofRaw (congrArg some hN) hn (decodeRaw_lane hs ?_)
  rw [lane33 ho]
  simp [he, h0, h1, h2, hr, q0_14_12]

theorem RoundTrip.ctzLane e k d a : RoundTrip.Statement (.ctzLane e k d a) := by
  generalize hN : 0x21000005 + ende e + k.toNat * 2097152 + d.toNat * 16384 + a.toNat * 128 = u
  obtain ⟨hn, hs, ho, he, hr, h0, h1, h2⟩ := layout3 33 5 _ (by decide) (by decide) rfl e k d a u hN.symm
  have q0_14_12 : ¬ (fld u 0 14 = 12) := by unfold fld at *; omega
  refine ofRaw (congrArg some hN) hn (decodeRaw_lane hs ?_)
  rw [lane33 ho]
  simp [he, h0, h1, h2, hr, q0_14_12]

theorem RoundTrip.brev e k d a : RoundTrip.Statement (.brev e k d a) := by
  generalize hN : 0x21000006 + ende e + k.toNat * 2097152 + d.toNat * 16384 + a.toNat * 128 = u
  obtain ⟨hn, hs, ho, he, hr, h0, h1, h2⟩ := layout3 33 6 _ (by decide) (by decide) rfl e k d a u hN.symm
  have q0_14_12 : ¬ (fld u 0 14 = 12) := by unfold fld at *; omega
  refine ofRaw (congrArg some hN) hn (decodeRaw_lane hs ?_)
  rw [lane33 ho]
  simp [he, h0, h1, h2, hr, q0_14_12]

theorem RoundTrip.bswap e k d a : RoundTrip.Statement (.bswap e k d a) := by
  generalize hN : 0x21000007 + ende e + k.toNat * 2097152 + d.toNat * 16384 + a.toNat * 128 = u
  obtain ⟨hn, hs, ho, he, hr, h0, h1, h2⟩ := layout3 33 7 _ (by decide) (by decide) rfl e k d a u hN.symm
  have q0_14_12 : ¬ (fld u 0 14 = 12) := by unfold fld at *; omega
  refine ofRaw (congrArg some hN) hn (decodeRaw_lane hs ?_)
  rw [lane33 ho]
  simp [he, h0, h1, h2, hr, q0_14_12]

theorem RoundTrip.sext8 e k d a : RoundTrip.Statement (.sext8 e k d a) := by
  generalize hN : 0x21000008 + ende e + k.toNat * 2097152 + d.toNat * 16384 + a.toNat * 128 = u
  obtain ⟨hn, hs, ho, he, hr, h0, h1, h2⟩ := layout3 33 8 _ (by decide) (by decide) rfl e k d a u hN.symm
  have q0_14_12 : ¬ (fld u 0 14 = 12) := by unfold fld at *; omega
  refine ofRaw (congrArg some hN) hn (decodeRaw_lane hs ?_)
  rw [lane33 ho]
  simp [he, h0, h1, h2, hr, q0_14_12]

theorem RoundTrip.sext16 e k d a : RoundTrip.Statement (.sext16 e k d a) := by
  generalize hN : 0x21000009 + ende e + k.toNat * 2097152 + d.toNat * 16384 + a.toNat * 128 = u
  obtain ⟨hn, hs, ho, he, hr, h0, h1, h2⟩ := layout3 33 9 _ (by decide) (by decide) rfl e k d a u hN.symm
  have q0_14_12 : ¬ (fld u 0 14 = 12) := by unfold fld at *; omega
  refine ofRaw (congrArg some hN) hn (decodeRaw_lane hs ?_)
  rw [lane33 ho]
  simp [he, h0, h1, h2, hr, q0_14_12]

theorem RoundTrip.zext8 e k d a : RoundTrip.Statement (.zext8 e k d a) := by
  generalize hN : 0x2100000A + ende e + k.toNat * 2097152 + d.toNat * 16384 + a.toNat * 128 = u
  obtain ⟨hn, hs, ho, he, hr, h0, h1, h2⟩ := layout3 33 10 _ (by decide) (by decide) rfl e k d a u hN.symm
  have q0_14_12 : ¬ (fld u 0 14 = 12) := by unfold fld at *; omega
  refine ofRaw (congrArg some hN) hn (decodeRaw_lane hs ?_)
  rw [lane33 ho]
  simp [he, h0, h1, h2, hr, q0_14_12]

theorem RoundTrip.zext16 e k d a : RoundTrip.Statement (.zext16 e k d a) := by
  generalize hN : 0x2100000B + ende e + k.toNat * 2097152 + d.toNat * 16384 + a.toNat * 128 = u
  obtain ⟨hn, hs, ho, he, hr, h0, h1, h2⟩ := layout3 33 11 _ (by decide) (by decide) rfl e k d a u hN.symm
  have q0_14_12 : ¬ (fld u 0 14 = 12) := by unfold fld at *; omega
  refine ofRaw (congrArg some hN) hn (decodeRaw_lane hs ?_)
  rw [lane33 ho]
  simp [he, h0, h1, h2, hr, q0_14_12]

theorem RoundTrip.laneid e k d : RoundTrip.Statement (.laneid e k d) := by
  generalize hN : 0x2100000C + ende e + k.toNat * 2097152 + d.toNat * 16384 = u
  obtain ⟨hn, hs, ho, he, hr, h0, h1⟩ := layout6 33 12 _ (by decide) (by decide) rfl e k d u hN.symm
  refine ofRaw (congrArg some hN) hn (decodeRaw_lane hs ?_)
  rw [lane33 ho]
  simp [he, h0, h1, hr]

theorem RoundTrip.bfx e k d a b : RoundTrip.Statement (.bfx e k d a b) := by
  generalize hN : 0x22000000 + ende e + k.toNat * 2097152 + d.toNat * 16384 + a.toNat * 128 + b.toNat = u
  obtain ⟨hn, hs, ho, he, h0, h1, h2, h3⟩ := layout1 34 _ (by decide) rfl e k d a b u hN.symm
  refine ofRaw (congrArg some hN) hn (decodeRaw_lane hs ?_)
  rw [lane34 ho, he, h0, h1, h2, h3]

theorem RoundTrip.bfi e k d a b : RoundTrip.Statement (.bfi e k d a b) := by
  generalize hN : 0x23000000 + ende e + k.toNat * 2097152 + d.toNat * 16384 + a.toNat * 128 + b.toNat = u
  obtain ⟨hn, hs, ho, he, h0, h1, h2, h3⟩ := layout1 35 _ (by decide) rfl e k d a b u hN.symm
  refine ofRaw (congrArg some hN) hn (decodeRaw_lane hs ?_)
  rw [lane35 ho, he, h0, h1, h2, h3]

theorem RoundTrip.iaddi e k d a i : RoundTrip.Statement (.iaddi e k d a i) := by
  generalize hN : 0x24000000 + ende e + k.toNat * 2097152 + d.toNat * 16384 + a.toNat * 128 + i.toNat = u
  obtain ⟨hn, hs, ho, he, h0, h1, h2, h3⟩ := layout1 36 _ (by decide) rfl e k d a i u hN.symm
  refine ofRaw (congrArg some hN) hn (decodeRaw_lane hs ?_)
  rw [lane36 ho, he, h0, h1, h2, h3]

theorem RoundTrip.imuli e k d a i : RoundTrip.Statement (.imuli e k d a i) := by
  generalize hN : 0x25000000 + ende e + k.toNat * 2097152 + d.toNat * 16384 + a.toNat * 128 + i.toNat = u
  obtain ⟨hn, hs, ho, he, h0, h1, h2, h3⟩ := layout1 37 _ (by decide) rfl e k d a i u hN.symm
  refine ofRaw (congrArg some hN) hn (decodeRaw_lane hs ?_)
  rw [lane37 ho, he, h0, h1, h2, h3]

theorem RoundTrip.andiLane e k d a i : RoundTrip.Statement (.andiLane e k d a i) := by
  generalize hN : 0x26000000 + ende e + k.toNat * 2097152 + d.toNat * 16384 + a.toNat * 128 + i.toNat = u
  obtain ⟨hn, hs, ho, he, h0, h1, h2, h3⟩ := layout1 38 _ (by decide) rfl e k d a i u hN.symm
  refine ofRaw (congrArg some hN) hn (decodeRaw_lane hs ?_)
  rw [lane38 ho, he, h0, h1, h2, h3]

theorem RoundTrip.oriLane e k d a i : RoundTrip.Statement (.oriLane e k d a i) := by
  generalize hN : 0x27000000 + ende e + k.toNat * 2097152 + d.toNat * 16384 + a.toNat * 128 + i.toNat = u
  obtain ⟨hn, hs, ho, he, h0, h1, h2, h3⟩ := layout1 39 _ (by decide) rfl e k d a i u hN.symm
  refine ofRaw (congrArg some hN) hn (decodeRaw_lane hs ?_)
  rw [lane39 ho, he, h0, h1, h2, h3]

theorem RoundTrip.xoriLane e k d a i : RoundTrip.Statement (.xoriLane e k d a i) := by
  generalize hN : 0x28000000 + ende e + k.toNat * 2097152 + d.toNat * 16384 + a.toNat * 128 + i.toNat = u
  obtain ⟨hn, hs, ho, he, h0, h1, h2, h3⟩ := layout1 40 _ (by decide) rfl e k d a i u hN.symm
  refine ofRaw (congrArg some hN) hn (decodeRaw_lane hs ?_)
  rw [lane40 ho, he, h0, h1, h2, h3]

theorem RoundTrip.shliLane e k d a i : RoundTrip.Statement (.shliLane e k d a i) := by
  generalize hN : 0x29000000 + ende e + k.toNat * 2097152 + d.toNat * 16384 + a.toNat * 128 + i.toNat = u
  obtain ⟨hn, hs, ho, he, hr, h0, h1, h2, h3⟩ := layout7 41 0 _ (by decide) (by decide) rfl e k d a i u hN.symm
  refine ofRaw (congrArg some hN) hn (decodeRaw_lane hs ?_)
  rw [lane41 ho]
  simp [he, h0, h1, h2, h3, hr]

theorem RoundTrip.shriLane e k d a i : RoundTrip.Statement (.shriLane e k d a i) := by
  generalize hN : 0x2A000000 + ende e + k.toNat * 2097152 + d.toNat * 16384 + a.toNat * 128 + i.toNat = u
  obtain ⟨hn, hs, ho, he, hr, h0, h1, h2, h3⟩ := layout7 42 0 _ (by decide) (by decide) rfl e k d a i u hN.symm
  refine ofRaw (congrArg some hN) hn (decodeRaw_lane hs ?_)
  rw [lane42 ho]
  simp [he, h0, h1, h2, h3, hr]

theorem RoundTrip.sraiLane e k d a i : RoundTrip.Statement (.sraiLane e k d a i) := by
  generalize hN : 0x2B000000 + ende e + k.toNat * 2097152 + d.toNat * 16384 + a.toNat * 128 + i.toNat = u
  obtain ⟨hn, hs, ho, he, hr, h0, h1, h2, h3⟩ := layout7 43 0 _ (by decide) (by decide) rfl e k d a i u hN.symm
  refine ofRaw (congrArg some hN) hn (decodeRaw_lane hs ?_)
  rw [lane43 ho]
  simp [he, h0, h1, h2, h3, hr]

theorem RoundTrip.srni e k d a i : RoundTrip.Statement (.srni e k d a i) := by
  generalize hN : 0x2C000000 + ende e + k.toNat * 2097152 + d.toNat * 16384 + a.toNat * 128 + i.toNat = u
  obtain ⟨hn, hs, ho, he, hr, h0, h1, h2, h3⟩ := layout7 44 0 _ (by decide) (by decide) rfl e k d a i u hN.symm
  refine ofRaw (congrArg some hN) hn (decodeRaw_lane hs ?_)
  rw [lane44 ho]
  simp [he, h0, h1, h2, h3, hr]

theorem RoundTrip.add2s e k d a b : RoundTrip.Statement (.add2s e k d a b) := by
  generalize hN : 0x2D000000 + ende e + k.toNat * 2097152 + d.toNat * 16384 + a.toNat * 128 + b.toNat = u
  obtain ⟨hn, hs, ho, he, h0, h1, h2, h3⟩ := layout1 45 _ (by decide) rfl e k d a b u hN.symm
  refine ofRaw (congrArg some hN) hn (decodeRaw_lane hs ?_)
  rw [lane45 ho, he, h0, h1, h2, h3]

theorem RoundTrip.sub2s e k d a b : RoundTrip.Statement (.sub2s e k d a b) := by
  generalize hN : 0x2E000000 + ende e + k.toNat * 2097152 + d.toNat * 16384 + a.toNat * 128 + b.toNat = u
  obtain ⟨hn, hs, ho, he, h0, h1, h2, h3⟩ := layout1 46 _ (by decide) rfl e k d a b u hN.symm
  refine ofRaw (congrArg some hN) hn (decodeRaw_lane hs ?_)
  rw [lane46 ho, he, h0, h1, h2, h3]

theorem RoundTrip.dot2S e k d a b : RoundTrip.Statement (.dot2S e k d a b) := by
  generalize hN : 0x2F000000 + ende e + k.toNat * 2097152 + d.toNat * 16384 + a.toNat * 128 + b.toNat = u
  obtain ⟨hn, hs, ho, he, hr, h0, h1, h2, h3⟩ := layout8 47 0 _ (by decide) (by decide) rfl e k d a b u hN.symm
  refine ofRaw (congrArg some hN) hn (decodeRaw_lane hs ?_)
  rw [lane47 ho]
  simp [he, h0, h1, h2, h3, hr]

theorem RoundTrip.dot2U e k d a b : RoundTrip.Statement (.dot2U e k d a b) := by
  generalize hN : 0x2F000040 + ende e + k.toNat * 2097152 + d.toNat * 16384 + a.toNat * 128 + b.toNat = u
  obtain ⟨hn, hs, ho, he, hr, h0, h1, h2, h3⟩ := layout8 47 1 _ (by decide) (by decide) rfl e k d a b u hN.symm
  refine ofRaw (congrArg some hN) hn (decodeRaw_lane hs ?_)
  rw [lane47 ho]
  simp [he, h0, h1, h2, h3, hr]

theorem RoundTrip.dot4S e k d a b : RoundTrip.Statement (.dot4S e k d a b) := by
  generalize hN : 0x30000000 + ende e + k.toNat * 2097152 + d.toNat * 16384 + a.toNat * 128 + b.toNat = u
  obtain ⟨hn, hs, ho, he, hr, h0, h1, h2, h3⟩ := layout8 48 0 _ (by decide) (by decide) rfl e k d a b u hN.symm
  refine ofRaw (congrArg some hN) hn (decodeRaw_lane hs ?_)
  rw [lane48 ho]
  simp [he, h0, h1, h2, h3, hr]

theorem RoundTrip.dot4U e k d a b : RoundTrip.Statement (.dot4U e k d a b) := by
  generalize hN : 0x30000040 + ende e + k.toNat * 2097152 + d.toNat * 16384 + a.toNat * 128 + b.toNat = u
  obtain ⟨hn, hs, ho, he, hr, h0, h1, h2, h3⟩ := layout8 48 1 _ (by decide) (by decide) rfl e k d a b u hN.symm
  refine ofRaw (congrArg some hN) hn (decodeRaw_lane hs ?_)
  rw [lane48 ho]
  simp [he, h0, h1, h2, h3, hr]

theorem RoundTrip.dot8S e k d a b : RoundTrip.Statement (.dot8S e k d a b) := by
  generalize hN : 0x31000000 + ende e + k.toNat * 2097152 + d.toNat * 16384 + a.toNat * 128 + b.toNat = u
  obtain ⟨hn, hs, ho, he, hr, h0, h1, h2, h3⟩ := layout8 49 0 _ (by decide) (by decide) rfl e k d a b u hN.symm
  refine ofRaw (congrArg some hN) hn (decodeRaw_lane hs ?_)
  rw [lane49 ho]
  simp [he, h0, h1, h2, h3, hr]

theorem RoundTrip.dot8U e k d a b : RoundTrip.Statement (.dot8U e k d a b) := by
  generalize hN : 0x31000040 + ende e + k.toNat * 2097152 + d.toNat * 16384 + a.toNat * 128 + b.toNat = u
  obtain ⟨hn, hs, ho, he, hr, h0, h1, h2, h3⟩ := layout8 49 1 _ (by decide) (by decide) rfl e k d a b u hN.symm
  refine ofRaw (congrArg some hN) hn (decodeRaw_lane hs ?_)
  rw [lane49 ho]
  simp [he, h0, h1, h2, h3, hr]

theorem RoundTrip.fdot4E4m3 e k d a b : RoundTrip.Statement (.fdot4E4m3 e k d a b) := by
  generalize hN : 0x32000000 + ende e + k.toNat * 2097152 + d.toNat * 16384 + a.toNat * 128 + b.toNat = u
  obtain ⟨hn, hs, ho, he, hr, h0, h1, h2, h3⟩ := layout8 50 0 _ (by decide) (by decide) rfl e k d a b u hN.symm
  refine ofRaw (congrArg some hN) hn (decodeRaw_lane hs ?_)
  rw [lane50 ho]
  simp [he, h0, h1, h2, h3, hr]

theorem RoundTrip.fdot4E5m2 e k d a b : RoundTrip.Statement (.fdot4E5m2 e k d a b) := by
  generalize hN : 0x32000040 + ende e + k.toNat * 2097152 + d.toNat * 16384 + a.toNat * 128 + b.toNat = u
  obtain ⟨hn, hs, ho, he, hr, h0, h1, h2, h3⟩ := layout8 50 1 _ (by decide) (by decide) rfl e k d a b u hN.symm
  refine ofRaw (congrArg some hN) hn (decodeRaw_lane hs ?_)
  rw [lane50 ho]
  simp [he, h0, h1, h2, h3, hr]

theorem RoundTrip.fdot8 e k d a b : RoundTrip.Statement (.fdot8 e k d a b) := by
  generalize hN : 0x33000000 + ende e + k.toNat * 2097152 + d.toNat * 16384 + a.toNat * 128 + b.toNat = u
  obtain ⟨hn, hs, ho, he, hr, h0, h1, h2, h3⟩ := layout8 51 0 _ (by decide) (by decide) rfl e k d a b u hN.symm
  refine ofRaw (congrArg some hN) hn (decodeRaw_lane hs ?_)
  rw [lane51 ho]
  simp [he, h0, h1, h2, h3, hr]

theorem RoundTrip.cvt e k d a c r : RoundTrip.Statement (.cvt e k d a c r) := by
  generalize hN : 0x34000000 + ende e + k.toNat * 2097152 + d.toNat * 16384 + a.toNat * 128 + c.toNat * 4 + r.toNat = u
  obtain ⟨hn, hs, ho, he, h0, h1, h2, h3, h4⟩ := layout9 52 _ (by decide) rfl e k d a c r u hN.symm
  refine ofRaw (congrArg some hN) hn (decodeRaw_lane hs ?_)
  rw [lane52 ho, he, h0, h1, h2, h3, h4]

theorem RoundTrip.slide e k d a f g n : RoundTrip.Statement (.slide e k d a f g n) := by
  generalize hN : 0x35000000 + ende e + k.toNat * 2097152 + d.toNat * 16384 + a.toNat * 128 + f.toNat * 32 + g.toNat * 16 + n.toNat = u
  obtain ⟨hn, hs, ho, he, h0, h1, h2, h3, h4, h5⟩ := layout10 53 _ (by decide) rfl e k d a f g n u hN.symm
  refine ofRaw (congrArg some hN) hn (decodeRaw_lane hs ?_)
  rw [lane53 ho, he, h0, h1, h2, h3, h4, h5]

theorem RoundTrip.shfl e k d a b : RoundTrip.Statement (.shfl e k d a b) := by
  generalize hN : 0x36000000 + ende e + k.toNat * 2097152 + d.toNat * 16384 + a.toNat * 128 + b.toNat = u
  obtain ⟨hn, hs, ho, he, h0, h1, h2, h3⟩ := layout1 54 _ (by decide) rfl e k d a b u hN.symm
  refine ofRaw (congrArg some hN) hn (decodeRaw_lane hs ?_)
  rw [lane54 ho, he, h0, h1, h2, h3]

theorem RoundTrip.tosLane e s a n : RoundTrip.Statement (.tosLane e s a n) := by
  generalize hN : 0x37000000 + ende e + s.toNat * 16384 + a.toNat * 128 + n.toNat = u
  obtain ⟨hn, hs, ho, he, hr, h0, h1, h2⟩ := layout11 55 0 _ (by decide) (by decide) rfl e s a n u hN.symm
  have he' := Bool.toNat_lt e
  have bs := s.isLt
  have ba := a.isLt
  have bn := n.isLt
  have hN' := ende_eq e
  have g5_2 : fld u 5 2 = 0 := by unfold fld; omega
  refine ofRaw (congrArg some hN) hn (decodeRaw_lane hs ?_)
  rw [lane55 ho]
  simp [he, h0, h1, h2, hr, g5_2]

theorem RoundTrip.tosReduce e k s a f : RoundTrip.Statement (.tosReduce e k s a f) := by
  intro hw w hw'
  generalize hN : 0x37000000 + ende e + k.toNat * 2097152 + s.toNat * 16384 + a.toNat * 128 + f.toNat = u
  obtain ⟨hn, hs, ho, he, hr, h0, h1, h2, h3⟩ := layout12 55 0 _ (by decide) (by decide) rfl e k s a f u hN.symm
  have hf : 32 ≤ f.toNat := (of_decide_eq_true (p := 0x20 ≤ f.toNat ∧ f.toNat ≤ 0x29) hw).1
  have hq : ¬ (fld u 5 2 = 0) := by
    have := toNat_bits (n := u) (lo := 0) (w := 7)
    rw [h3] at this; unfold fld; omega
  refine ofRaw (i := .tosReduce e k s a f) (congrArg some hN) hn (decodeRaw_lane hs ?_) hw w hw'
  rw [lane55 ho]
  simp [he, h0, h1, h2, h3, hr, hq]

theorem RoundTrip.tov e k d s : RoundTrip.Statement (.tov e k d s) := by
  generalize hN : 0x38000000 + ende e + k.toNat * 2097152 + d.toNat * 16384 + s.toNat * 128 = u
  obtain ⟨hn, hs, ho, he, hr, h0, h1, h2⟩ := layout13 56 0 _ (by decide) (by decide) rfl e k d s u hN.symm
  have he' := Bool.toNat_lt e
  have bk := k.isLt
  have bd := d.isLt
  have bs := s.isLt
  have hN' := ende_eq e
  have g0_7 : fld u 0 7 = 0 := by unfold fld; omega
  refine ofRaw (congrArg some hN) hn (decodeRaw_lane hs ?_)
  rw [lane56 ho]
  simp [he, h0, h1, h2, hr, g0_7]

theorem RoundTrip.scan e k d a f : RoundTrip.Statement (.scan e k d a f) := by
  generalize hN : 0x39000000 + ende e + k.toNat * 2097152 + d.toNat * 16384 + a.toNat * 128 + f.toNat = u
  obtain ⟨hn, hs, ho, he, h0, h1, h2, h3⟩ := layout1 57 _ (by decide) rfl e k d a f u hN.symm
  refine ofRaw (congrArg some hN) hn (decodeRaw_lane hs ?_)
  rw [lane57 ho, he, h0, h1, h2, h3]

theorem RoundTrip.ld e k d a b z : RoundTrip.Statement (.ld e k d a b z) := by
  generalize hN : 0x3A000000 + ende e + k.toNat * 2097152 + d.toNat * 16384 + a.toNat * 128 + b.toNat * 8 + z.toNat = u
  obtain ⟨hn, hs, ho, he, h0, h1, h2, h3, h4⟩ := layout14 58 _ (by decide) rfl e k d a b z u hN.symm
  refine ofRaw (congrArg some hN) hn (decodeRaw_lane hs ?_)
  rw [lane58 ho, he, h0, h1, h2, h3, h4]

theorem RoundTrip.st e k d a b z : RoundTrip.Statement (.st e k d a b z) := by
  generalize hN : 0x3B000000 + ende e + k.toNat * 2097152 + d.toNat * 16384 + a.toNat * 128 + b.toNat * 8 + z.toNat = u
  obtain ⟨hn, hs, ho, he, h0, h1, h2, h3, h4⟩ := layout14 59 _ (by decide) rfl e k d a b z u hN.symm
  refine ofRaw (congrArg some hN) hn (decodeRaw_lane hs ?_)
  rw [lane59 ho, he, h0, h1, h2, h3, h4]

theorem RoundTrip.atom e k d a o s : RoundTrip.Statement (.atom e k d a o s) := by
  generalize hN : 0x3C000000 + ende e + k.toNat * 2097152 + d.toNat * 16384 + a.toNat * 128 + o.toNat * 8 + s.toNat = u
  obtain ⟨hn, hs, ho, he, h0, h1, h2, h3, h4⟩ := layout14 60 _ (by decide) rfl e k d a o s u hN.symm
  refine ofRaw (congrArg some hN) hn (decodeRaw_lane hs ?_)
  rw [lane60 ho, he, h0, h1, h2, h3, h4]

theorem RoundTrip.red e k d a o s : RoundTrip.Statement (.red e k d a o s) := by
  generalize hN : 0x3D000000 + ende e + k.toNat * 2097152 + d.toNat * 16384 + a.toNat * 128 + o.toNat * 8 + s.toNat = u
  obtain ⟨hn, hs, ho, he, h0, h1, h2, h3, h4⟩ := layout14 61 _ (by decide) rfl e k d a o s u hN.symm
  refine ofRaw (congrArg some hN) hn (decodeRaw_lane hs ?_)
  rw [lane61 ho, he, h0, h1, h2, h3, h4]

theorem RoundTrip.mma e k a x f r l z c : RoundTrip.Statement (.mma e k a x f r l z c) := by
  generalize hN : 0x3E000000 + ende e + k.toNat * 2097152 + a.toNat * 16384 + x.toNat * 256 + f.toNat * 32 + r.toNat * 16 + l.toNat * 8 + z.toNat * 4 + c.toNat = u
  obtain ⟨hn, hs, ho, he, h0, h1, h2, h3, h4, h5, h6, h7⟩ := layout15 62 _ (by decide) rfl e k a x f r l z c u hN.symm
  refine ofRaw (congrArg some hN) hn (decodeRaw_lane hs ?_)
  rw [lane62 ho, he, h0, h1, h2, h3, h4, h5, h6, h7]

theorem RoundTrip.accxRd e k a x w : RoundTrip.Statement (.accxRd e k a x w) := by
  generalize hN : 0x3F000000 + ende e + k.toNat * 2097152 + a.toNat * 16384 + x.toNat * 256 + w.toNat = u
  obtain ⟨hn, hs, ho, he, hr, h0, h1, h2, h3⟩ := layout16 63 0 _ (by decide) (by decide) rfl e k a x w u hN.symm
  refine ofRaw (congrArg some hN) hn (decodeRaw_lane hs ?_)
  rw [lane63 ho]
  simp [he, h0, h1, h2, h3, hr]

theorem RoundTrip.accxWr e k a x w : RoundTrip.Statement (.accxWr e k a x w) := by
  generalize hN : 0x3F000020 + ende e + k.toNat * 2097152 + a.toNat * 16384 + x.toNat * 256 + w.toNat = u
  obtain ⟨hn, hs, ho, he, hr, h0, h1, h2, h3⟩ := layout16 63 8 _ (by decide) (by decide) rfl e k a x w u hN.symm
  refine ofRaw (congrArg some hN) hn (decodeRaw_lane hs ?_)
  rw [lane63 ho]
  simp [he, h0, h1, h2, h3, hr]

theorem RoundTrip.accxRdz e k a x w : RoundTrip.Statement (.accxRdz e k a x w) := by
  generalize hN : 0x3F000040 + ende e + k.toNat * 2097152 + a.toNat * 16384 + x.toNat * 256 + w.toNat = u
  obtain ⟨hn, hs, ho, he, hr, h0, h1, h2, h3⟩ := layout16 63 16 _ (by decide) (by decide) rfl e k a x w u hN.symm
  refine ofRaw (congrArg some hN) hn (decodeRaw_lane hs ?_)
  rw [lane63 ho]
  simp [he, h0, h1, h2, h3, hr]

theorem RoundTrip.addScalar e d a b : RoundTrip.Statement (.addScalar e d a b) := by
  generalize hN : 0x81000000 + ende e + d.toNat * 262144 + a.toNat * 4096 + b.toNat * 64 = u
  obtain ⟨hn, hs, ho, he, hr, h0, h1, h2⟩ := layout17 1 0 _ (by decide) (by decide) rfl e d a b u hN.symm
  have q0_12_19 : ¬ (fld u 0 12 = 19) := by unfold fld at *; omega
  have q0_12_20 : ¬ (fld u 0 12 = 20) := by unfold fld at *; omega
  have q0_12_21 : ¬ (fld u 0 12 = 21) := by unfold fld at *; omega
  refine ofRaw (congrArg some hN) hn (decodeRaw_scalar hs ?_)
  rw [scalar1 ho]
  simp [he, h0, h1, h2, hr, q0_12_19, q0_12_20, q0_12_21]

theorem RoundTrip.subScalar e d a b : RoundTrip.Statement (.subScalar e d a b) := by
  generalize hN : 0x81000001 + ende e + d.toNat * 262144 + a.toNat * 4096 + b.toNat * 64 = u
  obtain ⟨hn, hs, ho, he, hr, h0, h1, h2⟩ := layout17 1 1 _ (by decide) (by decide) rfl e d a b u hN.symm
  have q0_12_19 : ¬ (fld u 0 12 = 19) := by unfold fld at *; omega
  have q0_12_20 : ¬ (fld u 0 12 = 20) := by unfold fld at *; omega
  have q0_12_21 : ¬ (fld u 0 12 = 21) := by unfold fld at *; omega
  refine ofRaw (congrArg some hN) hn (decodeRaw_scalar hs ?_)
  rw [scalar1 ho]
  simp [he, h0, h1, h2, hr, q0_12_19, q0_12_20, q0_12_21]

theorem RoundTrip.mulScalar e d a b : RoundTrip.Statement (.mulScalar e d a b) := by
  generalize hN : 0x81000002 + ende e + d.toNat * 262144 + a.toNat * 4096 + b.toNat * 64 = u
  obtain ⟨hn, hs, ho, he, hr, h0, h1, h2⟩ := layout17 1 2 _ (by decide) (by decide) rfl e d a b u hN.symm
  have q0_12_19 : ¬ (fld u 0 12 = 19) := by unfold fld at *; omega
  have q0_12_20 : ¬ (fld u 0 12 = 20) := by unfold fld at *; omega
  have q0_12_21 : ¬ (fld u 0 12 = 21) := by unfold fld at *; omega
  refine ofRaw (congrArg some hN) hn (decodeRaw_scalar hs ?_)
  rw [scalar1 ho]
  simp [he, h0, h1, h2, hr, q0_12_19, q0_12_20, q0_12_21]

theorem RoundTrip.mulh e d a b : RoundTrip.Statement (.mulh e d a b) := by
  generalize hN : 0x81000003 + ende e + d.toNat * 262144 + a.toNat * 4096 + b.toNat * 64 = u
  obtain ⟨hn, hs, ho, he, hr, h0, h1, h2⟩ := layout17 1 3 _ (by decide) (by decide) rfl e d a b u hN.symm
  have q0_12_19 : ¬ (fld u 0 12 = 19) := by unfold fld at *; omega
  have q0_12_20 : ¬ (fld u 0 12 = 20) := by unfold fld at *; omega
  have q0_12_21 : ¬ (fld u 0 12 = 21) := by unfold fld at *; omega
  refine ofRaw (congrArg some hN) hn (decodeRaw_scalar hs ?_)
  rw [scalar1 ho]
  simp [he, h0, h1, h2, hr, q0_12_19, q0_12_20, q0_12_21]

theorem RoundTrip.mulhu e d a b : RoundTrip.Statement (.mulhu e d a b) := by
  generalize hN : 0x81000004 + ende e + d.toNat * 262144 + a.toNat * 4096 + b.toNat * 64 = u
  obtain ⟨hn, hs, ho, he, hr, h0, h1, h2⟩ := layout17 1 4 _ (by decide) (by decide) rfl e d a b u hN.symm
  have q0_12_19 : ¬ (fld u 0 12 = 19) := by unfold fld at *; omega
  have q0_12_20 : ¬ (fld u 0 12 = 20) := by unfold fld at *; omega
  have q0_12_21 : ¬ (fld u 0 12 = 21) := by unfold fld at *; omega
  refine ofRaw (congrArg some hN) hn (decodeRaw_scalar hs ?_)
  rw [scalar1 ho]
  simp [he, h0, h1, h2, hr, q0_12_19, q0_12_20, q0_12_21]

theorem RoundTrip.andScalar e d a b : RoundTrip.Statement (.andScalar e d a b) := by
  generalize hN : 0x81000005 + ende e + d.toNat * 262144 + a.toNat * 4096 + b.toNat * 64 = u
  obtain ⟨hn, hs, ho, he, hr, h0, h1, h2⟩ := layout17 1 5 _ (by decide) (by decide) rfl e d a b u hN.symm
  have q0_12_19 : ¬ (fld u 0 12 = 19) := by unfold fld at *; omega
  have q0_12_20 : ¬ (fld u 0 12 = 20) := by unfold fld at *; omega
  have q0_12_21 : ¬ (fld u 0 12 = 21) := by unfold fld at *; omega
  refine ofRaw (congrArg some hN) hn (decodeRaw_scalar hs ?_)
  rw [scalar1 ho]
  simp [he, h0, h1, h2, hr, q0_12_19, q0_12_20, q0_12_21]

theorem RoundTrip.orScalar e d a b : RoundTrip.Statement (.orScalar e d a b) := by
  generalize hN : 0x81000006 + ende e + d.toNat * 262144 + a.toNat * 4096 + b.toNat * 64 = u
  obtain ⟨hn, hs, ho, he, hr, h0, h1, h2⟩ := layout17 1 6 _ (by decide) (by decide) rfl e d a b u hN.symm
  have q0_12_19 : ¬ (fld u 0 12 = 19) := by unfold fld at *; omega
  have q0_12_20 : ¬ (fld u 0 12 = 20) := by unfold fld at *; omega
  have q0_12_21 : ¬ (fld u 0 12 = 21) := by unfold fld at *; omega
  refine ofRaw (congrArg some hN) hn (decodeRaw_scalar hs ?_)
  rw [scalar1 ho]
  simp [he, h0, h1, h2, hr, q0_12_19, q0_12_20, q0_12_21]

theorem RoundTrip.xorScalar e d a b : RoundTrip.Statement (.xorScalar e d a b) := by
  generalize hN : 0x81000007 + ende e + d.toNat * 262144 + a.toNat * 4096 + b.toNat * 64 = u
  obtain ⟨hn, hs, ho, he, hr, h0, h1, h2⟩ := layout17 1 7 _ (by decide) (by decide) rfl e d a b u hN.symm
  have q0_12_19 : ¬ (fld u 0 12 = 19) := by unfold fld at *; omega
  have q0_12_20 : ¬ (fld u 0 12 = 20) := by unfold fld at *; omega
  have q0_12_21 : ¬ (fld u 0 12 = 21) := by unfold fld at *; omega
  refine ofRaw (congrArg some hN) hn (decodeRaw_scalar hs ?_)
  rw [scalar1 ho]
  simp [he, h0, h1, h2, hr, q0_12_19, q0_12_20, q0_12_21]

theorem RoundTrip.shlScalar e d a b : RoundTrip.Statement (.shlScalar e d a b) := by
  generalize hN : 0x81000008 + ende e + d.toNat * 262144 + a.toNat * 4096 + b.toNat * 64 = u
  obtain ⟨hn, hs, ho, he, hr, h0, h1, h2⟩ := layout17 1 8 _ (by decide) (by decide) rfl e d a b u hN.symm
  have q0_12_19 : ¬ (fld u 0 12 = 19) := by unfold fld at *; omega
  have q0_12_20 : ¬ (fld u 0 12 = 20) := by unfold fld at *; omega
  have q0_12_21 : ¬ (fld u 0 12 = 21) := by unfold fld at *; omega
  refine ofRaw (congrArg some hN) hn (decodeRaw_scalar hs ?_)
  rw [scalar1 ho]
  simp [he, h0, h1, h2, hr, q0_12_19, q0_12_20, q0_12_21]

theorem RoundTrip.shrScalar e d a b : RoundTrip.Statement (.shrScalar e d a b) := by
  generalize hN : 0x81000009 + ende e + d.toNat * 262144 + a.toNat * 4096 + b.toNat * 64 = u
  obtain ⟨hn, hs, ho, he, hr, h0, h1, h2⟩ := layout17 1 9 _ (by decide) (by decide) rfl e d a b u hN.symm
  have q0_12_19 : ¬ (fld u 0 12 = 19) := by unfold fld at *; omega
  have q0_12_20 : ¬ (fld u 0 12 = 20) := by unfold fld at *; omega
  have q0_12_21 : ¬ (fld u 0 12 = 21) := by unfold fld at *; omega
  refine ofRaw (congrArg some hN) hn (decodeRaw_scalar hs ?_)
  rw [scalar1 ho]
  simp [he, h0, h1, h2, hr, q0_12_19, q0_12_20, q0_12_21]

theorem RoundTrip.sraScalar e d a b : RoundTrip.Statement (.sraScalar e d a b) := by
  generalize hN : 0x8100000A + ende e + d.toNat * 262144 + a.toNat * 4096 + b.toNat * 64 = u
  obtain ⟨hn, hs, ho, he, hr, h0, h1, h2⟩ := layout17 1 10 _ (by decide) (by decide) rfl e d a b u hN.symm
  have q0_12_19 : ¬ (fld u 0 12 = 19) := by unfold fld at *; omega
  have q0_12_20 : ¬ (fld u 0 12 = 20) := by unfold fld at *; omega
  have q0_12_21 : ¬ (fld u 0 12 = 21) := by unfold fld at *; omega
  refine ofRaw (congrArg some hN) hn (decodeRaw_scalar hs ?_)
  rw [scalar1 ho]
  simp [he, h0, h1, h2, hr, q0_12_19, q0_12_20, q0_12_21]

theorem RoundTrip.minScalar e d a b : RoundTrip.Statement (.minScalar e d a b) := by
  generalize hN : 0x8100000B + ende e + d.toNat * 262144 + a.toNat * 4096 + b.toNat * 64 = u
  obtain ⟨hn, hs, ho, he, hr, h0, h1, h2⟩ := layout17 1 11 _ (by decide) (by decide) rfl e d a b u hN.symm
  have q0_12_19 : ¬ (fld u 0 12 = 19) := by unfold fld at *; omega
  have q0_12_20 : ¬ (fld u 0 12 = 20) := by unfold fld at *; omega
  have q0_12_21 : ¬ (fld u 0 12 = 21) := by unfold fld at *; omega
  refine ofRaw (congrArg some hN) hn (decodeRaw_scalar hs ?_)
  rw [scalar1 ho]
  simp [he, h0, h1, h2, hr, q0_12_19, q0_12_20, q0_12_21]

theorem RoundTrip.maxScalar e d a b : RoundTrip.Statement (.maxScalar e d a b) := by
  generalize hN : 0x8100000C + ende e + d.toNat * 262144 + a.toNat * 4096 + b.toNat * 64 = u
  obtain ⟨hn, hs, ho, he, hr, h0, h1, h2⟩ := layout17 1 12 _ (by decide) (by decide) rfl e d a b u hN.symm
  have q0_12_19 : ¬ (fld u 0 12 = 19) := by unfold fld at *; omega
  have q0_12_20 : ¬ (fld u 0 12 = 20) := by unfold fld at *; omega
  have q0_12_21 : ¬ (fld u 0 12 = 21) := by unfold fld at *; omega
  refine ofRaw (congrArg some hN) hn (decodeRaw_scalar hs ?_)
  rw [scalar1 ho]
  simp [he, h0, h1, h2, hr, q0_12_19, q0_12_20, q0_12_21]

theorem RoundTrip.minu e d a b : RoundTrip.Statement (.minu e d a b) := by
  generalize hN : 0x8100000D + ende e + d.toNat * 262144 + a.toNat * 4096 + b.toNat * 64 = u
  obtain ⟨hn, hs, ho, he, hr, h0, h1, h2⟩ := layout17 1 13 _ (by decide) (by decide) rfl e d a b u hN.symm
  have q0_12_19 : ¬ (fld u 0 12 = 19) := by unfold fld at *; omega
  have q0_12_20 : ¬ (fld u 0 12 = 20) := by unfold fld at *; omega
  have q0_12_21 : ¬ (fld u 0 12 = 21) := by unfold fld at *; omega
  refine ofRaw (congrArg some hN) hn (decodeRaw_scalar hs ?_)
  rw [scalar1 ho]
  simp [he, h0, h1, h2, hr, q0_12_19, q0_12_20, q0_12_21]

theorem RoundTrip.maxu e d a b : RoundTrip.Statement (.maxu e d a b) := by
  generalize hN : 0x8100000E + ende e + d.toNat * 262144 + a.toNat * 4096 + b.toNat * 64 = u
  obtain ⟨hn, hs, ho, he, hr, h0, h1, h2⟩ := layout17 1 14 _ (by decide) (by decide) rfl e d a b u hN.symm
  have q0_12_19 : ¬ (fld u 0 12 = 19) := by unfold fld at *; omega
  have q0_12_20 : ¬ (fld u 0 12 = 20) := by unfold fld at *; omega
  have q0_12_21 : ¬ (fld u 0 12 = 21) := by unfold fld at *; omega
  refine ofRaw (congrArg some hN) hn (decodeRaw_scalar hs ?_)
  rw [scalar1 ho]
  simp [he, h0, h1, h2, hr, q0_12_19, q0_12_20, q0_12_21]

theorem RoundTrip.div e d a b : RoundTrip.Statement (.div e d a b) := by
  generalize hN : 0x8100000F + ende e + d.toNat * 262144 + a.toNat * 4096 + b.toNat * 64 = u
  obtain ⟨hn, hs, ho, he, hr, h0, h1, h2⟩ := layout17 1 15 _ (by decide) (by decide) rfl e d a b u hN.symm
  have q0_12_19 : ¬ (fld u 0 12 = 19) := by unfold fld at *; omega
  have q0_12_20 : ¬ (fld u 0 12 = 20) := by unfold fld at *; omega
  have q0_12_21 : ¬ (fld u 0 12 = 21) := by unfold fld at *; omega
  refine ofRaw (congrArg some hN) hn (decodeRaw_scalar hs ?_)
  rw [scalar1 ho]
  simp [he, h0, h1, h2, hr, q0_12_19, q0_12_20, q0_12_21]

theorem RoundTrip.divu e d a b : RoundTrip.Statement (.divu e d a b) := by
  generalize hN : 0x81000010 + ende e + d.toNat * 262144 + a.toNat * 4096 + b.toNat * 64 = u
  obtain ⟨hn, hs, ho, he, hr, h0, h1, h2⟩ := layout17 1 16 _ (by decide) (by decide) rfl e d a b u hN.symm
  have q0_12_19 : ¬ (fld u 0 12 = 19) := by unfold fld at *; omega
  have q0_12_20 : ¬ (fld u 0 12 = 20) := by unfold fld at *; omega
  have q0_12_21 : ¬ (fld u 0 12 = 21) := by unfold fld at *; omega
  refine ofRaw (congrArg some hN) hn (decodeRaw_scalar hs ?_)
  rw [scalar1 ho]
  simp [he, h0, h1, h2, hr, q0_12_19, q0_12_20, q0_12_21]

theorem RoundTrip.rem e d a b : RoundTrip.Statement (.rem e d a b) := by
  generalize hN : 0x81000011 + ende e + d.toNat * 262144 + a.toNat * 4096 + b.toNat * 64 = u
  obtain ⟨hn, hs, ho, he, hr, h0, h1, h2⟩ := layout17 1 17 _ (by decide) (by decide) rfl e d a b u hN.symm
  have q0_12_19 : ¬ (fld u 0 12 = 19) := by unfold fld at *; omega
  have q0_12_20 : ¬ (fld u 0 12 = 20) := by unfold fld at *; omega
  have q0_12_21 : ¬ (fld u 0 12 = 21) := by unfold fld at *; omega
  refine ofRaw (congrArg some hN) hn (decodeRaw_scalar hs ?_)
  rw [scalar1 ho]
  simp [he, h0, h1, h2, hr, q0_12_19, q0_12_20, q0_12_21]

theorem RoundTrip.remu e d a b : RoundTrip.Statement (.remu e d a b) := by
  generalize hN : 0x81000012 + ende e + d.toNat * 262144 + a.toNat * 4096 + b.toNat * 64 = u
  obtain ⟨hn, hs, ho, he, hr, h0, h1, h2⟩ := layout17 1 18 _ (by decide) (by decide) rfl e d a b u hN.symm
  have q0_12_19 : ¬ (fld u 0 12 = 19) := by unfold fld at *; omega
  have q0_12_20 : ¬ (fld u 0 12 = 20) := by unfold fld at *; omega
  have q0_12_21 : ¬ (fld u 0 12 = 21) := by unfold fld at *; omega
  refine ofRaw (congrArg some hN) hn (decodeRaw_scalar hs ?_)
  rw [scalar1 ho]
  simp [he, h0, h1, h2, hr, q0_12_19, q0_12_20, q0_12_21]

theorem RoundTrip.popcScalar e d a : RoundTrip.Statement (.popcScalar e d a) := by
  generalize hN : 0x81000013 + ende e + d.toNat * 262144 + a.toNat * 4096 = u
  obtain ⟨hn, hs, ho, he, hr, h0, h1⟩ := layout18 1 19 _ (by decide) (by decide) rfl e d a u hN.symm
  refine ofRaw (congrArg some hN) hn (decodeRaw_scalar hs ?_)
  rw [scalar1 ho]
  simp [he, h0, h1, hr]

theorem RoundTrip.clzScalar e d a : RoundTrip.Statement (.clzScalar e d a) := by
  generalize hN : 0x81000014 + ende e + d.toNat * 262144 + a.toNat * 4096 = u
  obtain ⟨hn, hs, ho, he, hr, h0, h1⟩ := layout18 1 20 _ (by decide) (by decide) rfl e d a u hN.symm
  refine ofRaw (congrArg some hN) hn (decodeRaw_scalar hs ?_)
  rw [scalar1 ho]
  simp [he, h0, h1, hr]

theorem RoundTrip.ctzScalar e d a : RoundTrip.Statement (.ctzScalar e d a) := by
  generalize hN : 0x81000015 + ende e + d.toNat * 262144 + a.toNat * 4096 = u
  obtain ⟨hn, hs, ho, he, hr, h0, h1⟩ := layout18 1 21 _ (by decide) (by decide) rfl e d a u hN.symm
  refine ofRaw (congrArg some hN) hn (decodeRaw_scalar hs ?_)
  rw [scalar1 ho]
  simp [he, h0, h1, hr]

theorem RoundTrip.cmp e c n a b : RoundTrip.Statement (.cmp e c n a b) := by
  generalize hN : 0x82000000 + ende e + c.toNat * 1048576 + n.toNat * 262144 + a.toNat * 4096 + b.toNat * 64 = u
  obtain ⟨hn, hs, ho, he, hr, h0, h1, h2, h3⟩ := layout19 2 0 _ (by decide) (by decide) rfl e c n a b u hN.symm
  refine ofRaw (congrArg some hN) hn (decodeRaw_scalar hs ?_)
  rw [scalar2 ho]
  simp [he, h0, h1, h2, h3, hr]

theorem RoundTrip.addi e d a i : RoundTrip.Statement (.addi e d a i) := by
  generalize hN : 0x83000000 + ende e + d.toNat * 262144 + a.toNat * 4096 + i.toNat = u
  obtain ⟨hn, hs, ho, he, h0, h1, h2⟩ := layout20 3 _ (by decide) rfl e d a i u hN.symm
  refine ofRaw (congrArg some hN) hn (decodeRaw_scalar hs ?_)
  rw [scalar3 ho, he, h0, h1, h2]

theorem RoundTrip.andiScalar e d a i : RoundTrip.Statement (.andiScalar e d a i) := by
  generalize hN : 0x84000000 + ende e + d.toNat * 262144 + a.toNat * 4096 + i.toNat = u
  obtain ⟨hn, hs, ho, he, h0, h1, h2⟩ := layout20 4 _ (by decide) rfl e d a i u hN.symm
  refine ofRaw (congrArg some hN) hn (decodeRaw_scalar hs ?_)
  rw [scalar4 ho, he, h0, h1, h2]

theorem RoundTrip.oriScalar e d a i : RoundTrip.Statement (.oriScalar e d a i) := by
  generalize hN : 0x85000000 + ende e + d.toNat * 262144 + a.toNat * 4096 + i.toNat = u
  obtain ⟨hn, hs, ho, he, h0, h1, h2⟩ := layout20 5 _ (by decide) rfl e d a i u hN.symm
  refine ofRaw (congrArg some hN) hn (decodeRaw_scalar hs ?_)
  rw [scalar5 ho, he, h0, h1, h2]

theorem RoundTrip.xoriScalar e d a i : RoundTrip.Statement (.xoriScalar e d a i) := by
  generalize hN : 0x86000000 + ende e + d.toNat * 262144 + a.toNat * 4096 + i.toNat = u
  obtain ⟨hn, hs, ho, he, h0, h1, h2⟩ := layout20 6 _ (by decide) rfl e d a i u hN.symm
  refine ofRaw (congrArg some hN) hn (decodeRaw_scalar hs ?_)
  rw [scalar6 ho, he, h0, h1, h2]

theorem RoundTrip.shliScalar e d a i : RoundTrip.Statement (.shliScalar e d a i) := by
  generalize hN : 0x87000000 + ende e + d.toNat * 262144 + a.toNat * 4096 + i.toNat = u
  obtain ⟨hn, hs, ho, he, hr, h0, h1, h2⟩ := layout21 7 0 _ (by decide) (by decide) rfl e d a i u hN.symm
  refine ofRaw (congrArg some hN) hn (decodeRaw_scalar hs ?_)
  rw [scalar7 ho]
  simp [he, h0, h1, h2, hr]

theorem RoundTrip.shriScalar e d a i : RoundTrip.Statement (.shriScalar e d a i) := by
  generalize hN : 0x88000000 + ende e + d.toNat * 262144 + a.toNat * 4096 + i.toNat = u
  obtain ⟨hn, hs, ho, he, hr, h0, h1, h2⟩ := layout21 8 0 _ (by decide) (by decide) rfl e d a i u hN.symm
  refine ofRaw (congrArg some hN) hn (decodeRaw_scalar hs ?_)
  rw [scalar8 ho]
  simp [he, h0, h1, h2, hr]

theorem RoundTrip.sraiScalar e d a i : RoundTrip.Statement (.sraiScalar e d a i) := by
  generalize hN : 0x89000000 + ende e + d.toNat * 262144 + a.toNat * 4096 + i.toNat = u
  obtain ⟨hn, hs, ho, he, hr, h0, h1, h2⟩ := layout21 9 0 _ (by decide) (by decide) rfl e d a i u hN.symm
  refine ofRaw (congrArg some hN) hn (decodeRaw_scalar hs ?_)
  rw [scalar9 ho]
  simp [he, h0, h1, h2, hr]

theorem RoundTrip.cmpi e c n a i : RoundTrip.Statement (.cmpi e c n a i) := by
  generalize hN : 0x8A000000 + ende e + c.toNat * 1048576 + n.toNat * 262144 + a.toNat * 4096 + i.toNat = u
  obtain ⟨hn, hs, ho, he, h0, h1, h2, h3⟩ := layout22 10 _ (by decide) rfl e c n a i u hN.symm
  refine ofRaw (congrArg some hN) hn (decodeRaw_scalar hs ?_)
  rw [scalar10 ho, he, h0, h1, h2, h3]

theorem RoundTrip.li e d i : RoundTrip.Statement (.li e d i) := by
  generalize hN : 0x8B000000 + ende e + d.toNat * 262144 + i.toNat = u
  obtain ⟨hn, hs, ho, he, h0, h1⟩ := layout23 11 _ (by decide) rfl e d i u hN.symm
  refine ofRaw (congrArg some hN) hn (decodeRaw_scalar hs ?_)
  rw [scalar11 ho, he, h0, h1]

theorem RoundTrip.lui e d i : RoundTrip.Statement (.lui e d i) := by
  generalize hN : 0x8C000000 + ende e + d.toNat * 262144 + i.toNat = u
  obtain ⟨hn, hs, ho, he, hr, h0, h1⟩ := layout24 12 0 _ (by decide) (by decide) rfl e d i u hN.symm
  refine ofRaw (congrArg some hN) hn (decodeRaw_scalar hs ?_)
  rw [scalar12 ho]
  simp [he, h0, h1, hr]

theorem RoundTrip.mand e d a b : RoundTrip.Statement (.mand e d a b) := by
  generalize hN : 0x8D000000 + ende e + d.toNat * 262144 + a.toNat * 4096 + b.toNat * 64 = u
  obtain ⟨hn, hs, ho, he, hr, h0, h1, h2⟩ := layout25 13 0 _ (by decide) (by decide) rfl e d a b u hN.symm
  have he' := Bool.toNat_lt e
  have bd := d.isLt
  have ba := a.isLt
  have bb := b.isLt
  have hN' := ende_eq e
  have g0_6 : fld u 0 6 = 0 := by unfold fld; omega
  have g9_3 : fld u 9 3 = 0 := by unfold fld; omega
  have g15_3 : fld u 15 3 = 0 := by unfold fld; omega
  have q0_12_4 : ¬ (fld u 0 12 = 4) := by unfold fld; omega
  refine ofRaw (congrArg some hN) hn (decodeRaw_scalar hs ?_)
  rw [scalar13 ho]
  simp [he, h0, h1, h2, hr, g0_6, g9_3, g15_3, q0_12_4]

theorem RoundTrip.mor e d a b : RoundTrip.Statement (.mor e d a b) := by
  generalize hN : 0x8D000001 + ende e + d.toNat * 262144 + a.toNat * 4096 + b.toNat * 64 = u
  obtain ⟨hn, hs, ho, he, hr, h0, h1, h2⟩ := layout26 13 1 _ (by decide) (by decide) rfl e d a b u hN.symm
  have he' := Bool.toNat_lt e
  have bd := d.isLt
  have ba := a.isLt
  have bb := b.isLt
  have hN' := ende_eq e
  have g9_3 : fld u 9 3 = 0 := by unfold fld; omega
  have g15_3 : fld u 15 3 = 0 := by unfold fld; omega
  have g21_3 : fld u 21 3 = 0 := by unfold fld; omega
  have q0_12_4 : ¬ (fld u 0 12 = 4) := by unfold fld at *; omega
  refine ofRaw (congrArg some hN) hn (decodeRaw_scalar hs ?_)
  rw [scalar13 ho]
  simp [he, h0, h1, h2, hr, g9_3, g15_3, g21_3, q0_12_4]

theorem RoundTrip.mxor e d a b : RoundTrip.Statement (.mxor e d a b) := by
  generalize hN : 0x8D000002 + ende e + d.toNat * 262144 + a.toNat * 4096 + b.toNat * 64 = u
  obtain ⟨hn, hs, ho, he, hr, h0, h1, h2⟩ := layout26 13 2 _ (by decide) (by decide) rfl e d a b u hN.symm
  have he' := Bool.toNat_lt e
  have bd := d.isLt
  have ba := a.isLt
  have bb := b.isLt
  have hN' := ende_eq e
  have g9_3 : fld u 9 3 = 0 := by unfold fld; omega
  have g15_3 : fld u 15 3 = 0 := by unfold fld; omega
  have g21_3 : fld u 21 3 = 0 := by unfold fld; omega
  have q0_12_4 : ¬ (fld u 0 12 = 4) := by unfold fld at *; omega
  refine ofRaw (congrArg some hN) hn (decodeRaw_scalar hs ?_)
  rw [scalar13 ho]
  simp [he, h0, h1, h2, hr, g9_3, g15_3, g21_3, q0_12_4]

theorem RoundTrip.mandn e d a b : RoundTrip.Statement (.mandn e d a b) := by
  generalize hN : 0x8D000003 + ende e + d.toNat * 262144 + a.toNat * 4096 + b.toNat * 64 = u
  obtain ⟨hn, hs, ho, he, hr, h0, h1, h2⟩ := layout26 13 3 _ (by decide) (by decide) rfl e d a b u hN.symm
  have he' := Bool.toNat_lt e
  have bd := d.isLt
  have ba := a.isLt
  have bb := b.isLt
  have hN' := ende_eq e
  have g9_3 : fld u 9 3 = 0 := by unfold fld; omega
  have g15_3 : fld u 15 3 = 0 := by unfold fld; omega
  have g21_3 : fld u 21 3 = 0 := by unfold fld; omega
  have q0_12_4 : ¬ (fld u 0 12 = 4) := by unfold fld at *; omega
  refine ofRaw (congrArg some hN) hn (decodeRaw_scalar hs ?_)
  rw [scalar13 ho]
  simp [he, h0, h1, h2, hr, g9_3, g15_3, g21_3, q0_12_4]

theorem RoundTrip.mnot e d a : RoundTrip.Statement (.mnot e d a) := by
  generalize hN : 0x8D000004 + ende e + d.toNat * 262144 + a.toNat * 4096 = u
  obtain ⟨hn, hs, ho, he, hr, h0, h1⟩ := layout27 13 4 _ (by decide) (by decide) rfl e d a u hN.symm
  have he' := Bool.toNat_lt e
  have bd := d.isLt
  have ba := a.isLt
  have hN' := ende_eq e
  have g15_3 : fld u 15 3 = 0 := by unfold fld; omega
  have g21_3 : fld u 21 3 = 0 := by unfold fld; omega
  refine ofRaw (congrArg some hN) hn (decodeRaw_scalar hs ?_)
  rw [scalar13 ho]
  simp [he, h0, h1, hr, g15_3, g21_3]

theorem RoundTrip.mset e d a : RoundTrip.Statement (.mset e d a) := by
  generalize hN : 0x8D000005 + ende e + d.toNat * 262144 + a.toNat * 4096 = u
  obtain ⟨hn, hs, ho, he, hr, h0, h1⟩ := layout28 13 5 _ (by decide) (by decide) rfl e d a u hN.symm
  have he' := Bool.toNat_lt e
  have bd := d.isLt
  have ba := a.isLt
  have hN' := ende_eq e
  have g0_6 : fld u 0 6 = 5 := by unfold fld at *; omega
  have g9_3 : fld u 9 3 = 0 := by unfold fld at *; omega
  have g21_3 : fld u 21 3 = 0 := by unfold fld; omega
  refine ofRaw (congrArg some hN) hn (decodeRaw_scalar hs ?_)
  rw [scalar13 ho]
  simp [he, h0, h1, hr, g0_6, g9_3, g21_3]

theorem RoundTrip.mget e d a : RoundTrip.Statement (.mget e d a) := by
  generalize hN : 0x8D000006 + ende e + d.toNat * 262144 + a.toNat * 4096 = u
  obtain ⟨hn, hs, ho, he, hr, h0, h1⟩ := layout29 13 6 _ (by decide) (by decide) rfl e d a u hN.symm
  have he' := Bool.toNat_lt e
  have bd := d.isLt
  have ba := a.isLt
  have hN' := ende_eq e
  have g0_6 : fld u 0 6 = 6 := by unfold fld at *; omega
  have g9_3 : fld u 9 3 = 0 := by unfold fld at *; omega
  have g15_3 : fld u 15 3 = 0 := by unfold fld; omega
  refine ofRaw (congrArg some hN) hn (decodeRaw_scalar hs ?_)
  rw [scalar13 ho]
  simp [he, h0, h1, hr, g0_6, g9_3, g15_3]

theorem RoundTrip.mpopc e d a : RoundTrip.Statement (.mpopc e d a) := by
  generalize hN : 0x8D000007 + ende e + d.toNat * 262144 + a.toNat * 4096 = u
  obtain ⟨hn, hs, ho, he, hr, h0, h1⟩ := layout29 13 7 _ (by decide) (by decide) rfl e d a u hN.symm
  have he' := Bool.toNat_lt e
  have bd := d.isLt
  have ba := a.isLt
  have hN' := ende_eq e
  have g0_6 : fld u 0 6 = 7 := by unfold fld at *; omega
  have g9_3 : fld u 9 3 = 0 := by unfold fld at *; omega
  have g15_3 : fld u 15 3 = 0 := by unfold fld; omega
  refine ofRaw (congrArg some hN) hn (decodeRaw_scalar hs ?_)
  rw [scalar13 ho]
  simp [he, h0, h1, hr, g0_6, g9_3, g15_3]

theorem RoundTrip.mfirst e d a : RoundTrip.Statement (.mfirst e d a) := by
  generalize hN : 0x8D000008 + ende e + d.toNat * 262144 + a.toNat * 4096 = u
  obtain ⟨hn, hs, ho, he, hr, h0, h1⟩ := layout29 13 8 _ (by decide) (by decide) rfl e d a u hN.symm
  have he' := Bool.toNat_lt e
  have bd := d.isLt
  have ba := a.isLt
  have hN' := ende_eq e
  have g0_6 : fld u 0 6 = 8 := by unfold fld at *; omega
  have g9_3 : fld u 9 3 = 0 := by unfold fld at *; omega
  have g15_3 : fld u 15 3 = 0 := by unfold fld; omega
  refine ofRaw (congrArg some hN) hn (decodeRaw_scalar hs ?_)
  rw [scalar13 ho]
  simp [he, h0, h1, hr, g0_6, g9_3, g15_3]

theorem RoundTrip.b e o : RoundTrip.Statement (.b e o) := by
  generalize hN : 0x8E000000 + ende e + o.toNat = u
  obtain ⟨hn, hs, ho, he, hr, h0⟩ := layout30 14 0 _ (by decide) (by decide) rfl e o u hN.symm
  refine ofRaw (congrArg some hN) hn (decodeRaw_scalar hs ?_)
  rw [scalar14 ho]
  simp [he, h0, hr]

theorem RoundTrip.bc e c o : RoundTrip.Statement (.bc e c o) := by
  generalize hN : 0x8F000000 + ende e + c.toNat * 1048576 + o.toNat = u
  obtain ⟨hn, hs, ho, he, h0, h1⟩ := layout31 15 _ (by decide) rfl e c o u hN.symm
  refine ofRaw (congrArg some hN) hn (decodeRaw_scalar hs ?_)
  rw [scalar15 ho, he, h0, h1]

theorem RoundTrip.bm e z m o : RoundTrip.Statement (.bm e z m o) := by
  generalize hN : 0x90000000 + ende e + z.toNat * 8388608 + m.toNat * 1048576 + o.toNat = u
  obtain ⟨hn, hs, ho, he, hr, h0, h1, h2⟩ := layout32 16 0 _ (by decide) (by decide) rfl e z m o u hN.symm
  refine ofRaw (congrArg some hN) hn (decodeRaw_scalar hs ?_)
  rw [scalar16 ho]
  simp [he, h0, h1, h2, hr]

theorem RoundTrip.bmG e z m o : RoundTrip.Statement (.bmG e z m o) := by
  generalize hN : 0x90080000 + ende e + z.toNat * 8388608 + m.toNat * 1048576 + o.toNat = u
  obtain ⟨hn, hs, ho, he, hr, h0, h1, h2⟩ := layout32 16 1 _ (by decide) (by decide) rfl e z m o u hN.symm
  refine ofRaw (congrArg some hN) hn (decodeRaw_scalar hs ?_)
  rw [scalar16 ho]
  simp [he, h0, h1, h2, hr]

theorem RoundTrip.bxPreq e p o : RoundTrip.Statement (.bxPreq e p o) := by
  generalize hN : 0x91000000 + ende e + p.toNat * 1048576 + o.toNat = u
  obtain ⟨hn, hs, ho, he, hr, h0, h1⟩ := layout33 17 0 _ (by decide) (by decide) rfl e p o u hN.symm
  have he' := Bool.toNat_lt e
  have bp := p.isLt
  have bo := o.isLt
  have hN' := ende_eq e
  have g15_5 : fld u 15 5 = 0 := by unfold fld; omega
  refine ofRaw (congrArg some hN) hn (decodeRaw_scalar hs ?_)
  rw [scalar17 ho]
  simp [he, h0, h1, hr, g15_5]

theorem RoundTrip.bxD e p n f o : RoundTrip.Statement (.bxD e p n f o) := by
  generalize hN : 0x91200000 + ende e + p.toNat * 1048576 + n.toNat * 131072 + f.toNat * 32768 + o.toNat = u
  obtain ⟨hn, hs, ho, he, hr, h0, h1, h2, h3⟩ := layout34 17 1 _ (by decide) (by decide) rfl e p n f o u hN.symm
  refine ofRaw (congrArg some hN) hn (decodeRaw_scalar hs ?_)
  rw [scalar17 ho]
  simp [he, h0, h1, h2, h3, hr]

theorem RoundTrip.call e o : RoundTrip.Statement (.call e o) := by
  generalize hN : 0x92000000 + ende e + o.toNat = u
  obtain ⟨hn, hs, ho, he, hr, h0⟩ := layout30 18 0 _ (by decide) (by decide) rfl e o u hN.symm
  refine ofRaw (congrArg some hN) hn (decodeRaw_scalar hs ?_)
  rw [scalar18 ho]
  simp [he, h0, hr]

theorem RoundTrip.jr e a : RoundTrip.Statement (.jr e a) := by
  generalize hN : 0x93000000 + ende e + a.toNat * 4096 = u
  obtain ⟨hn, hs, ho, he, hr, h0⟩ := layout35 19 0 _ (by decide) (by decide) rfl e a u hN.symm
  have he' := Bool.toNat_lt e
  have ba := a.isLt
  have hN' := ende_eq e
  have g0_12 : fld u 0 12 = 0 := by unfold fld; omega
  refine ofRaw (congrArg some hN) hn (decodeRaw_scalar hs ?_)
  rw [scalar19 ho]
  simp [he, h0, hr, g0_12]

theorem RoundTrip.couple e : RoundTrip.Statement (.couple e) := by
  generalize hN : 0x94000000 + ende e = u
  obtain ⟨hn, hs, ho, he, hr⟩ := layout36 20 0 _ (by decide) (by decide) rfl e u hN.symm
  refine ofRaw (congrArg some hN) hn (decodeRaw_scalar hs ?_)
  rw [scalar20 ho]
  simp [he, hr]

theorem RoundTrip.exit e : RoundTrip.Statement (.exit e) := by
  generalize hN : 0x95000000 + ende e = u
  obtain ⟨hn, hs, ho, he, hr⟩ := layout36 21 0 _ (by decide) (by decide) rfl e u hN.symm
  refine ofRaw (congrArg some hN) hn (decodeRaw_scalar hs ?_)
  rw [scalar21 ho]
  simp [he, hr]

theorem RoundTrip.wait e l s c t : RoundTrip.Statement (.wait e l s c t) := by
  generalize hN : 0x96000000 + ende e + l.toNat * 262144 + s.toNat * 4096 + c.toNat * 64 + t.toNat = u
  obtain ⟨hn, hs, ho, he, h0, h1, h2, h3⟩ := layout37 22 _ (by decide) rfl e l s c t u hN.symm
  refine ofRaw (congrArg some hN) hn (decodeRaw_scalar hs ?_)
  rw [scalar22 ho, he, h0, h1, h2, h3]

theorem RoundTrip.waitr e a c : RoundTrip.Statement (.waitr e a c) := by
  generalize hN : 0x97000000 + ende e + a.toNat * 4096 + c.toNat = u
  obtain ⟨hn, hs, ho, he, hr, h0, h1⟩ := layout38 23 0 _ (by decide) (by decide) rfl e a c u hN.symm
  have he' := Bool.toNat_lt e
  have ba := a.isLt
  have bc := c.isLt
  have hN' := ende_eq e
  have g2_10 : fld u 2 10 = 0 := by unfold fld; omega
  refine ofRaw (congrArg some hN) hn (decodeRaw_scalar hs ?_)
  rw [scalar23 ho]
  simp [he, h0, h1, hr, g2_10]

theorem RoundTrip.fence e s q : RoundTrip.Statement (.fence e s q) := by
  generalize hN : 0x98000000 + ende e + s.toNat * 4 + q.toNat = u
  obtain ⟨hn, hs, ho, he, hr, h0, h1⟩ := layout39 24 0 _ (by decide) (by decide) rfl e s q u hN.symm
  refine ofRaw (congrArg some hN) hn (decodeRaw_scalar hs ?_)
  rw [scalar24 ho]
  simp [he, h0, h1, hr]

theorem RoundTrip.xbegin e s o : RoundTrip.Statement (.xbegin e s o) := by
  generalize hN : 0x99800000 + ende e + s.toNat * 1048576 + o.toNat = u
  obtain ⟨hn, hs, ho, he, hr, h0, h1⟩ := layout40 25 1 _ (by decide) (by decide) rfl e s o u hN.symm
  refine ofRaw (congrArg some hN) hn (decodeRaw_scalar hs ?_)
  rw [scalar25 ho]
  simp [he, h0, h1, hr]

theorem RoundTrip.xbeginNoTarget e s : RoundTrip.Statement (.xbeginNoTarget e s) := by
  generalize hN : 0x99000000 + ende e + s.toNat * 1048576 = u
  obtain ⟨hn, hs, ho, he, hr, h0⟩ := layout41 25 0 _ (by decide) (by decide) rfl e s u hN.symm
  have he' := Bool.toNat_lt e
  have bs := s.isLt
  have hN' := ende_eq e
  have g0_20 : fld u 0 20 = 0 := by unfold fld; omega
  refine ofRaw (congrArg some hN) hn (decodeRaw_scalar hs ?_)
  rw [scalar25 ho]
  simp [he, h0, hr, g0_20]

theorem RoundTrip.xelse e o : RoundTrip.Statement (.xelse e o) := by
  generalize hN : 0x9A000000 + ende e + o.toNat = u
  obtain ⟨hn, hs, ho, he, hr, h0⟩ := layout30 26 0 _ (by decide) (by decide) rfl e o u hN.symm
  refine ofRaw (congrArg some hN) hn (decodeRaw_scalar hs ?_)
  rw [scalar26 ho]
  simp [he, h0, hr]

theorem RoundTrip.xend e : RoundTrip.Statement (.xend e) := by
  generalize hN : 0x9B000000 + ende e = u
  obtain ⟨hn, hs, ho, he, hr⟩ := layout36 27 0 _ (by decide) (by decide) rfl e u hN.symm
  refine ofRaw (congrArg some hN) hn (decodeRaw_scalar hs ?_)
  rw [scalar27 ho]
  simp [he, hr]

theorem RoundTrip.xretry e : RoundTrip.Statement (.xretry e) := by
  generalize hN : 0x9C000000 + ende e = u
  obtain ⟨hn, hs, ho, he, hr⟩ := layout36 28 0 _ (by decide) (by decide) rfl e u hN.symm
  refine ofRaw (congrArg some hN) hn (decodeRaw_scalar hs ?_)
  rw [scalar28 ho]
  simp [he, hr]

theorem RoundTrip.xabort e c : RoundTrip.Statement (.xabort e c) := by
  generalize hN : 0x9D000000 + ende e + c.toNat = u
  obtain ⟨hn, hs, ho, he, hr, h0⟩ := layout42 29 0 _ (by decide) (by decide) rfl e c u hN.symm
  refine ofRaw (congrArg some hN) hn (decodeRaw_scalar hs ?_)
  rw [scalar29 ho]
  simp [he, h0, hr]

theorem RoundTrip.xstat e d : RoundTrip.Statement (.xstat e d) := by
  generalize hN : 0x9E000000 + ende e + d.toNat * 262144 = u
  obtain ⟨hn, hs, ho, he, hr, h0⟩ := layout43 30 0 _ (by decide) (by decide) rfl e d u hN.symm
  refine ofRaw (congrArg some hN) hn (decodeRaw_scalar hs ?_)
  rw [scalar30 ho]
  simp [he, h0, hr]

theorem RoundTrip.barInit e a i : RoundTrip.Statement (.barInit e a i) := by
  generalize hN : 0x9F000000 + ende e + a.toNat * 4096 + i.toNat * 64 = u
  obtain ⟨hn, hs, ho, he, hr, h0, h1⟩ := layout44 31 0 _ (by decide) (by decide) rfl e a i u hN.symm
  have he' := Bool.toNat_lt e
  have ba := a.isLt
  have bi := i.isLt
  have hN' := ende_eq e
  have g0_6 : fld u 0 6 = 0 := by unfold fld; omega
  refine ofRaw (congrArg some hN) hn (decodeRaw_scalar hs ?_)
  rw [scalar31 ho]
  simp [he, h0, h1, hr, g0_6]

theorem RoundTrip.barArrive e d i : RoundTrip.Statement (.barArrive e d i) := by
  generalize hN : 0x9F000001 + ende e + d.toNat * 262144 + i.toNat * 64 = u
  obtain ⟨hn, hs, ho, he, hr, h0, h1⟩ := layout45 31 1 _ (by decide) (by decide) rfl e d i u hN.symm
  have he' := Bool.toNat_lt e
  have bd := d.isLt
  have bi := i.isLt
  have hN' := ende_eq e
  have g12_6 : fld u 12 6 = 0 := by unfold fld; omega
  refine ofRaw (congrArg some hN) hn (decodeRaw_scalar hs ?_)
  rw [scalar31 ho]
  simp [he, h0, h1, hr, g12_6]

theorem RoundTrip.barWait e a i : RoundTrip.Statement (.barWait e a i) := by
  generalize hN : 0x9F000002 + ende e + a.toNat * 4096 + i.toNat * 64 = u
  obtain ⟨hn, hs, ho, he, hr, h0, h1⟩ := layout46 31 2 _ (by decide) (by decide) rfl e a i u hN.symm
  have he' := Bool.toNat_lt e
  have ba := a.isLt
  have bi := i.isLt
  have hN' := ende_eq e
  have g18_6 : fld u 18 6 = 0 := by unfold fld; omega
  refine ofRaw (congrArg some hN) hn (decodeRaw_scalar hs ?_)
  rw [scalar31 ho]
  simp [he, h0, h1, hr, g18_6]

theorem RoundTrip.barSync e d i : RoundTrip.Statement (.barSync e d i) := by
  generalize hN : 0x9F000003 + ende e + d.toNat * 262144 + i.toNat * 64 = u
  obtain ⟨hn, hs, ho, he, hr, h0, h1⟩ := layout45 31 3 _ (by decide) (by decide) rfl e d i u hN.symm
  have he' := Bool.toNat_lt e
  have bd := d.isLt
  have bi := i.isLt
  have hN' := ende_eq e
  have g12_6 : fld u 12 6 = 0 := by unfold fld; omega
  refine ofRaw (congrArg some hN) hn (decodeRaw_scalar hs ?_)
  rw [scalar31 ho]
  simp [he, h0, h1, hr, g12_6]

theorem RoundTrip.barRead e d i : RoundTrip.Statement (.barRead e d i) := by
  generalize hN : 0x9F000004 + ende e + d.toNat * 262144 + i.toNat * 64 = u
  obtain ⟨hn, hs, ho, he, hr, h0, h1⟩ := layout45 31 4 _ (by decide) (by decide) rfl e d i u hN.symm
  have he' := Bool.toNat_lt e
  have bd := d.isLt
  have bi := i.isLt
  have hN' := ende_eq e
  have g12_6 : fld u 12 6 = 0 := by unfold fld; omega
  refine ofRaw (congrArg some hN) hn (decodeRaw_scalar hs ?_)
  rw [scalar31 ho]
  simp [he, h0, h1, hr, g12_6]

theorem RoundTrip.bufArm e a h : RoundTrip.Statement (.bufArm e a h) := by
  generalize hN : 0xA0000000 + ende e + a.toNat * 4096 + h.toNat * 64 = u
  obtain ⟨hn, hs, ho, he, hr, h0, h1⟩ := layout44 32 0 _ (by decide) (by decide) rfl e a h u hN.symm
  have he' := Bool.toNat_lt e
  have ba := a.isLt
  have bh := h.isLt
  have hN' := ende_eq e
  have g0_6 : fld u 0 6 = 0 := by unfold fld; omega
  refine ofRaw (congrArg some hN) hn (decodeRaw_scalar hs ?_)
  rw [scalar32 ho]
  simp [he, h0, h1, hr, g0_6]

theorem RoundTrip.bufArrive e a h : RoundTrip.Statement (.bufArrive e a h) := by
  generalize hN : 0xA0000001 + ende e + a.toNat * 4096 + h.toNat * 64 = u
  obtain ⟨hn, hs, ho, he, hr, h0, h1⟩ := layout46 32 1 _ (by decide) (by decide) rfl e a h u hN.symm
  have he' := Bool.toNat_lt e
  have ba := a.isLt
  have bh := h.isLt
  have hN' := ende_eq e
  have g18_6 : fld u 18 6 = 0 := by unfold fld; omega
  refine ofRaw (congrArg some hN) hn (decodeRaw_scalar hs ?_)
  rw [scalar32 ho]
  simp [he, h0, h1, hr, g18_6]

theorem RoundTrip.bufArriveCl e d a h : RoundTrip.Statement (.bufArriveCl e d a h) := by
  generalize hN : 0xA0000002 + ende e + d.toNat * 262144 + a.toNat * 4096 + h.toNat * 64 = u
  obtain ⟨hn, hs, ho, he, hr, h0, h1, h2⟩ := layout17 32 2 _ (by decide) (by decide) rfl e d a h u hN.symm
  refine ofRaw (congrArg some hN) hn (decodeRaw_scalar hs ?_)
  rw [scalar32 ho]
  simp [he, h0, h1, h2, hr]

theorem RoundTrip.bufWait e a h : RoundTrip.Statement (.bufWait e a h) := by
  generalize hN : 0xA0000003 + ende e + a.toNat * 4096 + h.toNat * 64 = u
  obtain ⟨hn, hs, ho, he, hr, h0, h1⟩ := layout46 32 3 _ (by decide) (by decide) rfl e a h u hN.symm
  have he' := Bool.toNat_lt e
  have ba := a.isLt
  have bh := h.isLt
  have hN' := ende_eq e
  have g18_6 : fld u 18 6 = 0 := by unfold fld; omega
  refine ofRaw (congrArg some hN) hn (decodeRaw_scalar hs ?_)
  rw [scalar32 ho]
  simp [he, h0, h1, hr, g18_6]

theorem RoundTrip.bufRel e h : RoundTrip.Statement (.bufRel e h) := by
  generalize hN : 0xA0000004 + ende e + h.toNat * 64 = u
  obtain ⟨hn, hs, ho, he, hr, h0⟩ := layout47 32 4 _ (by decide) (by decide) rfl e h u hN.symm
  have he' := Bool.toNat_lt e
  have bh := h.isLt
  have hN' := ende_eq e
  have g12_12 : fld u 12 12 = 0 := by unfold fld; omega
  refine ofRaw (congrArg some hN) hn (decodeRaw_scalar hs ?_)
  rw [scalar32 ho]
  simp [he, h0, hr, g12_12]

theorem RoundTrip.bufRgn e a h : RoundTrip.Statement (.bufRgn e a h) := by
  generalize hN : 0xA0000005 + ende e + a.toNat * 4096 + h.toNat * 64 = u
  obtain ⟨hn, hs, ho, he, hr, h0, h1⟩ := layout46 32 5 _ (by decide) (by decide) rfl e a h u hN.symm
  have he' := Bool.toNat_lt e
  have ba := a.isLt
  have bh := h.isLt
  have hN' := ende_eq e
  have g18_6 : fld u 18 6 = 0 := by unfold fld; omega
  refine ofRaw (congrArg some hN) hn (decodeRaw_scalar hs ?_)
  rw [scalar32 ho]
  simp [he, h0, h1, hr, g18_6]

theorem RoundTrip.bufStat e d h : RoundTrip.Statement (.bufStat e d h) := by
  generalize hN : 0xA0000006 + ende e + d.toNat * 262144 + h.toNat * 64 = u
  obtain ⟨hn, hs, ho, he, hr, h0, h1⟩ := layout45 32 6 _ (by decide) (by decide) rfl e d h u hN.symm
  have he' := Bool.toNat_lt e
  have bd := d.isLt
  have bh := h.isLt
  have hN' := ende_eq e
  have g12_6 : fld u 12 6 = 0 := by unfold fld; omega
  refine ofRaw (congrArg some hN) hn (decodeRaw_scalar hs ?_)
  rw [scalar32 ho]
  simp [he, h0, h1, hr, g12_6]

theorem RoundTrip.bufCount e d h : RoundTrip.Statement (.bufCount e d h) := by
  generalize hN : 0xA0000007 + ende e + d.toNat * 262144 + h.toNat * 64 = u
  obtain ⟨hn, hs, ho, he, hr, h0, h1⟩ := layout45 32 7 _ (by decide) (by decide) rfl e d h u hN.symm
  have he' := Bool.toNat_lt e
  have bd := d.isLt
  have bh := h.isLt
  have hN' := ende_eq e
  have g12_6 : fld u 12 6 = 0 := by unfold fld; omega
  refine ofRaw (congrArg some hN) hn (decodeRaw_scalar hs ?_)
  rw [scalar32 ho]
  simp [he, h0, h1, hr, g12_6]

theorem RoundTrip.cpy e d a : RoundTrip.Statement (.cpy e d a) := by
  generalize hN : 0xA1000000 + ende e + d.toNat * 262144 + a.toNat * 4096 = u
  obtain ⟨hn, hs, ho, he, hr, h0, h1⟩ := layout18 33 0 _ (by decide) (by decide) rfl e d a u hN.symm
  refine ofRaw (congrArg some hN) hn (decodeRaw_scalar hs ?_)
  rw [scalar33 ho]
  simp [he, h0, h1, hr]

theorem RoundTrip.tidSet e d a t : RoundTrip.Statement (.tidSet e d a t) := by
  generalize hN : 0xA2000000 + ende e + d.toNat * 262144 + a.toNat * 4096 + t.toNat * 64 = u
  obtain ⟨hn, hs, ho, he, hr, h0, h1, h2⟩ := layout17 34 0 _ (by decide) (by decide) rfl e d a t u hN.symm
  refine ofRaw (congrArg some hN) hn (decodeRaw_scalar hs ?_)
  rw [scalar34 ho]
  simp [he, h0, h1, h2, hr]

theorem RoundTrip.tidRd e d k t : RoundTrip.Statement (.tidRd e d k t) := by
  generalize hN : 0xA2000001 + ende e + d.toNat * 262144 + k.toNat * 4096 + t.toNat * 64 = u
  obtain ⟨hn, hs, ho, he, hr, h0, h1, h2⟩ := layout48 34 1 _ (by decide) (by decide) rfl e d k t u hN.symm
  have he' := Bool.toNat_lt e
  have bd := d.isLt
  have bk := k.isLt
  have bt := t.isLt
  have hN' := ende_eq e
  have g15_3 : fld u 15 3 = 0 := by unfold fld; omega
  refine ofRaw (congrArg some hN) hn (decodeRaw_scalar hs ?_)
  rw [scalar34 ho]
  simp [he, h0, h1, h2, hr, g15_3]

theorem RoundTrip.tidInv e t : RoundTrip.Statement (.tidInv e t) := by
  generalize hN : 0xA2000002 + ende e + t.toNat * 64 = u
  obtain ⟨hn, hs, ho, he, hr, h0⟩ := layout47 34 2 _ (by decide) (by decide) rfl e t u hN.symm
  have he' := Bool.toNat_lt e
  have bt := t.isLt
  have hN' := ende_eq e
  have g12_12 : fld u 12 12 = 0 := by unfold fld; omega
  refine ofRaw (congrArg some hN) hn (decodeRaw_scalar hs ?_)
  rw [scalar34 ho]
  simp [he, h0, hr, g12_12]

theorem RoundTrip.strBind e n t : RoundTrip.Statement (.strBind e n t) := by
  generalize hN : 0xA3000000 + ende e + n.toNat * 262144 + t.toNat * 64 = u
  obtain ⟨hn, hs, ho, he, hr, h0, h1⟩ := layout49 35 0 _ (by decide) (by decide) rfl e n t u hN.symm
  have he' := Bool.toNat_lt e
  have bn := n.isLt
  have bt := t.isLt
  have hN' := ende_eq e
  have g0_6 : fld u 0 6 = 0 := by unfold fld; omega
  have q0_18_2 : ¬ (fld u 0 18 = 2) := by unfold fld; omega
  refine ofRaw (congrArg some hN) hn (decodeRaw_scalar hs ?_)
  rw [scalar35 ho]
  simp [he, h0, h1, hr, g0_6, q0_18_2]

theorem RoundTrip.strBindE e n t : RoundTrip.Statement (.strBindE e n t) := by
  generalize hN : 0xA3000001 + ende e + n.toNat * 262144 + t.toNat * 64 = u
  obtain ⟨hn, hs, ho, he, hr, h0, h1⟩ := layout45 35 1 _ (by decide) (by decide) rfl e n t u hN.symm
  have he' := Bool.toNat_lt e
  have bn := n.isLt
  have bt := t.isLt
  have hN' := ende_eq e
  have g12_6 : fld u 12 6 = 0 := by unfold fld; omega
  have q0_18_2 : ¬ (fld u 0 18 = 2) := by unfold fld at *; omega
  refine ofRaw (congrArg some hN) hn (decodeRaw_scalar hs ?_)
  rw [scalar35 ho]
  simp [he, h0, h1, hr, g12_6, q0_18_2]

theorem RoundTrip.strUnbind e n : RoundTrip.Statement (.strUnbind e n) := by
  generalize hN : 0xA3000002 + ende e + n.toNat * 262144 = u
  obtain ⟨hn, hs, ho, he, hr, h0⟩ := layout43 35 2 _ (by decide) (by decide) rfl e n u hN.symm
  refine ofRaw (congrArg some hN) hn (decodeRaw_scalar hs ?_)
  rw [scalar35 ho]
  simp [he, h0, hr]

theorem RoundTrip.strPeek e d n : RoundTrip.Statement (.strPeek e d n) := by
  generalize hN : 0xA3000003 + ende e + d.toNat * 262144 + n.toNat * 4096 = u
  obtain ⟨hn, hs, ho, he, hr, h0, h1⟩ := layout18 35 3 _ (by decide) (by decide) rfl e d n u hN.symm
  have g0_6 : fld u 0 6 = 3 := by unfold fld at *; omega
  have q0_18_2 : ¬ (fld u 0 18 = 2) := by unfold fld at *; omega
  refine ofRaw (congrArg some hN) hn (decodeRaw_scalar hs ?_)
  rw [scalar35 ho]
  simp [he, h0, h1, hr, g0_6, q0_18_2]

theorem RoundTrip.strSeek e n a : RoundTrip.Statement (.strSeek e n a) := by
  generalize hN : 0xA3000004 + ende e + n.toNat * 262144 + a.toNat * 4096 = u
  obtain ⟨hn, hs, ho, he, hr, h0, h1⟩ := layout18 35 4 _ (by decide) (by decide) rfl e n a u hN.symm
  have g0_6 : fld u 0 6 = 4 := by unfold fld at *; omega
  have q0_18_2 : ¬ (fld u 0 18 = 2) := by unfold fld at *; omega
  refine ofRaw (congrArg some hN) hn (decodeRaw_scalar hs ?_)
  rw [scalar35 ho]
  simp [he, h0, h1, hr, g0_6, q0_18_2]

theorem RoundTrip.resLoad e d a b : RoundTrip.Statement (.resLoad e d a b) := by
  generalize hN : 0xA4000000 + ende e + d.toNat * 262144 + a.toNat * 4096 + b.toNat * 64 = u
  obtain ⟨hn, hs, ho, he, hr, h0, h1, h2⟩ := layout17 36 0 _ (by decide) (by decide) rfl e d a b u hN.symm
  have q0_18_5 : ¬ (fld u 0 18 = 5) := by unfold fld at *; omega
  have q0_12_1 : ¬ (fld u 0 12 = 1) := by unfold fld at *; omega
  have q0_12_2 : ¬ (fld u 0 12 = 2) := by unfold fld at *; omega
  have q0_12_3 : ¬ (fld u 0 12 = 3) := by unfold fld at *; omega
  have q0_12_4 : ¬ (fld u 0 12 = 4) := by unfold fld at *; omega
  refine ofRaw (congrArg some hN) hn (decodeRaw_scalar hs ?_)
  rw [scalar36 ho]
  simp [he, h0, h1, h2, hr, q0_18_5, q0_12_1, q0_12_2, q0_12_3, q0_12_4]

theorem RoundTrip.resPin e d a : RoundTrip.Statement (.resPin e d a) := by
  generalize hN : 0xA4000001 + ende e + d.toNat * 262144 + a.toNat * 4096 = u
  obtain ⟨hn, hs, ho, he, hr, h0, h1⟩ := layout18 36 1 _ (by decide) (by decide) rfl e d a u hN.symm
  have q0_18_5 : ¬ (fld u 0 18 = 5) := by unfold fld at *; omega
  refine ofRaw (congrArg some hN) hn (decodeRaw_scalar hs ?_)
  rw [scalar36 ho]
  simp [he, h0, h1, hr, q0_18_5]

theorem RoundTrip.resUnpin e d a : RoundTrip.Statement (.resUnpin e d a) := by
  generalize hN : 0xA4000002 + ende e + d.toNat * 262144 + a.toNat * 4096 = u
  obtain ⟨hn, hs, ho, he, hr, h0, h1⟩ := layout18 36 2 _ (by decide) (by decide) rfl e d a u hN.symm
  have q0_18_5 : ¬ (fld u 0 18 = 5) := by unfold fld at *; omega
  refine ofRaw (congrArg some hN) hn (decodeRaw_scalar hs ?_)
  rw [scalar36 ho]
  simp [he, h0, h1, hr, q0_18_5]

theorem RoundTrip.resRevoke e d a : RoundTrip.Statement (.resRevoke e d a) := by
  generalize hN : 0xA4000003 + ende e + d.toNat * 262144 + a.toNat * 4096 = u
  obtain ⟨hn, hs, ho, he, hr, h0, h1⟩ := layout18 36 3 _ (by decide) (by decide) rfl e d a u hN.symm
  have q0_18_5 : ¬ (fld u 0 18 = 5) := by unfold fld at *; omega
  refine ofRaw (congrArg some hN) hn (decodeRaw_scalar hs ?_)
  rw [scalar36 ho]
  simp [he, h0, h1, hr, q0_18_5]

theorem RoundTrip.resStat e d a : RoundTrip.Statement (.resStat e d a) := by
  generalize hN : 0xA4000004 + ende e + d.toNat * 262144 + a.toNat * 4096 = u
  obtain ⟨hn, hs, ho, he, hr, h0, h1⟩ := layout18 36 4 _ (by decide) (by decide) rfl e d a u hN.symm
  have q0_18_5 : ¬ (fld u 0 18 = 5) := by unfold fld at *; omega
  refine ofRaw (congrArg some hN) hn (decodeRaw_scalar hs ?_)
  rw [scalar36 ho]
  simp [he, h0, h1, hr, q0_18_5]

theorem RoundTrip.resUse e d : RoundTrip.Statement (.resUse e d) := by
  generalize hN : 0xA4000005 + ende e + d.toNat * 262144 = u
  obtain ⟨hn, hs, ho, he, hr, h0⟩ := layout43 36 5 _ (by decide) (by decide) rfl e d u hN.symm
  refine ofRaw (congrArg some hN) hn (decodeRaw_scalar hs ?_)
  rw [scalar36 ho]
  simp [he, h0, hr]

theorem RoundTrip.accAlloc e d a : RoundTrip.Statement (.accAlloc e d a) := by
  generalize hN : 0xA5000000 + ende e + d.toNat * 262144 + a.toNat * 4096 = u
  obtain ⟨hn, hs, ho, he, hr, h0, h1⟩ := layout18 37 0 _ (by decide) (by decide) rfl e d a u hN.symm
  refine ofRaw (congrArg some hN) hn (decodeRaw_scalar hs ?_)
  rw [scalar37 ho]
  simp [he, h0, h1, hr]

theorem RoundTrip.accFree e a : RoundTrip.Statement (.accFree e a) := by
  generalize hN : 0xA5000001 + ende e + a.toNat * 4096 = u
  obtain ⟨hn, hs, ho, he, hr, h0⟩ := layout50 37 1 _ (by decide) (by decide) rfl e a u hN.symm
  have he' := Bool.toNat_lt e
  have ba := a.isLt
  have hN' := ende_eq e
  have g18_6 : fld u 18 6 = 0 := by unfold fld; omega
  refine ofRaw (congrArg some hN) hn (decodeRaw_scalar hs ?_)
  rw [scalar37 ho]
  simp [he, h0, hr, g18_6]

theorem RoundTrip.accZero e a : RoundTrip.Statement (.accZero e a) := by
  generalize hN : 0xA5000002 + ende e + a.toNat * 4096 = u
  obtain ⟨hn, hs, ho, he, hr, h0⟩ := layout50 37 2 _ (by decide) (by decide) rfl e a u hN.symm
  have he' := Bool.toNat_lt e
  have ba := a.isLt
  have hN' := ende_eq e
  have g18_6 : fld u 18 6 = 0 := by unfold fld; omega
  refine ofRaw (congrArg some hN) hn (decodeRaw_scalar hs ?_)
  rw [scalar37 ho]
  simp [he, h0, hr, g18_6]

theorem RoundTrip.collPost e d a : RoundTrip.Statement (.collPost e d a) := by
  generalize hN : 0xA6000000 + ende e + d.toNat * 262144 + a.toNat * 4096 = u
  obtain ⟨hn, hs, ho, he, hr, h0, h1⟩ := layout18 38 0 _ (by decide) (by decide) rfl e d a u hN.symm
  refine ofRaw (congrArg some hN) hn (decodeRaw_scalar hs ?_)
  rw [scalar38 ho]
  simp [he, h0, h1, hr]

theorem RoundTrip.collCancel e d a : RoundTrip.Statement (.collCancel e d a) := by
  generalize hN : 0xA6000001 + ende e + d.toNat * 262144 + a.toNat * 4096 = u
  obtain ⟨hn, hs, ho, he, hr, h0, h1⟩ := layout18 38 1 _ (by decide) (by decide) rfl e d a u hN.symm
  refine ofRaw (congrArg some hN) hn (decodeRaw_scalar hs ?_)
  rw [scalar38 ho]
  simp [he, h0, h1, hr]

theorem RoundTrip.collStat e d a : RoundTrip.Statement (.collStat e d a) := by
  generalize hN : 0xA6000002 + ende e + d.toNat * 262144 + a.toNat * 4096 = u
  obtain ⟨hn, hs, ho, he, hr, h0, h1⟩ := layout18 38 2 _ (by decide) (by decide) rfl e d a u hN.symm
  refine ofRaw (congrArg some hN) hn (decodeRaw_scalar hs ?_)
  rw [scalar38 ho]
  simp [he, h0, h1, hr]

theorem RoundTrip.trig e : RoundTrip.Statement (.trig e) := by
  generalize hN : 0xA7000000 + ende e = u
  obtain ⟨hn, hs, ho, he, hr⟩ := layout36 39 0 _ (by decide) (by decide) rfl e u hN.symm
  refine ofRaw (congrArg some hN) hn (decodeRaw_scalar hs ?_)
  rw [scalar39 ho]
  simp [he, hr]

theorem RoundTrip.ldsB32 e d a i : RoundTrip.Statement (.ldsB32 e d a i) := by
  generalize hN : 0xA9000000 + ende e + d.toNat * 262144 + a.toNat * 4096 + i.toNat = u
  obtain ⟨hn, hs, ho, he, h0, h1, h2⟩ := layout20 41 _ (by decide) rfl e d a i u hN.symm
  refine ofRaw (congrArg some hN) hn (decodeRaw_scalar hs ?_)
  rw [scalar41 ho, he, h0, h1, h2]

theorem RoundTrip.ldsB64 e d a i : RoundTrip.Statement (.ldsB64 e d a i) := by
  generalize hN : 0xAA000000 + ende e + d.toNat * 262144 + a.toNat * 4096 + i.toNat = u
  obtain ⟨hn, hs, ho, he, h0, h1, h2⟩ := layout20 42 _ (by decide) rfl e d a i u hN.symm
  refine ofRaw (congrArg some hN) hn (decodeRaw_scalar hs ?_)
  rw [scalar42 ho, he, h0, h1, h2]

theorem RoundTrip.stsB32 e d a i : RoundTrip.Statement (.stsB32 e d a i) := by
  generalize hN : 0xAB000000 + ende e + d.toNat * 262144 + a.toNat * 4096 + i.toNat = u
  obtain ⟨hn, hs, ho, he, h0, h1, h2⟩ := layout20 43 _ (by decide) rfl e d a i u hN.symm
  refine ofRaw (congrArg some hN) hn (decodeRaw_scalar hs ?_)
  rw [scalar43 ho, he, h0, h1, h2]

theorem RoundTrip.stsB64 e d a i : RoundTrip.Statement (.stsB64 e d a i) := by
  generalize hN : 0xAC000000 + ende e + d.toNat * 262144 + a.toNat * 4096 + i.toNat = u
  obtain ⟨hn, hs, ho, he, h0, h1, h2⟩ := layout20 44 _ (by decide) rfl e d a i u hN.symm
  refine ofRaw (congrArg some hN) hn (decodeRaw_scalar hs ?_)
  rw [scalar44 ho, he, h0, h1, h2]

theorem RoundTrip.satom e d a b o p : RoundTrip.Statement (.satom e d a b o p) := by
  generalize hN : 0xAD000000 + ende e + d.toNat * 262144 + a.toNat * 4096 + b.toNat * 64 + o.toNat * 8 + p.toNat = u
  obtain ⟨hn, hs, ho, he, h0, h1, h2, h3, h4⟩ := layout51 45 _ (by decide) rfl e d a b o p u hN.symm
  refine ofRaw (congrArg some hN) hn (decodeRaw_scalar hs ?_)
  rw [scalar45 ho, he, h0, h1, h2, h3, h4]

theorem RoundTrip.sysrd e d i : RoundTrip.Statement (.sysrd e d i) := by
  generalize hN : 0xAE000000 + ende e + d.toNat * 262144 + i.toNat = u
  obtain ⟨hn, hs, ho, he, hr, h0, h1⟩ := layout52 46 0 _ (by decide) (by decide) rfl e d i u hN.symm
  refine ofRaw (congrArg some hN) hn (decodeRaw_scalar hs ?_)
  rw [scalar46 ho]
  simp [he, h0, h1, hr]

theorem RoundTrip.syswr e a i : RoundTrip.Statement (.syswr e a i) := by
  generalize hN : 0xAF000000 + ende e + a.toNat * 4096 + i.toNat = u
  obtain ⟨hn, hs, ho, he, hr, h0, h1⟩ := layout53 47 0 _ (by decide) (by decide) rfl e a i u hN.symm
  refine ofRaw (congrArg some hN) hn (decodeRaw_scalar hs ?_)
  rw [scalar47 ho]
  simp [he, h0, h1, hr]

theorem RoundTrip.trap e i : RoundTrip.Statement (.trap e i) := by
  generalize hN : 0xB0000000 + ende e + i.toNat = u
  obtain ⟨hn, hs, ho, he, hr, h0⟩ := layout54 48 0 _ (by decide) (by decide) rfl e i u hN.symm
  refine ofRaw (congrArg some hN) hn (decodeRaw_scalar hs ?_)
  rw [scalar48 ho]
  simp [he, h0, hr]

theorem RoundTrip.brk e t : RoundTrip.Statement (.brk e t) := by
  generalize hN : 0xB1000000 + ende e + t.toNat = u
  obtain ⟨hn, hs, ho, he, hr, h0⟩ := layout55 49 0 _ (by decide) (by decide) rfl e t u hN.symm
  refine ofRaw (congrArg some hN) hn (decodeRaw_scalar hs ?_)
  rw [scalar49 ho]
  simp [he, h0, hr]

theorem RoundTrip.rte e : RoundTrip.Statement (.rte e) := by
  generalize hN : 0xB2000000 + ende e = u
  obtain ⟨hn, hs, ho, he, hr⟩ := layout36 50 0 _ (by decide) (by decide) rfl e u hN.symm
  refine ofRaw (congrArg some hN) hn (decodeRaw_scalar hs ?_)
  rw [scalar50 ho]
  simp [he, hr]

theorem RoundTrip.yield e : RoundTrip.Statement (.yield e) := by
  generalize hN : 0xB3000000 + ende e = u
  obtain ⟨hn, hs, ho, he, hr⟩ := layout36 51 0 _ (by decide) (by decide) rfl e u hN.symm
  refine ofRaw (congrArg some hN) hn (decodeRaw_scalar hs ?_)
  rw [scalar51 ho]
  simp [he, hr]

theorem RoundTrip.nop : RoundTrip.Statement (.nop) := ofRaw rfl (by decide) (by decide)
theorem RoundTrip.memlocQuery e a : RoundTrip.Statement (.memlocQuery e a) := noWord rfl
theorem RoundTrip.fmodeWrite e a : RoundTrip.Statement (.fmodeWrite e a) := noWord rfl
theorem RoundTrip.satfClear e a : RoundTrip.Statement (.satfClear e a) := noWord rfl
theorem RoundTrip.rqdataWrite e a : RoundTrip.Statement (.rqdataWrite e a) := noWord rfl
theorem RoundTrip.groupSelect site : RoundTrip.Statement (.groupSelect site) := noWord rfl
theorem RoundTrip.walkEngineGrant die : RoundTrip.Statement (.walkEngineGrant die) := noWord rfl
theorem RoundTrip.atsTranslationCompletion fn asid ioPage log2 grant r w : RoundTrip.Statement (.atsTranslationCompletion fn asid ioPage log2 grant r w) := noWord rfl
theorem RoundTrip.atsInvalidateRequest fn base len : RoundTrip.Statement (.atsInvalidateRequest fn base len) := noWord rfl
theorem RoundTrip.pageResponse fn ioPage ok : RoundTrip.Statement (.pageResponse fn ioPage ok) := noWord rfl
theorem RoundTrip.memoryAccessCompletion uid grp : RoundTrip.Statement (.memoryAccessCompletion uid grp) := noWord rfl
theorem RoundTrip.stalledRecordPost part : RoundTrip.Statement (.stalledRecordPost part) := noWord rfl
theorem RoundTrip.tqheadWrite part v : RoundTrip.Statement (.tqheadWrite part v) := noWord rfl
theorem RoundTrip.tqctlWrite part v : RoundTrip.Statement (.tqctlWrite part v) := noWord rfl
theorem RoundTrip.commitLockGrant uid grp : RoundTrip.Statement (.commitLockGrant uid grp) := noWord rfl
theorem RoundTrip.overflowWake uid grp : RoundTrip.Statement (.overflowWake uid grp) := noWord rfl
theorem RoundTrip.homeSliceRead die dpa vdev cls : RoundTrip.Statement (.homeSliceRead die dpa vdev cls) := noWord rfl
theorem RoundTrip.homeSliceWrite die dpa vdev cls n v : RoundTrip.Statement (.homeSliceWrite die dpa vdev cls n v) := noWord rfl
theorem RoundTrip.homeSliceAtomic die dpa vdev op x y : RoundTrip.Statement (.homeSliceAtomic die dpa vdev op x y) := noWord rfl
theorem RoundTrip.moved die parcel : RoundTrip.Statement (.moved die parcel) := noWord rfl
theorem RoundTrip.rsdrop v : RoundTrip.Statement (.rsdrop v) := noWord rfl
theorem RoundTrip.resurveyTakeParcel die frame : RoundTrip.Statement (.resurveyTakeParcel die frame) := noWord rfl
theorem RoundTrip.resurveyLineCopy die : RoundTrip.Statement (.resurveyLineCopy die) := noWord rfl
theorem RoundTrip.parcelSwitch die : RoundTrip.Statement (.parcelSwitch die) := noWord rfl
theorem RoundTrip.switchDrainComplete die : RoundTrip.Statement (.switchDrainComplete die) := noWord rfl
theorem RoundTrip.singleParcelMove parcel pos : RoundTrip.Statement (.singleParcelMove parcel pos) := noWord rfl
theorem RoundTrip.baseDieRead stack hdr : RoundTrip.Statement (.baseDieRead stack hdr) := noWord rfl
theorem RoundTrip.baseDieWrite stack hdr data : RoundTrip.Statement (.baseDieWrite stack hdr data) := noWord rfl
theorem RoundTrip.baseDieMaskedWrite stack hdr be data : RoundTrip.Statement (.baseDieMaskedWrite stack hdr be data) := noWord rfl
theorem RoundTrip.refreshRate stack hdr : RoundTrip.Statement (.refreshRate stack hdr) := noWord rfl
theorem RoundTrip.selfRefreshEntryRequest stack hdr : RoundTrip.Statement (.selfRefreshEntryRequest stack hdr) := noWord rfl
theorem RoundTrip.selfRefreshExitRequest stack hdr : RoundTrip.Statement (.selfRefreshExitRequest stack hdr) := noWord rfl
theorem RoundTrip.neighbourRefresh stack hdr : RoundTrip.Statement (.neighbourRefresh stack hdr) := noWord rfl
theorem RoundTrip.baseDieReply stack idx : RoundTrip.Statement (.baseDieReply stack idx) := noWord rfl
theorem RoundTrip.tagTimeout stack die p tag : RoundTrip.Statement (.tagTimeout stack die p tag) := noWord rfl
theorem RoundTrip.tokenRefill : RoundTrip.Statement (.tokenRefill) := noWord rfl
theorem RoundTrip.refreshDue stack p : RoundTrip.Statement (.refreshDue stack p) := noWord rfl
theorem RoundTrip.hotRowWindowEnd stack : RoundTrip.Statement (.hotRowWindowEnd stack) := noWord rfl
theorem RoundTrip.selfRefreshTimerExpiry stack p : RoundTrip.Statement (.selfRefreshTimerExpiry stack p) := noWord rfl
theorem RoundTrip.selfRefreshEntryComplete stack p : RoundTrip.Statement (.selfRefreshEntryComplete stack p) := noWord rfl
theorem RoundTrip.selfRefreshExitComplete stack p : RoundTrip.Statement (.selfRefreshExitComplete stack p) := noWord rfl
theorem RoundTrip.perambulatorLineRead die : RoundTrip.Statement (.perambulatorLineRead die) := noWord rfl
theorem RoundTrip.rowLogExpiry stack : RoundTrip.Statement (.rowLogExpiry stack) := noWord rfl
theorem RoundTrip.mbxTrain stack fail linkErr : RoundTrip.Statement (.mbxTrain stack fail linkErr) := noWord rfl
theorem RoundTrip.mbxRowRepair stack : RoundTrip.Statement (.mbxRowRepair stack) := noWord rfl
theorem RoundTrip.mbxSetRefresh stack : RoundTrip.Statement (.mbxSetRefresh stack) := noWord rfl
theorem RoundTrip.mbxReadRowLog stack : RoundTrip.Statement (.mbxReadRowLog stack) := noWord rfl
theorem RoundTrip.mbxRepairRowsLeft stack : RoundTrip.Statement (.mbxRepairRowsLeft stack) := noWord rfl
theorem RoundTrip.cecntWrite index : RoundTrip.Statement (.cecntWrite index) := noWord rfl
theorem RoundTrip.bufferArrival cluster : RoundTrip.Statement (.bufferArrival cluster) := noWord rfl
theorem RoundTrip.copyIssue uid : RoundTrip.Statement (.copyIssue uid) := noWord rfl
theorem RoundTrip.copyComplete uid slot : RoundTrip.Statement (.copyComplete uid slot) := noWord rfl
theorem RoundTrip.residencyFillComplete eng slot : RoundTrip.Statement (.residencyFillComplete eng slot) := noWord rfl
theorem RoundTrip.engineGrant eng : RoundTrip.Statement (.engineGrant eng) := noWord rfl
theorem RoundTrip.scrubComplete core : RoundTrip.Statement (.scrubComplete core) := noWord rfl
theorem RoundTrip.notify fn q v : RoundTrip.Statement (.notify fn q v) := noWord rfl
theorem RoundTrip.qctlWrite fn q v : RoundTrip.Statement (.qctlWrite fn q v) := noWord rfl
theorem RoundTrip.nopCommand fn q : RoundTrip.Statement (.nopCommand fn q) := noWord rfl
theorem RoundTrip.launch fn q : RoundTrip.Statement (.launch fn q) := noWord rfl
theorem RoundTrip.indirect fn q : RoundTrip.Statement (.indirect fn q) := noWord rfl
theorem RoundTrip.signal fn q : RoundTrip.Statement (.signal fn q) := noWord rfl
theorem RoundTrip.waiteq fn q : RoundTrip.Statement (.waiteq fn q) := noWord rfl
theorem RoundTrip.qfence fn q : RoundTrip.Statement (.qfence fn q) := noWord rfl
theorem RoundTrip.invalStage1 fn q : RoundTrip.Statement (.invalStage1 fn q) := noWord rfl
theorem RoundTrip.invalStage2 fn q : RoundTrip.Statement (.invalStage2 fn q) := noWord rfl
theorem RoundTrip.invalPartition fn q : RoundTrip.Statement (.invalPartition fn q) := noWord rfl
theorem RoundTrip.replayRetry fn q : RoundTrip.Statement (.replayRetry fn q) := noWord rfl
theorem RoundTrip.replayFail fn q : RoundTrip.Statement (.replayFail fn q) := noWord rfl
theorem RoundTrip.partcfg fn q : RoundTrip.Statement (.partcfg fn q) := noWord rfl
theorem RoundTrip.partrst fn q : RoundTrip.Statement (.partrst fn q) := noWord rfl
theorem RoundTrip.teamAdmission launch core : RoundTrip.Statement (.teamAdmission launch core) := noWord rfl
theorem RoundTrip.worldSwitchQuantumExpiry part : RoundTrip.Statement (.worldSwitchQuantumExpiry part) := noWord rfl
theorem RoundTrip.pluginTimeout part : RoundTrip.Statement (.pluginTimeout part) := noWord rfl
theorem RoundTrip.psaveDeadlineExpiry uid : RoundTrip.Statement (.psaveDeadlineExpiry uid) := noWord rfl
theorem RoundTrip.contextSave uid evict : RoundTrip.Statement (.contextSave uid evict) := noWord rfl
theorem RoundTrip.contextRestore uid core : RoundTrip.Statement (.contextRestore uid core) := noWord rfl
theorem RoundTrip.shareMeasurement : RoundTrip.Statement (.shareMeasurement) := noWord rfl
theorem RoundTrip.hostBar4Read fn off n : RoundTrip.Statement (.hostBar4Read fn off n) := noWord rfl
theorem RoundTrip.hostBar4Write fn off n v : RoundTrip.Statement (.hostBar4Write fn off n v) := noWord rfl
theorem RoundTrip.hostAtomicop fn off n op x y : RoundTrip.Statement (.hostAtomicop fn off n op x y) := noWord rfl
theorem RoundTrip.functionLevelReset fn : RoundTrip.Statement (.functionLevelReset fn) := noWord rfl
theorem RoundTrip.ualinkInboundRead src tag off n : RoundTrip.Statement (.ualinkInboundRead src tag off n) := noWord rfl
theorem RoundTrip.ualinkInboundWrite src tag off n v : RoundTrip.Statement (.ualinkInboundWrite src tag off n v) := noWord rfl
theorem RoundTrip.ualinkInboundAtomic src tag off n op x y : RoundTrip.Statement (.ualinkInboundAtomic src tag off n op x y) := noWord rfl
theorem RoundTrip.peerTranslationQuery src off : RoundTrip.Statement (.peerTranslationQuery src off) := noWord rfl
theorem RoundTrip.replayReplyCacheExpiry src : RoundTrip.Statement (.replayReplyCacheExpiry src) := noWord rfl
theorem RoundTrip.ualinkCompletion dest tag ok v : RoundTrip.Statement (.ualinkCompletion dest tag ok v) := noWord rfl
theorem RoundTrip.peerRequestTimeout dest : RoundTrip.Statement (.peerRequestTimeout dest) := noWord rfl
theorem RoundTrip.assignNum die comm src term tag : RoundTrip.Statement (.assignNum die comm src term tag) := noWord rfl
theorem RoundTrip.numbered die comm frm tag n : RoundTrip.Statement (.numbered die comm frm tag n) := noWord rfl
theorem RoundTrip.cancel die comm src term tag : RoundTrip.Statement (.cancel die comm src term tag) := noWord rfl
theorem RoundTrip.reply die comm frm tag status : RoundTrip.Statement (.reply die comm frm tag status) := noWord rfl
theorem RoundTrip.hole die comm frm tag n : RoundTrip.Statement (.hole die comm frm tag n) := noWord rfl
theorem RoundTrip.ready die comm src term n : RoundTrip.Statement (.ready die comm src term n) := noWord rfl
theorem RoundTrip.go die comm frm n : RoundTrip.Statement (.go die comm frm n) := noWord rfl
theorem RoundTrip.done die comm src term n : RoundTrip.Statement (.done die comm src term n) := noWord rfl
theorem RoundTrip.collect die comm frm : RoundTrip.Statement (.collect die comm frm) := noWord rfl
theorem RoundTrip.report die comm src term next known sent gone posted : RoundTrip.Statement (.report die comm src term next known sent gone posted) := noWord rfl
theorem RoundTrip.failoverRequest die comm frm : RoundTrip.Statement (.failoverRequest die comm frm) := noWord rfl
theorem RoundTrip.sequencerTimeout die comm : RoundTrip.Statement (.sequencerTimeout die comm) := noWord rfl
theorem RoundTrip.collectiveLocalCompletion die comm : RoundTrip.Statement (.collectiveLocalCompletion die comm) := noWord rfl
theorem RoundTrip.iftRun core given : RoundTrip.Statement (.iftRun core given) := noWord rfl
theorem RoundTrip.linkInjectorArm port v : RoundTrip.Statement (.linkInjectorArm port v) := noWord rfl
theorem RoundTrip.linkInjection port : RoundTrip.Statement (.linkInjection port) := noWord rfl
theorem RoundTrip.stallSample site : RoundTrip.Statement (.stallSample site) := noWord rfl
theorem RoundTrip.trheadWrite part v : RoundTrip.Statement (.trheadWrite part v) := noWord rfl
theorem RoundTrip.dbgstop part v : RoundTrip.Statement (.dbgstop part v) := noWord rfl
theorem RoundTrip.ctrClaim fn part bank : RoundTrip.Statement (.ctrClaim fn part bank) := noWord rfl
theorem RoundTrip.ctrRelease fn part bank : RoundTrip.Statement (.ctrRelease fn part bank) := noWord rfl
theorem RoundTrip.ctrselWrite fn part bank k v : RoundTrip.Statement (.ctrselWrite fn part bank k v) := noWord rfl
theorem RoundTrip.capselWrite fn part bank v : RoundTrip.Statement (.capselWrite fn part bank v) := noWord rfl
theorem RoundTrip.fwLoadPlugin : RoundTrip.Statement (.fwLoadPlugin) := noWord rfl
theorem RoundTrip.fwUnloadPlugin : RoundTrip.Statement (.fwUnloadPlugin) := noWord rfl
theorem RoundTrip.fwInstallCommunicator : RoundTrip.Statement (.fwInstallCommunicator) := noWord rfl
theorem RoundTrip.fwRemoveCommunicator : RoundTrip.Statement (.fwRemoveCommunicator) := noWord rfl
theorem RoundTrip.fwWritePeerAccess : RoundTrip.Statement (.fwWritePeerAccess) := noWord rfl
theorem RoundTrip.fwReadmitPeer : RoundTrip.Statement (.fwReadmitPeer) := noWord rfl
theorem RoundTrip.fwOrderFailover : RoundTrip.Statement (.fwOrderFailover) := noWord rfl
theorem RoundTrip.fwAttestationReport : RoundTrip.Statement (.fwAttestationReport) := noWord rfl
theorem RoundTrip.exportPart : RoundTrip.Statement (.exportPart) := noWord rfl
theorem RoundTrip.importPart : RoundTrip.Statement (.importPart) := noWord rfl
theorem RoundTrip.hold : RoundTrip.Statement (.hold) := noWord rfl
theorem RoundTrip.release : RoundTrip.Statement (.release) := noWord rfl
theorem RoundTrip.fwStoreAccid : RoundTrip.Statement (.fwStoreAccid) := noWord rfl
theorem RoundTrip.startUp failed romFault : RoundTrip.Statement (.startUp failed romFault) := noWord rfl
theorem RoundTrip.pwrmonUpdate i avg : RoundTrip.Statement (.pwrmonUpdate i avg) := noWord rfl
theorem RoundTrip.pwrmonWrite i : RoundTrip.Statement (.pwrmonWrite i) := noWord rfl
theorem RoundTrip.thermalLimit isStack i : RoundTrip.Statement (.thermalLimit isStack i) := noWord rfl
theorem RoundTrip.registerWrite port bar off v : RoundTrip.Statement (.registerWrite port bar off v) := noWord rfl
theorem RoundTrip.ualinkLinkDown port : RoundTrip.Statement (.ualinkLinkDown port) := noWord rfl
theorem RoundTrip.ualinkLinkUp port : RoundTrip.Statement (.ualinkLinkUp port) := noWord rfl
theorem RoundTrip.baseDieLinkFailure stack : RoundTrip.Statement (.baseDieLinkFailure stack) := noWord rfl

end Sys2Proof.Laws
end

