-- ==== Sys2Proof/Laws/Traps.lean ====
section
/-! SUPPORT. Taking a trap, said once: what a delivered trap of the running group leaves, and what a run of one path does. -/

namespace Sys2Proof.Machine

/-- A run of one path acts for it once. -/
theorem State.eachPath_alone {s : State} (h : s.Alone) (f : BitVec 8 → State → State) : s.eachPath f = f s.run.slices s := by
  unfold State.eachPath
  rw [h.issuers]
  simp [h.on]

theorem State.writeTrace_off {s : State} {p : Nat} (h : (s.partOf p).trCtl.getLsbD 31 = false) (r : TraceRec) : s.writeTrace p r = s := by
  unfold State.writeTrace
  simp only [h]
  rfl

/-- R405, R406, R408: a trap raised by the running group is taken. -/
theorem State.traps_trapAt {s : State} {sl : BitVec 8} (h : s.Trappable sl) (code : Trap) (addr : DWord) (acc kind : Nat) :
    s.Traps (s.trapAt sl code addr acc kind) sl code acc kind addr (s.curGroup.pathOf sl).pc := by
  have h1 : (s.groupOf s.run.uid s.run.grp).inTx = false := h.tx
  have h2 : ((s.endRunOf s.run.uid s.run.grp).groupOf s.run.uid s.run.grp).atTrap = false := h.level
  have h3 : ((s.endRunOf s.run.uid s.run.grp).partOf ((s.endRunOf s.run.uid s.run.grp).teamOf s.run.uid).part).trCtl.getLsbD 31 = false := h.trace
  unfold State.trapAt State.raise State.deliver
  simp only [h1, h2, h.only, Bool.false_eq_true, if_false]
  rw [State.writeTrace_off h3]
  have hg : ∀ f : Team → Group → Group, (((s.endRunOf s.run.uid s.run.grp).updTeam s.run.uid fun t => t.updGroup s.run.grp (f t)).groupOf s.run.uid s.run.grp)
      = f s.curTeam s.curGroup := fun f => by
    simp [State.groupOf, State.teamOf, State.updTeam, Team.updGroup, Team.group, State.endRunOf, State.curGroup, State.curTeam]
  refine ⟨rfl, fun u hu => ?_, ?_, fun g hg => ?_, rfl, ?_, ?_, ?_, ?_⟩
  · simp [State.teamOf, State.updTeam, State.endRunOf, Sparse.get_upd_ne _ _ _ hu]
  · simp [State.teamOf, State.updTeam, Team.enterTrap, Team.updGroup, State.endRunOf, State.curTeam]
  · simp [State.groupOf, State.teamOf, State.updTeam, Team.enterTrap, Team.updGroup, Team.group, State.endRunOf, Sparse.get_upd_ne _ _ _ hg]
  all_goals unfold Team.enterTrap; rw [hg]

end Sys2Proof.Machine
end

