-- ==== Sys2Proof/Tests/Slice0.lean ====
section
/-! SUPPORT. Tests of the model, and a witness for the hypotheses of each statement: a small state and operands that meet
them together. Expected values come from the manual's worked examples or are computed by hand from its rules. -/

namespace Sys2Proof.Tests

open Sys2Proof.Machine

set_option Elab.async false

/-! ## A small machine -/

/-- A joined group of two slices: lanes 0 to 7 live, the slices' path at 0x1000. -/
def grp : Group :=
  { live := 3, nslice := 2, budget := 128, lanes := 0xFF, paths := [{ slices := 3, pc := 0x1000 }] }

/-- The same group parted: slice 0 at 0x1000, slice 1 at 0x2000. -/
def parted : Group := { grp with paths := [{ slices := 1, pc := 0x1000 }, { slices := 2, pc := 0x2000 }] }

/-- A resident team of core 0 with a scratchpad window of 4 KiB, eight buffers and eight tensor identifiers. -/
def team : Team :=
  { place := .resident, lanes := 8, ngroup := 1, entry := 0x1000, spSize := 16, bufCnt := 8, tidCnt := 8 }

/-- The group runs on quarter 0 of core 0 as team 1, and the slices `sl` issue. -/
def at_ (g : Group) (sl : BitVec 8 := 3) (t : Team := team) : State :=
  { State.reset with
    teams := [(1, { t with groups := [(0, g)] })]
    runs := [(0, { on := true, uid := 1, grp := 0, slices := sl })]
    nextUid := 2
    bootDone := true }

/-- The group with scalar registers set, in every slice. -/
def withS (g : Group) (rs : List (Nat × Word)) : Group :=
  { g with sregs := rs.foldl (fun m r => (List.range 8).foldl (fun m k => Sparse.set 0 m (k * 64 + r.1) r.2) m) g.sregs }

/-- The group with lane registers set, by register and lane. -/
def withV (g : Group) (rs : List (Nat × Nat × Word)) : Group :=
  { g with vregs := rs.foldl (fun m r => Sparse.set 0 m (r.1 * 32 + r.2.1) r.2.2) g.vregs }

/-- The group that ran, after a step. -/
def after (i : Instr) (s : State) : Group :=
  match exec i s with
  | .next t => t.groupOf 1 0
  | _ => {}

/-- The same group at trap level. -/
def trapped (g : Group) : Group := { g with atTrap := true }

/-- The same group in a transaction of depth `n`. -/
def inTx (g : Group) (n : Nat) : Group := { g with tx := { depth := n, alts := List.replicate n none } }

/-! ## Decoding: words that the manual writes out (chapters 8 to 12), one of each family at least -/

theorem test_decode_lane : ∀ p ∈ ([(0x04428205, .ffma false 2 10 4 5), (0x2401837D, .iaddi false 0 6 6 0x7D),
    (0x070C8506, .fcmp false 0 3 2 10 6), (0x3402C516, .cvt false 0 11 10 5 2), (0x30020143, .dot4U false 0 8 2 3),
    (0x35408081, .slide false 2 2 1 0 0 1), (0x3900C080, .scan false 0 3 1 0), (0x374100A0, .tosReduce false 2 4 1 0x20)] :
    List (Word × Instr)), (decodeWord p.1).toOption = some p.2 := by decide +kernel
theorem test_decode_memory : ∀ p ∈ ([(0x3A420125, .ld false 2 8 2 4 5), (0x3B01C1AA, .st false 0 7 3 5 2),
    (0x0D024223, .stRel false 0 9 4 4 3), (0x3C02825B, .atom false 0 10 4 11 3), (0x3D03026A, .red false 0 12 4 13 2),
    (0x0E000121, .pfx false 0 2 4 1), (0xAD188143, .satom false 6 8 5 0 3)] : List (Word × Instr)),
    (decodeWord p.1).toOption = some p.2 := by decide +kernel
theorem test_decode_scalar : ∀ p ∈ ([(0x831C7FFF, .addi false 7 7 0xFFF), (0x8A447000, .cmpi false 4 1 7 0),
    (0xCF1FFFFA, .bc true 1 0xFFFFA), (0x80000000, .nop), (0x8B200100, .li false 8 0x100), (0x8C200010, .lui false 8 16),
    (0x8D047005, .mset false 1 7), (0x8D141007, .mpopc false 5 1), (0x90900002, .bm false 1 1 2), (0x94000000, .couple false),
    (0xDF100003, .barSync true 4 0)] : List (Word × Instr)), (decodeWord p.1).toOption = some p.2 := by decide +kernel
theorem test_decode_matrix : ∀ p ∈ ([(0x3E241446, .mma false 1 16 20 2 0 0 1 2), (0x3F0A1501, .accxRd false 0 40 21 1),
    (0xA518B000, .accAlloc false 6 11), (0xA410A300, .resLoad false 4 10 12), (0xA20D0040, .tidSet false 3 16 1),
    (0xA3C80040, .strBind false 50 1)] : List (Word × Instr)), (decodeWord p.1).toOption = some p.2 := by decide +kernel
/-- R265: the illegal words that the manual names. -/
theorem test_illegal_words : ([0x00000000, 0xC0000000, 0xFFFFFFFF, 0x0F000000, 0xA8000000, 0xB4000000] : List Word).all
    (fun w => (decodeWord w).toOption.isNone) = true := by decide +kernel
/-- R197, R266: v10 is past a budget of eight lane registers. -/
theorem test_budget : (decodeFor 8 0x04428205).toOption = none ∧ (decodeFor 11 0x04428205).toOption.isSome = true := by decide +kernel
/-- R7, R249: the word's lowest byte lies at the lowest address. -/
theorem test_decode_bytes : (decodeBytes [0x05, 0x82, 0x42, 0x04]).toOption.map (·.1) = some (.ffma false 2 10 4 5) := by decide +kernel

/-! ## Ill-formed terms, one for each check of `wellFormed` -/

theorem test_illformed_lane : ∀ i ∈ ([.fcmp false 0 0 0 0 0, .fcmp false 0 1 8 0 0, .icmp false 0 0 0 0 0, .icmp false 0 1 11 0 0,
    .cvt false 0 0 0 28 0, .cvt false 0 0 0 0 3, .slide false 0 0 0 3 0 1, .tosReduce false 0 0 0 0x2A, .tosReduce false 0 0 0 0x1F,
    .scan false 0 0 0 9] : List Instr), wellFormed i = false := by decide +kernel
theorem test_illformed_memory : ∀ i ∈ ([.ldAcq false 0 0 1 0 0, .ldAcq false 0 0 0 0 5, .ldAcq false 0 0 0 7 0, .ldAcq false 0 0 0 6 0,
    .ldAcq false 0 1 0 5 0, .stRel false 0 0 1 0 0, .stRel false 0 0 0 0 5, .stRel false 0 0 0 1 0, .stRel false 0 0 0 6 0,
    .stRel false 0 1 0 5 0, .pfx false 0 0 0 2, .ld false 0 0 0 0 7, .ld false 0 1 0 0 5, .ld false 0 2 0 0 6, .st false 0 0 0 0 1,
    .st false 0 2 0 0 6, .atom false 0 0 1 0 0, .atom false 0 0 0 0 5, .atom false 0 0 0 15 0, .atom false 0 1 0 1 0,
    .atom false 0 2 0 12 0, .red false 0 0 1 0 0, .red false 0 0 0 0 5, .red false 0 0 0 9 0, .red false 0 1 0 1 0] : List Instr),
    wellFormed i = false := by decide +kernel
theorem test_illformed_matrix : ∀ i ∈ ([.mma false 0 0 0 7 0 0 0 0, .mma false 0 0 0 0 0 0 0 3, .mma false 0 0 0 3 0 0 0 1,
    .mma false 0 113 0 0 0 0 0 0, .mma false 0 112 0 0 0 0 0 1, .accxRd false 0 0 0 3, .accxRd false 0 121 0 0, .accxWr false 0 0 0 3,
    .accxWr false 0 113 0 1, .accxRdz false 0 0 0 3, .accxRdz false 0 97 0 2, .cpy false 0 9, .tidSet false 0 8 0, .tidRd false 1 0 0,
    .strBind false 47 0, .strBindE false 56 0, .strUnbind false 47, .strPeek false 0 56, .strSeek false 47 0, .resLoad false 0 0 1,
    .collPost false 0 9, .collCancel false 0 1, .collStat false 0 1] : List Instr), wellFormed i = false := by decide +kernel
theorem test_illformed_scalar : ∀ i ∈ ([.cmp false 11 0 0 0, .cmpi false 11 0 0 0, .mand false 0 0 0, .mor false 0 0 0, .mxor false 0 0 0,
    .mandn false 0 0 0, .mnot false 0 0, .mset false 0 0, .bc false 8 0, .jr false 1, .fence false 5 0, .xbegin false 5 0,
    .xbeginNoTarget false 5, .barInit false 0 5, .barArrive false 0 5, .barWait false 0 5, .barSync false 0 5, .barRead false 0 5,
    .ldsB32 false 0 1 0, .ldsB64 false 1 0 0, .ldsB64 false 0 1 0, .stsB32 false 0 1 0, .stsB64 false 1 0 0, .stsB64 false 0 1 0,
    .satom false 0 1 0 0 0, .satom false 0 0 0 0 5, .satom false 0 0 1 2 0, .sysrd false 0 0x005, .sysrd false 0 0x043,
    .syswr false 0 0x081] : List Instr), wellFormed i = false := by decide +kernel

/-! ## Single steps -/

/-- R278: the sum wraps; the corners of division. -/
theorem test_add_wraps :
    (after (.addScalar false 3 1 2) (at_ (withS grp [(1, 0xFFFFFFFF), (2, 1)]))).sreg 1 3 = 0 := by decide +kernel
theorem test_div_corners :
    (after (.div false 3 1 2) (at_ (withS grp [(1, 0x80000000), (2, 0xFFFFFFFF)]))).sreg 0 3 = 0x80000000 ∧
    (after (.rem false 3 1 2) (at_ (withS grp [(1, 7), (2, 0)]))).sreg 0 3 = 7 ∧
    (after (.div false 3 1 2) (at_ (withS grp [(1, 0xFFFFFFF9), (2, 2)]))).sreg 0 3 = 0xFFFFFFFD := by decide +kernel
/-- R280: `lui` keeps bits 17..0 of its destination. -/
theorem test_lui_keeps_low : (after (.lui false 8 16) (at_ (withS grp [(8, 0x100)]))).sreg 0 8 = 0x00400100 := by decide +kernel
/-- R250: s0 discards. -/
theorem test_s0_discards : (after (.addi false 0 1 1) (at_ (withS grp [(1, 4)]))).sreg 0 0 = 0 := by decide +kernel
/-- R281, R256: `cmpi` compares with the sign-extended immediate; unsigned, 0xFFF is the greatest word. -/
theorem test_cmpi_unsigned : (after (.cmpi false 6 2 1 0xFFF) (at_ (withS grp [(1, 5)]))).cflag 1 2 = true := by decide +kernel
/-- The fragment of chapter 9: m1 = 0x0000_F0F1 within eight live lanes is 0x00F1, five lanes. -/
theorem test_mset_mpopc :
    (after (.mset false 1 7) (at_ (withS grp [(7, 0xF0F1)]))).mask 1 = 0xF1 ∧
    (after (.mpopc false 5 1) (at_ { grp with masks := [(1, 0xF0F1)] })).sreg 0 5 = 5 := by decide +kernel
/-- R319: the worked row of chapter 10: both halves clamp and the lane's SATF bit is set. -/
theorem test_add2s :
    let g := after (.add2s false 0 3 1 2) (at_ (withV grp [(1, 2, 0x7FF08005), (2, 2, 0x0020FFF0)]))
    g.vreg 3 2 = 0x7FFF8000 ∧ g.satf = 4 := by decide +kernel
/-- R320: the worked rows of chapter 10. -/
theorem test_dot4 :
    (after (.dot4S false 0 3 1 2) (at_ (withV grp [(1, 0, 0x7F7F7F7F), (2, 0, 0x7F7F7F7F), (3, 0, 0x7FFF0000)]))).vreg 3 0 = 0x7FFFFC04 ∧
    (after (.dot4S false 0 3 1 2) (at_ (withV grp [(1, 0, 0xFFFFFFFF), (2, 0, 0xFFFFFFFF), (3, 0, 0x7FFF0000)]))).vreg 3 0 = 0x7FFF0004 ∧
    (after (.dot4U false 0 3 1 2) (at_ (withV grp [(1, 0, 0xFFFFFFFF), (2, 0, 0xFFFFFFFF), (3, 0, 0x7FFF0000)]))).vreg 3 0 = 0x7FFFFFFF := by
  decide +kernel
/-- R243: the examples of chapter 7. -/
theorem test_srni :
    (after (.srni false 0 2 1 1) (at_ (withV grp [(1, 0, 0xFFFFFFFB), (1, 1, 5)]))).vreg 2 0 = 0xFFFFFFFE ∧
    (after (.srni false 0 2 1 1) (at_ (withV grp [(1, 0, 0xFFFFFFFB), (1, 1, 5)]))).vreg 2 1 = 3 ∧
    (after (.srni false 0 2 1 2) (at_ (withV grp [(1, 0, 0xFFFFFFFA)]))).vreg 2 0 = 0xFFFFFFFF := by decide +kernel
/-- R316: a field that would run past bit 31 is cut; `bfi` keeps the bits beside its field. -/
theorem test_bitfields :
    (after (.bfx false 0 3 1 2) (at_ (withV grp [(1, 0, 0xF2345678), (2, 0, 0x1081C)]))).vreg 3 0 = 0xFFFFFFFF ∧
    (after (.bfi false 0 3 1 2) (at_ (withV grp [(1, 0, 0xAB), (2, 0, 0x0808), (3, 0, 0xFFFFFFFF)]))).vreg 3 0 = 0xFFFFABFF := by
  decide +kernel
/-- Chapter 10: a slide, a scan and a sum on eight lanes that hold 10 times their number plus one. -/
def ramp : Group := { withV grp ((List.range 8).map fun l => (1, l, BitVec.ofNat 32 (10 * (l + 1)))) with masks := [(2, 0xF6)] }
theorem test_cross_lane :
    (after (.slide false 2 2 1 0 0 1) (at_ ramp)).vreg 2 4 = 40 ∧ (after (.scan false 0 3 1 0) (at_ ramp)).vreg 3 7 = 360 ∧
    (after (.tosReduce false 2 4 1 0x20) (at_ ramp)).sreg 1 4 = 310 := by decide +kernel
/-- The same, on the path of slice 1 alone: the sources of lanes 4 and 5 are missing, and so is lane 8. -/
theorem test_slide_parted :
    let g := { ramp with paths := parted.paths }
    (after (.slide false 0 5 1 1 0 2) (at_ g 2)).vreg 5 4 = 0 ∧ (after (.slide false 0 5 1 1 0 2) (at_ g 2)).vreg 5 6 = 50 ∧
    (after (.slide false 0 6 1 2 1 1) (at_ g 2)).vreg 6 7 = 0 ∧ (after (.slide false 0 6 1 2 1 1) (at_ g 2)).vreg 6 5 = 70 := by decide +kernel
/-- R231, R310: one plus one; the root of −1 is the canonical NaN; 2 to the first power. -/
theorem test_float :
    (after (.fadd false 0 3 1 2) (at_ (withV grp [(1, 0, 0x3F800000), (2, 0, 0x3F800000)]))).vreg 3 0 = 0x40000000 ∧
    (after (.fsqrt false 0 3 1) (at_ (withV grp [(1, 0, 0xBF800000), (1, 1, 0x40800000)]))).vreg 3 0 = 0x7FC00000 ∧
    (after (.fsqrt false 0 3 1) (at_ (withV grp [(1, 0, 0xBF800000), (1, 1, 0x40800000)]))).vreg 3 1 = 0x40000000 ∧
    (after (.fexp2 false 0 3 1) (at_ (withV grp [(1, 0, 0x3F800000)]))).vreg 3 0 = 0x40000000 := by decide +kernel
/-- R238: FP32 to INT8 clamps and sets SATF. -/
theorem test_cvt_clamps :
    let g := after (.cvt false 0 3 1 21 0) (at_ (withV grp [(1, 0, 0x43480000)]))
    g.vreg 3 0 = 127 ∧ g.satf = 1 := by decide +kernel
/-- R205: a branch taken by one of two slices parts the group. -/
theorem test_bc_parts :
    let g := after (.bc false 0 4) (at_ { grp with cflags := 1 })
    g.pcOf 0 = 0x1010 ∧ g.pcOf 1 = 0x1004 := by decide +kernel
/-- R284. -/
theorem test_call_links : (after (.call false 0xFFFFF) (at_ grp)).pcOf 0 = 0xFFC ∧ (after (.call false 0xFFFFF) (at_ grp)).sreg 1 62 = 0x1004 := by
  decide +kernel
/-- R206: slice 1 comes last to the couple and takes slice 0's registers. -/
theorem test_couple_joins :
    let g := after (.couple false) (at_ { parted with
      paths := [{ slices := 1, pc := 0x2004, stop := .couple }, { slices := 2, pc := 0x2000 }], sregs := [(6, 100)] } 2)
    g.paths = [{ slices := 3, pc := 0x2004 }] ∧ g.sreg 1 6 = 100 := by decide +kernel
/-- R300, R408: a trap saves its address and goes to ENTRY − 4. -/
theorem test_trap :
    let g := after (.trap false 0x2A) (at_ grp)
    g.atTrap = true ∧ g.frame.code = 14 ∧ g.frame.addrL = 0x2A ∧ g.frame.pc = 0x1000 ∧ g.pcOf 0 = 0xFFC := by decide +kernel
/-- R301, R411: a return takes the path back to the frame's pc. -/
theorem test_rte :
    let g := after (.rte false) (at_ { trapped grp with frame := { slices := 3, pc := 0x2000 } })
    g.atTrap = false ∧ g.pcOf 1 = 0x2000 := by decide +kernel
/-- R263: TRAPCAUSE is not for program level. -/
theorem test_sysrd_priv : (after (.sysrd false 1 0x018) (at_ grp)).frame.code = 2 := by decide +kernel
/-- R245: a write to SATF clears the bits written as 1. -/
theorem test_satf_clear : (after (.syswr false 1 0x011) (at_ { withS grp [(1, 5)] with satf := 7 })).satf = 2 := by decide +kernel
/-- R208: a `wait` for no outstanding load goes on; with one outstanding it holds. -/
theorem test_wait :
    (after (.wait false 0 63 63 63) (at_ grp)).paths = [{ slices := 3, pc := 0x1004 }] ∧
    (after (.wait false 0 63 63 63) (at_ { grp with ctr := { ld := [(0, false)] } })).paths =
      [{ slices := 3, pc := 0x1004, stop := .wait 0 63 63 63 }] := by decide +kernel
/-- R291: the only group's own arrival flips the phase, and `bar.sync` goes on. -/
theorem test_bar_sync :
    let s := at_ grp
    let g := after (.barSync false 4 0) { s with cores := [(0, { bars := [(0, { exp := 1 })] })] }
    g.sreg 0 4 = 0 ∧ g.pcOf 0 = 0x1004 := by decide +kernel
/-- R330, R15: a store and a load of a halfword through the scratchpad window. -/
theorem test_store_load :
    let g := withS (withV grp [(3, 0, 8), (7, 0, 0x1234ABCD)]) [(10, 0), (11, 0x000F1000)]
    let t := match exec (.st false 1 7 3 5 2) (at_ { g with masks := [(1, 1)] }) with | .next t => t | _ => at_ g
    Mem.readNat (t.coreOf 0).sp 8 4 = 0xABCD ∧
      (after (.ld false 1 9 3 5 3) t).vreg 9 0 = 0xFFFFABCD := by decide +kernel
/-- R298: slices add in ascending order, each receiving what the lower ones left. -/
theorem test_satom :
    let g := withS grp [(5, 9), (8, 16), (9, 0x000F1000)]
    let s := at_ g
    let h := after (.satom false 6 8 5 0 3) { s with cores := [(0, { sp := [(16, 100)] })] }
    h.sreg 0 6 = 100 ∧ h.sreg 1 6 = 109 := by decide +kernel
/-- R252, R474: the first instruction after reset. -/
theorem test_first_step :
    (match step (State.reset.withFetchWord 32 0x8B200100) with | .next t => (t.groupOf 0 0).sreg 0 8 | _ => 0) = 0x100 := by decide +kernel

/-! ## Witnesses: what the statements' hypotheses ask of a state, met by the small machine -/

theorem calm_grp : (at_ grp).Calm := ⟨by decide +kernel, by decide +kernel, by decide +kernel⟩
/-- R202: two paths of a parted group issue together. -/
theorem calm_parted : (at_ parted).Calm := ⟨by decide +kernel, by decide +kernel, by decide +kernel⟩
theorem alone_grp : (at_ grp).Alone := ⟨by decide +kernel, by decide +kernel⟩
theorem trappable_grp : (at_ grp).Trappable 3 := ⟨by decide +kernel, by decide +kernel, by decide +kernel, by decide +kernel⟩
theorem tidy_grp : grp.Tidy 3 := ⟨by decide +kernel, by decide +kernel, fun k h => ⟨_, List.mem_singleton.mpr rfl, h⟩⟩
theorem free_grp (k : OpClass) : (at_ grp).Free k :=
  ⟨calm_grp, by decide +kernel, fun _ h => (nomatch h), alone_grp, by decide +kernel, by decide +kernel, by cases k <;> decide +kernel⟩
theorem clean_grp (c : Nat) : (at_ grp).Clean c := fun _ h => (nomatch h)
theorem unwatched_grp (key : LineKey) (u g : Nat) : (at_ grp).Unwatched key u g :=
  ⟨fun _ h => (nomatch h), fun _ h => (nomatch h)⟩

theorem witness_ScalarAlu : (at_ grp).Calm ∧
    ([0x81000016, 0xC1FFFFFF, 0x81000053, 0x81000FD5] : List Word).all (fun w => decide (fld w.toNat 31 1 = 1 ∧ fld w.toNat 24 6 = 1 ∧
      (0x16 ≤ fld w.toNat 0 6 ∨ (0x13 ≤ fld w.toNat 0 6 ∧ fld w.toNat 6 6 ≠ 0)))) = true := ⟨calm_grp, by decide +kernel⟩
theorem witness_ScalarImmediates : (at_ grp).Calm ∧
    ([0x87000020, 0x89000FFF, 0x8C004000] : List Word).all (fun w => decide (fld w.toNat 31 1 = 1 ∧
      ((7 ≤ fld w.toNat 24 6 ∧ fld w.toNat 24 6 ≤ 9 ∧ fld w.toNat 5 7 ≠ 0) ∨ (fld w.toNat 24 6 = 0x0C ∧ fld w.toNat 14 4 ≠ 0)))) = true :=
  ⟨calm_grp, by decide +kernel⟩
theorem witness_ScalarCompare : (at_ grp).Calm ∧ (10 : BitVec 4).toNat < 11 ∧
    ([0x82000001, 0x82B00000, 0x8AB00000, 0x8AF00000] : List Word).all (fun w => decide (fld w.toNat 31 1 = 1 ∧
      ((fld w.toNat 24 6 = 2 ∧ (fld w.toNat 0 6 ≠ 0 ∨ 11 ≤ fld w.toNat 20 4)) ∨ (fld w.toNat 24 6 = 0x0A ∧ 11 ≤ fld w.toNat 20 4)))) = true :=
  ⟨calm_grp, by decide +kernel⟩
theorem witness_Masks : (at_ grp).Calm ∧ ((0 : BitVec 3) = 0) := ⟨calm_grp, rfl⟩
theorem witness_LaneInteger : (at_ parted).Calm := calm_parted
theorem witness_LaneIntegerUnary : (at_ grp).Calm ∧
    ([0x2100000D, 0x2100007F, 0x2100008C, 0x29000020, 0x2C000040] : List Word).all (fun w => decide (fld w.toNat 31 1 = 0 ∧
      ((fld w.toNat 24 6 = 0x21 ∧ (0x0D ≤ fld w.toNat 0 7 ∨ (fld w.toNat 0 7 = 0x0C ∧ fld w.toNat 7 7 ≠ 0))) ∨
        (0x29 ≤ fld w.toNat 24 6 ∧ fld w.toNat 24 6 ≤ 0x2C ∧ fld w.toNat 5 2 ≠ 0)))) = true := ⟨calm_grp, by decide +kernel⟩
theorem witness_LaneCompare : (at_ grp).Calm ∧ wellFormed (.fcmp false 0 7 7 0 0) = true ∧ wellFormed (.icmp false 0 1 10 0 0) = true ∧
    ([0x07000000, 0x07060000, 0x20000000, 0x2006C000] : List Word).all (fun w => decide (fld w.toNat 31 1 = 0 ∧
      ((fld w.toNat 24 6 = 0x07 ∧ (fld w.toNat 18 3 = 0 ∨ 8 ≤ fld w.toNat 14 4)) ∨
        (fld w.toNat 24 6 = 0x20 ∧ (fld w.toNat 18 3 = 0 ∨ 11 ≤ fld w.toNat 14 4))))) = true := ⟨calm_grp, by decide +kernel⟩
theorem witness_LanePacked : (at_ grp).Calm := calm_grp
theorem witness_LaneFloat : (at_ { grp with fmode := 3 }).Calm := ⟨by decide +kernel, by decide +kernel, by decide +kernel⟩
theorem witness_FloatValues :
    (f32 0x7F800001).isNan = true ∧ (f32 0xFFFFFFFF).isNan = true ∧
    ((f32 0x80000001).isNan = false ∧ (0x80000001 : Word).msb = true ∧ (0x80000001 : Word) ≠ 0x80000000) ∧
    (0xFF800000 < 2 ^ (Fmt.f32.signAt + 1) ∧ (Fmt.f32.decode 0xFF800000).isNan = false) ∧
    (0x7E < 2 ^ (Fmt.e4m3.signAt + 1) ∧ (Fmt.e4m3.decode 0x7E).isNan = false) ∧
    (1 ≠ 0 ∧ Fmt.f32.roundMag 1 false 1 0 < Fmt.f32.maxCode) := by decide +kernel
theorem witness_FloatValues_sat : ∃ n m x, Fmt.e4m3.decode 0x7E = .fin n m x := ⟨_, _, _, rfl⟩
theorem witness_Conversions : (at_ grp).Calm ∧ wellFormed (.cvt false 0 0 0 27 2) = true ∧ wellFormed (.cvt false 0 0 0 0 0) = true ∧
    (f32 0x7FC00000).isNan = true := ⟨calm_grp, by decide +kernel⟩
theorem witness_CrossLane : (at_ parted).Calm ∧ wellFormed (.slide false 0 0 0 2 1 0) = true ∧ [(1 : Word), 2].Perm [2, 1] ∧
    ([0x7FC00001] : List Word) ≠ [] ∧ ([0x7FC00001] : List Word).all (fun x => (f32 x).isNan) = true ∧
    ([0x35000060, 0x38002000, 0x38000001] : List Word).all (fun w => decide (fld w.toNat 31 1 = 0 ∧
      ((fld w.toNat 24 6 = 0x35 ∧ fld w.toNat 5 2 = 3) ∨ (fld w.toNat 24 6 = 0x38 ∧ (fld w.toNat 13 1 ≠ 0 ∨ fld w.toNat 0 7 ≠ 0))))) = true :=
  ⟨calm_parted, by decide +kernel, List.Perm.swap _ _ _, by decide +kernel, by decide +kernel, by decide +kernel⟩

/-- A parted group that issues with both its paths. -/
theorem tidy_parted : parted.Tidy 3 := ⟨by decide +kernel, by decide +kernel, fun k h => by
  have : ∀ k : Nat, k < 8 → (3 : BitVec 8).getLsbD k = true → k = 0 ∨ k = 1 := by decide
  rcases Nat.lt_or_ge k 8 with hk | hk
  · rcases this k hk h with rfl | rfl
    · exact ⟨_, List.mem_cons_self, by decide⟩
    · exact ⟨_, List.mem_cons_of_mem _ List.mem_cons_self, by decide⟩
  · rw [BitVec.getLsbD_of_ge _ _ hk] at h; cases h⟩
theorem witness_Branches : (at_ parted).run.on = true ∧ (at_ parted).curGroup.inTx = false ∧
    (at_ parted).curGroup.Tidy (at_ parted).run.slices := ⟨by decide +kernel, by decide +kernel, tidy_parted⟩
/-- Of one slice the flag is set, so that the branch is taken there; of none, and it is taken nowhere. -/
theorem witness_Branches_taken :
    (∃ k, k < 8 ∧ (at_ { parted with cflags := 1 }).run.slices.getLsbD k = true ∧
      (at_ { parted with cflags := 1 }).curGroup.cflag k 0 = true) ∧
    ∀ k, k < 8 → (at_ parted).run.slices.getLsbD k = true → (at_ parted).curGroup.cflag k 0 = false :=
  ⟨⟨0, by decide +kernel⟩, by decide +kernel⟩
theorem witness_Branches_jr : ∀ k, k < 8 → (at_ (withS grp [(62, 0x1004)])).run.slices.getLsbD k = true →
    ((at_ (withS grp [(62, 0x1004)])).curGroup.spair k 62).toNat % 4 = 0 := by decide +kernel
/-- Slice 1's copy of s62 is 2, slice 0's is 0. -/
theorem witness_Branches_align :
    let s := at_ { grp with sregs := [(64 + 62, 2)] }
    s.run.on = true ∧ s.Trappable s.run.slices ∧ 1 < 8 ∧ s.run.slices.getLsbD 1 = true ∧ (s.curGroup.spair 1 62).toNat % 4 ≠ 0 ∧
      ∀ k, k < 1 → s.run.slices.getLsbD k = true → (s.curGroup.spair k 62).toNat % 4 = 0 :=
  ⟨by decide +kernel, ⟨by decide +kernel, by decide +kernel, by decide +kernel, by decide +kernel⟩, by decide +kernel, by decide +kernel,
    by decide +kernel, by decide +kernel⟩

theorem witness_Couples_one : (at_ grp).run.on = true ∧ (at_ grp).curGroup.atTrap = false ∧ (at_ grp).curGroup.inTx = false ∧
    (at_ grp).curGroup.paths.length ≤ 1 := by decide +kernel
theorem witness_Couples_trap : (at_ (trapped grp)).run.on = true ∧ (at_ (trapped grp)).curGroup.atTrap = true := by decide +kernel
/-- Slice 0 waits at 0x2004, where slice 1's couple at 0x2000 leads. -/
def coupling : Group :=
  { grp with paths := [{ slices := 1, pc := 0x2004, stop := .couple }, { slices := 2, pc := 0x2000 }] }
theorem witness_Couples_join :
    let s := at_ coupling 2
    s.run.on = true ∧ s.curGroup.atTrap = false ∧ s.curGroup.inTx = false ∧ 1 < s.curGroup.paths.length ∧ s.curGroup.live ≠ 0 ∧
      ∀ p ∈ s.curGroup.paths, if p.slices &&& s.run.slices != 0 then p.pc + 4 = 0x2004 else p.stop = .couple ∧ p.pc = 0x2004 := by
  decide +kernel
/-- Slice 0 waits at 0x3000, elsewhere. -/
theorem witness_Couples_apart :
    let s := at_ { coupling with paths := [{ slices := 1, pc := 0x3000, stop := .couple }, { slices := 2, pc := 0x2000 }] } 2
    s.run.on = true ∧ s.curGroup.atTrap = false ∧ s.curGroup.inTx = false ∧ s.curGroup.live ≠ 0 ∧
      (∀ p ∈ s.curGroup.paths, p.slices &&& s.run.slices = 0 → p.stop = .couple) ∧
      ∃ p ∈ s.curGroup.paths, ∃ q ∈ s.curGroup.paths, p.slices &&& s.run.slices ≠ 0 ∧ q.slices &&& s.run.slices = 0 ∧ p.pc + 4 ≠ q.pc := by
  decide +kernel

/-- A group with `n` outstanding loads. -/
def waiting (n : Nat) : Group := { grp with ctr := { ld := (List.range n).map fun k => (k, false) }, nextOp := n }
theorem witness_WaitsAndFences_counts : ((at_ (waiting 2)).curGroup.counters.ld.length ≤ 2) ∧ ¬ ((at_ (waiting 3)).curGroup.counters.ld.length ≤ 2) := by
  decide +kernel
theorem witness_WaitsAndFences : ((at_ (inTx grp 1)).run.on = true ∧ (at_ (inTx grp 1)).curGroup.inTx = true) ∧
    ((at_ grp).run.on = true ∧ (at_ grp).curGroup.inTx = false ∧ (at_ grp).Clean (at_ grp).curCore) :=
  ⟨by decide +kernel, by decide +kernel, by decide +kernel, clean_grp _⟩
/-- Slice 0 exits and slice 1 stays. -/
theorem witness_Exits :
    let s := at_ parted 1
    s.run.on = true ∧ s.curGroup.atTrap = false ∧ s.Clean s.curCore ∧ s.curGroup.live &&& ~~~s.run.slices ≠ 0 ∧
      s.curGroup.live &&& ~~~s.run.slices &&& ~~~s.curGroup.trigged ≠ 0 ∧ s.run.grp < s.curTeam.ngroup ∧
      s.curGroup.paths.any (fun p => p.stop != .couple && p.slices &&& ~~~s.run.slices != 0) = true :=
  ⟨by decide +kernel, by decide +kernel, fun _ h => (nomatch h), by decide +kernel, by decide +kernel, by decide +kernel, by decide +kernel⟩
theorem witness_TransactionLevels :
    ((at_ grp).run.on = true ∧ (at_ grp).curGroup.inTx = false ∧ (at_ grp).curGroup.atTrap = false ∧ (at_ grp).curGroup.paths.length ≤ 1 ∧
      (at_ grp).Clean (at_ grp).curCore) ∧
    ((at_ (inTx grp 3)).run.on = true ∧ (at_ (inTx grp 3)).curGroup.inTx = true ∧ (at_ (inTx grp 3)).curGroup.tx.depth < 4) ∧
    ((at_ (inTx grp 4)).run.on = true ∧ 4 ≤ (at_ (inTx grp 4)).curGroup.tx.depth) :=
  ⟨⟨by decide +kernel, by decide +kernel, by decide +kernel, by decide +kernel, clean_grp _⟩, by decide +kernel, by decide +kernel⟩

/-! A hypothesis `f … = (s1, x)` about a new state `s1` is met by the first component of `f …`; its witness says what the
second is. -/

/-- A line of local memory, held by its home slice, with `v` as its bytes. -/
def put (s : State) (line v : Nat) (way : Nat := 0) : State :=
  s.setL2 (s.homeOf line) line way { on := true, line := line, valid := 3, dirty := 3, data := BitVec.ofNat 1024 v }

/-- All stacks have been trained. -/
def online (s : State) : State := { s with stks := (List.range 12).map fun k => (k, { trDone := true }) }

/-- The words `ws` at 0x10000, mapped there for fetch and reading by core 0. -/
def coded (s : State) (ws : List Word) : State :=
  (put s 0 (ws.foldr (fun w n => w.toNat + 2 ^ 32 * n) 0)).updCore 0 fun c => { c with
    tlb := [{ part := 0, asid := 0, va := 1, log2 := 16, dpa := 0, r1 := true, w1 := false, x1 := true, r2 := true, w2 := false,
              x2 := true, d := false }] }

/-- A transaction that began at 0x10000, whose `xend` is the second word there. -/
def opened : State := coded (at_ { inTx grp 1 with tx := { depth := 1, alts := [none], start := 0x10000 } }) [0x99800001, 0x9B000000]
theorem witness_TransactionFailure :
    opened.curGroup.inTx = true ∧ (opened.scan 1 0 0x10000).2 = .found 0x10008 ∧
    (({ opened with wlocks := [{ key := .mem 0, uid := 2, grp := 0 }] } : State).scan 1 0 0x10000).2 = .wait ∧
    (State.scan (opened.updCore 0 fun c => { c with tlb := c.tlb.map fun t => { t with x1 := false } }) 1 0 0x10000).2 = .unmatched := by
  decide +kernel
/-- Two levels, the first with an alternative at 0x2000 and a write at each level. -/
def nested : Group := { grp with tx := {
  depth := 2, alts := [some 0x2000, none]
  writes := [{ level := 1, key := .core 0 1, mask := 1, data := 5 }, { level := 2, key := .core 0 0, mask := 1, data := 6 }] } }
theorem witness_TransactionEnds_nested : (at_ nested).run.on = true ∧ (at_ nested).curGroup.inTx = true ∧
    1 < (at_ nested).curGroup.tx.depth ∧ (at_ nested).curGroup.tx.nearest = some (1, 0x2000) := by decide +kernel
theorem witness_TransactionEnds_outermost :
    let g : Group := { nested with tx := { nested.tx with depth := 1, alts := [some 0x2000] } }
    (at_ g).run.on = true ∧ (at_ g).curGroup.inTx = true ∧ (at_ g).curGroup.tx.depth = 1 ∧ (at_ g).curGroup.tx.writes ≠ [] ∧
    (at_ g).Clean (at_ g).curCore :=
  ⟨by decide +kernel, by decide +kernel, by decide +kernel, by decide +kernel, fun _ h => (nomatch h)⟩
/-- Line 3, dirty in the core's L1, is locked by another group's commit. -/
theorem witness_TransactionEnds_stuck :
    let s : State := { at_ (inTx grp 1) with
      cores := [(0, { l1 := [(24, { on := true, line := 3, dirty := 1 })] })], wlocks := [{ key := .mem 3, uid := 2, grp := 0 }] }
    s.run.on = true ∧ s.curGroup.inTx = true ∧ s.curGroup.tx.depth = 1 ∧ s.releaseStuck s.curCore = true := by decide +kernel
/-- A commit that has two lines to lock. -/
def committing : State :=
  at_ { nested with paths := [{ slices := 3, pc := 0x1000, stop := .commit }], tx := { nested.tx with locks := [.core 0 0, .core 0 1] } }
theorem witness_TransactionEnds_lock :
    (committing.groupOf 1 0).tx.locks = .core 0 0 :: [.core 0 1] ∧ (committing.groupOf 1 0).inTx = true ∧
    (∀ p ∈ (committing.groupOf 1 0).paths, p.stop = .commit) ∧
    (∀ w ∈ committing.wlocks, w.key = .core 0 0 → w.uid = 1 ∧ w.grp = 0) ∧ [LineKey.core 0 1] ≠ [] ∧
    ∃ w ∈ ({ committing with wlocks := [{ key := .core 0 0, uid := 2, grp := 0 }] } : State).wlocks,
      w.key = .core 0 0 ∧ ¬ (w.uid = 1 ∧ w.grp = 0) := by decide +kernel
/-- A group asleep since cycle 10, at the last cycle before 4 µs have passed and at the first after. -/
def sleeping (ovf : Bool) (clock : DWord) : State := { at_ { grp with sleep := some { since := 10, ovf := ovf } } with clock := clock }
theorem witness_TransactionEnds_sleep :
    ((sleeping true 8009).groupOf 1 0).sleep = some { since := 10, ovf := true } ∧
    (∀ p ∈ ((sleeping true 8009).groupOf 1 0).paths, p.stop = .ready) ∧ (sleeping true 8009).clock.toNat < 10 + 4 * Config.cyclesPerUs ∧
    ¬ ((sleeping true 8010).clock.toNat < 10 + 4 * Config.cyclesPerUs) ∧
    ((sleeping false 8010).groupOf 1 0).sleep = some { since := 10, ovf := false } := by decide +kernel

/-- A barrier entry 3 of the team, and 1, 1023 or 0 in s1. -/
def barred (b : Bar) (v : Word) : State := { at_ (withS grp [(1, v)]) with cores := [(0, { bars := [(3, b)] })] }
theorem witness_Barriers : ∀ v ∈ [(1 : Nat), 1023], let s := barred { exp := 2, arr := 1 } (BitVec.ofNat 32 v)
    s.curGroup.inTx = false ∧ (3 : BitVec 6).toNat < 4 ∧ s.curTeam.slot < 8 ∧ s.run.slices.getLsbD (lowSlice s.run.slices) = true ∧
    1 ≤ (s.curGroup.sreg (lowSlice s.run.slices) 1).toNat ∧ (s.curGroup.sreg (lowSlice s.run.slices) 1).toNat ≤ 1023 := by
  decide +kernel
/-- R292: an event of an entry whose ARR is EXP flips PHASE. -/
def evented (b : Bar) : Bar := if b.exp ≤ b.arr then { b with arr := b.arr - b.exp, phase := !b.phase } else b
theorem witness_Barriers_phases :
    let s := barred { exp := 2, arr := 1 } 1
    let g := s.curGroup
    let b : Bar := Sparse.get {} (s.coreOf (s.barKey 3).1).bars (s.barKey 3).2
    let low := lowSlice s.run.slices
    b.exp = 2 ∧
    -- s1 of `bar.sync` receives the old phase, by which it waits; s0 holds 0
    (if g.Open 1 then b.phase else (g.sreg low 1).getLsbD 0) ≠ (evented { b with arr := b.arr + 1 }).phase ∧
    (if g.Open 0 then b.phase else (g.sreg low 0).getLsbD 0) ≠ (evented { b with arr := b.arr + 1 }).phase ∧
    -- `bar.wait` of s1, which is 1, goes on, and of s0 sleeps
    (evented b).phase ≠ (g.sreg low 1).getLsbD 0 ∧ (evented b).phase = (g.sreg low 0).getLsbD 0 := by
  decide +kernel
theorem witness_Barriers_alone (key : LineKey) : (barred {} 1).Alone ∧ (barred {} 1).Unwatched key 1 0 :=
  ⟨⟨by decide +kernel, by decide +kernel⟩, fun _ h => (nomatch h), fun _ h => (nomatch h)⟩
theorem witness_TrapsTaken : (at_ grp).Alone ∧ (at_ grp).Trappable 3 ∧
    decide (0x018 ≤ (0x018 : BitVec 12).toNat ∧ (0x018 : BitVec 12).toNat ≤ 0x02F) = true ∧
    decide (0x018 ≤ (0x02F : BitVec 12).toNat ∧ (0x02F : BitVec 12).toNat ≤ 0x02F) = true ∧
    decide ((0x012 : BitVec 12).toNat ≠ 0x010 ∧ (0x012 : BitVec 12).toNat ≠ 0x011 ∧ (0x012 : BitVec 12).toNat ≠ 0x044 ∧
      (0x012 : BitVec 12).toNat ≠ 0x045) = true := ⟨alone_grp, trappable_grp, by decide +kernel⟩
theorem witness_SoftwareTraps :
    ((at_ grp).Alone ∧ (at_ grp).Trappable 3 ∧ (at_ grp).curGroup.inTx = false ∧ (at_ grp).curGroup.atTrap = false) ∧
    ((at_ (trapped grp)).Alone ∧ (at_ (trapped grp)).curGroup.inTx = false ∧ (at_ (trapped grp)).curGroup.atTrap = true) ∧
    ((at_ (inTx grp 1)).Alone ∧ (at_ (inTx grp 1)).curGroup.inTx = true ∧ (at_ (inTx grp 1)).doomed 1 0 = false) :=
  ⟨⟨alone_grp, trappable_grp, by decide +kernel, by decide +kernel⟩,
    ⟨⟨by decide +kernel, by decide +kernel⟩, by decide +kernel, by decide +kernel⟩,
    ⟨by decide +kernel, by decide +kernel⟩, by decide +kernel, by decide +kernel⟩
theorem witness_ReturnAndYield :
    ((at_ (trapped grp)).run.on = true ∧ (at_ (trapped grp)).curGroup.atTrap = true ∧
      (at_ (trapped grp)).curGroup.trq = [] ∧ (at_ (trapped grp)).curGroup.tctr.idle = true ∧ (at_ (trapped grp)).curGroup.rq = [] ∧
      (at_ (trapped grp)).curGroup.frame.pc.toNat % 4 = 0 ∧
      ∃ p ∈ (at_ (trapped grp)).curGroup.paths, p.stop ≠ .couple ∧ p.slices &&& (at_ (trapped grp)).curGroup.frame.slices = 0) ∧
    ¬ ((at_ { trapped grp with tctr := { ld := [(0, false)] } }).curGroup.trq = [] ∧
      (at_ { trapped grp with tctr := { ld := [(0, false)] } }).curGroup.tctr.idle = true) ∧
    (at_ grp).curGroup.inTx = false := by decide +kernel
theorem witness_ReturnAndYield_trapper :
    let g := { trapped grp with frame := { slices := 3, pc := 0x2000 } }
    g.frame.stop ≠ .couple ∧ ∃ p ∈ g.paths, p.slices &&& g.frame.slices ≠ 0 := by decide +kernel

def entry0 : RqEntry := { insn := 0x3A420125, orig := 0x3A420125, slices := 3, lanes := 3, act := 0xFF, pc := 0x1000 }
theorem witness_SystemRegisters :
    (at_ grp).run.on = true ∧ (at_ (trapped grp)).curGroup.atTrap = true ∧
    (let g := { trapped grp with rq := [entry0], frame := { selWord := 1 } }
     g.rq[g.frame.selEnt]? = some entry0 ∧ g.frame.selWord = 1) ∧
    (let g := { trapped grp with rq := [entry0], frame := { selWord := 2 } }
     g.rq[g.frame.selEnt]? = some entry0 ∧ g.frame.selWord = 2) ∧
    (let s := at_ (withS grp [(1, 0x000F1000)])
     (s.sysOperand 1).getLsbD 28 = false ∧
      levelOf (((s.sysOperand 1 &&& 0xF80FFFFF) ++ s.curGroup.memlocQ.setWidth 32 : DWord).toNat % 2 ^ 52) ≠ .global) := by decide +kernel

/-- Two lanes active under m1, with addresses 0 and the last doubleword of the scratchpad window in v4 and v5, and the
window's base in s10 and s11. -/
def reaching : Group :=
  { withS (withV grp [(4, 0, 0), (5, 0, 0x000F1000), (4, 1, 4088), (5, 1, 0x000F1000)]) [(10, 0), (11, 0x000F1000)] with masks := [(1, 3)] }
theorem free_reaching (k : OpClass) : (at_ reaching).Free k :=
  ⟨⟨by decide +kernel, by decide +kernel, by decide +kernel⟩, by decide +kernel, fun _ h => (nomatch h),
    ⟨by decide +kernel, by decide +kernel⟩, by decide +kernel, by decide +kernel, by cases k <;> decide +kernel⟩
/-- The active lanes reach bytes 0 and 4088 of core 0's array, for each kind of access. -/
theorem reaches_reaching (acc : Acc) (h : acc = .read ∨ acc = .write ∨ acc = .atomic) :
    (at_ reaching).Reaches acc 8 ((at_ reaching).curGroup.act (at_ reaching).run.slices 1)
      (fun l => (at_ reaching).curGroup.vreg 5 l ++ (at_ reaching).curGroup.vreg 4 l) false 0 (fun l => 4088 * l) := by
  refine ⟨by decide +kernel, ?_, ?_, ?_, fun _ _ _ => .inr ⟨fun _ h => (nomatch h), fun _ h => (nomatch h)⟩⟩
  · rcases h with rfl | rfl | rfl <;> decide +kernel
  · rcases h with rfl | rfl | rfl <;> decide +kernel
  · decide +kernel
theorem witness_LaneLoads : (at_ reaching).Free .ld ∧ wellFormed (.ldAcq false 1 8 4 5 4) = true ∧ wellFormed (.ld false 1 8 4 5 5) = true ∧
    (at_ reaching).curGroup.act (at_ reaching).run.slices 1 ≠ 0 ∧ (at_ reaching).curGroup.act (at_ reaching).run.slices 2 = 0 :=
  ⟨free_reaching _, by decide +kernel⟩
/-- `ld` adds the base pair s10:s11 to the lane's offset. -/
theorem witness_LaneLoads_base : ∀ l, l < 32 → ((at_ reaching).curGroup.act 3 1).getLsbD l = true →
    (at_ reaching).curGroup.spair (l / 4) (2 * (5 : BitVec 4).toNat) + ((at_ reaching).curGroup.vreg 4 l).signExtend 64 =
      (at_ reaching).curGroup.vreg 5 l ++ (at_ reaching).curGroup.vreg 4 l := by decide +kernel
theorem witness_LaneStores : (at_ reaching).Free .st ∧ (at_ reaching).Clean (at_ reaching).curCore ∧ wellFormed (.stRel false 1 8 4 5 0) = true ∧
    wellFormed (.st false 1 8 4 5 5) = true := ⟨free_reaching _, fun _ h => (nomatch h), by decide +kernel⟩
/-- A byte of the chip scratchpad, the last of a grant of 64 KiB. -/
theorem witness_LaneStores_chip : (at_ grp 3 { team with wincs := 0x00010000 }).spot 1 0 0 0xF300000000FFFF 1 .write = .bad { code := .prot, acc := 1 } ∧
    (at_ grp 3 { team with wincs := 0x00010000 }).spot 1 0 0 0xF30000000FFFF 1 .write = .cs 0 0xFFFF := by decide +kernel
theorem witness_LaneAtomics : wellFormed (.atom false 1 8 4 12 4) = true ∧ wellFormed (.red false 1 8 4 1 0) = true ∧
    (at_ (inTx reaching 1)).curGroup.act (at_ (inTx reaching 1)).run.slices 1 ≠ 0 ∧ (at_ (inTx reaching 1)).curGroup.inTx = true ∧
    (at_ (inTx reaching 1)).curGroup.queueFull (((at_ (inTx reaching 1)).curGroup.issuers (at_ (inTx reaching 1)).run.slices).filter
      fun sl => (at_ (inTx reaching 1)).curGroup.act sl 1 != 0).length = false := by decide +kernel
theorem witness_ScalarMemory :
    let s := at_ (withS grp [(10, 16), (11, 0x000F1000)])
    let on := s.run.slices &&& s.curGroup.live
    on ≠ 0 ∧ wellFormed (.ldsB64 false 2 10 0) = true ∧ wellFormed (.stsB64 false 2 10 0) = true ∧ wellFormed (.satom false 1 10 2 2 4) = true ∧
    (∀ l, l < 32 → (firstLanes on).getLsbD l = true → (s.curGroup.spair (l / 4) 10 + (0xFF8 : BitVec 12).signExtend 64).toNat % 8 = 0 ∧
      s.spot 1 0 l (s.curGroup.spair (l / 4) 10 + (0xFF8 : BitVec 12).signExtend 64).toNat 8 .read = .sp 0 8) ∧
    ∀ l, l < 32 → (firstLanes on).getLsbD l = true → s.spot 1 0 l (s.curGroup.spair (l / 4) 10).toNat 4 .atomic = .sp 0 16 := by decide +kernel

/-- Lane 0 alone names the first line at 0x10000, mapped for reading. -/
def prefetching : State := coded (at_ { withS grp [(10, 0x10000)] with masks := [(1, 1)] }) []
theorem witness_Prefetches :
    prefetching.run.on = true ∧ prefetching.curGroup.inTx = false ∧ (at_ (inTx grp 1)).curGroup.inTx = true ∧
    (prefetching.prefetchAt 1 0 0 0x10000).2.map (· / 128) = some 0 ∧
    (∀ l, l < 32 → ((prefetching.curGroup.act prefetching.run.slices 1).getLsbD l = true ↔ l = 0)) ∧
    prefetching.blocked 0 1 0 = false ∧ prefetching.l1Stuck 0 0 = false ∧
    (∀ l, l < 32 → (at_ grp).prefetchAt 1 0 l (2 ^ 52) = (at_ grp, none)) ∧
    prefetching.spot 1 0 0 0x10000 1 .read = .global [(0x10000, 1)] ∧
    (prefetching.tlbFind 0 0 0 0x10000 .read).map (fun x => (x.check .read, isLocal (x.at_ 0x10000))) = some (none, true) := by
  refine ⟨by decide +kernel, by decide +kernel, by decide +kernel, by decide +kernel, by decide +kernel, by decide +kernel, by decide +kernel,
    fun l _ => ?_, by decide +kernel, by decide +kernel⟩
  exact if_pos (Nat.le_refl _)

/-- Buffer 7 of the team, the last, in a state; s1 holds `v`. -/
def buffered (b : Buf) (v : Word) : State := { at_ (withS grp [(1, v)]) with cores := [(0, { bufs := [(7, b)] })] }
theorem witness_Buffers_set (key : LineKey) :
    (buffered {} 0).Alone ∧ (buffered {} 0).Clean 0 ∧ (buffered {} 0).Unwatched key 1 0 ∧ (buffered {} 0).Unwatched key (2 ^ 32) 0 ∧
      (buffered {} 0).Trappable 3 :=
  ⟨⟨by decide +kernel, by decide +kernel⟩, fun _ h => (nomatch h), ⟨fun _ h => (nomatch h), fun _ h => (nomatch h)⟩,
    ⟨fun _ h => (nomatch h), fun _ h => (nomatch h)⟩, ⟨by decide +kernel, by decide +kernel, by decide +kernel, by decide +kernel⟩⟩
theorem witness_Buffers :
    let s := buffered { state := 1, phase := true } 0xFFFFF
    s.curGroup.inTx = false ∧ s.run.uid < 2 ^ 32 ∧ (7 : BitVec 6).toNat < s.curTeam.bufCnt ∧ s.curTeam.bufCnt ≤ (8 : BitVec 6).toNat ∧
    (s.curGroup.sreg 0 1).toNat < 2 ^ 20 ∧
    (let t := buffered {} 0x100
     1 ≤ (t.curGroup.sreg 0 1).toNat % 2 ^ 15 ∧ (t.curGroup.sreg 0 1).toNat / 2 ^ 15 + (t.curGroup.sreg 0 1).toNat % 2 ^ 15 ≤ t.curTeam.spSize * 16) ∧
    (Sparse.get {} (s.coreOf s.curCore).bufs 7 : Buf).phase = (0xFFFFF : Nat).testBit 0 ∧
    (Sparse.get {} (s.coreOf s.curCore).bufs 7 : Buf).phase ≠ (0xFFFFE : Nat).testBit 0 := by decide +kernel
/-- One arrival of 64 under way to handle `i` of team `u`. -/
def arriving (u i : Nat) : State := { buffered {} 0 with arrivals := [(0, u, i, 64, false)] }
theorem witness_Buffers_arrival :
    (arriving 1 7).arrivals.find? (fun a => a.1 == 0) = some (0, 1, 7, 64, false) ∧ ((arriving 1 7).teamOf 1).place = .resident ∧
    7 < ((arriving 1 7).teamOf 1).bufCnt ∧
    (arriving 1 8).arrivals.find? (fun a => a.1 == 0) = some (0, 1, 8, 64, false) ∧ ((arriving 1 8).teamOf 1).bufCnt ≤ 8 ∧
    (arriving (2 ^ 32) 0).arrivals.find? (fun a => a.1 == 0) = some (0, 2 ^ 32, 0, 64, false) :=
  ⟨rfl, by decide +kernel, by decide +kernel, rfl, by decide +kernel, rfl⟩

/-- R148, R149: sixteen INT32 elements in one dimension, in tiles of four, at 0x10000: well formed and valid. -/
def tid16 : Tid := { w0 := 0x10000, w1 := 0x9000000000000001, w3 := 0x0000001000000000, w5 := 0x0004000000000000 }
/-- Core 0 holds it as identifier 7, the team's last; s1 holds `v`. -/
def tabled (v : Word) : State := { at_ (withS grp [(1, v)]) with cores := [(0, { tids := [(7, tid16)] })] }
theorem alone_tabled : (tabled 0).Alone := ⟨by decide +kernel, by decide +kernel⟩
theorem test_tid_wellFormed : tid16.wellFormed = true ∧ ({ tid16 with w0 := 0x10008 } : Tid).wellFormed = false := by decide +kernel
theorem witness_TensorIdentifiers : (tabled 0).Alone ∧ (tabled 0).Trappable 3 ∧ (7 : BitVec 6).toNat < (tabled 0).curTeam.tidCnt ∧
    (tabled 0).curTeam.tidCnt ≤ (8 : BitVec 6).toNat ∧ (6 : BitVec 6).toNat % 2 = 0 :=
  ⟨alone_tabled, ⟨by decide +kernel, by decide +kernel, by decide +kernel, by decide +kernel⟩, by decide +kernel⟩
/-- A stream over the sixteen elements is bound to s48; s1 holds its last position or the one after it. -/
def walking (v : Word) : State :=
  { tabled 0 with teams := [(1, { team with groups := [(0, { withS grp [(1, v)] with streams := [(48, { bound := true, tid := tid16, elem := true })] })] })] }
theorem witness_Streams :
    48 ≤ (48 : BitVec 6).toNat ∧ (55 : BitVec 6).toNat < 56 ∧
    ({ bound := true, tid := tid16, elem := true } : Stream).total = 16 ∧ ({ bound := true, tid := tid16, elem := true } : Stream).total < 2 ^ 32 ∧
    (Sparse.get {} ((tabled 0).coreOf 0).tids 7 : Tid).valid = true ∧ (Sparse.get {} ((tabled 0).coreOf 0).tids 6 : Tid).valid = false ∧
    ((walking 15).curGroup.streamOf 48).bound = true ∧ ((walking 15).curGroup.sreg 0 1).toNat < ((walking 15).curGroup.streamOf 48).total ∧
    ((walking 16).curGroup.streamOf 48).total ≤ ((walking 16).curGroup.sreg 0 1).toNat ∧
    ((tabled 0).curGroup.streamOf 48).bound = false := by decide +kernel
/-- R149: a walk of 2^32 elements is too long. -/
theorem witness_Streams_long :
    2 ^ 32 ≤ ({ bound := true, tid := { tid16 with w1 := 0x9400000000000001, w3 := 0x0001000000010000, w5 := 0x0001000000040000 }, elem := true } : Stream).total := by
  decide +kernel

/-- A launch whose one team has two groups; its first group runs. -/
def node2 : Node := { lanes := 64, x := 1, y := 1, z := 1, started := true }
def launched : State :=
  { at_ grp 3 { team with ngroup := 2 } with
    launches := [(0, some { fn := 0, q := 0, part := 0, asid := 0, prio := 0, nodes := [node2], order := [0] })] }
theorem witness_Triggers :
    (at_ (inTx grp 1)).curGroup.inTx = true ∧
    ((at_ parted 1).run.on = true ∧ (at_ parted 1).curGroup.inTx = false ∧
      (at_ parted 1).curGroup.live &&& ~~~((at_ parted 1).curGroup.trigged ||| (at_ parted 1).run.slices) ≠ 0) ∧
    ((at_ grp).curGroup.live &&& ~~~((at_ grp).curGroup.trigged ||| (at_ grp).run.slices) = 0 ∧ (at_ grp).curGroup.contributed = false ∧
      ∀ x ∈ (at_ grp).launches, x.1 ≠ (at_ grp).curTeam.launch) := by decide +kernel
theorem witness_Triggers_launch :
    launched.curGroup.live &&& ~~~(launched.curGroup.trigged ||| launched.run.slices) = 0 ∧ launched.curGroup.contributed = false ∧
    (launched.launchOf launched.curTeam.launch).map (fun l => l.nodes) = some [node2] ∧ launched.curTeam.node < [node2].length ∧
    ([node2].getD launched.curTeam.node {}).contrib + 1 ≠
      ([node2].getD launched.curTeam.node {}).teams * ([node2].getD launched.curTeam.node {}).groups ∧
    ∀ x ∈ [node2], x.started = true ∨ x.c ≠ 0 := by decide +kernel
theorem witness_Triggers_clean : launched.Clean launched.curCore ∧ (at_ parted 1).Clean 0 := ⟨fun _ h => (nomatch h), fun _ h => (nomatch h)⟩

/-- s8 to s15: a plain copy of 32 bytes from the window's start to byte 64 of it, which counts at handle 7. -/
def copyWords : List (Nat × Word) := [(8, 0x00070000), (9, 32), (10, 0), (11, 0x000F1000), (12, 64), (13, 0x000F1000), (14, 0), (15, 0)]
def posting : State := at_ (withS grp copyWords)
/-- The same command once its checks have accepted it. -/
def copy32 : Copy :=
  { posting.curGroup.copyWords 3 8 with srcVa := 0xF1 * 2 ^ 44, dstVa := 0xF1 * 2 ^ 44 + 64, count := 32 }
theorem witness_CopyPosts :
    posting.curGroup.inTx = false ∧ posting.curGroup.counters.value .cp < 62 ∧ posting.curTeam.ring.length < 32 ∧
    (match posting.copyCheck 1 (posting.curGroup.copyWords 3 8) with | .ok c => c == copy32 | .error _ => false) = true ∧
    ((List.range 32).map fun k => (posting.curTeam.ringNext + k) % 32).find? (fun k => !(posting.curTeam.ring.any fun r => r.1 == k)) = some 0 ∧
    (match (at_ (withS grp ((9, 8) :: copyWords.eraseIdx 1))).copyCheck 1 ((at_ (withS grp ((9, 8) :: copyWords.eraseIdx 1))).curGroup.copyWords 3 8) with
      | .error c => c == .prot | .ok _ => false) = true := by decide +kernel
theorem witness_CopyPosts_state : posting.Alone ∧ posting.Clean posting.curCore ∧ posting.Trappable 3 :=
  ⟨⟨by decide +kernel, by decide +kernel⟩, fun _ h => (nomatch h), ⟨by decide +kernel, by decide +kernel, by decide +kernel, by decide +kernel⟩⟩
/-- A full cp counter, and a full ring. -/
theorem witness_CopyPosts_full :
    62 ≤ (at_ { grp with ctr := { cp := (List.range 62).map fun k => (k, false) } }).curGroup.counters.value .cp ∧
    32 ≤ (at_ grp 3 { team with ring := (List.range 32).map fun k => (k, copy32) }).curTeam.ring.length := by decide +kernel
/-- Each form of a command that is refused, at the first value refused. -/
theorem witness_CopyPosts_refused :
    4 ≤ ({ w0 := 0x40000000 } : Copy).mode ∧ ({ w0 := 0x0C000000 } : Copy).skind = 3 ∧ ({ w0 := 0x03000000 } : Copy).dkind = 3 ∧
    ({ w0 := 0x00400000 } : Copy).w0.toNat / 2 ^ 22 % 4 ≠ 0 ∧ ({ w0 := 0x10 } : Copy).w0.toNat / 16 % 64 ≠ 0 ∧
    ({ w1 := 0x00100000 } : Copy).w1.toNat / 2 ^ 20 ≠ 0 ∧ (posting.teamOf 1).bufCnt ≤ ({ w0 := 0x00080000 } : Copy).dbuf ∧
    (({ w0 := 1 } : Copy).mode ≠ 3 ∧ ({ w0 := 1 } : Copy).mcast ≠ 0) ∧
    (({ w0 := 0x04000000, w2 := 64 } : Copy).skind = 1 ∧ 64 ≤ ({ w0 := 0x04000000, w2 := 64 } : Copy).srcWord) ∧
    (({ w0 := 0x01000000, w4 := 64 } : Copy).dkind = 1 ∧ 64 ≤ ({ w0 := 0x01000000, w4 := 64 } : Copy).dstWord) := by decide +kernel
/-- The command posted in slot 0. -/
def copying (st : CopyState) : State := at_ grp 3 { team with ring := [(0, { copy32 with state := st })] }
theorem witness_CopyMoves :
    ((copying .posted).teamOf 1).nextCopy = some (0, copy32) ∧ copy32.state = .posted ∧ copy32.mode = 0 ∧ copy32.skind = 0 ∧
    copy32.dkind = 0 ∧ copy32.count = 32 ∧ copy32.moved = 0 ∧ copy32.todo = none ∧ copy32.srcVa = 0xF1 * 2 ^ 44 + 0 ∧ copy32.dstVa = 0xF1 * 2 ^ 44 + 64 ∧
    0 + 32 ≤ ((copying .posted).teamOf 1).spSize * 256 ∧ 64 + 32 ≤ ((copying .posted).teamOf 1).spSize * 256 ∧
    ((copying .posted).teamOf 1).spSize * 256 ≤ 2 ^ 20 ∧ ((copying .posted).teamOf 1).place = .resident ∧ 0 < 32 ∧
    (copying .posted).regs = [] ∧ (copying .posted).wakes = [] ∧ (copying .posted).wlocks = [] ∧
    (copying .posted).locksFree ((copying .posted).locksFor 1 0 ((copying .posted).copyReads 1 copy32) ((copying .posted).copyWrites 1 copy32)) = true := by
  decide +kernel
/-- Another command's lock on the last byte of the destination; and a source handle that is FILLING. -/
theorem witness_CopyMoves_waits :
    ({ copying .posted with cores := [(0, { locks := [{ dest := false, uid := 1, op := 5, base := 95, len := 1 }] })] } : State).locksFree
      ((copying .posted).locksFor 1 0 ((copying .posted).copyReads 1 copy32) ((copying .posted).copyWrites 1 copy32)) = false ∧
    (({ copy32 with w0 := 0x08070400 } : Copy).skind = 2 ∧
      (Sparse.get {} (({ copying .posted with cores := [(0, { bufs := [(1, { state := 1 })] })] } : State).coreOf 0).bufs
        (0 + ({ copy32 with w0 := 0x08070400 } : Copy).sbuf) : Buf).state ≠ 2) := by decide +kernel
theorem witness_CopyMoves_complete :
    ((copying (.moved true)).teamOf 1).ring.find? (fun r => r.1 == 0) = some (0, { copy32 with state := .moved true }) ∧
    ({ copy32 with state := .moved true } : Copy).mode ≠ 3 ∧ ({ copy32 with state := .moved true } : Copy).skind ≠ 2 ∧ 1 < 2 ^ 32 ∧
    ∃ g, g < ((copying (.moved true)).teamOf 1).ngroup ∧ ((copying (.moved true)).groupOf 1 g).live ≠ 0 :=
  ⟨by decide +kernel, by decide +kernel, by decide +kernel, by decide, 0, by decide +kernel⟩

/-- R359, R360: INT8 weights, 64 by 16, at 0x10000. -/
def weights : Tid := { w0 := 0x10000, w1 := 0x3400000000000001, w3 := 0x0000004000000010, w5 := 0x0040000000000040, w6 := 0x0010000000000000 }
/-- s1 asks for slot 2 with identifier 7, unpinned; the engine holds `x` in slot 1 and the device a quota of `n` slots and pins. -/
def loading (x : Slot) (n : Nat) (v : Word := 0x00070002) : State :=
  { at_ (withS grp [(1, v)]) with
    cores := [(0, { tids := [(7, weights)] })]
    engines := [(0, { slots := [(1, x)] })]
    vdevs := [(0, { resq := BitVec.ofNat 32 (n * 256 + n * 2 ^ 17) })] }
def held1 : Slot := { state := .resident, elem := 3, n := 16, gen := 5 }
theorem witness_Residencies_load :
    (loading held1 2).curGroup.inTx = false ∧ (loading held1 2).curGroup.counters.value .cp < 62 ∧
    (((loading held1 2).resRecord 1 0x00070002 0).map fun r => (r.1.elem, r.1.n, r.2)) = some (3, 16, some 2) ∧
    (((loading held1 2).resRecord 1 0x00070100 0).map fun r => r.2) = some none ∧
    (((loading held1 2).resRecord 1 0x00070001 0).map fun r => r.2) = some (some 1) ∧
    ((loading held1 2).vdevOf 0).resq.toNat / 256 % 512 = 1 + 1 ∧ ((loading held1 1).vdevOf 0).resq.toNat / 256 % 512 < 1 + 1 ∧
    ((loading held1 2).engineOf 0).held 0 = 1 ∧ ((loading held1 2).engineOf 0).slot 2 = {} ∧ ((loading held1 2).engineOf 0).slot 1 = held1 ∧
    (loading held1 2).watch = [] ∧ (loading held1 2).shadowWatch = [] := by decide +kernel
theorem witness_Residencies_state : (loading held1 2).Alone ∧ (loading held1 2).Clean (loading held1 2).curCore :=
  ⟨⟨by decide +kernel, by decide +kernel⟩, fun _ h => (nomatch h)⟩
/-- Handle 0x0105 is slot 1 with GEN 5; 0x0106 has another GEN. -/
theorem witness_Residencies_handle :
    ((loading held1 1).engineOf 0).valid 0 0x0105 = true ∧ ((loading held1 1).engineOf 0).valid 0 0x0106 = false ∧
    (((loading held1 1).engineOf 0).slot 1).pin = false ∧ ((loading held1 1).engineOf 0).pinned 0 + 1 ≤ ((loading held1 1).vdevOf 0).resq.toNat / 2 ^ 17 % 512 ∧
    ((loading held1 0).vdevOf 0).resq.toNat / 2 ^ 17 % 512 < ((loading held1 0).engineOf 0).pinned 0 + 1 ∧
    (((loading held1 1).engineOf 0).slot 1).counted = false := by decide +kernel
/-- A fill of slot 1 whose sixteen columns lie outside SIZE: nothing is read and every weight is 0. -/
def filling : Slot := { state := .loading, elem := 3, n := 16, tid := weights, o0 := 64, gen := 5 }
theorem witness_Residencies_fill :
    let spans := filling.rows.map fun r => (r.va, if r.count = 0 then 0 else rowSpan (elemBits filling.elem) r.count r.start)
    (loading filling 2).slotOf 0 1 = filling ∧ filling.state = .loading ∧ filling.stall = 0 ∧ filling.upper = false ∧ filling.counted = false ∧
    filling.scaleSpans = [] ∧ elemBits filling.elem ≤ 8 ∧ filling.n ≤ 512 ∧ ((loading filling 2).fillSpans 0 1 spans).2.1.length = spans.length ∧
    ((loading filling 2).fillSpans 0 1 spans).1.slotOf 0 1 = filling ∧ ((loading held1 2).slotOf 0 1).state ≠ .loading := by decide +kernel

/-- Team 1 owns tile 3 of engine 0; s21 holds a descriptor. -/
def tiled (v : Word) (g : Group := grp) : State :=
  { at_ (withS g [(21, v)]) with engines := [(0, { owner := [(3, 2)], slots := [(1, held1)] })] }
theorem tiled_ready (v : Word) : (tiled v).engineOf 0 = { owner := [(3, 2)], slots := [(1, held1)] } := rfl
theorem witness_TileInstructions_state : (tiled 0x00030000).Alone ∧ (tiled 0x00030000).Trappable 3 :=
  ⟨⟨by decide +kernel, by decide +kernel⟩, ⟨by decide +kernel, by decide +kernel, by decide +kernel, by decide +kernel⟩⟩
/-- Rows of 16 columns up to the last, column 511; the last tile; and what each form refuses. -/
theorem witness_TileInstructions :
    (tiled 0 (inTx grp 1)).curGroup.inTx = true ∧ (tiled 0x000301F0).curGroup.inTx = false ∧
    (tiled 0x000301F0).curGroup.act 3 0 ≠ 0 ∧ ({ (tiled 0).curGroup with masks := [] } : Group).act 3 1 = 0 ∧
    (tiled 0).curGroup.liveLanes 3 ≠ 0 ∧
    wellFormed (.mma false 0 16 21 0 0 0 0 0) = true ∧ wellFormed (.accxRd false 0 40 21 1) = true ∧ wellFormed (.accxWr false 0 112 21 1) = true ∧
    wellFormed (.accxRdz false 0 96 21 2) = true ∧ wellFormed (.accAlloc false 6 21) = true ∧ wellFormed (.accFree false 21) = true ∧
    wellFormed (.accZero false 21) = true ∧
    (tiled 0).curGroup.counters.value .tl < 62 ∧ (tiled 0).curGroup.queueFull 1 = false ∧ ((tiled 0).engineOf 0).resv.length < 64 ∧
    (((tiled 0).engineOf 0).resv.filter fun q => q.uid == 1).length < 32 ∧
    ((0x000301F0 : Word).toNat < 2 ^ 24 ∧ (0x000301F0 : Word).toNat / 512 % 128 = 0 ∧ (0x000301F0 : Word).toNat % 8 = 0 ∧
      (0x000301F0 : Word).toNat % 512 + 8 * 2 ^ 1 ≤ 512 ∧ (0x000301F0 : Word).toNat / 65536 % 256 < 64 ∧
      Sparse.get 0 ((tiled 0).engineOf 0).owner ((0x000301F0 : Word).toNat / 65536 % 256) = (tiled 0).curTeam.tileOwner 1) ∧
    ¬ ((0x000301F8 : Word).toNat % 512 + 8 * 2 ^ 1 ≤ 512) ∧ Sparse.get 0 ((tiled 0).engineOf 0).owner 2 ≠ (tiled 0).curTeam.tileOwner 1 ∧
    (0x1F030000 : Word).toNat < 2 ^ 29 ∧ ¬ ((0x20030000 : Word).toNat < 2 ^ 29) ∧ (64 : Word).toNat ≤ 64 ∧ ¬ ((65 : Word).toNat ≤ 64) ∧
    (∀ q ∈ ((tiled 0).engineOf 0).resv, ¬ (q.uid = 1 ∧ q.grp = 0 ∧ q.op = (tiled 0).curGroup.nextOp)) := by decide +kernel

/-- The tile entry of the word `w` with its reservation, alone on engine 0. -/
def tileEntry (w v : Word) : RqEntry :=
  ({ insn := w, orig := w, slices := 3, lanes := 0xFF, act := 0xFF, pc := 0x1000, cls := some .tl } : RqEntry).setDesc v
def resv0 : Resv := { uid := 1, grp := 0, op := 0, tile := 3, prio := 0, time := 0 }
def granting (w v : Word) (x : Slot := held1) : State :=
  { at_ { grp with rq := [tileEntry w v], ctr := { tl := [(0, false)] }, nextOp := 1 } with
    engines := [(0, { owner := [(3, 2)], slots := [(1, x)], resv := [resv0] })] }
/-- `accx.rd`, `accx.rdz`, `accx.wr` of sixteen columns from 496 on; `acc.alloc`, `acc.free` and `acc.zero`. -/
theorem witness_EngineGrants : ∀ p ∈ ([(0x3F0A1501, 0x000301F0, .accxRd false 0 40 21 1), (0x3F0A1541, 0x000301F0, .accxRdz false 0 40 21 1),
    (0x3F0A1521, 0x000301F0, .accxWr false 0 40 21 1), (0xA518B000, 3, .accAlloc false 6 11), (0xA500B001, 3, .accFree false 11),
    (0xA500B002, 3, .accZero false 11)] : List (Word × Word × Instr)),
    (granting p.1 p.2.1).nextGrant 0 = some resv0 ∧ (granting p.1 p.2.1).entryOf resv0 = some (tileEntry p.1 p.2.1) ∧
      (tileEntry p.1 p.2.1).instr = some p.2.2 := by decide +kernel
theorem witness_EngineGrants_columns : (0x000301F0 : Word).toNat % 512 + 8 * 2 ^ 1 ≤ 512 := by decide +kernel
/-- A pass over one block of sixteen columns of INT8 weights; with GEN 6 in the handle it is not valid. -/
theorem witness_EngineGrants_pass :
    (granting 0x3E24146C 0x00030105).nextGrant 0 = some resv0 ∧
    (granting 0x3E24146C 0x00030105).entryOf resv0 = some (tileEntry 0x3E24146C 0x00030105) ∧
    (tileEntry 0x3E24146C 0x00030105).instr = some (.mma false 1 16 20 3 0 1 1 0) ∧ intFmt 3 = intFmt held1.elem ∧
    ((granting 0x3E24146C 0x00030105).engineOf 0).valid 0 (0x00030105 % 65536) = true ∧
    ((granting 0x3E24146C 0x00030106).engineOf 0).valid 0 (0x00030106 % 65536) = false ∧
    (((granting 0x3E24146C 0x00030105).engineOf 0).slot (0x00030105 % 65536 / 256)) = held1 ∧ held1.state = .resident ∧ held1.stale = false ∧
    (0x00030105 / 2 ^ 24 % 32 + 1) * 16 ≤ held1.n ∧ (0x00030105 / 2 ^ 24 % 32 + 1) * 16 ≤ 512 ∧
    (granting 0x3E24146C 0x00030105).misfire = [] ∧ ((granting 0x3E24146C 0x00030105).partOf 0).test = false ∧ (at_ grp).nextGrant 0 = none := by
  decide +kernel

/-! Collectives: communicator 5 of dies 0 and 1, whose primary is die 0 and whose standby is die 1. -/

def comm5 : Comm := { v := true, part := 0, prim := 0, stby := 1, term := 1, next := 7, nextN := 9, nm1 := 1, members := [0, 1] }
/-- Die `d`'s entry is `x` and its posted collectives are `ys`; the device is accelerator 0. -/
def joined (x : Comm) (ys : List Coll := []) (d : Nat := 0) : State :=
  { at_ grp with accNone := false, dies := [(d, { comms := [(5, x)], colls := ys })] }
/-- s8 to s15: an all-reduce of identifier 7 into itself, for communicator 5 under tag 42, which counts at handle 7. -/
def collWords : List (Nat × Word) := [(8, 0x00070000), (9, 5), (10, 42), (11, 0x0707)]
def calling (x : Comm) (ys : List Coll := []) : State :=
  { at_ (withS grp collWords) with cores := [(0, { tids := [(7, tid16)] })], dies := [(0, { comms := [(5, x)], colls := ys })] }
def coll42 : Coll := { comm := 5, tag := 42, uid := 1, grp := 0, slot := 0, op := 0, opn := 0, red := 0, root := 0, dbuf := 7, src := tid16, dst := tid16 }
def collCmd : CollCmd := { w := [0x00070000, 5, 42, 0x0707, 0, 0, 0, 0] }
theorem witness_CollectivePosts :
    (calling comm5).curGroup.inTx = false ∧ (calling comm5).curGroup.counters.value .cp < 62 ∧ (calling comm5).collsOf 1 < 16 ∧
    (calling comm5).collCheck 1 collCmd = some coll42 ∧
    ((List.range 8).map fun j => (calling comm5).curGroup.sreg 0 (8 + j)) = collCmd.w ∧
    ((comm5.holes.any fun k => k.2 == some 42) = false) ∧ ((comm5.known.any fun k => k.2 == 42) = false) ∧
    (calling { comm5 with v := false }).collCheck 1 collCmd = none ∧
    16 ≤ (calling comm5 ((List.range 16).map fun k => { coll42 with slot := k })).collsOf 1 := by decide +kernel
theorem witness_CollectivePosts_state : (calling comm5).Alone ∧ (calling comm5).Clean (calling comm5).curCore ∧ (calling comm5).Trappable 3 :=
  ⟨⟨by decide +kernel, by decide +kernel⟩, fun _ h => (nomatch h), ⟨by decide +kernel, by decide +kernel, by decide +kernel, by decide +kernel⟩⟩
theorem witness_CollectivePosts_cancel :
    (calling comm5).collKnown 1 0 5 42 = false ∧ (calling comm5 [coll42]).collKnown 1 0 5 42 = true ∧
    (calling { comm5 with known := [(7, 42)] }).collKnown 1 0 5 42 = true := by decide +kernel

/-- The primary hears term 1 and above, and hears neither term 0 nor, once another is primary, anything. -/
theorem witness_SequencerPrimary_heard :
    (((joined comm5).commOf 0 5).v = true ∧ ((joined comm5).commOf 0 5).term.toNat ≤ (1 : DWord).toNat ∧
      ((joined comm5).commOf 0 5).prim = (joined comm5).memberAddr 0) ∧
    ¬ (((joined comm5).commOf 0 5).term.toNat ≤ (0 : DWord).toNat) ∧
    ((joined { comm5 with prim := 1 }).commOf 0 5).prim ≠ (joined comm5).memberAddr 0 := by decide +kernel
theorem witness_SequencerPrimary :
    (((0 : BitVec 12).toNat / 4 = (joined comm5).accid ∧ (0 : BitVec 12).toNat % 4 < 3) ∧
      ¬ ((4 : BitVec 12).toNat / 4 = (joined comm5).accid) ∧ ¬ ((3 : BitVec 12).toNat % 4 < 3)) ∧
    (comm5.room = true ∧ comm5.held = []) ∧
    ({ comm5 with held := [(7, some 42, false)] } : Comm).numberOf 1 42 = some (7, some 42, false) ∧
    ({ comm5 with held := [(7, some 42, true)] } : Comm).numberOf 1 42 = some (7, some 42, true) := by decide +kernel
theorem witness_SequencerPrimary_rounds :
    -- the first READY of two, and the last
    (((7 : Word), (1 : BitVec 12)) ∉ comm5.readyFrom ∧ ∃ m ∈ comm5.members, m ≠ 1 ∧ ((7 : Word), m) ∉ comm5.readyFrom) ∧
    (∀ m ∈ comm5.members, m = 1 ∨ ((7 : Word), m) ∈ [((7 : Word), (0 : BitVec 12))]) ∧ (7 : Word) ∉ comm5.goSent ∧
    -- the first DONE of two, and the last
    (((7 : Word), (1 : BitVec 12)) ∉ comm5.doneFrom ∧ comm5.waitAssign = []) ∧ (∃ m ∈ comm5.members, m ≠ 1 ∧ ((7 : Word), m) ∉ comm5.doneFrom) ∧
    ((7 : Word) ∉ ({ comm5 with held := [(7, some 42, false)] } : Comm).goSent) ∧
    ((7 : Word) ∈ ({ comm5 with held := [(7, some 42, false)], goSent := [7] } : Comm).goSent) := by decide +kernel
theorem witness_SequencerPrimary_held : ∃ t, ((7 : Word), t, false) ∈ ({ comm5 with held := [(7, some 42, false)] } : Comm).held := ⟨some 42, by decide⟩

/-- NEXT is 7: 6 has been passed, 7 is next and 8 is to come; the pair of tag 42 is posted or not. -/
theorem witness_SequencerMembers :
    precedes 6 comm5.next = true ∧ precedes 7 comm5.next = false ∧ precedes 8 comm5.next = false ∧
    ((8 : Word), (42 : Word)) ∉ comm5.known ∧ (∀ h ∈ comm5.holes, h.1 ≠ 8 ∧ h.1 ≠ comm5.next) ∧ (∀ k ∈ comm5.known, k.1 ≠ comm5.next) ∧
    (joined comm5).collOf 0 5 42 = none ∧ ((joined comm5 [coll42]).collOf 0 5 42).isSome = true ∧ (∀ k ∈ comm5.readySent, k.1 ≠ 7) ∧
    (7 : Word) ∉ comm5.goGot ∧
    ({ comm5 with cancels := [{ tag := 42, uid := 1, grp := 0, owed := { slices := 3, reg := 63, pc := 0x1000, trap := false }, time := 0 }] } : Comm).cancels.find? (fun w => w.tag == 42) =
      some { tag := 42, uid := 1, grp := 0, owed := { slices := 3, reg := 63, pc := 0x1000, trap := false }, time := 0 } ∧ comm5.cancels.find? (fun w => w.tag == 42) = none ∧
    (8 : Word) ≠ comm5.next ∧ (∀ k ∈ comm5.known, k.1 ≠ 7) := by
  have nil {α : Type} {p : α → Prop} : ∀ x ∈ ([] : List α), p x := fun _ h => nomatch h
  exact ⟨by decide +kernel, by decide +kernel, by decide +kernel, by decide +kernel, nil, nil, by decide +kernel, by decide +kernel, nil,
    by decide +kernel, by decide +kernel, by decide +kernel, by decide +kernel, nil⟩
/-- GO for number 7, known under tag 42, whose source at the start of the scratchpad window is read. -/
theorem witness_SequencerMembers_go :
    let y := { coll42 with src := { tid16 with w0 := 0x000F100000000000 } }
    let s := joined { comm5 with known := [(7, 42)] } [y]
    s.accNone = false ∧ (4 : BitVec 12).toNat / 4 ≠ s.accid ∧
    (s.commOf 0 5).known.find? (fun k => k.1 == 7) = some (7, 42) ∧ s.collOf 0 5 42 = some y ∧ (∀ k ∈ (s.commOf 0 5).sent, k.1 ≠ 7) ∧
    y.locked = false ∧
    (let s1 := (s.updComm 0 5 fun x => { x with goGot := x.goGot ++ [7] }).updColl 0 5 42 fun y => { y with running := true }
     let ls := s1.collLocks 0 y
     s1.locksFree ls = true ∧
     (((s1.takeLocks ls).updColl 0 5 42 fun y => { y with locked := true }).readElems 1 32 (elemBits y.src.elem) y.src.rowsOf).2.2 ≠ .wait) := by
  decide +kernel
/-- The same with a source at the start of the scratchpad window, a byte of which another operation is writing. -/
theorem witness_SequencerMembers_locked :
    let y := { coll42 with src := { tid16 with w0 := 0x000F100000000000 } }
    let s := { joined { comm5 with known := [(7, 42)] } [y] with cores := [(0, { locks := [{ dest := true, uid := 1, op := 5, base := 0, len := 1 }] })] }
    let s1 := (s.updComm 0 5 fun x => { x with goGot := x.goGot ++ [7] }).updColl 0 5 42 fun y => { y with running := true }
    s.collOf 0 5 42 = some y ∧ y.locked = false ∧ s1.locksFree (s1.collLocks 0 y) = false := by decide +kernel

/-- Both members have put their parts in, die 1's with or without a failure. -/
def running : Coll := { coll42 with running := true }
def contributed (err : Bool) : State :=
  { joined { comm5 with sent := [(7, false, [1, 2])] } [running] with
    dies := [(0, { comms := [(5, { comm5 with sent := [(7, false, [1, 2])] })], colls := [running] }),
             (1, { comms := [(5, { comm5 with rank := 1, sent := [(7, err, [0xFFFFFFFF, 3])] })] })] }
theorem witness_CollectiveCompletions :
    (∀ y ∈ ((joined comm5 [coll42]).dieOf 0).colls, y.comm = 5 → y.running = false) ∧
    ((contributed true).dieOf 0).colls.find? (fun y => y.comm == 5 && y.running) = some running ∧
    (contributed true).contributeColl 0 5 7 running = contributed true ∧
    (contributed true).askParts 0 5 7 { running with locked := true } 0 comm5.members = contributed true ∧
    (contributed true).contributions 0 5 7 { running with locked := true } 0 comm5.members = some [(false, [1, 2]), (true, [0xFFFFFFFF, 3])] ∧
    (contributed false).contributions 0 5 7 { running with locked := true } 0 comm5.members = some [(false, [1, 2]), (false, [0xFFFFFFFF, 3])] := by decide +kernel
/-- Member 4 lies in module 1: its part is asked for and has not come, has failed, or cannot come. A part that the operation does not
need is not waited for. -/
theorem witness_CollectiveCompletions_far :
    let s := contributed false
    (({ running with opn := 3, root := 1 } : Coll).needs 1 0 = false ∧ running.needs 0 0 = true ∧ (4 : BitVec 12).toNat / 4 ≠ s.accid) ∧
    s.answerTo (partAsk 0 5 7 0 4) = none ∧ s.contributions 0 5 7 running 0 [0, 1, 4] = none ∧
    ({ s with answers := [{ ask := partAsk 0 5 7 0 4, v := none }] } : State).answerTo (partAsk 0 5 7 0 4) = some none ∧
    (s.answers = [] ∧ (({ s with peers := [(1, { state := 2 })] } : State).peerOf ((4 : BitVec 12).toNat / 4)).state = 2) := by decide +kernel
theorem witness_CollectiveCompletions_result :
    (∀ p ∈ [(List.range 16), (List.range 16)], p.length = running.src.elems ∧ ∀ v ∈ p, v < 2 ^ elemBits running.src.elem) ∧
    running.opn = 0 ∧ running.red = 0 ∧ running.src.elem = 9 ∧ ({ running with opn := 3, root := 1 } : Coll).root < [(List.range 16), (List.range 16)].length ∧
    (0 : Nat) ≠ ({ running with opn := 4, root := 1 } : Coll).root := by decide +kernel
/-- A gather that has no result to write on this die completes with nothing read and nothing written. -/
theorem witness_CollectiveCompletions_write : (contributed false).writePieces 1 32 [] = (contributed false, 0, .ok 0) := rfl
/-- A member of another module whose peer is DOWN. -/
theorem witness_CollectiveCompletions_down :
    ({ joined comm5 with peers := [(1, { state := 2 })] } : State).memberDown 4 = true ∧ (joined comm5).memberDown 1 = false := by decide +kernel

/-- An election that began at cycle 0, at the last cycle before 1 ms has passed and at the first after; a READY as old. -/
theorem witness_SequencerFailover :
    ({ comm5 with electAt := 1 } : Comm).electAt ≠ 0 ∧ ({ comm5 with electAt := 1 } : Comm).electAt + 2000000 ≤ (2000000 : DWord).toNat + 1 ∧
    comm5.electAt = 0 ∧ (joined comm5).unanswered 0 5 = false ∧
    ({ joined { comm5 with readySent := [(7, 0)] } with clock := 1999999 } : State).unanswered 0 5 = false ∧
    ({ joined { comm5 with readySent := [(7, 0)] } with clock := 2000000 } : State).unanswered 0 5 = true ∧
    (comm5.stby.toNat / 4 = (joined comm5).accid ∧ comm5.stby.toNat % 4 < 3) ∧
    (({ comm5 with stby := 4 } : Comm).stby.toNat / 4 ≠ (joined comm5).accid ∧
      (Sparse.get {} ({ joined comm5 with peers := [(1, { state := 2 })] } : State).peers 1 : Peer).state = 2) ∧
    (∀ k, k < 3 → ((joined comm5).dieOf k).colls = []) ∧
    (((joined { comm5 with rank := 1 } [] 1).commOf 1 5).stby = (joined comm5).memberAddr 1) ∧ comm5.stby ≠ (joined comm5).memberAddr 0 ∧
    (∃ m ∈ comm5.members, m ≠ 1 ∧ ∀ r ∈ comm5.reports, r.src ≠ m) ∧
    (let s : State := { joined { comm5 with prim := 4 } with peers := [(1, { state := 2 })] }
     (s.commOf 0 5).v = true ∧ s.memberDown (s.commOf 0 5).prim = true ∧ (s.commOf 0 5).asked = 0) := by decide +kernel

/-! ## Witnesses: walks, home slices, the resurvey -/

/-- Partition 0 with function 0 and one process: both stages map the first gigabyte to itself; the second, of the host's
addresses, to the host's; the third is not mapped. -/
def mapped (s : State) : State :=
  let s1 := { s with owner := [(0, 1)], parts := [(0, { valid := true, vfmask := 1, s2root := 0x4000, pctx := 0x6000, nasid := 1, homecl := 1 })] }
  let leaves := 0xFB + 2 ^ 64 * (2 ^ 50 + 0xFB)
  put (put (put (put (put (put s1 128 0x5001) 160 leaves) 192 0x7001) 224 0x8001) 256 0x9001) 288 (0xFB + 2 ^ 64 * 0x400000FB)
def walk1 (va : Nat) (acc : Acc) : Walk := { part := 0, asid := 0, va := va, acc := acc, core := some 0 }
def walkingAt (va : Nat) (acc : Acc) : State := mapped { at_ grp with dies := [(0, { walks := [walk1 va acc] })] }
theorem witness_WalksAndTrapQueue_walks :
    (walkingAt 0x10000 .write).nextWalk 0 = some (walk1 0x10000 .write) ∧
    (let s := fun (va : Nat) (acc : Acc) => (walkingAt va acc).updDie 0 fun x => { x with walkRR := 1 }
     (match ((s 0x10000 .write).walk 0 0 0 127 0x10000 .write .access).2 with | .ok t => t.at_ 0x10000 == 0x10000 | _ => false) = true ∧
     -- parcel 511 is not the partition's
     ((s 0x3FFFFFFF .fetch).walk 0 0 0 127 0x3FFFFFFF .fetch .access).2 = .fault { code := .prot, kind := 6, acc := 3, ppa := 0x3FFFFFFF } ∧
     ((s 0x40000000 .read).walk 0 0 0 127 0x40000000 .read .access).2 = .ats ∧
     ((s 0x80000000 .read).walk 0 0 0 127 0x80000000 .read .access).2 = .fault { code := .pf, acc := 0 } ∧
     -- a line of the page directory is locked by a commit
     ({ s 0x10000 .write with wlocks := [{ key := .mem 192, uid := 1, grp := 0 }] }.walk 0 0 0 127 0x10000 .write .access).2 = .held) := by
  decide +kernel
/-- Walks that all wait for ATS; 64 engines taken and one walk queued; and a walk that keeps its engine beside it. -/
def engines (w : Walk) (n : Nat) : State :=
  { at_ grp with dies := [(0, { walks := w :: (List.range n).map fun k => { walk1 0 .read with id := 2 + k, part := k / 32, state := .ats } })] }
theorem witness_WalksAndTrapQueue_engines :
    (∀ w ∈ ((engines (walk1 0 .read) 64).dieOf 0).walks, w.state ≠ .engine) ∧
    ¬ ((((engines (walk1 0 .read) 64).dieOf 0).walks.filter fun v => v.state != .queued).length < 64) ∧
    ¬ ((((engines (walk1 0 .read) 32).dieOf 0).walks.filter fun v => v.state != .queued && v.part == 0).length < 32) ∧
    (engines { walk1 0 .read with part := 1 } 32).nextWalk 0 = some { walk1 0 .read with part := 1 } ∧
    (engines { walk1 0 .read with state := .engine } 63).nextWalk 0 = some { walk1 0 .read with state := .engine } := by decide +kernel
theorem witness_WalksAndTrapQueue_completion :
    (at_ grp).launches = [] ∧ ((at_ grp).vdevOf 0).pri.length < 256 ∧
    256 ≤ (({ at_ grp with vdevs := [(0, { pri := List.range 256 })] } : State).vdevOf 0).pri.length := by decide +kernel
def record0 : TrapRec := { fatal := false, code := 6, kind := 0, acc := 0, part := 0 }
/-- Records of tag 9 and of the host's pages 5 and 6; none, one or both outstanding. -/
def pageRecord (page : Nat) : TrapRec := { record0 with kind := 2, vf := 0, tag := 9, io := page }
def pageWaiting (rs : List TrapRec) : State := { at_ grp with parts := [(0, { tqPosted := rs })] }
theorem witness_WalksAndTrapQueue_page :
    let of := fun (p : Part) => (p.tqPosted ++ p.tqStalled ++ p.tqWait).filter fun r => !r.fatal && r.kind == 2 && r.vf == 0 && r.io == 5
    (∀ p ∈ (pageWaiting [pageRecord 6]).parts, of p.2 = []) ∧
    ((pageWaiting [pageRecord 5]).parts.flatMap fun x => (of x.2).map fun r => (x.1, r)) = [(0, pageRecord 5)] ∧
    ((pageWaiting [pageRecord 5, pageRecord 6]).parts.flatMap fun x => (of x.2).map fun r => (x.1, r)) = [(0, pageRecord 5)] ∧
    (pageRecord 5).ofPage 0 5 = true ∧ (pageRecord 6).ofPage 0 5 = false ∧ (pageRecord 6).fatal = false ∧ (pageRecord 6).tag = (pageRecord 5).tag := by
  decide +kernel
/-- A stalled record behind `used` records of a ring of 64, with a base that is mapped for writing or is not. -/
def stalledAt (base : DWord) (used : Word) : State :=
  let s := online (mapped (at_ grp))
  { s with parts := Sparse.upd {} s.parts 0 fun x => { x with tqEn := true, tqBase := base, tqTail := used, tqStalled := [record0] } }
theorem witness_WalksAndTrapQueue_ring :
    ((stalledAt 0 0).partOf 0).tqStalled = record0 :: [] ∧ ((stalledAt 0 62).partOf 0).tqFree = 2 ∧ ((stalledAt 0 61).partOf 0).tqFree = 3 ∧
    (((stalledAt 0x20000 61).updPart 0 fun x => { x with tqStalled := [] }).writeRecord record0).2 = .posted ∧
    (((stalledAt 0x80000000 61).updPart 0 fun x => { x with tqStalled := [] }).writeRecord record0).2 = .failed ∧
    ({ (stalledAt 0x20000 61).updPart 0 fun x => { x with tqStalled := [] } with wlocks := [{ key := .mem (0x20000 / 128 + 30), uid := 1, grp := 0 }] }.writeRecord
      record0).2 = .stalled ∧
    ((at_ grp).partOf 0).tqWait = [] ∧ ((at_ grp).partOf 0).trWait = [] ∧
    (let s := (stalledAt 0 62).updPart 0 fun x => { x with tqWait := [record0], tqStalled := [] }
     ((s.flushTrace 0).partOf 0).tqWait = record0 :: []) ∧
    ((at_ grp).partOf 0).tqStalled = [] ∧ ((at_ grp).groupOf 1 0).queue = [] := by decide +kernel

/-- Line 0 stands at home, or is locked by a commit. -/
def cached : State := put (at_ grp) 0 0x1234
def lockedLine : State := { cached with wlocks := [{ key := .mem 0, uid := 1, grp := 0 }] }
theorem witness_HomeSlices :
    cached.admits 0 1 = true ∧ cached.admits 120 8 = true ∧ cached.admits 121 8 = false ∧ lockedLine.admits 0 1 = false ∧
    cached.admits Config.localEnd 1 = false ∧ cached.admits 0 (aopBytes 3) = true ∧
    cached.l2Find (cached.homeOf 0) 0 = some 0 ∧ (cached.l2Line (cached.homeOf 0) 0 0).valid = 3 ∧ (cached.l2Line (cached.homeOf 0) 0 0).on = true ∧
    (cached.l2Line (cached.homeOf 0) 0 0).line = 0 ∧
    (((cached.countHome 0 true).dropProxies (cached.homeOf 0) 0).noteWrite 0 noTeam 0).l2Find (cached.homeOf 0) 0 = some 0 ∧
    ((((cached.countHome 0 true).dropProxies (cached.homeOf 0) 0).noteWrite 0 noTeam 0).l2Line (cached.homeOf 0) 0 0).valid = 3 ∧
    (cached.readHome 0 8 0 0 2).2 = some 0x1234 := by decide +kernel
/-- The same line lies in the stack, poisoned in its first column. -/
theorem witness_HomeSlices_poison :
    let s := (online (at_ grp)).colStore ((((at_ grp).cadOf 0).a).col 0 0) 0 true
    s.admits 0 8 = true ∧ (s.readHome 0 8 0 0 2).2 = none := by decide +kernel

theorem witness_Resurvey_drop :
    Elem.ofWord 0x80000000 = none ∧ Elem.ofWord 0x18000000 = none ∧ Elem.ofWord 0x6F000000 = none ∧
    Elem.ofWord 0x76000000 = some { level := 3, stack := 11 } ∧ Elem.ofWord 0x167FC000 = some { level := 0, stack := 11, chan := 7, pch := 1, bank := 31 } ∧
    (∀ d, d < 3 → ((at_ grp).dieOf d).rsBusy = false) := by decide +kernel
/-- Bank 0 of parcel 0's first position is dropped, or firmware asks for that position's move; or its stack is dropped and
no other is left. -/
def bankOut : State := { at_ grp with drops := [{ level := 0, stack := (((at_ grp).cadOf 0).a.stk.getD 0 0), bank := (((at_ grp).cadOf 0).a.frm.getD 0 0) % 32 }] }
def single0 : State := { at_ grp with rsSingles := [(0, 0)] }
def noneLeft : State :=
  { at_ grp with drops := ((List.range 12).filter fun k => !(((at_ grp).cadOf 0).a.stk.drop 1).contains k).map fun k => { level := 3, stack := k } }
def die0 : Nat := ((at_ grp).cadOf 0).a.home / 128
/-- The reserved area comes first: its entry 288 has a position in the bank, its entry 8 one in a stack that is gone. -/
theorem witness_Resurvey_take :
    bankOut.nextMove die0 = some (286848, 0, some (0, { level := 0, stack := 0 })) ∧ single0.nextMove die0 = some (0, 0, none) ∧
    (at_ grp).nextMove 3 = none ∧ (single0.dieOf die0).rsBusy = false := by decide +kernel
theorem witness_Resurvey_none :
    noneLeft.nextMove die0 = some (286728, 0, some (0, { level := 3, stack := 0 })) ∧
    noneLeft.newStack ((noneLeft.cadOf 286728).a) 0 false = none := by decide +kernel
theorem witness_Resurvey_target :
    let a := (single0.cadOf 0).a
    single0.newStack a 0 true = some (a.stk.getD 0 0) ∧ single0.targetOk (single0.target a 0 (a.stk.getD 0 0) 130000) 0 (single0.cadOf 0).bankx = true := by
  decide +kernel
/-- Parcel 0 on its way to another frame, at line `c`, in state `st`. -/
def moving (st c : Nat) (stop : Bool := false) : State :=
  let s := single0
  let cd := s.cadOf 0
  (s.setCad 0 { cd with state := st, cursor := c, t := some (s.target cd.a 0 (cd.a.stk.getD 0 0) 130000) }).updDie die0 fun d =>
    { d with rsBusy := true, rsStop := stop }
theorem witness_Resurvey_steps :
    ((moving 1 16382).dieOf die0).rsBusy = true ∧ ((moving 1 16382).cadOf 0).state = 1 ∧ (moving 1 16382).rsrate.toNat % 65536 ≠ 0 ∧
    ((moving 1 16382).cadOf 0).cursor + 1 < 16384 ∧ ((moving 1 16382).cadOf 0).t.isSome = true ∧ ((moving 2 0).cadOf 0).state = 2 ∧
    ((moving 2 0 true).dieOf die0).rsStop = true ∧ ((moving 2 0 true).dieOf die0).rsSingle = false ∧
    (((moving 2 0 true).cadOf 0).t.map fun l => l.home) = some ((moving 2 0 true).cadOf 0).a.home ∧
    (moving 2 0 true).sliceLines ((moving 2 0 true).cadOf 0).a.home 0 = [] ∧
    ((moving 2 0 true).dieOf 1).replays = [] ∧
    ((moving 2 0 true).wlocks.any fun w => match w.key with | .mem m => parcelOf (m * 128) == 0 | _ => false) = false := by decide +kernel
/-- Two requests of die 1's groups for parcel 5, the second answered before and replayed. -/
def replaying (sent : Bool) : State :=
  { at_ { grp with rq := [{ entry0 with lane := [(0, {})] }] } with dies := [(1, { cadCache := [(5, (200, 7))], replays := [{ parcel := 5, line := 5 * 16384, uid := 1, grp := 0, op := some 0, sent := sent }] })] }
theorem witness_Resurvey_moved :
    (((replaying true).dieOf 1).replays.filter fun r => r.parcel == 5 && !r.sent && (replaying true).replayLive r) = [] ∧
    (((replaying false).dieOf 1).replays.filter fun r => r.parcel == 5 && !r.sent && (replaying false).replayLive r) ≠ [] ∧
    (288357 < 288358 ∧ 4 < 5 ∧ (288357, 4) ∉ (at_ grp).rsSingles) := by decide +kernel
theorem witness_Resurvey_perambulator :
    (at_ grp).pbctl.getLsbD 31 = true ∧ ({ at_ grp with pbctl := 0x18 } : State).pbctl.getLsbD 31 = false ∧
    ((at_ grp).dieOf die0).pbParcel = 0 ∧ 0 < 288358 ∧ (((moving 1 0).cadOf 0).a).home / 128 = die0 ∧ ((moving 1 0).cadOf 0).state ≠ 0 ∧
    ((at_ grp).cadOf 0).state = 0 ∧ (at_ grp).l2Find ((at_ grp).cadOf 0).a.home 0 = none := by decide +kernel

/-! ## Witnesses: base dies, scheduling -/

/-- A read of pseudo-channel 63, bank 31, row 16383, unit 63, with tag 7 of die 2, for function 95; the same header with
another kind, operation and argument. -/
def hdr (kind op arg : Nat) (vdev : Nat := 95) : DWord :=
  BitVec.ofNat 64 (kind * 2 ^ 62 + 2 * 2 ^ 60 + 7 * 2 ^ 57 + 63 * 2 ^ 51 + 31 * 2 ^ 46 + 16383 * 2 ^ 32 + op * 2 ^ 29 + arg * 2 ^ 26 + vdev * 2 ^ 19)
/-- A trained stack 11 whose pseudo-channel 63 is in `x`. -/
def trained (x : SelfRef := {}) (tags : Sparse (Option Packet) := []) : State :=
  { at_ grp with stks := [(11, { trDone := true, sr := Sparse.set {} [] 63 x, tags := tags })] }
theorem witness_BaseDiePackets_reach :
    hdrP (hdr 0 7 7) = 63 ∧ tagKey (hdr 0 7 7) = 1535 ∧
    ((at_ grp).stackOf 11).trDone = false ∧ (trained.stackOf 11).trDone = true ∧ (trained.stackOf 11).linkDown = false ∧
    ((hdrBad (hdr 0 7 7) || hdrBad (hdr 3 0 2) || hdrBad (hdr 3 3 0) || hdrBad (hdr 0 0 0 125)) = false) ∧
    (hdrBad (hdr 0 0 0 96) && hdrBad (hdr 0 0 0 124) && hdrBad (hdr 3 0 3) && hdrBad (hdr 3 4 0) && hdrBad (hdr 3 3 1)) = true ∧
    (Sparse.get none ((trained {} [(1535, some { hdr := hdr 0 0 0 })]).stackOf 11).tags 1535).isSome = true ∧
    Sparse.get none (trained.stackOf 11).tags 1535 = none ∧ hdrDie (hdr 0 7 7) = 2 ∧ hdrDie (hdr 0 7 7 ||| 0x3000000000000000) = 3 := by decide +kernel
theorem witness_BaseDiePackets_states :
    (Sparse.get {} (trained.stackOf 11).sr 63 : SelfRef).state = .active ∧
    (Sparse.get {} ((trained { state := .idle }).stackOf 11).sr 63 : SelfRef).state = .idle ∧
    (Sparse.get {} ((trained { state := .entering }).stackOf 11).sr 63 : SelfRef).state = .entering ∧
    (Sparse.get {} ((trained { state := .selfref }).stackOf 11).sr 63 : SelfRef).state = .selfref ∧
    (Sparse.get {} ((trained { state := .exiting }).stackOf 11).sr 63 : SelfRef).state = .exiting := by decide +kernel
theorem witness_BaseDiePackets_kinds :
    hdrKind (hdr 0 0 0) = 0 ∧ hdrKind (hdr 1 0 0) = 1 ∧ hdrKind (hdr 2 0 0) = 2 ∧ hdrKind (hdr 3 0 0) = 3 ∧
    (hdrOp (hdr 3 0 2) = 0 ∧ hdrOp (hdr 3 1 0) = 1 ∧ hdrOp (hdr 3 2 0) = 2 ∧ 3 ≤ hdrOp (hdr 3 3 0)) ∧
    Sparse.get false trained.broken (hdrCol 11 (hdr 1 0 0)).index = false ∧ trained.colStatus (hdrCol 11 (hdr 2 0 0)) = 0 ∧
    ({ trained with broken := [((hdrCol 11 (hdr 2 0 0)).index, true)] } : State).colStatus (hdrCol 11 (hdr 2 0 0)) ≠ 0 := by decide +kernel
/-- Of two waiting reads of pseudo-channel 63, one for the base die's own walk, that of class 3 goes before that of class 5. -/
theorem witness_BaseDiePackets_scheduler :
    let t : Stack := { trDone := true, waiting := [{ hdr := hdr 0 0 0 }, { hdr := hdr 0 0 0 125, time := 1 }] }
    (∀ x ∈ t.waiting, x.time < 2 ^ 64) ∧ t.next 63 20 false = some { hdr := hdr 0 0 0 125, time := 1 } ∧
    t.classOf { hdr := hdr 0 0 0 125, time := 1 } = 3 ∧ t.classOf { hdr := hdr 0 0 0 } = 5 := by decide +kernel
/-- A reply to a tag, and the tag's packet of cycle 0 at the last cycle before 20 µs have passed and at the first after. -/
def replied : State := { at_ grp with stks := [(11, { replies := [{ hdr := hdr 0 0 0 }], tags := [(1535, some { hdr := hdr 0 0 0 })] })] }
/-- A reply with a STATUS, to a tag that is timed out or is not. -/
def repliedAs (status : Nat) (kind : Nat) (dead : Bool) : State :=
  { at_ grp with stks := [(11, { replies := [{ hdr := replyHdr (hdr kind 0 0) status false false }], tags := [(1535, some { hdr := hdr kind 0 0, dead := dead })] })] }
theorem witness_BaseDiePackets_status :
    (∀ x ∈ [(3, 0, false), (0, 0, true), (0, 0, false), (0, 1, false)],
      ((repliedAs x.1 x.2.1 x.2.2).stackOf 11).replies[0]? = some { hdr := replyHdr (hdr x.2.1 0 0) x.1 false false } ∧
      (replyHdr (hdr x.2.1 0 0) x.1 false false).toNat / 2 ^ 49 % 4 = x.1 ∧ hdrKind (replyHdr (hdr x.2.1 0 0) x.1 false false) = x.2.1 ∧
      Sparse.get none ((repliedAs x.1 x.2.1 x.2.2).stackOf 11).tags (tagKey (replyHdr (hdr x.2.1 0 0) x.1 false false)) =
        some { hdr := hdr x.2.1 0 0, dead := x.2.2 }) := by decide +kernel
theorem witness_BaseDiePackets_reply :
    ((at_ grp).stackOf 11).replies[0]? = none ∧ (replied.stackOf 11).replies[0]? = some { hdr := hdr 0 0 0 } ∧
    Sparse.get none (replied.stackOf 11).tags (2 * 512 + 63 * 8 + 7) = some { hdr := hdr 0 0 0 } ∧
    ({ replied with clock := 39999 } : State).clock.toNat < 0 + 40000 ∧ 0 + 40000 ≤ ({ replied with clock := 40000 } : State).clock.toNat := by
  decide +kernel

/-- Function 95 has a rate of one hundredth token per 10 ns. -/
def metered (clock : DWord) : State := { at_ grp with vdevs := [(95, { qbcfg := 0x00100001 })], clock := clock }
theorem witness_BaseDieUpkeep_tokens :
    (metered 19).clock.toNat / 20 ≤ (metered 19).refillAt ∧ (metered 20).refillAt < (metered 20).clock.toNat / 20 ∧
    (∀ x ∈ (at_ grp).vdevs, qbRate x.2.qbcfg = 0) ∧ (metered 20).vdevs = [(95, { qbcfg := 0x00100001 })] ∧ qbRate (0x00100001 : Word) ≠ 0 := by decide +kernel
def ageing (x : SelfRef) (clock : DWord) : State := { trained x with clock := clock }
theorem witness_BaseDieUpkeep_refresh :
    (ageing {} 63999999).clock.toNat < 0 + 64000000 / 2 ^ 0 ∧ 0 + 64000000 / 2 ^ 2 ≤ (ageing { mult := 2 } 16000000).clock.toNat ∧
    (ageing {} 63999999).clock.toNat / 64000000 ≤ ((ageing {} 63999999).stackOf 11).hotWin ∧
    ((ageing {} 64000000).stackOf 11).hotWin < (ageing {} 64000000).clock.toNat / 64000000 ∧
    ((ageing { state := .idle } 32768).stackOf 11).srcfg.getLsbD 0 = true ∧
    0 + ((ageing { state := .idle } 32768).stackOf 11).srcfg.toNat / 65536 * 32 ≤ (ageing { state := .idle } 32768).clock.toNat ∧
    (ageing { state := .idle } 32767).clock.toNat < 0 + ((ageing { state := .idle } 32768).stackOf 11).srcfg.toNat / 65536 * 32 ∧
    (ageing { state := .entering } 39).clock.toNat < 0 + 40 ∧ 0 + 40 ≤ (ageing { state := .entering } 40).clock.toNat ∧
    (ageing { state := .exiting } 499).clock.toNat < 0 + 500 ∧ 0 + 500 ≤ (ageing { state := .exiting } 500).clock.toNat := by decide +kernel
/-- Row 16383 of bank 31 of pseudo-channel 63 in the mailbox's ARG0, repaired `n` times before. -/
def repairing (n : Nat) (arg : Word := 0xFFFFFFC0 &&& 0x7FFFFFFF) : State :=
  { at_ grp with stks := [(11, { trDone := true, mbxArg0 := arg, repairs := [(63 * 32 + 31, n)], rowLog := [{ p := 63, bank := 31, row := 0, count := 1, first := 0 }] })] }
theorem witness_BaseDieUpkeep_repair :
    mbxPlace ((repairing 0 0x80000000).stackOf 11).mbxArg0 = none ∧ mbxPlace ((repairing 0 0x20).stackOf 11).mbxArg0 = none ∧
    mbxPlace ((repairing 3).stackOf 11).mbxArg0 = some (63, 31, 16383) ∧ mbxPlace ((repairing 3 0).stackOf 11).mbxArg0 = some (0, 0, 0) ∧
    (repairing 3).dropped { stack := 11, p := 63, bank := 31, row := 16383, unit := 0 } = false ∧
    ({ repairing 3 with drops := [{ level := 3, stack := 11 }] } : State).dropped { stack := 11, p := 63, bank := 31, row := 16383, unit := 0 } = true ∧
    4 ≤ (Sparse.get 0 ((repairing 4).stackOf 11).repairs (63 * 32 + 31) : Nat) ∧ (Sparse.get 0 ((repairing 3).stackOf 11).repairs (63 * 32 + 31) : Nat) < 4 ∧
    ((repairing 0).stackOf 11).rowLog.length ≤ ((repairing 0).stackOf 11).mbxArg0.toNat ∧ ((repairing 0 0).stackOf 11).rowLog[(0 : Nat)]?.isSome = true := by
  decide +kernel
/-- A multiple of 2 is the last that is taken; pseudo-channel 63, 64, and 255 for all. -/
theorem witness_BaseDieUpkeep_set :
    let t := fun (p m : Word) => ({ mbxArg0 := p, mbxArg1 := m } : Stack)
    (t 63 2).mbxArg1.toNat ≤ 2 ∧ 2 < (t 63 3).mbxArg1.toNat ∧ 63 < (t 64 0).mbxArg0.toNat ∧ (t 64 0).mbxArg0.toNat ≠ 255 ∧
    (t 255 0).mbxArg0.toNat = 255 := by decide

/-- One team of 8 lanes waits, on core 0 that is or is not made ready for function 0. -/
def node8 : Node := { lanes := 8, g0 := 1, regs0 := 128, regs1 := 128, x := 1, y := 1, z := 1, started := true, scratch := 4096, bufs := 8, tensor := 8, entry := 0x10000 }
def waiting1 (fn : Nat) : Launch := { fn := fn, q := 0, part := 0, asid := 0, prio := 0, nodes := [node8], order := [0] }
def part0 : Part := { valid := true, vfmask := 7, homecl := 1, cur := 0 }
def offered (done : Bool) : State :=
  { State.reset with
    bootDone := true, launches := [(0, some (waiting1 0))], parts := [(0, part0)], cores := [(0, { scrubDone := done, scrubVdev := 0 })]
    engines := [(0, { vdev := 0 })] }
theorem witness_Scheduling_scrub :
    ((offered false).coreOf 0).scrubbing = false ∧ (((offered false).prepare [0] 0).coreOf 0).scrubbing = true := by decide +kernel
theorem witness_Scheduling_choice :
    ({ at_ grp with runs := [] } : State).runs = [] ∧ (Sparse.get {} (at_ grp).runs 0 : Run).on = true ∧
    (({ at_ grp with runs := [] } : State).chooseGroup 0) = some (0, 1, 0) ∧
    (({ at_ { grp with sleep := some { since := 0 } } with runs := [] } : State).chooseGroup 0) = none ∧
    (({ at_ grp with runs := [] } : State).groupOf 1 0).inTx = false := by decide +kernel
theorem witness_Scheduling_admission :
    (at_ grp).launchOf 0 = none ∧ (offered true).launchOf 0 = some (waiting1 0) ∧ ((offered true).partOf 0).has 0 = true ∧
    (offered true).mayRun 0 0 = true ∧ ((offered true).admissible (waiting1 0) 0).map (fun x => (x.1, x.2.1, x.2.2.map fun y => y.1)) = some (0, node8, [0]) ∧
    node8.cl = false ∧ ((offered false).abandonTest 0).prepared 0 0 = false ∧
    ((offered true).abandonTest 0).prepared 0 0 = true ∧ ((offered true).abandonTest 0).teams = [] ∧
    ((offered true).abandonTest 0).freePslot 0 0 [] = some 0 := by decide +kernel
/-- A function's slice is over at cycle 10, and functions 1 and 2 wait, or none does. -/
def switching (cur : Nat) (clock : DWord) : State :=
  { State.reset with clock := clock, launches := [(0, some (waiting1 1)), (1, some (waiting1 2))], parts := [(0, { part0 with cur := cur, sliceEnd := 10 })] }
theorem witness_Scheduling_switch :
    (∀ v, v < 96 → (decide (v < 96) && part0.vfmask.getLsbD v && v != 0 && ({ offered true with launches := [] } : State).waiting 0 v) = false) ∧
    ((switching 0 9).clock.toNat < ((switching 0 9).partOf 0).sliceEnd) ∧ ((switching 0 10).partOf 0).sliceEnd ≤ (switching 0 10).clock.toNat ∧
    (switching 0 10).waiting 0 1 = true ∧ (switching 0 10).waiting 0 2 = true ∧ ((switching 0 10).partOf 0).plugin = none ∧
    (∀ w, w < 96 → (part0.vfmask.getLsbD w && w != 0 && (switching 0 10).waiting 0 w) = true → 1 ≤ w) ∧
    -- after function 2, the search goes on from the lowest
    (∀ w, w < 96 → (part0.vfmask.getLsbD w && w != 2 && (switching 2 10).waiting 0 w) = true → w ≤ 2 ∧ 1 ≤ w) := by decide +kernel
def plugged (dis : Bool) : State := { State.reset with parts := [(0, { part0 with plugin := some { image := [], disabled := dis } })] }
theorem witness_Scheduling_plugin :
    (State.reset.partOf 0).plugin = none ∧ ((plugged true).partOf 0).plugin = some { image := [], disabled := true } ∧
    ((plugged false).partOf 0).plugin = some { image := [], disabled := false } := by decide +kernel
/-- A team that is asked to save by cycle 10, one that is stopping, and one that is saved on core 0. -/
def asked (clock : DWord) : State := { at_ grp 3 { team with req := true, deadline := 10 } with clock := clock }
def savedTeam : Team := { team with place := .saved, ready := true, bufBase := 0 }
def absentNow (done : Bool) : State :=
  { offered done with teams := [(1, { savedTeam with groups := [(0, grp)] })], launches := [] }
theorem witness_Scheduling_saves :
    ((asked 10).teamOf 1).req = true ∧ ((asked 10).teamOf 1).place = .resident ∧ ((asked 10).teamOf 1).deadline ≤ (asked 10).clock.toNat ∧
    (asked 9).clock.toNat < ((asked 9).teamOf 1).deadline ∧ ((asked 10).teamOf 1).cl = false ∧
    (at_ grp 3 { team with place := .stopping }).savable 1 = true ∧ (at_ grp 3 { team with place := .stopping }).releaseStuck 0 = false ∧
    (at_ grp).savable 1 = false := by decide +kernel
theorem witness_Scheduling_restores :
    let s := absentNow true
    (s.teamOf 1).place = .saved ∧ (s.teamOf 1).ready = true ∧ (s.partOf 0).has 0 = true ∧ s.mayRun 0 0 = true ∧ (s.roomFor 1 0).isSome = true ∧
    (s.abandonTest 0).prepared 0 0 = true ∧ ((absentNow false).abandonTest 0).prepared 0 0 = false ∧
    (∀ x ∈ (s.abandonTest 0).teams, x.2.onCore = true → x.2.core / 4 = 0 → x.2.vf = 0) ∧
    (s.abandonTest 0).sealOk 1 = true ∧
    (∀ k ∈ ((s.abandonTest 0).teamOf 1).image.tileNos, Sparse.get 0 ((s.abandonTest 0).engineOf 0).owner k = 0) ∧
    ((s.abandonTest 0).roomFor 1 0).isSome = true := by decide +kernel
/-- An image sealed for another partition does not come back. -/
theorem witness_Scheduling_broken_seal :
    ({ offered true with teams := [(1, { savedTeam with image := { sealed := some { nonce := 0, tag := 0, part := 1, vf := 0, len := 0 } } })] } : State).sealOk 1
      = false := by decide +kernel
theorem witness_Scheduling_share :
    ({ State.reset with clock := 199999 } : State).clock.toNat < State.reset.shareAt + 200000 ∧
    State.reset.shareAt + 200000 ≤ ({ State.reset with clock := 200000 } : State).clock.toNat := by decide

/-! ## Witnesses: the queues -/

def past (s : State) (fn : Nat) : State := (s.nextCmd fn 31).1.pastCmd fn 31
theorem takes_of {s : State} {fn q w ind op : Nat} (h : s.bootDone = true ∧ (s.nextCmd fn q).2 = some (.ok (w, ind)) ∧ cmdOp w = op ∧
    (match cmdBits op with | some b => w ||| b == b | none => false) = true ∧ ((s.nextCmd fn q).1.queueOf fn q).clear ind = true) :
    s.Takes (s.nextCmd fn q).1 fn q w ind op := by
  obtain ⟨h1, h2, h3, h4, h5⟩ := h
  refine ⟨h1, Prod.ext rfl h2, h3, ?_, fun _ => h5⟩
  split at h4
  · exact ⟨_, ‹_›, eq_of_beq h4⟩
  · cases h4
/-- What the walk of a queue's context leaves. -/
def procOf (s : State) (fn q p : Nat) : State := (s.s1Root 0 p (s.queueOf fn q).asid fn 0).1.farDone (.walk 0 p (s.queueOf fn q).asid)
theorem proc_of {s : State} {fn q p : Nat} (h : fn ≠ 127) (h1 : s.partOfFn fn = some p)
    (h2 : (s.s1Root 0 p (s.queueOf fn q).asid fn 0).2.isOk = true) : s.Proc (procOf s fn q p) fn q p := by
  refine ⟨fun _ => ⟨h1, ?_⟩, fun h' => absurd h' h⟩
  match hr : (s.s1Root 0 p (s.queueOf fn q).asid fn 0).2 with
  | .ok r => exact ⟨_, r, Prod.ext rfl hr, rfl⟩
  | .error _ => rw [hr] at h2; cases h2

def wordsOf (ws : List Nat) : Nat := ws.foldr (fun w n => w + 2 ^ 32 * n) 0
def open31 : Queue := { en := true, base := 0x10000, tail := 1 }
/-- Die 0's L2 TLB holds the translation of the first gigabyte. -/
def translated (s : State) : State := s.updDie 0 fun d => { d with
  l2tlb := [{ part := 0, asid := 0, va := 0, log2 := 30, dpa := 0, r1 := true, w1 := true, x1 := true, r2 := true, w2 := true, x2 := true, d := true }] }
/-- The one command of queue 31 of a function, in its ring at 0x10000; 0x20000 holds a node and its kernel. -/
def queued (fn : Nat) (ws : List Nat) (x : Queue := open31) (node : List Nat := [0x20040, 0, 0x10001, 1, 0, 0, 0, 0, 0, 0, 0, 0, 0, 0, 0, 0])
    (kernel : List Nat := [0x30000, 0, 0x00080100, 8]) : State :=
  let s := translated (online (mapped { State.reset with bootDone := true, vdevs := [(fn, { queues := [(31, x)] })] }))
  put (put s 512 (wordsOf ws)) 1024 (wordsOf (node ++ kernel)) 1
theorem witness_QueueCommands_notify :
    ((at_ grp).queueOf 0 31).en = false ∧ open31.en = true ∧ State.reset.bootDone = false ∧
    (16 + 65536 - 0) % 65536 ≤ 2 ^ open31.log2 ∧ 2 ^ open31.log2 < (17 + 65536 - 0) % 65536 ∧
    -- tails that have wrapped: a head of 65535 and a tail of 15
    (15 + 65536 - 65535) % 65536 ≤ 2 ^ open31.log2 ∧
    -- a posted write of the host waits at the port, ordered or relaxed
    (∃ r ∈ ({ kind := 1, off := 0, n := 4 } : HostReq) :: [], r.ro = false) ∧
    (∀ r ∈ ({ kind := 1, off := 0, n := 4, ro := true } : HostReq) :: [], r.ro = true) := by decide
theorem witness_QueueCommands_simple :
    (queued 127 [0x00800000]).Takes ((queued 127 [0x00800000]).nextCmd 127 31).1 127 31 0x00800000 0 0 ∧
    (queued 0 [0x05000000]).Takes ((queued 0 [0x05000000]).nextCmd 0 31).1 0 31 0x05000000 0 5 :=
  ⟨takes_of (by decide +kernel), takes_of (by decide +kernel)⟩
/-- A buffer of 64 bytes, the least, at 0x20000; one that is not aligned; one that is too long; and one within another. -/
def indirectCmd (a n : Nat) : List Nat := [0x02000000, 0, a, 0, n]
theorem witness_QueueCommands_indirect :
    (queued 0 (indirectCmd 0x20000 64)).Takes ((queued 0 (indirectCmd 0x20000 64)).nextCmd 0 31).1 0 31 (wordsOf (indirectCmd 0x20000 64)) 0 2 ∧
    dwordAt (wordsOf (indirectCmd 0x20000 64)) 2 % 64 = 0 ∧ wordAt (wordsOf (indirectCmd 0x20000 64)) 4 = 64 ∧
    wordAt (wordsOf (indirectCmd 0x20000 0x100000)) 4 ≤ 2 ^ 20 ∧ 2 ^ 20 < wordAt (wordsOf (indirectCmd 0x20000 0x100040)) 4 ∧
    (past (queued 0 (indirectCmd 0x20000 64)) 0).Proc
      (procOf (past (queued 0 (indirectCmd 0x20000 64)) 0) 0 31 0) 0 31 0 :=
  ⟨takes_of (by decide +kernel), by decide +kernel, by decide +kernel, by decide +kernel, by decide +kernel,
    proc_of (by decide) (by decide +kernel) (by decide +kernel)⟩
/-- An INDIRECT in the buffer at 0x20000 of INDIRECT 1, whose chunk has not been read ahead. -/
def nestedCmd : State := queued 0 [] { open31 with busy := [.indirect 1 0x20000 64], head := 1 } (indirectCmd 0x20000 64) []
theorem witness_QueueCommands_nested : nestedCmd.Takes (nestedCmd.nextCmd 0 31).1 0 31 (wordsOf (indirectCmd 0x20000 64)) 1 2 :=
  takes_of (by decide +kernel)
/-- A signal of four or eight bytes at an address. -/
def signalCmd (a : Nat) (wide : Nat) : List Nat := [0x03000000, 0, a, 0, 7, 0, wide]
theorem witness_QueueCommands_signal :
    let s := queued 0 (signalCmd 0x20044 0)
    let s3 := procOf (past s 0) 0 31 0
    s.Takes (s.nextCmd 0 31).1 0 31 (wordsOf (signalCmd 0x20044 0)) 0 3 ∧ (wordsOf (signalCmd 0x20044 0)).testBit 192 = false ∧
    dwordAt (wordsOf (signalCmd 0x20044 1)) 2 % 8 ≠ 0 ∧ (wordsOf (signalCmd 0x20044 1)).testBit 192 = true ∧
    (past s 0).Proc s3 0 31 0 ∧ (s3.feAddr 0 0 0 0x20044 .write).2 = .ok 0x20044 ∧ isLocal 0x20044 = true ∧
    (s3.feAddr 0 0 0 0x20044 .write).1.blocked (0x20044 / 128) noTeam 0 = false ∧ isLocal (2 ^ 50) = false :=
  ⟨takes_of (by decide +kernel), by decide +kernel, by decide +kernel, by decide +kernel,
    proc_of (by decide) (by decide +kernel) (by decide +kernel), by decide +kernel, by decide +kernel, by decide +kernel, by decide⟩
theorem witness_QueueCommands_replay :
    (queued 0 [0x07000000, 0, 1, 0, 9]).Takes ((queued 0 [0x07000000, 0, 1, 0, 9]).nextCmd 0 31).1 0 31 (wordsOf [0x07000000, 0, 1, 0, 9]) 0 7 ∧
    (wordsOf [0x07000000, 0, 1, 0, 9]).testBit 64 = true ∧ (wordsOf [0x07000000, 0, 0, 0, 9]).testBit 64 = false ∧
    wordAt (wordsOf [0x07000000, 0, 1, 0, 9]) 2 / 256 % 32 = 0 ∧ wordAt (wordsOf [0x07000000, 0, 0x101, 0, 9]) 2 / 256 % 32 ≠ 0 ∧
    (past (queued 0 [0x07000000, 0, 1, 0, 9]) 0).partOfFn 0 = some 0 :=
  ⟨takes_of (by decide +kernel), by decide +kernel, by decide +kernel, by decide +kernel, by decide +kernel, by decide +kernel⟩
/-- An invalidation of kind `k` for the partition and the ASID named. -/
def invalCmd (k part asid : Nat) : List Nat := [0x06000000, 0, k + 256 * part, asid, 0, 0, 0x1000]
theorem witness_QueueCommands_inval :
    let s := queued 127 (invalCmd 2 0 0)
    let t := queued 0 (invalCmd 0 0 0)
    let t3 := procOf (past t 0) 0 31 0
    s.Takes (s.nextCmd 127 31).1 127 31 (wordsOf (invalCmd 2 0 0)) 0 6 ∧ wordAt (wordsOf (invalCmd 2 0 0)) 2 % 4 = 2 ∧
    (past s 127).inFlight 0 = false ∧
    t.Takes (t.nextCmd 0 31).1 0 31 (wordsOf (invalCmd 0 0 0)) 0 6 ∧
    ((past t 0).vdevOf 0).holdsAsid 0 = true ∧ ((past t 0).vdevOf 0).holdsAsid 1 = false ∧
    (past t 0).Proc t3 0 31 0 ∧ t3.inFlight 0 = false ∧ wordAt (wordsOf (invalCmd 0 1 0)) 2 / 256 % 32 ≠ 0 :=
  ⟨takes_of (by decide +kernel), by decide +kernel, by decide +kernel, takes_of (by decide +kernel), by decide +kernel, by decide +kernel,
    proc_of (by decide) (by decide +kernel) (by decide +kernel), by decide +kernel, by decide +kernel⟩
theorem witness_QueueCommands_partitions :
    let s := queued 127 [0x10000000, 0, 1, 0, 0x20000]
    (queued 127 [0x11000000, 0, 23]).Takes ((queued 127 [0x11000000, 0, 23]).nextCmd 127 31).1 127 31 (wordsOf [0x11000000, 0, 23]) 0 0x11 ∧
    ((past (queued 127 [0x11000000, 0, 23]) 127).cores = [] ∧ (past (queued 127 [0x11000000, 0, 23]) 127).releaseStuck 0 = false) ∧
    (queued 0 [0x11000000, 0, 23]).Takes ((queued 0 [0x11000000, 0, 23]).nextCmd 0 31).1 0 31 (wordsOf [0x11000000, 0, 23]) 0 0x11 ∧
    s.Takes (s.nextCmd 127 31).1 127 31 (wordsOf [0x10000000, 0, 1, 0, 0x20000]) 0 0x10 ∧
    dwordAt (wordsOf [0x10000000, 0, 1, 0, 0x20000]) 4 % 128 = 0 ∧ dwordAt (wordsOf [0x10000000, 0, 1, 0, 0x20040]) 4 % 128 ≠ 0 ∧
    ((past s 127).feRead 0 0 127 0x20000 8).2 =
      .ok (wordsOf ([0x20040, 0, 0x10001, 1, 0, 0, 0, 0, 0, 0, 0, 0, 0, 0, 0, 0] ++ [0x30000, 0, 0x00080100, 8])) :=
  ⟨takes_of (by decide +kernel), by decide +kernel, takes_of (by decide +kernel), takes_of (by decide +kernel), by decide +kernel, by decide +kernel,
    by decide +kernel⟩
/-- A launch of the one node at 0x20000. -/
def launchCmd : List Nat := [0x01000000, 0, 0x20000, 0, 0]
theorem witness_QueueCommands_launch :
    let s := queued 0 launchCmd
    let s3 := procOf (past s 0) 0 31 0
    let ws := [wordsOf [0x20040, 0, 0x10001, 1]]
    let ks := [wordsOf [0x30000, 0, 0x00080100, 8]]
    s.Takes (s.nextCmd 0 31).1 0 31 (wordsOf launchCmd) 0 1 ∧ (past s 0).Proc s3 0 31 0 ∧
    (s3.feBlocks 0 0 0 ((List.range (wordAt (wordsOf launchCmd) 4 % 4096 + 1)).map fun k => 0x20000 + 64 * k)).2 = .ok ws ∧
    ((s3.feBlocks 0 0 0 [0x20000]).1.feBlocks 0 0 0 (ws.map fun w => dwordAt w 0 / 64 * 64)).2 = .ok ks ∧
    graphBad ws = false ∧ (ws.any (fun w => dwordAt w 0 % 64 != 0) || (ws.zip ks).any fun x => kernelBad x.1 x.2) = false ∧
    graphBad [wordsOf [0x20040, 0, 0x10001, 1, 0, 0, 1]] = true ∧ kernelBad (wordsOf [0x20040, 0, 0x10001, 1]) 0 = true ∧
    dwordAt (wordsOf [0x01000000, 0, 0x20020, 0, 0]) 2 % 64 ≠ 0 :=
  ⟨takes_of (by decide +kernel), proc_of (by decide) (by decide +kernel) (by decide +kernel), by decide +kernel, by decide +kernel,
    by decide +kernel, by decide +kernel, by decide +kernel, by decide +kernel, by decide +kernel⟩
def waitCmd (a : Nat) : List Nat := [0x04000000, 0, a, 0, 1]
/-- A WAITEQ of queue 31 for the word at 0x20000, which is 0x20040, started and not asleep, or asleep since cycle 0. -/
def waitingFor (z : Option Sleep) (clock : DWord := 0) (a : Nat := 0x20000) : State :=
  { queued 0 [] { open31 with busy := [.waiteq a 1 0 z] } with clock := clock }
theorem witness_QueueCommands_waiteq :
    let s := queued 0 (waitCmd 0x2000C)
    let s3 := procOf (past s 0) 0 31 0
    s.Takes (s.nextCmd 0 31).1 0 31 (wordsOf (waitCmd 0x2000C)) 0 4 ∧ (s.queueOf 0 31).waiteq = none ∧
    dwordAt (wordsOf (waitCmd 0x2000E)) 2 % 4 ≠ 0 ∧ (past s 0).Proc s3 0 31 0 ∧
    ((s3.updQueue 0 31 fun x => { x with busy := x.busy ++ [.waiteq 0x2000C 1 0 none] }).waitWord 0 0x2000C 0 0).2.2 = .ok 1 :=
  ⟨takes_of (by decide +kernel), by decide +kernel, by decide +kernel, proc_of (by decide) (by decide +kernel) (by decide +kernel), by decide +kernel⟩
theorem witness_QueueCommands_waiteq_started :
    ((waitingFor none).queueOf 0 31).waiteq = some (0x20000, 1, none) ∧
    (((waitingFor none).wakeQueue 0 31).waitWord 0 0x20000 (((waitingFor none).partOfFn 0).getD 0) 0).2.2 = .ok 0x20040 ∧
    ((waitingFor (some { since := 0, ovf := true }) 7999).queueOf 0 31).waiteq = some (0x20000, 1, some { since := 0, ovf := true }) ∧
    (waitingFor (some { since := 0, ovf := true }) 7999).clock.toNat < 0 + 8000 ∧
    0 + 8000 ≤ (waitingFor (some { since := 0, ovf := true }) 8000).clock.toNat ∧
    (((waitingFor (some { since := 0, ovf := true }) 8000).wakeQueue 0 31).waitWord 0 0x20000 0 0).2.2 = .ok 0x20040 ∧
    -- an address that nothing maps, whose walk has failed
    ((((waitingFor none 0 0x80000000).updDie 0 fun d => { d with xlFails := [{ who := .front 0, part := 0, asid := 0, page := 0x8000, code := .pf
                                                                               kind := 0, acc := 0, ppa := 0 }] }).wakeQueue 0 31).waitWord 0 0x80000000 0 0).2.2 = .fault := by
  decide +kernel

/-! ## Witnesses: the host, peers, test, trace, firmware, start-up, registers, decoding -/

/-- Partition 0 with its page tables; peer 1 may reach its first 64 KiB as region 0. -/
def outside : State :=
  let s := online (mapped { State.reset with bootDone := true, accid := 0, accNone := false, vdevs := [(0, {})] })
  { s with pats := [(16, { v := true, part := 0, rd := true, wr := true, at_ := true, size := 0, pbase := 0x10000 })] }
theorem witness_HostAndPeers_host :
    (outside.vdevOf 0).hostq = [] ∧ ({ outside with vdevs := [(0, { hostq := [{ kind := 0, off := 0, n := 4 }] })] } : State).vdevOf 0 ≠ {} ∧
    outside.partOfFn 0 = some 0 ∧ outside.partOfFn 127 = none ∧ outside.partOfFn 1 = none ∧
    (∀ r ∈ ([{ kind := 0, off := 1, n := 4096 }, { kind := 1, off := 127, n := 512 }, { kind := 2, off := 4, n := 4 }] : List HostReq), r.fits = true) ∧
    (∀ r ∈ ([{ kind := 0, off := 0, n := 4097 }, { kind := 1, off := 0, n := 513 }, { kind := 2, off := 2, n := 4 }, { kind := 2, off := 0, n := 8 },
      { kind := 0, off := 2 ^ 40, n := 1 }] : List HostReq), r.fits = false) ∧
    ({ kind := 0, off := 0, n := 4 } : HostReq).behind { kind := 1, off := 0, n := 4 } = true ∧
    ({ kind := 1, off := 0, n := 4, ro := true } : HostReq).behind { kind := 1, off := 0, n := 4 } = false ∧
    cuts 0x1007F 2 = [(0x1007F, 1), (0x10080, 1)] := by decide +kernel
/-- A write of two bytes over two lines: to bytes that are mapped, that are not, that are the host's, and held. -/
theorem witness_HostAndPeers_pieces :
    let s1 := (outside.ppaAll 0 0 .write (cuts 0x1007F 2)).1
    (match (outside.ppaAll 0 0 .write (cuts 0x1007F 2)).2 with | .ok ds => decide (ds = [(0x1007F, 1), (0x10080, 1)]) | .error _ => false) = true ∧
    (match (outside.ppaAll 0 0 .write (cuts 0x8000007F 2)).2 with | .error (.fault _) => true | _ => false) = true ∧
    (match (outside.ppaAll 0 0 .write (cuts 0x4000007F 2)).2 with | .error .ats => true | _ => false) = true ∧
    s1.anyHeld [(0x1007F, 1), (0x10080, 1)] = false ∧
    ({ s1 with wlocks := [{ key := .mem (0x10080 / 128), uid := 1, grp := 0 }] } : State).anyHeld [(0x1007F, 1), (0x10080, 1)] = true := by decide +kernel
theorem witness_HostAndPeers_reset :
    Sparse.wf {} State.reset.stks = true ∧ Sparse.wf {} State.reset.cores = true ∧ Sparse.wf {} State.reset.engines = true := by decide
/-- The reply-reply cache of peer 1 holds `n` replies of cycle 0 and its queue `m` requests. -/
def answered (n m : Nat) : State :=
  { outside with peers := [(1, { cache := (List.range n).map fun t => { tag := t, data := 0, ok := true, time := 0 },
                                 inq := (List.range m).map fun t => { tag := t, off := 0, n := 4, op := 17 } })] }
theorem witness_HostAndPeers_inbound :
    State.reset.accNone = true ∧ outside.accNone = false ∧ (0 : Nat) = outside.accid ∧ (1 : Nat) ≠ outside.accid ∧
    ((answered 256 0).peerOf 1).cache.find? (fun c => decide ((answered 256 0).clock.toNat < c.time + 2000000) && c.tag == 255) =
      some { tag := 255, data := 0, ok := true, time := 0 } ∧
    ((answered 256 0).peerOf 1).cache.find? (fun c => decide ((answered 256 0).clock.toNat < c.time + 2000000) && c.tag == 256) = none ∧
    (((answered 255 0).peerOf 1).cache.filter fun c => decide ((answered 255 0).clock.toNat < c.time + 2000000)).length < 256 ∧
    ¬ (((answered 256 0).peerOf 1).cache.filter fun c => decide ((answered 256 0).clock.toNat < c.time + 2000000)).length < 256 ∧
    ((answered 256 63).peerOf 1).inq.length < 64 ∧ 64 ≤ ((answered 256 64).peerOf 1).inq.length := by decide +kernel
/-- Requests of `n` bytes at `off`: 16 reads, 17 writes, 18 asks for a translation. -/
def inReq (op off n : Nat) : Inbound := { tag := 0, off := off, n := n, op := op }
theorem witness_HostAndPeers_access :
    ((inReq 16 0 256).fits = true ∧ (inReq 16 0xFF 1).fits = true ∧ (inReq 18 0 0).fits = true ∧ (inReq 16 2 4).fits = false ∧
      (inReq 17 0xFF 3).fits = false ∧ (inReq 0 0 8).fits = false) ∧
    (outside.inbound 2 (inReq 16 0 4)).2 = .refused ∧ (outside.inbound 1 (inReq 16 0x10000 4)).2 = .failed 0 .prot ∧
    (outside.inbound 1 (inReq 16 0xFF00 256)).2 = .at_ 0 [(0x1FF00, 128), (0x1FF80, 128)] ∧
    (outside.inbound 1 (inReq 18 0xFF00 0)).2 = .at_ 0 [(0x1FF00, 1)] ∧
    (({ outside with wlocks := [{ key := .mem (0x1FF80 / 128), uid := 1, grp := 0 }] } : State).inbound 1 (inReq 17 0xFF00 256)).2 = .wait ∧
    (((outside.inbound 1 (inReq 16 0xFF00 256)).1.outerAll (.inbound 1) 0 16 0 127 0 [(0x1FF00, 128), (0x1FF80, 128)]).2).isSome = true ∧
    (({ outside with pats := [(16, { v := true, part := 0, rd := true, size := 0, pbase := 0x80000000 })] } : State).inbound 1 (inReq 16 0 4)).2
      = .failed 0 .pf ∧
    (outside.drops = [] ∧ outside.broken = [] ∧ outside.chk = [] ∧ outside.psn = []) := by decide +kernel
/-- A request of lane 31 of an entry of team 1 to peer 1, since cycle 0. -/
def sent31 : Outbound := { tag := 7, ask := { who := .lane 1 0 0 31 [], kind := 0, addr := 2 ^ 51 + 2 ^ 40, n := 4 }, time := 0 }
def awaiting (st : Nat) (os : List Outbound) (clock : DWord := 0) : State := { at_ grp with peers := [(1, { state := st, out := os })], clock := clock }
theorem witness_HostAndPeers_outbound :
    ((awaiting 1 []).peerOf 1).out.find? (fun o => o.tag == 7) = none ∧ ((awaiting 2 [sent31]).peerOf 1).state = 2 ∧
    ((awaiting 1 [sent31]).peerOf 1).out.find? (fun o => o.tag == 7) = some sent31 ∧ ((awaiting 1 [sent31]).peerOf 1).state ≠ 2 ∧
    (∀ o ∈ ((awaiting 1 [sent31] 1999999).peerOf 1).out, (awaiting 1 [sent31] 1999999).clock.toNat < o.time + 2000000) ∧
    ((awaiting 1 [sent31] 2000000).peerOf 1).out = [sent31] ∧ sent31.time + 2000000 ≤ (awaiting 1 [sent31] 2000000).clock.toNat := by decide +kernel

/-- A test on core 191: under way in its scrub, running for the first time, and failed once. -/
def underTest (scrub : Bool) (fails : Nat) : State :=
  { State.reset with bootDone := true, cores := [(191, { testing := true, scrubbing := scrub, testFails := fails })] }
theorem witness_TestAndTrace_test :
    State.reset.iftctl.getLsbD 31 = true ∧ ({ State.reset with iftctl := 0x18 } : State).iftctl.getLsbD 31 = false ∧
    ((underTest true 0).coreOf 191).testing = true ∧ ((underTest true 0).coreOf 191).scrubbing = true ∧ ((underTest false 0).coreOf 191).scrubbing = false ∧
    ((underTest false 1).coreOf 191).testFails ≠ 0 ∧ State.reset.idleCore 191 = true ∧ (at_ grp).idleCore 0 = false := by decide +kernel
theorem witness_TestAndTrace_links :
    (Sparse.get 0 (State.reset.linj) 12 : Word).toNat / 2 ^ 30 = 0 ∧
    (Sparse.get 0 ({ State.reset with linj := [(12, 0x40000000)] } : State).linj 12 : Word).toNat / 2 ^ 30 ≠ 0 ∧
    (0x0C000000 : Word).toNat / 2 ^ 26 % 16 < 4 ∧ ¬ (0x10000000 : Word).toNat / 2 ^ 26 % 16 < 4 := by decide
theorem witness_TestAndTrace_samples :
    (∀ x ∈ State.reset.teams, ∀ g ∈ x.2.groups, (decide (x.2.core = 0) && x.2.onCore && decide (g.2.quarter = 0) && g.2.live != 0) = false) ∧
    (at_ grp).teams = [(1, { team with groups := [(0, grp)] })] ∧ Sparse.wf {} (at_ grp).teams = true ∧
    (decide ((at_ grp).teamOf 1).onCore = true ∧ grp.quarter = 0 ∧ grp.live ≠ 0) := by decide +kernel
/-- Function 95 is of partition 0, and may reach its banks; function 96 does not exist. -/
def banked (owner : Nat) : State := { State.reset with parts := [(0, { valid := true, vfmask := 1#96 <<< 95, banks := [(3, { owner := owner })] })] }
theorem witness_TestAndTrace_banks :
    ((banked 0).partOf 0).vfmask.getLsbD 95 = true ∧ ((banked 0).partOf 0).vfmask.getLsbD 94 = false ∧
    (Sparse.get {} ((banked 0).partOf 0).banks 3 : Bank).owner = 0 ∧ (Sparse.get {} ((banked 96).partOf 0).banks 3 : Bank).owner = 95 + 1 ∧
    (Sparse.get {} ((banked 128).partOf 0).banks 3 : Bank).owner = 128 := by decide +kernel

/-- A firmware command with its arguments, over partition 0's memory; the line at 0x20000 holds `v`. -/
def commanded (args : Sparse Word) (v : Nat := 0) : State := put { outside with fwArg := args } 1024 v
theorem witness_FirmwareCommands_parts :
    24 ≤ (commanded [(0, 24)]).fwArgOf 0 ∧ (commanded [(0, 23)]).fwArgOf 0 < 24 ∧ ((commanded [(0, 23)]).partOf 23).valid = false ∧
    ((commanded []).partOf 0).valid = true ∧ ((commanded []).partOf 0).plugin = none ∧ ((plugged false).partOf 0).plugin ≠ none ∧
    ((commanded []).partOf 0).hold = false ∧ ({ State.reset with parts := [(0, { hold := true })] } : State).partOf 0 ≠ {} ∧
    (((commanded []).teams.filter fun t => t.2.part == 0 && t.2.onCore).map fun t => t.1) = [] ∧
    (((at_ grp).teams.filter fun t => t.2.part == 0 && t.2.onCore).map fun t => t.1) ≠ [] := by decide +kernel
theorem witness_FirmwareCommands_reads :
    fwRange 0x20000 64 = true ∧ fwRange (2 ^ 51) 64 = false ∧ fwRange (2 ^ 50 - 32) 64 = false ∧ (commanded [(1, 0x20000)]).fwAddr = 0x20000 ∧
    (commanded []).rangeFree 0x20000 64 = true ∧ ({ commanded [] with wlocks := [{ key := .mem 1024, uid := 1, grp := 0 }] } : State).rangeFree 0x1FFF0 64 = false ∧
    ((commanded []).fwRead 2 0x20000 64).2.isSome = true := by decide +kernel
/-- The first 4 KiB of the host's memory, of which no translation is held, and the two ranges above. -/
theorem witness_FirmwareCommands_reach :
    (∀ acc ∈ [Acc.read, Acc.write], ((commanded []).fwReach 0x20000 3549 acc).2 = .ok () ∧ ((commanded []).fwReach (2 ^ 51) 64 acc).2 = .fault ∧
      ((commanded []).fwReach (2 ^ 50) 64 acc).2 = .wait ∧
      (({ commanded [] with wlocks := [{ key := .mem 1024, uid := 1, grp := 0 }] } : State).fwReach 0x20000 1184 acc).2 = .wait) := by decide +kernel
theorem witness_FirmwareCommands_poison :
    (((at_ grp).colStore ((((at_ grp).cadOf 0).a).col 0 0) 0 true).fwRead 2 0 64).2 = none := by decide +kernel
/-- A communicator entry for number 5 of two members at 0x20020, which names dies 0 and 1 of accelerator 0. -/
def commWords : Nat :=
  wordsOf [0x00000001, 0x80000005, 7, 1, 0, 1, 0x20020, 0, 0x00010000]
theorem witness_FirmwareCommands_communicator :
    let s := commanded [(1, 0x20000)] commWords
    s.fwArgOf 0 < 3 ∧ fwRange s.fwAddr 32 = true ∧ s.rangeFree s.fwAddr 32 = true ∧
    (match (s.fwRead 2 s.fwAddr 32).2 with
      | some bs => (match commEntry bs with | some (c, x) => c == 5 && x.mlist == 0x20020 && x.nm1 == 1 | none => false)
      | none => false) = true ∧
    fwRange 0x20020 4 = true ∧ (s.dieOf 0).comms.length < 4096 ∧ s.rangeFree 0x20020 4 = true ∧
    (match (s.fwRead 2 0x20020 4).2 with | some ms => memberOk (fieldOf ms 0 2) && memberOk (fieldOf ms 2 2) | none => false) = true ∧
    commEntry (natBytes 32 0) = none ∧ 3 ≤ (commanded [(0, 3)]).fwArgOf 0 := by decide +kernel
theorem witness_FirmwareCommands_peers :
    (commanded [(0, 0x30005)]).fwComm = none ∧ ({ joined comm5 with fwArg := [(0, 5)] } : State).fwComm = some (0, 5) ∧
    2 ^ 14 ≤ (commanded [(0, 0x4000)]).fwArgOf 0 ∧ patEntry (natBytes 16 (2 ^ 20)) = none ∧ (patEntry (natBytes 16 (2 ^ 63 + 2 ^ 20 - 1))).isSome = true ∧
    1024 ≤ (commanded [(0, 1024)]).fwArgOf 0 ∧ ((commanded [(0, 1)]).peerOf 1).state ≠ 2 ∧
    ({ awaiting 2 [] 1999999 with fwArg := [(0, 1)] } : State).clock.toNat < ((awaiting 2 []).peerOf 1).lastSent + 2000000 ∧
    ((awaiting 2 []).peerOf 1).lastSent + 2000000 ≤ ({ awaiting 2 [] 2000000 with fwArg := [(0, 1)] } : State).clock.toNat := by decide +kernel
theorem witness_FirmwareCommands_reports :
    let s := commanded [(1, 0x20000)]
    s.fwArgOf 3 < 24 ∧ (s.partOf 0).valid = true ∧ fwRange s.fwAddr 3549 = true ∧ s.inPart 0 s.fwAddr 3549 = true ∧ s.rangeFree s.fwAddr 3549 = true ∧
    s.inPart 1 s.fwAddr 3549 = false ∧ fwRange s.fwAddr 32 = true ∧ (s.fwRead 2 s.fwAddr 32).2.isSome = true := by decide +kernel
theorem witness_FirmwareCommands_moves :
    let s := commanded [(1, 0x20000)]
    fwRange s.fwAddr 1184 = true ∧ s.inPart 0 s.fwAddr 1184 = true ∧ s.quiescent 0 = true ∧ s.rangeFree s.fwAddr 1184 = true ∧
    ({ s with vdevs := [(0, { queues := [(0, open31)] })] } : State).quiescent 0 = false ∧
    (∀ t ∈ s.teams, t.2.part = 0 → t.2.onCore = false ∧ t.2.place ≠ .saved) ∧ (∃ t ∈ (at_ grp).teams, t.2.part = 0 ∧ t.2.onCore = true) ∧
    (1023 / 1024 % 2 ^ 21 = 0 ∧ 1024 / 1024 % 2 ^ 21 ≠ 0) := by decide +kernel

theorem witness_ResetAndStartUp_stacks :
    (State.reset.trainStacks 3).goneStacks.length = 2 ∧ (State.reset.trainStacks 1).goneStacks.length < 2 ∧ State.reset.drops = [] ∧ State.reset.unusable = [] ∧
    ({ level := 3, stack := 11 } : Elem) ∉ State.reset.drops ∧ ({ level := 3, stack := 11 } : Elem) ∈ ({ State.reset with drops := [{ level := 3, stack := 11 }] } : State).drops ∧
    (State.reset.stackOf 11).trDone = false := by decide +kernel
theorem witness_ResetAndStartUp_built : (State.reset.trainStacks 0).buildCadastre.isSome = true := by decide +kernel

theorem witness_RegisterWrites :
    (outside.queueOf 0 31).en = false ∧ ((queued 0 []).queueOf 0 31).en = true ∧ outside.partOfFn 0 = some 0 ∧ State.reset.fwBusy = false ∧
    ({ State.reset with fwBusy := true } : State).fwBusy = true ∧
    ((0 : Word).toNat % 256 = 0 ∧ 13 < (14 : Word).toNat % 256 ∧ (13 : Word).toNat % 256 ≤ 13 ∧ 1 ≤ (1 : Word).toNat % 256) := by decide +kernel

theorem witness_DecodeEncode :
    wellFormed (.addi true 63 63 0xFFF) = true ∧ encode (.addi true 63 63 0xFFF) = some 0xC3FFFFFF ∧
    wellFormed (.ffma true 7 127 127 127) = true ∧ (encode (.ffma true 7 127 127 127)).isSome = true := by
  decide +kernel
theorem witness_DecodeUnique :
    (decodeWord 0x04428205).toOption = some (.ffma false 2 10 4 5) ∧ (0x00FFFFFF : Word).msb = false ∧ fld (0x00FFFFFF : Word).toNat 24 6 = 0 ∧
    fld (0x0F000000 : Word).toNat 24 6 = 0x0F ∧ fld (0xA8000000 : Word).toNat 24 6 = 0x28 ∧ 0x34 ≤ fld (0xB4000000 : Word).toNat 24 6 ∧
    (0xB4000000 : Word).msb = true ∧ fld (0x80000001 : Word).toNat 24 6 = 0 ∧
    (decodeFor 8 0x80000000).toOption = some .nop ∧ laneRegsOf .nop ≤ 8 := by decide +kernel

/-- Quarter 0 of core 0 runs at 0x10000, where the words `ws` stand in the home slice of the core's own die. -/
def stepping (ws : List Word) : State :=
  let s := coded (at_ { grp with paths := [{ slices := 3, pc := 0x10000 }] }) ws
  { s with plan := [.issue 0] }
theorem witness_StepRuns :
    let s := stepping [0x831C7FFF]
    let s0 : State := { s.tick with plan := s.tick.plan.tail, site := 0 }
    s.plan = [.issue 0] ∧ s0.run.on = true ∧ s0.stopFirst = none ∧ levelOf 0x10000 = .global ∧
    (s0.curGroup.pathOf s0.run.slices).pc = 0x10000 ∧
    (s0.tlbFind 0 0 0 0x10000 .fetch).map (fun x => (x.check .fetch, x.at_ 0x10000)) = some (none, 0) ∧
    isLocal 0 = true ∧ s0.blocked 0 noTeam 0 = false ∧ s0.homeOf 0 / 128 = 0 ∧ s0.l2Find (s0.homeOf 0) 0 = some 0 ∧
    (s0.l2Line (s0.homeOf 0) 0 0).valid = 3 ∧ BitVec.ofNat 32 (bytesAt (s0.l2Line (s0.homeOf 0) 0 0).data 0 4) = (0x831C7FFF : Word) ∧
    (decodeFor s0.curGroup.budget 0x831C7FFF).toOption = some (.addi false 7 7 0xFFF) ∧
    (s0.curGroup.waitsFor s0.run.slices (.addi false 7 7 0xFFF)).isSome = false ∧ (decodeFor s0.curGroup.budget 0xFFFFFFFF).toOption = none := by
  decide +kernel
/-- A checker caught `fadd v3, v1, v2` of 1 and 2^-30 under rounding upwards (3); its registers and FMODE have changed since. -/
def caught : State :=
  let x : RqEntry := pipeEntry ((encode (.fadd false 0 3 1 2)).getD 0) 3 1 0xFF 0x1000 3 false none 0 fun _ => { d0 := 0x3F800000, d1 := 0x30800000 }
  { at_ { grp with rq := [x], paths := [{ slices := 3, pc := 0x1004 }] } with plan := [.redo 1 0] }
theorem witness_StepRuns_redo :
    let s0 : State := { caught.tick with plan := caught.tick.plan.tail }
    caught.plan = [.redo 1 0] ∧ ∃ x i, (s0.groupOf 1 0).redo = some (x, i) ∧ ∃ t, exec i (s0.redoStart 1 0 x i) = .next t := by
  refine ⟨rfl, _, _, rfl, _, rfl⟩
/-- R232, R246: upwards, 1 + 2^-30 is the number after 1; lane 1 is not left to the entry. -/
theorem test_redo : (match step caught with
    | .next t => (t.groupOf 1 0).vreg 3 0 == 0x3F800001 && (t.groupOf 1 0).vreg 3 1 == 0 && (t.groupOf 1 0).vreg 1 0 == 0
        && (t.groupOf 1 0).fmode == 0 && (t.groupOf 1 0).rq.isEmpty && ((t.groupOf 1 0).pathOf 3).pc == 0x1004
    | _ => false) = true := by decide +kernel
theorem witness_StepRuns_turns :
    State.reset.tick.turns ≠ [] ∧ ({ State.reset with bootErr := 1 } : State).tick.turns = [] ∧ State.reset.plan = [] ∧ State.reset.tick.plan = [] := by
  decide +kernel
theorem witness_MemoryForm : Mem.wf [] = true ∧ Mem.wf [(0, 1), (5, 255)] = true ∧ Mem.wf State.reset.raw = true ∧
    Sparse.get false State.reset.broken 0 = false := by decide
/-! ## Witnesses of the further clauses -/

/-- 2^31, less than −2^31 by 256, 127 and 128 as INT8; and 5 as each of the formats. -/
theorem witness_Conversions_clamps :
    (f32 0x4F000000).isNan = false ∧ 0 ≤ Fp.cmp (f32 0x4F000000) (ofIntFp (2147483647 + 1)) ∧
    Fp.cmp (f32 0xCF000001) (ofIntFp (-2147483648 - 1)) ≤ 0 ∧ 0 ≤ Fp.cmp (f32 0x43000000) (ofIntFp (127 + 1)) ∧
    ¬ 0 ≤ Fp.cmp (f32 0x42FE0000) (ofIntFp (127 + 1)) ∧ Fp.cmp (f32 0x42FE0000) (ofIntFp 127) = 0 ∧
    Fp.cmp (f32 0xBF800000) (ofIntFp (0 - 1)) ≤ 0 ∧ Fp.cmp (f32 0x40A00000) (ofIntFp 5) = 0 := by decide +kernel
theorem witness_CrossLane_numbers :
    ([0x7FC00001, 0x3F800000] : List Word) ≠ [] ∧ ∃ x ∈ ([0x7FC00001, 0x3F800000] : List Word), (f32 x).isNan = false :=
  ⟨by decide, 0x3F800000, by decide, by decide +kernel⟩

theorem witness_Couples_tx : (at_ (inTx parted 1) 2).run.on = true ∧ (at_ (inTx parted 1) 2).curGroup.atTrap = false ∧
    (at_ (inTx parted 1) 2).curGroup.inTx = true := by decide +kernel
/-- Slice 1 comes to its couple while slice 0 has not; and while slice 0 waits where it leads, but a store's lanes, or a
`coll.cancel`, have not completed. -/
theorem witness_Couples_waits :
    (let s := at_ parted 2
     s.run.on = true ∧ s.curGroup.atTrap = false ∧ s.curGroup.inTx = false ∧ 1 < s.curGroup.paths.length ∧
       (∃ p ∈ s.curGroup.paths, p.slices &&& s.run.slices ≠ 0) ∧ ∃ q ∈ s.curGroup.paths, q.slices &&& s.run.slices = 0 ∧ q.stop ≠ .couple) ∧
    (∀ g ∈ [{ coupling with rq := [{ insn := 0x3B01C1AA, orig := 0x3B01C1AA, slices := 1, lanes := 1, act := 1, pc := 0x1000 }] },
        { coupling with owed := [{ slices := 1, reg := 3, pc := 0x1000, trap := false }] }],
      let s := at_ g 2
      s.run.on = true ∧ s.curGroup.atTrap = false ∧ s.curGroup.inTx = false ∧ 1 < s.curGroup.paths.length ∧
        (s.curGroup.rq.any RqEntry.holdsJoin = true ∨ s.curGroup.owed ≠ []) ∧
        ∀ p ∈ s.curGroup.paths, if p.slices &&& s.run.slices != 0 then p.pc + 4 = 0x2004 else p.stop = .couple ∧ p.pc = 0x2004) := by
  decide +kernel
theorem witness_Couples_joins : (at_ coupling 2).curGroup.rq.any RqEntry.holdsJoin = false ∧ (at_ coupling 2).curGroup.owed = [] := by
  decide +kernel

/-- A commit with its last lock to take; its group has or has not been hit. -/
def lastLock (hit : Bool) : State :=
  { at_ { grp with
      paths := [{ slices := 3, pc := 0x1000, stop := .commit }]
      tx := { depth := 1, alts := [none], locks := [.core 0 0], writes := [{ level := 1, key := .core 0 0, mask := 5, data := 0x0B0A }] } } with
    regs := [{ key := .core 0 7, uid := 1, grp := 0, hit := hit }] }
theorem witness_TransactionEnds_last :
    (∀ b ∈ [true, false], (((lastLock b).groupOf 1 0).tx.locks = [.core 0 0] ∧ ((lastLock b).groupOf 1 0).inTx = true ∧
      (∀ p ∈ ((lastLock b).groupOf 1 0).paths, p.stop = .commit) ∧ (lastLock b).wlocks = [] ∧ (lastLock b).doomed 1 0 = b)) ∧
    ((lastLock false).groupOf 1 0).tx.writes = [{ level := 1, key := .core 0 0, mask := 5, data := 0x0B0A }] := by decide +kernel
theorem witness_TransactionEnds_unwatched : (lastLock false).Unwatched (.core 0 0) 1 0 :=
  ⟨by decide +kernel, fun _ h => (nomatch h)⟩

/-- Lane 1 and lane 2 name `hi`:`lo` in v4 and v5. -/
def wrong (lo hi : Word) (t : Team := team) : State := at_ { withV grp [(4, 1, lo), (5, 1, hi), (4, 2, lo), (5, 2, hi)] with masks := [(1, 6)] } 3 t
theorem witness_TrapsTaken_lanes :
    (wrong 0 0).curGroup.act (wrong 0 0).run.slices 1 = 6 ∧ wellFormed (.ldAcq false 1 8 4 4 0) = true ∧ wellFormed (.stRel false 1 8 4 4 1) = true ∧
    (6 : Word).getLsbD 1 = true ∧ (∀ j, j < 1 → (6 : Word).getLsbD j = false) := by decide +kernel
theorem witness_TrapsTaken_state (k : OpClass) :
    (wrong 0 0).Free k ∧ (wrong 0 0).curGroup.Tidy (wrong 0 0).run.slices ∧ (wrong 0 0).Trappable (wrong 0 0).run.slices :=
  ⟨⟨⟨by decide +kernel, by decide +kernel, by decide +kernel⟩, by decide +kernel, fun _ h => (nomatch h),
      ⟨by decide +kernel, by decide +kernel⟩, by decide +kernel, by decide +kernel, by cases k <;> decide +kernel⟩,
    ⟨List.pairwise_singleton .., by decide +kernel, fun k h => ⟨_, List.mem_singleton.mpr rfl, h⟩⟩,
    ⟨by decide +kernel, by decide +kernel, by decide +kernel, by decide +kernel⟩⟩
/-- One address for each reason to refuse an access of four bytes, at its least or greatest value. -/
theorem witness_TrapsTaken_refuses :
    (wrong 0 0).Refuses .read 4 1 (2 ^ 52) .prot ∧ (wrong 0 0).Refuses .read 4 1 1 .align ∧
    (wrong 0 0).Refuses .read 4 1 0xF500000000000 .prot ∧ (wrong 0 0).Refuses .write 4 1 0xF000000000000 .prot ∧
    (wrong 0 0).Refuses .atomic 4 1 0xF100000001000 .spb ∧ (wrong 0 0).Refuses .read 4 1 0xF200000400000 .spb ∧
    (wrong 0 0).Refuses .read 4 1 0xF200000001000 .spb ∧ (wrong 0 0).Refuses .write 4 1 0xF300000000000 .spb := by
  refine ⟨.wide (by decide), .align (by decide) (by decide), .reserved (by decide) (by decide) (by decide +kernel),
    .priv (by decide) (by decide +kernel) (by decide +kernel), .own (by decide) (by decide +kernel) (by decide +kernel),
    .noRank (by decide) (by decide +kernel) (by decide +kernel), .rank 1 (by decide) (by decide +kernel) (by decide +kernel) (by decide +kernel),
    .chip (by decide) (by decide +kernel) (by decide +kernel)⟩
/-- A copy of the team's own reads the first byte of the scratchpad, which a store may not change meanwhile. -/
def rangeLocked : State := { wrong 0 0x000F1000 with cores := [(0, { locks := [{ dest := false, uid := 1, op := 5, base := 0, len := 1 }] })] }
theorem witness_TrapsTaken_lock : rangeLocked.Refuses .write 4 1 0xF100000000000 .rlk :=
  .lock 0 0 (by decide) (by decide) (by decide +kernel) (by decide +kernel)
/-- R145, R331: the trap of an entry of one lane: its address and lane, and the resume address after the store. -/
theorem test_lane_trap :
    let g := after (.stRel false 2 8 4 4 0) (rangeLocked.updGroup 1 0 fun g => { g with masks := [(2, 4)] })
    g.atTrap = true ∧ g.frame.code = Trap.rlk.code ∧ g.frame.atIssue = false ∧ g.frame.lanes = 4 ∧ g.frame.addrH = 0xF1000 ∧
      g.frame.pc = 0x1004 ∧ g.pcOf 0 = 0xFFC ∧ g.rq.length = 1 := by decide +kernel

/-- Slice 1 traps while slice 0 is in the middle of a run; and both trap together. -/
theorem witness_SoftwareTraps_others :
    (let s : State := { at_ parted 2 with runs := [(0, { on := true, uid := 1, grp := 0, slices := 2 }), (1, { on := true, uid := 1, grp := 0, slices := 1, count := 3 })] }
     s.Alone ∧ s.curGroup.inTx = false ∧ s.othersRun 1 0 2 = true) ∧
    (at_ parted).run.on = true ∧ (at_ parted).curGroup.Tidy 3 ∧ (at_ parted).Trappable 3 ∧ parted.issuers 3 = [1] ++ [2] ∧
    (let s := at_ (inTx grp 1)
     ({ s with regs := [{ key := .core 0 7, uid := 1, grp := 0, hit := true }] } : State).doomed 1 0 = true) :=
  ⟨⟨⟨by decide +kernel, by decide +kernel⟩, by decide +kernel, by decide +kernel⟩, by decide +kernel, tidy_parted,
    ⟨by decide +kernel, by decide +kernel, by decide +kernel, by decide +kernel⟩, by decide +kernel, by decide +kernel⟩
theorem witness_ReturnAndYield_traps :
    let done := fun (g : Group) => g.trq = [] ∧ g.tctr.idle = true ∧ (∀ o ∈ g.owed, o.trap = false) ∧ g.inTx = false
    ¬ (∀ o ∈ ({ trapped grp with owed := [{ slices := 3, reg := 3, pc := 0x1000, trap := true }] } : Group).owed, o.trap = false) ∧
    (done { trapped grp with rq := [{ insn := 0x3B01C1AB, orig := 0x3B01C1AA, slices := 3, lanes := 1, act := 1, pc := 0x1000 }],
                             owed := [{ slices := 3, reg := 3, pc := 0x1000, trap := false }] } ∧
      ({ insn := 0x3B01C1AB, orig := 0x3B01C1AA, slices := 3, lanes := 1, act := 1, pc := 0x1000 } : RqEntry).edited = true ∧
      (at_ (trapped grp)).othersRun 1 0 3 = false) ∧
    (done { trapped grp with frame := { slices := 3, pc := 0x2002 } } ∧ (0x2002 : DWord).toNat % 4 ≠ 0) ∧
    (at_ (inTx grp 1)).curGroup.inTx = true ∧
    (at_ grp 3 { team with req := true }).curTeam.req = true := by decide +kernel

/-- A query of line 0 at 0x10000, which core 0's TLB translates, in s1, at position `pos`, with bit 59 as `tgt`. -/
def locating (pos : Nat) (tgt : Bool := false) : State :=
  let g := { withS grp [(1, BitVec.ofNat 32 (pos * 2 ^ 29 + if tgt then 2 ^ 27 else 0))] with memlocQ := 0x10000 }
  coded (at_ g) []
theorem witness_SystemRegisters_query :
    (∀ p ∈ [(0, false), (4, true), (5, false)],
      let s := locating p.1 p.2
      let q : DWord := s.sysOperand 1 ++ s.curGroup.memlocQ.setWidth 32
      (s.sysOperand 1).getLsbD 28 = false ∧ levelOf (q.toNat % 2 ^ 52) = .global ∧ q.toNat / 2 ^ 61 = p.1 ∧ q.getLsbD 59 = p.2 ∧
      (s.tlbFind 0 0 0 (q.toNat % 2 ^ 52) .read).map (fun x => (x.check .read, isLocal (x.at_ (q.toNat % 2 ^ 52)))) = some (none, true)) ∧
    (State.reset.cadOf 0).state = 0 ∧ levelOf 0xF100000000000 ≠ .global := by decide +kernel
theorem witness_SystemRegisters_issuing : (locating 0).Issuing ∧ (at_ (withS grp [(1, 0x10000000)])).Alone ∧
    (at_ (withS grp [(1, 0x10000000)])).Trappable 3 ∧ ((at_ (withS grp [(1, 0x10000000)])).sysOperand 1).getLsbD 28 = true ∧
    (at_ (withS grp [(1, 0x10000000)])).curTeam.vf ≠ 127 :=
  ⟨⟨by decide +kernel, by decide +kernel, ⟨List.pairwise_singleton .., by decide +kernel, fun k h => ⟨_, List.mem_singleton.mpr rfl, h⟩⟩⟩,
    ⟨by decide +kernel, by decide +kernel⟩, ⟨by decide +kernel, by decide +kernel, by decide +kernel, by decide +kernel⟩, by decide +kernel,
    by decide +kernel⟩

/-- Lane 0 names byte 8 of the line at 0x10000, in v4 and v5 and by its offset from s10 and s11; of what `st` names, v8 and v9. -/
def afar : Group :=
  { withV grp [(4, 0, 0x10008), (5, 0, 0), (8, 0, 0x1111), (9, 0, 7)] with masks := [(1, 1)] }
/-- Its line 0 stands at home, mapped at 0x10000 for reading and writing, and core 0's L1 holds `x` of it. -/
def remote (x : Sparse L1Line := []) : State :=
  (online (put (at_ afar) 0 (0x99 * 2 ^ 64 + 0x1234567890ABCDEF * 2 ^ 128))).updCore 0 fun c => { c with
    l1 := x
    tlb := [{ part := 0, asid := 0, va := 1, log2 := 16, dpa := 0, r1 := true, w1 := true, x1 := true, r2 := true, w2 := true,
              x2 := true, d := true }] }
def near : State := remote [(0, { on := true, line := 0, valid := BitVec.allOnes 128, data := 0x77 * 2 ^ 64 })]
theorem free_remote (k : OpClass) : remote.Free k ∧ near.Free k :=
  ⟨⟨⟨by decide +kernel, by decide +kernel, by decide +kernel⟩, by decide +kernel, fun _ h => (nomatch h), ⟨by decide +kernel, by decide +kernel⟩,
      by decide +kernel, by decide +kernel, by cases k <;> decide +kernel⟩,
    ⟨⟨by decide +kernel, by decide +kernel, by decide +kernel⟩, by decide +kernel, fun _ h => (nomatch h), ⟨by decide +kernel, by decide +kernel⟩,
      by decide +kernel, by decide +kernel, by cases k <;> decide +kernel⟩⟩
theorem finds_remote (acc : Acc) (h : acc ∈ [.read, .write, .atomic]) : ∀ s ∈ [remote, near],
    s.Finds acc 4 (s.curGroup.act s.run.slices 1) (fun l => s.curGroup.vreg 5 l ++ s.curGroup.vreg 4 l) 0 8 := by
  intro s hs
  simp only [List.mem_cons, List.not_mem_nil, or_false] at h hs
  rcases hs with rfl | rfl <;> rcases h with rfl | rfl | rfl <;>
    exact ⟨by decide, by decide +kernel, by decide +kernel, ⟨_, _, rfl, rfl, by decide +kernel, by decide +kernel⟩, by decide +kernel⟩
theorem homeHas_remote : remote.HomeHas 0 0 :=
  ⟨by decide +kernel, by decide +kernel, by decide +kernel, by decide +kernel, by decide +kernel⟩
theorem witness_LaneLoads_memory :
    wellFormed (.ldAcq false 1 8 4 4 1) = true ∧ (near.coreOf near.curCore).l1Find (8 / 128) = some 0 ∧
    maskAt (8 % 128) 4 &&& ~~~((near.coreOf near.curCore).l1Line 0 0).valid = 0 ∧ (remote.coreOf remote.curCore).l1Find 0 = none ∧
    ((remote.coreOf remote.curCore).l1Line 0 ((remote.coreOf remote.curCore).l1Pick 0)).dirty = 0 ∧
    remote.homeOf 0 / 128 = remote.curCore / 64 := by decide +kernel
theorem witness_LaneStores_memory : near.Clean near.curCore ∧ remote.Clean remote.curCore ∧ remote.Unwatched (.mem 0) 1 0 ∧ remote.NoWatch 0 :=
  ⟨by show ∀ x ∈ (near.coreOf near.curCore).l1, x.2.dirty = 0; decide +kernel,
    fun _ h => (nomatch h), ⟨fun _ h => (nomatch h), fun _ h => (nomatch h)⟩, ⟨fun _ h => (nomatch h), fun _ h => (nomatch h)⟩⟩
theorem witness_LaneAtomics_memory :
    wellFormed (.atom false 1 8 4 0 1) = true ∧ widen (maskAt (8 % 128) 4) &&& ~~~((near.coreOf near.curCore).l1Line 0 0).valid = 0 := by
  decide +kernel
/-- R20, R133: the halfword at byte 8 of the line, from L1 and from its home. -/
theorem test_load_memory : (after (.ldAcq false 1 8 4 4 0) near).vreg 8 0 = 0x77 ∧ (after (.ldAcq false 1 8 4 4 2) remote).vreg 8 0 = 0x99 := by
  decide +kernel

/-- Lanes 0 and 4 name the first line of the page; a line that a commit holds stops them. -/
theorem witness_Prefetches_lanes :
    let s := coded (at_ { withS grp [(10, 0x10000)] with masks := [(1, 0x11)] }) []
    s.curGroup.inTx = false ∧
    (∀ l, l < 32 → (s.curGroup.act s.run.slices 1).getLsbD l = true → l = 0 ∨ l = 4) ∧
    (s.prefetchAt 1 0 0 0x10000).2 = some 0 ∧ (s.prefetchAt 1 0 4 0x10000).2 = some 0 ∧ s.blocked 0 1 0 = false ∧ s.l1Stuck 0 0 = false ∧
    ({ s with wlocks := [{ key := .mem 0, uid := 2, grp := 0 }] } : State).blocked 0 1 0 = true := by decide +kernel
theorem witness_Triggers_nodes : ∀ x ∈ [node2], (x.started = true ∨ x.c ≠ 0) ∧ x.reading = false := by decide +kernel
theorem witness_CopyMoves_place : ((copying .posted).teamOf 1).place ≠ .aborted ∧ (copying .posted).drops = [] := by decide +kernel
/-- R368, R403: a tile entry of program level is granted while its group is at trap level. -/
def grantingTrapped (w v : Word) : State :=
  (granting w v).updGroup 1 0 trapped
theorem witness_EngineGrants_trapped :
    (grantingTrapped 0x3F0A1501 0x000301F0).nextGrant 0 = some resv0 ∧
    (grantingTrapped 0x3F0A1501 0x000301F0).entryOf resv0 = some (tileEntry 0x3F0A1501 0x000301F0) ∧
    (grantingTrapped 0x3F0A1501 0x000301F0).curGroup.atTrap = true := by decide +kernel
theorem witness_CollectivePosts_cancel_known :
    (calling { comm5 with known := [(7, 42)] }).collKnown 1 0 5 42 = true ∧ (calling comm5).collCheck 1 { collCmd with w := [] } = none := by decide +kernel

/-! The member of another module is die 0 of module 1, which has the identifier 4. -/

theorem witness_SequencerPrimary_far :
    (joined comm5).accNone = false ∧ (4 : BitVec 12).toNat / 4 ≠ (joined comm5).accid ∧ (3 : BitVec 12).toNat / 4 = (joined comm5).accid ∧
    State.reset.accNone = true ∧ ({ joined comm5 with links := 2 } : State).upPorts ≠ [] ∧ (joined comm5).upPorts = [] := by decide +kernel
def fullComm : Comm := { comm5 with held := (List.range 256).map fun k => (BitVec.ofNat 32 k, none, false) }
theorem witness_SequencerPrimary_assign :
    (∀ h ∈ comm5.held, h.2.1 ≠ some 42) ∧ comm5.room = true ∧ fullComm.room = false ∧ (∀ h ∈ fullComm.held, h.2.1 ≠ some 42) ∧
    (let x : Comm := { comm5 with held := [(7, some 42, false)], doneFrom := [(7, 4)], goSent := [7] }
     x.numberOf 4 42 = none ∧ x.live 42 = some 7 ∧ x.numberOf 0 42 = some (7, some 42, false)) :=
  ⟨by simp [comm5], by decide +kernel, by decide +kernel, by simp [fullComm], by decide +kernel⟩
theorem witness_SequencerMembers_reply :
    ({ slices := 3, reg := 63, pc := 0x1000, trap := false } : Owed).reg < 64 ∧
    (let y := { coll42 with src := { tid16 with w0 := 0x30000 } }
     let s := joined { comm5 with known := [(7, 42)] } [y]
     let s1 := (s.updComm 0 5 fun x => { x with goGot := x.goGot ++ [7] }).updColl 0 5 42 fun y => { y with running := true }
     (((s1.takeLocks (s1.collLocks 0 y)).updColl 0 5 42 fun y => { y with locked := true }).readElems 1 32 (elemBits y.src.elem) y.src.rowsOf).2.2 = .wait) := by
  decide +kernel
/-- A member unanswered by the standby for 1 ms, by a number that it is ready for, and by a `coll.cancel`. -/
theorem witness_SequencerFailover_silent :
    (let s : State := { joined { comm5 with prim := 4 } with peers := [(1, { state := 2 })] }
     s.memberDown (s.commOf 0 5).prim = true ∧ ((s.commOf 0 5).asked = 0 ∨ (s.commOf 0 5).asked + 2000000 ≤ s.clock.toNat + 1)) ∧
    (let s : State := { joined { comm5 with prim := 4, asked := 1 } with peers := [(1, { state := 2 })], clock := 2000000 }
     (s.commOf 0 5).asked + 2000000 ≤ s.clock.toNat + 1) ∧
    (∃ k ∈ ({ comm5 with readySent := [(7, 0)] } : Comm).readySent, k.1 ∉ comm5.goGot ∧ k.2 + 2000000 ≤ (2000000 : DWord).toNat) ∧
    (∃ k ∈ ({ comm5 with cancels := [{ tag := 42, uid := 1, grp := 0, owed := { slices := 3, reg := 6, pc := 0x1000, trap := false }, time := 0 }] } : Comm).cancels,
      k.time + 2000000 ≤ (2000000 : DWord).toNat) :=
  ⟨by decide +kernel, by decide +kernel, ⟨_, List.mem_singleton.mpr rfl, by decide +kernel⟩, ⟨_, List.mem_singleton.mpr rfl, by decide +kernel⟩⟩

/-! ## Witnesses: walks, home slices and the resurvey, further clauses -/

/-- A page that the front end has asked for has failed; another's walk is queued and joined, or the queue holds 512. -/
def failed0 : XlFail := { who := .front 0, part := 0, asid := 0, page := 1, code := .pf, kind := 0, acc := 0, ppa := 0 }
def queuedWalk (agents : List Asker) (fails : List XlFail := []) (n : Nat := 1) : State :=
  { at_ grp with dies := [(0, { xlFails := fails, lastWalk := 5, walks := (List.range n).map fun k =>
      { walk1 (0x10000 * (k + 1)) .read with id := k + 1, part := if n = 1 then 0 else k % 2, agents := agents } })] }
theorem witness_WalksAndTrapQueue_agents :
    (queuedWalk [] [failed0]).tlbFind 0 0 0 0x10000 .read = none ∧ failed0.page = 0x1FFFF / 65536 ∧ failed0.page ≠ 0x20000 / 65536 ∧
    (∀ f ∈ [failed0], f.who ≠ .front 1) ∧
    (let y := (queuedWalk [.front 0]).dieOf 0
     (∃ v ∈ y.walks, v.part = 0 ∧ v.asid = 0 ∧ v.va / 65536 = 0x1FFFF / 65536 ∧ .front 0 ∈ v.agents) ∧ (∀ v ∈ y.walks, .front 1 ∉ v.agents) ∧
     y.walks.find? (fun v => v.joins 0 0 0x1FFFF) = some { walk1 0x10000 .read with id := 1, agents := [.front 0] } ∧
     (∀ v ∈ y.walks, v.joins 0 0 0x20000 = false) ∧ y.missFull 0 = false) ∧
    ((∀ v ∈ ((queuedWalk [] [] 512).dieOf 0).walks, v.joins 0 0 0x4000000 = false) ∧ ((queuedWalk [] [] 512).dieOf 0).missFull 0 = true ∧
      ((queuedWalk [] [] 511).dieOf 0).missFull 1 = false) := by decide +kernel
/-- Die 0 has asked for page 5 of ASID 3, and its answer comes or names no address. -/
def asking (pri : List Nat := []) : State := { at_ grp with vdevs := [(0, { atsAsked := [(0, 3, 5)], pri := pri })] }
theorem witness_WalksAndTrapQueue_ats :
    asking.launches = [] ∧ ((asking.vdevOf 0).atsAsked.filter fun x => x.2 == (3, 5)) = [(0, 3, 5)] ∧
    (∀ x ∈ (asking.vdevOf 0).atsAsked.filter fun x => x.2 == (3, 5), x.1 ≠ 1) ∧
    ((asking (List.range 255)).vdevOf 0).pri.length < 256 ∧ 256 ≤ ((asking (List.range 256)).vdevOf 0).pri.length ∧
    (atsLog2 12 0 0 = 12 ∧ atsLog2 16 0x3000 0x5000 = 12 ∧ atsLog2 40 0 0 = 30 ∧ 4096 ∣ 0x3000) := by decide +kernel
theorem witness_WalksAndTrapQueue_flight :
    (∀ p ∈ (asking).parts, p.2.vfmask.getLsbD 0 = true → (asking).inFlight p.1 = false) ∧
    (let s : State := { at_ grp with
       parts := [(0, { valid := true, vfmask := 1 })]
       peers := [(1, { state := 1, out := [{ tag := 7, ask := { who := .lane 1 0 0 31 [], kind := 0, addr := 2 ^ 51 + 2 ^ 40, n := 4 }, time := 0 }] })] }
     ∃ p ∈ s.parts, p.2.vfmask.getLsbD 0 = true ∧ s.inFlight p.1 = true) := by decide +kernel
theorem witness_WalksAndTrapQueue_settle :
    (∀ x ∈ [(0, true), (3, false)], ((State.updGroup (at_ { grp with live := BitVec.ofNat 8 x.1 }) 1 0 Group.resume).groupOf 1 0).finished = x.2) ∧
    ((at_ grp).groupOf 1 0).queue = [] := by decide +kernel

/-- Line 0 has its first sector at home; or none. -/
def partly (pol : Word := 0) : State :=
  let s := { online (at_ grp) with vdevs := [(0, { l2pol := pol })] }
  s.setL2 (s.homeOf 0) 0 0 { on := true, line := 0, valid := 1, dirty := 1, data := 0x1234 }
theorem witness_HomeSlices_misses :
    let bare : State := { online (at_ grp) with vdevs := [(0, { l2pol := 2 })] }
    let poisoned := bare.colStore ((((at_ grp).cadOf 0).a).col 0 0) 0 true
    (match ((bare.countHome 0 false).stripeRead 0 0).2 with | .data v => v == 0 | .poison => false) = true ∧ bare.l2Find (bare.homeOf 0) 0 = none ∧
    ((bare.countHome 0 false).l2Ways 0 0 0).2 = 2 ∧ (({ bare with vdevs := [] } : State).countHome 0 false |>.l2Ways 0 0 0).2 ≠ 2 ∧
    bare.homeLacks 0 = true ∧ (match ((poisoned.countHome 0 false).stripeRead 0 0).2 with | .poison => true | _ => false) = true ∧
    partly.l2Find (partly.homeOf 0) 0 = some 0 ∧ (partly.l2Line (partly.homeOf 0) 0 0).valid ≠ 3 ∧ partly.homeLacks 0 = true := by decide +kernel
/-- The home of line 0 lies in die 0; the proxy of die 1 holds it or does not. -/
theorem witness_HomeSlices_proxy :
    let x := proxyOf (cached.homeOf 0) 1
    let held := cached.setL2 x 0 0 { on := true, line := 0, home := false, valid := 3, data := 0x1234 }
    cached.homeOf 0 / 128 ≠ 1 ∧ cached.homeOf 0 / 128 = 0 ∧ cached.l2Find x 0 = none ∧ held.l2Find x 0 = some 0 ∧
    (cached.homeServe 0 0 0 0).1.l2Find (cached.homeOf 0) 0 = some 0 ∧
    (((cached.homeServe 0 0 0 0).1).l2Ways 0 0 0).2 ≠ 2 := by decide +kernel
theorem witness_HomeSlices_discarded :
    let a := ((at_ grp).cadOf 0).a
    let s : State := { at_ grp with drops := [{ level := 3, stack := a.stk.getD 0 0 }, { level := 3, stack := a.stk.getD 1 0 }] }
    s.unwritable 0 = true ∧ s.homeLacks 0 = true := by decide +kernel

/-- A stack that has not been trained, and one that has. -/
theorem witness_Resurvey_unready :
    (single0.unready 0 = true ∧ (online single0).unready 0 = false) ∧
    ((moving 1 0).unready (0 * 16384 + ((moving 1 0).cadOf 0).cursor) = true ∧ (online (moving 1 16382)).unready (0 * 16384 + 16382) = false) := by
  decide +kernel

/-! ## Witnesses: base dies, scheduling and the rest, further clauses -/

/-- The column of position 3 of line 0; and one of a frame that no parcel has. -/
def col03 : Col := (((at_ grp).cadOf 0).a).col 3 0
def gathered (n : Nat) : State := { at_ grp with dies := [(0, { colsIn := ([0, 1, 2, 4].take n).map fun j => { line := 0, pos := j } })] }
theorem witness_BaseDiePackets_columns :
    (at_ grp).lineAtCol col03 = some (0, 3) ∧ (at_ grp).lineAtCol { stack := 12, p := 0, bank := 0, row := 0, unit := 0 } = none ∧
    (((gathered 3).dieOf 0).colsIn.filter fun y => y.line == 0 && y.pos != 3).length < 4 ∧
    4 ≤ (((gathered 4).dieOf 0).colsIn.filter fun y => y.line == 0 && y.pos != 3).length := by decide +kernel
/-- A command 2 is in progress. -/
theorem witness_BaseDieUpkeep_busy :
    let s : State := { at_ grp with stks := [(11, { mbxBusy := true, mbxCmd := 2 })] }
    (s.stackOf 11).mbxBusy = true ∧ (∀ n ∈ [1, 3, 4, 5], (s.stackOf 11).mbxCmd ≠ n) ∧ (s.stackOf 11).mbxCmd = 2 ∧
    ((at_ grp).stackOf 11).mbxBusy = false := by decide +kernel

/-- Function 0 of partition 0 has teams on a core, or no work left. -/
theorem witness_Scheduling_dry :
    (switching 0 9).busyFn 0 0 = false ∧ ({ at_ grp with parts := [(0, part0)] } : State).busyFn 0 0 = true ∧
    (switching 0 9).waiting 0 1 = true ∧ ((switching 0 9).partOf 0).plugin = none := by decide +kernel
theorem witness_Scheduling_issue :
    ({ at_ grp with runs := [] } : State).chooseGroup 0 = some (0, 1, 0) ∧ (({ at_ grp with runs := [] } : State).groupOf 1 0).inTx = false ∧
    grp.issueSet 1 = 3 := by decide +kernel

/-- A SIGNAL of four bytes to a peer's memory: it is sent and waits, and its answer has come, as a completion or as a failure. -/
def farAddr : Nat := 2 ^ 51 + 2 ^ 40 + 0x44
def farSignal (v : Option (Option Nat)) : State :=
  { at_ grp with
    accNone := false, links := 2
    answers := match v with
      | some v => [{ ask := { who := .front 0, kind := 1, addr := farAddr, n := 4 }, v := v }]
      | none => [] }
theorem witness_QueueCommands_far :
    isLocal farAddr = false ∧
    (match ((farSignal (some (some 0))).outWrite (.front 0) farAddr 4 7).2 with | .ok _ => true | _ => false) = true ∧
    (match ((farSignal (some none)).outWrite (.front 0) farAddr 4 7).2 with | .fault => true | _ => false) = true ∧
    (match ((farSignal none).outWrite (.front 0) farAddr 4 7).2 with | .wait => true | _ => false) = true := by decide +kernel
/-- Partition 23 has a dirty line that a commit has locked, so that it may not be reset yet. -/
theorem witness_QueueCommands_stuck :
    let s : State := { online (at_ grp) with
      cores := [(0, { l1 := [(24, { on := true, line := 3, dirty := 1 })] })], wlocks := [{ key := .mem 3, uid := 2, grp := 0 }]
      parts := [(23, { valid := true, homecl := 1 })] }
    s.partStuck 23 = true ∧ ({ s with wlocks := [] } : State).partStuck 23 = false := by decide +kernel

/-- Requests of one source to one line, and to two. -/
theorem witness_HostAndPeers_line :
    (∃ e ∈ ((answered 0 1).peerOf 1).inq, (inReq 16 0x7F 1).behind e = true) ∧ (∀ e ∈ ((answered 0 1).peerOf 1).inq, (inReq 16 0x80 8).behind e = false) ∧
    ((answered 0 63).peerOf 1).inq.length < 64 ∧ 64 ≤ ((answered 0 64).peerOf 1).inq.length ∧ (1 : Nat) ≠ (answered 0 1).accid := by decide +kernel
theorem witness_HostAndPeers_local : ∀ d ∈ [((0x1007F : Nat), (1 : Nat)), (2 ^ 50 + 0x10080, 1)], d.1 / 2 ^ 50 % 4 ≠ 2 := by decide
/-- An access of the host's that goes on to a peer is sent, and waits. -/
theorem witness_HostAndPeers_onward :
    ((farSignal none).outerNow (.port 0) 0 0 0 0 0 [(farAddr, 4)]).2 = none ∧
    (({ farSignal none with answers := [{ ask := { who := .port 0, kind := 0, addr := farAddr, n := 4 }, v := some 9 }] } : State).outerNow
      (.port 0) 0 0 0 0 0 [(farAddr, 4)]).2 = some (some 9) := by decide +kernel
/-- Requests of an agent that is gone, and of one that is no lane. -/
theorem witness_HostAndPeers_askers :
    ∀ w ∈ [Asker.gone, .engine 1 0, .front 0],
      let o : Outbound := { tag := 7, ask := { who := w, kind := 0, addr := farAddr, n := 4 }, time := 0 }
      ((awaiting 1 [o]).peerOf 1).out.find? (fun o => o.tag == 7) = some o ∧ ((awaiting 1 [o]).peerOf 1).state ≠ 2 ∧
      ((awaiting 1 [o] 2000000).peerOf 1).out = [o] := by decide +kernel
/-- An 8-byte lane-private access, whose two words are asked for apart, and one of 4 bytes. -/
theorem witness_HostAndPeers_words :
    levelOf ({ addr := 0xF000000000000 } : LaneRec).addr.toNat = .lanePriv ∧ levelOf ({ addr := 0x10000 } : LaneRec).addr.toNat ≠ .lanePriv := by
  decide +kernel

/-- The core's test runs and has been given results of another digest than its own, 0. -/
theorem witness_TestAndTrace_results :
    digest512 [] ≠ ((underTest false 0).coreOf 191).testDigest ∧ ((underTest false 0).coreOf 191).testFails = 0 ∧
    (let s : State := { State.reset with cores := [(191, { testing := true, testDigest := digest512 [] })] }
     digest512 [] = (s.coreOf 191).testDigest) ∧
    State.reset.testImage [] = none ∧ State.reset.idleCore 191 = true := by decide +kernel
/-- Communicator 5 with nothing outstanding, and a new entry that names another standby and is otherwise the same. -/
theorem witness_FirmwareCommands_restandby :
    comm5.restandby { comm5 with stby := 2 } = true ∧ comm5.restandby { comm5 with stby := 2, prim := 1 } = false ∧
    ({ comm5 with held := [(7, some 42, false)] } : Comm).restandby { comm5 with stby := 2 } = true := by decide +kernel
theorem witness_FirmwareCommands_stuck :
    let s : State := { commanded [(1, 0x20000)] with
      cores := [(0, { l1 := [(24, { on := true, line := 3, dirty := 1 })] })], wlocks := [{ key := .mem 3, uid := 2, grp := 0 }] }
    s.quiescent 0 = true ∧ s.partStuck 0 = true ∧ (commanded [(1, 0x20000)]).partStuck 0 = false := by decide +kernel
/-- The physical function's registers are there after a failed start-up, a virtual function's are not. -/
theorem witness_RegisterWrites_boot :
    (let s : State := { State.reset with bootErr := 2 }
     ((96 ≤ 0 ∧ 0 ≠ 127) ∨ (0 ≠ 127 ∧ s.bootErr ≠ 0)) ∧ ¬ ((0 < 96 ∧ s.bootErr = 0) ∨ 0 = 127) ∧ ((127 < 96 ∧ s.bootErr = 0) ∨ 127 = 127)) ∧
    ((95 < 96 ∧ State.reset.bootErr = 0) ∨ 95 = 127) := by decide +kernel
/-- A DONE and a CANCEL of one cycle, of which the CANCEL is taken first; one of the two; and neither. -/
theorem witness_StepRuns_meet :
    let d : Instr := .done 0 5 4 1 7
    let c : Instr := .cancel 0 5 4 1 42
    (at_ grp).meetOrder [] [] = [] ∧ (at_ grp).meetOrder [] [.inl d] = [.event d] ∧
    ((at_ grp).meetOrder [] [.inl c, .inl d]).length = 2 := by decide +kernel
/-- R81: the drop of stack 0 comes before that of stack 11. -/
theorem test_drops_of_one_cycle : (at_ grp).meetOrder [] [.inl (.rsdrop 0x76000000), .inl (.rsdrop 0x60000000)] =
    [.event (.rsdrop 0x60000000), .event (.rsdrop 0x76000000)] := by decide +kernel
/-- A team's LEFT is 0. -/
theorem witness_StepRuns_urgent :
    ({ asked 10 with plan := [] } : State).tick.urgent ≠ [] ∧ State.reset.tick.urgent = [] := by decide +kernel

end Sys2Proof.Tests
end

section
/-! SUPPORT. Tables in canonical form are equal when they read alike; a number is read back from the bytes that were
written of it, in the memory of the stacks and in the host's (R7, R157). -/

namespace Sys2Proof

variable {α : Type} [DecidableEq α]

omit [DecidableEq α] in
/-- A key below every listed one reads as the default. -/
theorem Sparse.get_of_forall_lt (d : α) {m : Sparse α} {k : Nat} (h : ∀ x ∈ m, k < x.1) : Sparse.get d m k = d := by
  induction m with
  | nil => rfl
  | cons x m ih =>
    have hx : x.1 ≠ k := Nat.ne_of_gt (h x (by simp))
    simp [Sparse.get, hx, ih fun y hy => h y (by simp [hy])]

/-- Two tables in canonical form that read alike list the same entries. -/
theorem Sparse.ext_of_wf (d : α) {m m' : Sparse α} (hm : Sparse.wf d m = true) (hm' : Sparse.wf d m' = true)
    (h : ∀ k, Sparse.get d m k = Sparse.get d m' k) : m = m' := by
  rw [Sparse.wf_iff] at hm hm'
  induction m generalizing m' with
  | nil =>
    cases m' with
    | nil => rfl
    | cons y m' => exact absurd (by simpa [Sparse.get] using (h y.1).symm) (hm'.2 y (by simp))
  | cons x m ih =>
    obtain ⟨⟨hlt, hp⟩, hd⟩ := And.imp_left List.pairwise_cons.1 hm
    have hx : Sparse.get d (x :: m) x.1 = x.2 := by simp [Sparse.get]
    have hxd : x.2 ≠ d := hd x (by simp)
    cases m' with
    | nil => exact absurd (by rw [← hx, h]; rfl) hxd
    | cons y m' =>
      obtain ⟨⟨hlt', hp'⟩, hd'⟩ := And.imp_left List.pairwise_cons.1 hm'
      have hy : Sparse.get d (y :: m') y.1 = y.2 := by simp [Sparse.get]
      have hyd : y.2 ≠ d := hd' y (by simp)
      have below : ∀ {a b : Nat × α} {w : Sparse α}, (∀ z ∈ w, b.1 < z.1) → a.1 < b.1 → Sparse.get d (b :: w) a.1 = d :=
        fun hw hab => Sparse.get_of_forall_lt d fun z hz => by
          rcases List.mem_cons.1 hz with rfl | hz
          · exact hab
          · exact Nat.lt_trans hab (hw z hz)
      have hkey : x.1 = y.1 := by
        rcases Nat.lt_trichotomy x.1 y.1 with hl | he | hl
        · exact absurd (by rw [← hx, h, below hlt' hl]) hxd
        · exact he
        · exact absurd (by rw [← hy, ← h, below hlt hl]) hyd
      have hval : x.2 = y.2 := by rw [← hx, h, hkey, hy]
      have htail : ∀ k, Sparse.get d m k = Sparse.get d m' k := fun k => by
        by_cases hk : x.1 = k
        · subst hk
          rw [Sparse.get_of_forall_lt d hlt, Sparse.get_of_forall_lt d (hkey ▸ hlt')]
        · have hk' := h k
          rwa [Sparse.get, Sparse.get, if_neg hk, if_neg (hkey ▸ hk)] at hk'
      rw [Prod.ext hkey hval,
        ih ⟨hp, fun z hz => hd z (by simp [hz])⟩ ⟨hp', fun z hz => hd' z (by simp [hz])⟩ htail]

/-- The entry of a canonical table at a key is the one that is read there. -/
theorem Sparse.get_of_mem {d : α} {m : Sparse α} (hm : Sparse.wf d m = true) {x : Nat × α} (hx : x ∈ m) :
    Sparse.get d m x.1 = x.2 := by
  obtain ⟨hp, -⟩ := (Sparse.wf_iff d m).1 hm
  clear hm
  induction m with
  | nil => simp at hx
  | cons y m ih =>
    obtain ⟨hlt, hp⟩ := List.pairwise_cons.1 hp
    rcases List.mem_cons.1 hx with rfl | hx
    · simp [Sparse.get]
    · rw [Sparse.get, if_neg (Nat.ne_of_lt (hlt x hx))]
      exact ih hx hp

namespace Machine

/-- Byte `k` of a number, of the number without its lowest byte. -/
theorem ofNat_div_succ (v k : Nat) : BitVec.ofNat 8 (v / 256 / 256 ^ k) = BitVec.ofNat 8 (v / 256 ^ (k + 1)) := by
  rw [Nat.div_div_eq_div_mul, ← Nat.pow_succ']

/-- R7: bytes read from the lowest address up give the number they were taken from. -/
theorem read_of_bytes (get : Nat → Byte) (read : Nat → Nat → Nat) (read_zero : ∀ a, read a 0 = 0)
    (read_succ : ∀ a n, read a (n + 1) = (get a).toNat + 256 * read (a + 1) n) (n a v : Nat)
    (h : ∀ k, k < n → get (a + k) = BitVec.ofNat 8 (v / 256 ^ k)) : read a n = v % 256 ^ n := by
  induction n generalizing a v with
  | zero => rw [read_zero, Nat.pow_zero, Nat.mod_one]
  | succ n ih =>
    have hlow : get a = BitVec.ofNat 8 v := by simpa using h 0 (Nat.succ_pos n)
    have hhigh : read (a + 1) n = v / 256 % 256 ^ n := ih (a + 1) (v / 256) fun k hk => by
      rw [ofNat_div_succ, ← h (k + 1) (by omega)]
      congr 1
      omega
    rw [read_succ, hlow, hhigh, BitVec.toNat_ofNat, (Nat.pow_succ' : 256 ^ (n + 1) = _), Nat.mod_mul]

theorem Mem.get_writeNat (m : Mem) (a n v b : Nat) : Mem.get (Mem.writeNat m a n v) b =
    if a ≤ b ∧ b < a + n then BitVec.ofNat 8 (v / 256 ^ (b - a)) else Mem.get m b := by
  induction n generalizing m a v with
  | zero => rw [if_neg (by omega)]; rfl
  | succ n ih =>
    rw [Mem.writeNat, ih, Mem.get_set]
    by_cases hb : b = a
    · subst hb
      rw [if_neg (by omega), if_pos rfl, if_pos (by omega), Nat.sub_self, Nat.pow_zero, Nat.div_one]
    · by_cases hr : a ≤ b ∧ b < a + (n + 1)
      · rw [if_pos (by omega), if_pos hr, ofNat_div_succ, show b - (a + 1) + 1 = b - a by omega]
      · rw [if_neg (by omega), if_neg hr, if_neg hb]

theorem Mem.readNat_writeNat (m : Mem) (a n v : Nat) : Mem.readNat (Mem.writeNat m a n v) a n = v % 256 ^ n :=
  read_of_bytes (Mem.get _) (Mem.readNat _) (fun _ => rfl) (fun _ _ => rfl) n a v fun k hk => by
    rw [Mem.get_writeNat, if_pos (by omega), Nat.add_sub_cancel_left]

theorem Mem.get_writeMasked (m : Mem) (a n v mask b : Nat) : Mem.get (Mem.writeMasked m a n v mask) b =
    if a ≤ b ∧ b < a + n ∧ mask.testBit (b - a) = true then BitVec.ofNat 8 (v / 256 ^ (b - a)) else Mem.get m b := by
  induction n with
  | zero => rw [if_neg (by omega)]; rfl
  | succ n ih =>
    have hlast : Mem.get (Mem.writeMasked m a (n + 1) v mask) b = if mask.testBit n = true ∧ b = a + n
        then BitVec.ofNat 8 (v / 256 ^ n) else Mem.get (Mem.writeMasked m a n v mask) b := by
      rw [Mem.writeMasked]
      split
      · rw [Mem.get_set, Nat.shiftRight_eq_div_pow, Nat.pow_mul]
        simp_all
      · simp_all
    rw [hlast, ih]
    by_cases hb : b = a + n
    · subst hb
      simp
    · simp only [hb, and_false, if_false]
      congr 1
      simp only [eq_iff_iff]
      constructor <;> rintro ⟨h1, h2, h3⟩ <;> exact ⟨h1, by omega, h3⟩

theorem State.hostByte_eq_get (s : State) (a : Nat) : s.hostByte a = Sparse.get (Config.hostByte a) s.host a := by
  unfold State.hostByte
  induction s.host with
  | nil => rfl
  | cons x m ih =>
    by_cases hx : x.1 = a
    · rw [List.find?_cons_of_pos (by simpa using hx), Sparse.get, if_pos hx]
    · rw [List.find?_cons_of_neg (by simpa using hx), ih, Sparse.get, if_neg hx]

theorem State.hostByte_insert (s : State) (a b : Nat) (v : Byte) :
    ({ s with host := Sparse.insert s.host a v } : State).hostByte b = if b = a then v else s.hostByte b := by
  rw [State.hostByte_eq_get, State.hostByte_eq_get]
  split
  · subst_vars
    exact Sparse.get_insert_self ..
  · exact Sparse.get_insert_ne _ _ _ ‹_›

/-- R159: a write of the host's memory sets its bytes, and leaves every other. -/
theorem State.hostByte_hostWrite (s : State) (a n v b : Nat) : (s.hostWrite a n v).hostByte b =
    if a ≤ b ∧ b < a + n then BitVec.ofNat 8 (v / 256 ^ (b - a)) else s.hostByte b := by
  induction n with
  | zero => rw [if_neg (by omega)]; rfl
  | succ n ih =>
    rw [State.hostWrite, State.hostByte_insert, ih]
    by_cases hb : b = a + n
    · subst hb
      simp [Nat.pow_mul]
    · rw [if_neg hb]
      congr 1
      simp only [eq_iff_iff]
      omega

theorem State.hostRead_hostWrite (s : State) (a n v : Nat) : (s.hostWrite a n v).hostRead a n = v % 256 ^ n :=
  read_of_bytes (State.hostByte _) (State.hostRead _) (fun _ => rfl) (fun _ _ => rfl) n a v fun k hk => by
    rw [State.hostByte_hostWrite, if_pos (by omega), Nat.add_sub_cancel_left]

theorem State.colStore_broken {s : State} {c : Col} (h : Sparse.get false s.broken c.index = true) (v : BitVec 256) (psn : Bool) :
    s.colStore c v psn = s := by rw [State.colStore, if_pos h]

theorem State.colStore_whole {s : State} {c : Col} (h : Sparse.get false s.broken c.index = false) (v : BitVec 256) (psn : Bool) :
    s.colStore c v psn = { s with
      raw := Mem.writeNat s.raw (c.index * 32) 32 v.toNat
      psn := Sparse.set false s.psn c.index psn
      chk := Sparse.set 0 s.chk c.index 0 } := by rw [State.colStore, if_neg (by simp [h])]

theorem State.wf_raw_colStore (s : State) (c : Col) (v : BitVec 256) (psn : Bool) (h : Mem.wf s.raw = true) :
    Mem.wf (s.colStore c v psn).raw = true := by
  cases hb : Sparse.get false s.broken c.index with
  | true => rwa [State.colStore_broken hb]
  | false =>
    rw [State.colStore_whole hb]
    exact Mem.wf_writeNat _ _ _ h

/-- R62, R484: a column that is stored reads back with its data, its poison and a check that agrees. -/
theorem State.colStore_reads {s : State} {c : Col} (h : Sparse.get false s.broken c.index = false) (v : BitVec 256) (psn : Bool) :
    (s.colStore c v psn).colData c = v ∧ (s.colStore c v psn).colPsn c = psn ∧ (s.colStore c v psn).colStatus c = 0 := by
  rw [State.colStore_whole h]
  refine ⟨?_, Sparse.get_set_self .., ?_⟩
  · rw [State.colData, Mem.readNat_writeNat, Nat.mod_eq_of_lt (by simpa using v.isLt), BitVec.ofNat_toNat, BitVec.setWidth_eq]
  · simp [State.colStatus, h]

/-- Settles O60: canonical tables are determined by what they read as, and each write is read back byte by byte. -/
theorem memoryForm : Obligations.MemoryForm := by
  unfold Obligations.MemoryForm
  refine ⟨fun m m' hm hm' h => Sparse.ext_of_wf 0 hm hm' h, Mem.get_writeNat, Mem.readNat_writeNat, Mem.get_writeMasked,
    State.wf_raw_colStore, fun s a n v => ⟨State.hostRead_hostWrite s a n v, fun b hb => ?_⟩,
    fun s c v psn h => State.colStore_reads h v psn⟩
  rw [State.hostByte_hostWrite, if_neg (by omega)]

end Machine

end Sys2Proof
end

section
/-! SUPPORT. In-field test, injectors, stall samples, debug stops and counter banks: one equation per case of what each
register's meaning does (R465 to R476). -/

namespace Sys2Proof.Machine

/-! ## In-field test (R465) -/

section
variable {s : State} {c : Nat} {given : List Byte}

/-- R465: a core that is not the library's to test, or whose test goes on, is left as it is. -/
theorem exec_iftRun_idle (h : 192 ≤ c ∨ s.iftctl.getLsbD 31 = false ∨ ((s.coreOf c).testing = true ∧ (s.coreOf c).scrubbing = true) ∨
    ((s.coreOf c).testing = false ∧ (s.idleCore c = false ∨ s.testImage given = none))) :
    exec (.iftRun c given) s = .next s := by
  rw [exec_iftRun, execIftRun]
  rcases h with h | h | ⟨ht, hs⟩ | ⟨ht, h⟩
  · rw [if_pos (by rw [decide_eq_true (p := Config.nCores ≤ c) h, Bool.true_or])]
  · rw [if_pos (by rw [h, Bool.not_false, Bool.or_true])]
  · simp [ht, hs]
  · rcases h with h | h
    · cases s.testImage given <;> simp [ht, h]
    · simp [ht, h]

/-- R465: the device has the core, and firmware has turned the test on. -/
theorem iftRun_open (hc : c < 192) (hon : s.iftctl.getLsbD 31 = true) :
    (decide (Config.nCores ≤ c) || !s.iftctl.getLsbD 31) = false := by
  rw [hon, decide_eq_false (p := Config.nCores ≤ c) (Nat.not_le.2 hc)]
  rfl

/-- R465: a signed test kernel starts on an idle core. -/
theorem exec_iftRun_start {d : BitVec 512} (hc : c < 192) (hon : s.iftctl.getLsbD 31 = true) (ht : (s.coreOf c).testing = false)
    (hi : s.idleCore c = true) (hd : s.testImage given = some d) : exec (.iftRun c given) s =
      .next ((s.scrubStart c 127).updCore c fun y => { y with testing := true, testFails := 0, testDigest := d }) := by
  rw [exec_iftRun, execIftRun, if_neg (by rw [iftRun_open hc hon]; exact Bool.false_ne_true), if_pos (by rw [ht]; rfl), hd]
  exact congrArg _ (if_pos hi)

/-- R465: results for the core's test: they agree, they differ once, or they differ again. -/
theorem exec_iftRun_result (hc : c < 192) (hon : s.iftctl.getLsbD 31 = true) (ht : (s.coreOf c).testing = true)
    (hs : (s.coreOf c).scrubbing = false) : exec (.iftRun c given) s = .next (
      if digest512 given = (s.coreOf c).testDigest then
        { s.updCore c fun y => { y with testing := false, testFails := 0 } with iftPass := (s.iftPass + 1) % 4096 }
      else if (s.coreOf c).testFails = 0 then s.updCore c fun y => { y with testFails := 1 }
      else s.testFailed c) := by
  rw [exec_iftRun, execIftRun, if_neg (by rw [iftRun_open hc hon]; exact Bool.false_ne_true),
    if_neg (by rw [ht]; exact Bool.false_ne_true), if_neg (by rw [hs]; exact Bool.false_ne_true)]

end

/-- R465: a core that has failed twice is withdrawn, counted, and recorded. -/
theorem State.testFailed_spec (s : State) (c : Nat) :
    { s.testFailed c with cores := s.cores, faults := s.faults, iftFail := s.iftFail } = s ∧
    (s.testFailed c).coreOf c = { s.coreOf c with withdrawn := true, testing := false, testFails := 0 } ∧
    (∀ d, d ≠ c → (s.testFailed c).coreOf d = s.coreOf d) ∧ (s.testFailed c).iftFail = min (s.iftFail + 1) 255 ∧
    (s.testFailed c).faults =
      s.faults ++ [{ elem := BitVec.ofNat 32 (c / 64 * 2 ^ 30 + c % 64 * 2 ^ 24), kind := 10, time := s.clock.toNat }] :=
  have hcore : ∀ d, (s.testFailed c).coreOf d =
      (s.updCore c fun y => { y with withdrawn := true, testing := false, testFails := 0 }).coreOf d := fun _ => rfl
  ⟨rfl, by rw [hcore, State.coreOf_updCore_self], fun d hd => by rw [hcore, State.coreOf_updCore_ne _ _ hd], rfl, rfl⟩

/-- R465: an image that gives a digest is of its length and signed by Leovoette. -/
theorem State.testImage_some {s : State} {image : List Byte} {d : BitVec 512} (h : s.testImage image = some d) :
    ∃ len, image.length = 64 + len + 3309 ∧ s.imageSigned 0 (image.take (64 + len)) (image.drop (64 + len)) = true ∧
      d = BitVec.ofNat 512 (fieldOf image len 64) := by
  unfold State.testImage at h
  split at h
  case h_1 len _ =>
    obtain ⟨⟨hlen, -, -, hsig⟩, hd⟩ := Option.ite_none_right_eq_some.1 h
    exact ⟨len, hlen, hsig, (Option.some.inj hd).symm⟩
  case h_2 => exact absurd h (by simp)

/-! ## Link injectors (R10, R469) -/

theorem exec_linkInjectorArm_out {p : Nat} (hp : 13 ≤ p) (v : Word) (s : State) : exec (.linkInjectorArm p v) s = .next s := by
  rw [exec_linkInjectorArm, execLinkInjectorArm, if_neg (Nat.not_lt.2 hp)]

theorem exec_linkInjectorArm_in {p : Nat} (hp : p < 13) (v : Word) (s : State) : ∃ t, exec (.linkInjectorArm p v) s = .next t ∧
    { t with linj := s.linj, linjCnt := s.linjCnt } = s ∧
    (∀ q, Sparse.get 0 t.linjCnt q = if q = p then 0 else Sparse.get 0 s.linjCnt q) ∧
    ∀ q, Sparse.get 0 t.linj q = if q ≠ p then Sparse.get 0 s.linj q
      else if p = 0 ∨ v.toNat / 2 ^ 26 % 16 < 4 then v else (v &&& 0xC3FFFFFF) ||| (Sparse.get 0 s.linj p &&& 0x3C000000) := by
  rw [exec_linkInjectorArm, execLinkInjectorArm, if_pos hp]
  refine ⟨_, rfl, rfl, fun q => ?_, fun q => ?_⟩
  · by_cases hq : q = p
    · rw [if_pos hq, hq]
      exact Sparse.get_erase_self ..
    · rw [if_neg hq]
      exact Sparse.get_erase_ne _ _ hq
  · by_cases hq : q = p
    · have hne : ¬ q ≠ p := fun h => h hq
      rw [if_neg hne, hq]
      have hlane : (1 ≤ p ∧ 4 ≤ v.toNat / 2 ^ 26 % 16) ↔ ¬ (p = 0 ∨ v.toNat / 2 ^ 26 % 16 < 4) := by omega
      simp only [Sparse.get_set_self, hlane, ite_not]
    · rw [if_pos hq]
      exact Sparse.get_set_ne _ _ _ hq

/-! ## Stall samples (R472) -/

/-- R472: the groups that quarter `k` may sample: each one's place in the order, its team and its number. -/
def State.sampleable (s : State) (k : Nat) : List (Nat × Nat × Nat) :=
  (s.teams.filter fun t => t.2.core == k / 4 && t.2.onCore).flatMap fun t =>
    (t.2.groups.filter fun g => g.2.quarter == k % 4 && g.2.live != 0).map fun g => (t.2.slot * 32 + g.1, t.1, g.1)

/-- A quarter with no live group takes no sample. -/
theorem exec_stallSample_none {s : State} {k : Nat} (h : ∀ x ∈ s.teams, ∀ g ∈ x.2.groups,
    (decide (x.2.core = k / 4) && x.2.onCore && decide (g.2.quarter = k % 4) && g.2.live != 0) = false) :
    exec (.stallSample k) s = .next s := by
  have hnone : s.sampleable k = [] := by
    simp only [State.sampleable, List.flatMap_eq_nil_iff, List.mem_filter, List.map_eq_nil_iff, List.filter_eq_nil_iff]
    rintro x ⟨hx, hon⟩ g hg hlive
    have := h x hx g hg
    simp_all
  rw [State.sampleable] at hnone
  rw [exec_stallSample, execStallSample, hnone]
  rfl

/-- A quarter with one live group samples it. -/
theorem exec_stallSample_one {s : State} {k u g : Nat} {t : Team} {y : Group} (hs : s.teams = [(u, t)]) (ht : t.groups = [(g, y)])
    (h : (decide (t.core = k / 4) && t.onCore && decide (y.quarter = k % 4) && y.live != 0) = true) :
    let p := y.pathOf (1#8 <<< lowSlice y.live)
    let r := s.sampleReason k u g p
    exec (.stallSample k) s = .next ((s.updCore (k / 4) fun c =>
      { c with sample := Sparse.set 0 c.sample (k % 4) (t.slot * 32 + g + 1) }).writeTrace
        t.part (t.traceRec g p.slices 0 r.1 0 p.pc r.2)) := by
  obtain ⟨⟨⟨hcore, hon⟩, hq⟩, hlive⟩ : ((t.core = k / 4 ∧ t.onCore = true) ∧ y.quarter = k % 4) ∧ (y.live != 0) = true := by
    simpa using h
  have hone : s.sampleable k = [(t.slot * 32 + g, u, g)] := by
    rw [State.sampleable, hs, List.filter_cons_of_pos (by simp [hcore, hon]), List.filter_nil, List.flatMap_singleton, ht,
      List.filter_cons_of_pos (by simpa [hq] using hlive)]
    rfl
  have hteam : s.teamOf u = t := by simp [State.teamOf, hs, Sparse.get]
  have hgroup : t.group g = y := by simp [Team.group, ht, Sparse.get]
  rw [State.sampleable] at hone
  rw [exec_stallSample, execStallSample, hone]
  by_cases hfrom : Sparse.get 0 (s.coreOf (k / 4)).sample (k % 4) ≤ t.slot * 32 + g
  · simp [hfrom, hteam, hgroup]
  · simp [hfrom, hteam, hgroup]

/-! ## Debug stops (R473) -/

/-- A change of each team of a list, none of them twice. -/
theorem State.teamOf_foldl_updTeam (f : Team → Team) {us : List Nat} (hus : us.Nodup) (s : State) (u : Nat) :
    (us.foldl (fun s u => s.updTeam u f) s).teamOf u = if u ∈ us then f (s.teamOf u) else s.teamOf u := by
  induction us generalizing s with
  | nil => simp
  | cons v us ih =>
    obtain ⟨hv, hus⟩ := List.nodup_cons.1 hus
    rw [List.foldl_cons, ih hus, State.teamOf_updTeam]
    by_cases huv : u = v
    · subst huv
      simp [hv]
    · simp [huv]

theorem State.foldl_updTeam_frame (f : Team → Team) (us : List Nat) (s : State) :
    { us.foldl (fun s u => s.updTeam u f) s with teams := s.teams } = s := by
  induction us generalizing s with
  | nil => rfl
  | cons v us ih =>
    have := congrArg (fun t : State => { t with teams := s.teams }) (ih (s.updTeam v f))
    exact this

/-- R473: a debug stop of one group of a team, or of all. -/
def Team.debugStop (all : Bool) (k : Nat) (t : Team) : Team :=
  { t with groups := t.groups.map fun g => (g.1, if all || g.1 == k then { g.2 with dbg := true } else g.2) }

/-- R473: the team is of the partition, and on the core in the slot, that the word names. -/
def Team.namedBy (p core slot : Nat) (t : Team) : Bool := t.part == p && t.core == core && t.slot == slot

/-- R473: the teams that a debug stop reaches: those on the core, else those saved from it. -/
def State.debugTeams (s : State) (p core slot : Nat) : List Nat :=
  let mine := s.teams.filter fun t => t.2.namedBy p core slot
  let on := mine.filter fun t => t.2.onCore
  (if on.isEmpty then mine.filter fun t => t.2.place == .saved else on).map fun t => t.1

theorem State.nodup_debugTeams {s : State} (h : Sparse.wf {} s.teams = true) (p core slot : Nat) :
    (s.debugTeams p core slot).Nodup := by
  have hkeys : (s.teams.map fun t => t.1).Nodup :=
    List.pairwise_map.2 (((Sparse.wf_iff _ _).1 h).1.imp Nat.ne_of_lt)
  refine hkeys.sublist (List.Sublist.map _ ?_)
  split
  · exact List.filter_sublist.trans List.filter_sublist
  · exact List.filter_sublist.trans List.filter_sublist

theorem State.mem_debugTeams {s : State} (h : Sparse.wf {} s.teams = true) {u : Nat} (hu : (u, s.teamOf u) ∈ s.teams) (p core slot : Nat) :
    u ∈ s.debugTeams p core slot ↔ ((s.teamOf u).namedBy p core slot && ((s.teamOf u).onCore ||
      ((s.teamOf u).place == .saved && !s.teams.any fun x => x.2.namedBy p core slot && x.2.onCore))) = true := by
  have hkey : ∀ q : Nat × Team → Bool, u ∈ (s.teams.filter q).map (fun t => t.1) ↔ q (u, s.teamOf u) = true := fun q => by
    rw [List.mem_map]
    constructor
    · rintro ⟨x, hx, rfl⟩
      obtain ⟨hx, hq⟩ := List.mem_filter.1 hx
      rwa [State.teamOf, Sparse.get_of_mem h hx]
    · exact fun hq => ⟨_, List.mem_filter.2 ⟨hu, hq⟩, rfl⟩
  have hany : (s.teams.any fun x => x.2.namedBy p core slot && x.2.onCore) =
      !(s.teams.filter fun x => x.2.onCore && x.2.namedBy p core slot).isEmpty := by
    rw [Bool.eq_iff_iff]
    simp [and_comm]
  rw [State.debugTeams, hany]
  simp only [List.filter_filter]
  cases he : (s.teams.filter fun x => x.2.onCore && x.2.namedBy p core slot).isEmpty with
  | true =>
    have hoff : (s.teamOf u).namedBy p core slot = true → (s.teamOf u).onCore = false := fun hn => by
      have := List.filter_eq_nil_iff.1 (List.isEmpty_iff.1 he) _ hu
      simpa [hn] using this
    rw [if_pos rfl, hkey]
    cases hn : (s.teamOf u).namedBy p core slot
    · simp
    · simp [hoff hn]
  | false =>
    rw [if_neg (by simp), hkey]
    simp [Bool.and_comm]

/-- R473: a debug stop changes the groups of the teams that it reaches, and nothing else. -/
theorem exec_dbgstop_set {s : State} {p : Nat} {v : Word} (hv : v.getLsbD 0 = true) (hs : Sparse.wf {} s.teams = true) :
    let core := v.toNat / 2 ^ 30 * 64 + v.toNat / 2 ^ 24 % 64
    let us := s.debugTeams p core (v.toNat / 2 ^ 21 % 8)
    ∃ t, exec (.dbgstop p v) s = .next t ∧ { t with teams := s.teams } = s ∧
      ∀ u, t.teamOf u = if u ∈ us then (s.teamOf u).debugStop (v.getLsbD 1) (v.toNat / 2 ^ 16 % 32) else s.teamOf u := by
  intro core us
  refine ⟨us.foldl (fun s u => s.updTeam u (Team.debugStop (v.getLsbD 1) (v.toNat / 2 ^ 16 % 32))) s, ?_,
    State.foldl_updTeam_frame _ us s, State.teamOf_foldl_updTeam _ (State.nodup_debugTeams hs ..) s⟩
  rw [exec_dbgstop, execDbgstop, if_pos hv]
  rfl

/-! ## Counter banks (R475, R476) -/

/-- R475: the function reaches a bank of the partition. -/
def State.MayBank (s : State) (fn p b : Nat) : Prop := (fn = 127 ∨ (fn < 96 ∧ (s.partOf p).vfmask.getLsbD fn = true)) ∧ b < 4

theorem State.mayBank_iff (s : State) (fn p b : Nat) : (s.reaches fn p && decide (b < 4)) = true ↔ s.MayBank fn p b := by
  simp [State.reaches, State.MayBank]

theorem State.updBank_eq (s : State) (p b : Nat) (f : Bank → Bank) : s.updBank p b f =
    s.updPart p fun z => { z with banks := Sparse.set {} z.banks b (f (Sparse.get {} (s.partOf p).banks b)) } := rfl

section
variable {s : State} {fn p b : Nat}

theorem State.ownBank_mine (hm : s.MayBank fn p b) (ho : (Sparse.get {} (s.partOf p).banks b : Bank).owner = ownerNo fn) (f : Bank → Bank) :
    s.ownBank fn p b f = s.updBank p b f := by
  rw [State.ownBank, if_pos (by rw [(s.mayBank_iff fn p b).2 hm, ho, Bool.true_and, beq_self_eq_true])]

theorem State.ownBank_other (h : ¬ s.MayBank fn p b ∨ (Sparse.get {} (s.partOf p).banks b : Bank).owner ≠ ownerNo fn) (f : Bank → Bank) :
    s.ownBank fn p b f = s := by
  rw [State.ownBank, if_neg]
  rw [Bool.and_eq_true, State.mayBank_iff, beq_iff_eq]
  exact fun ⟨hm, ho⟩ => h.elim (· hm) (· ho)

theorem exec_ctrClaim_free (hm : s.MayBank fn p b) (ho : (Sparse.get {} (s.partOf p).banks b : Bank).owner = 0) :
    exec (.ctrClaim fn p b) s = .next (s.updBank p b fun b => { b with owner := ownerNo fn }) := by
  rw [exec_ctrClaim, execCtrClaim, if_pos (by rw [(s.mayBank_iff fn p b).2 hm, ho, Bool.true_and, beq_self_eq_true])]

theorem exec_ctrClaim_taken (h : ¬ s.MayBank fn p b ∨ (Sparse.get {} (s.partOf p).banks b : Bank).owner ≠ 0) :
    exec (.ctrClaim fn p b) s = .next s := by
  rw [exec_ctrClaim, execCtrClaim, if_neg]
  rw [Bool.and_eq_true, State.mayBank_iff, beq_iff_eq]
  exact fun ⟨hm, ho⟩ => h.elim (· hm) (· ho)

end

/-- R10, R476: a reserved SOURCE leaves that field as it was. -/
theorem capKeep_eq (old v : Word) :
    capKeep old v = if v.toNat % 16 < 6 then v &&& 0x80001F0F else (v &&& 0x80001F00) ||| (old &&& 0xF) := by
  unfold capKeep
  by_cases h : v.toNat % 16 < 6
  · rw [if_pos h, if_neg (by omega)]
  · rw [if_neg h, if_pos (by omega)]

/-- Settles O52: each register's meaning by its cases. -/
theorem testAndTrace : Obligations.TestAndTrace := by
  unfold Obligations.TestAndTrace
  refine ⟨fun s c given => ?_, fun s image d h => State.testImage_some h, fun s p v => ?_, fun s p v => rfl,
    fun s k => ⟨exec_stallSample_none, fun u t g y hs ht h => exec_stallSample_one hs ht h⟩, fun s p v => ?_, fun s fn p b k v => ?_⟩
  case refine_1 =>
    refine ⟨exec_iftRun_idle, fun d => exec_iftRun_start, fun hc hon ht hs => ?_⟩
    rw [exec_iftRun_result hc hon ht hs]
    refine ⟨fun hd => by rw [if_pos hd], fun hd hf => by rw [if_neg hd, if_pos hf], fun hd hf => ?_⟩
    rw [if_neg hd, if_neg hf]
    exact ⟨_, rfl, s.testFailed_spec c⟩
  case refine_2 =>
    refine ⟨fun hp => exec_linkInjectorArm_out hp v s, fun hp => exec_linkInjectorArm_in hp v s, fun h => ?_, fun h => ?_⟩
    · rw [exec_linkInjection, execLinkInjection, if_pos h]
    · rw [exec_linkInjection, execLinkInjection, if_neg h]
  case refine_3 =>
    refine ⟨fun hv => ?_, fun hv hs => ?_⟩
    · rw [exec_dbgstop, execDbgstop, if_neg (by rw [hv]; exact Bool.false_ne_true)]
    · obtain ⟨t, hx, hrest, hteams⟩ := exec_dbgstop_set (p := p) hv hs
      refine ⟨t, hx, hrest, fun u hu => ?_⟩
      rw [hteams u]
      simp only [State.mem_debugTeams hs hu]
      rfl
  case refine_4 =>
    refine ⟨exec_ctrClaim_free, exec_ctrClaim_taken, fun hm ho => ⟨?_, fun hk => ?_, ?_⟩, fun h => ⟨?_, ?_, ?_⟩⟩
    · rw [exec_ctrRelease, execCtrRelease, State.ownBank_mine hm ho]
      rfl
    · rw [exec_ctrselWrite, execCtrselWrite, State.ownBank_mine hm ho]
      simp only [if_pos hk]
      rfl
    · rw [exec_capselWrite, execCapselWrite, State.ownBank_mine hm ho]
      simp only [capKeep_eq]
      rfl
    · rw [exec_ctrRelease, execCtrRelease, State.ownBank_other h]
    · rw [exec_ctrselWrite, execCtrselWrite, State.ownBank_other h]
    · rw [exec_capselWrite, execCapselWrite, State.ownBank_other h]

end Sys2Proof.Machine
end

section
/-! SUPPORT. Writes of registers: what a write field by field makes of a register, where each offset leads, and what the
pages of the functions and firmware's registers take (R9, R10, R45, R47, R100, R117, R382, R383, R428, R468, R478). -/

namespace Sys2Proof.Machine

/-! ## Fields (R10) -/

/-- What a field adds to its register's number: what was written, or, where that is reserved, what stood there. -/
def Field.written (f : Field) (old new : Word) : Nat :=
  (if f.bad (new.toNat / 2 ^ f.lo % 2 ^ f.len) then old.toNat / 2 ^ f.lo % 2 ^ f.len else new.toNat / 2 ^ f.lo % 2 ^ f.len) * 2 ^ f.lo

/-- What a field adds, by the encodings that are not reserved. -/
def Field.kept (old new : Word) (lo len : Nat) (ok : Nat → Bool) : Nat :=
  (if ok (new.toNat / 2 ^ lo % 2 ^ len) then new.toNat / 2 ^ lo % 2 ^ len else old.toNat / 2 ^ lo % 2 ^ len) * 2 ^ lo

section
variable (old new : Word) (lo len : Nat)

theorem Field.written_eq_kept {bad ok : Nat → Bool} (h : ∀ n, bad n = !ok n) :
    Field.written { lo := lo, len := len, bad := bad } old new = Field.kept old new lo len ok := by
  rw [Field.written, Field.kept]
  cases hok : ok (new.toNat / 2 ^ lo % 2 ^ len) <;> simp [h, hok]

theorem Field.written_any : Field.written { lo := lo, len := len } old new = Field.kept old new lo len fun _ => true :=
  Field.written_eq_kept old new lo len fun _ => rfl

theorem Field.written_zeroBad :
    Field.written { lo := lo, len := len, bad := zeroBad } old new = Field.kept old new lo len fun n => n != 0 :=
  Field.written_eq_kept old new lo len fun n => (Bool.not_not (n == 0)).symm

theorem Field.written_ovf (m : Nat) :
    Field.written { lo := lo, len := len, bad := ovf m } old new = Field.kept old new lo len fun n => decide (n ≤ m) :=
  Field.written_eq_kept old new lo len fun n => by rw [ovf, ← decide_not, decide_eq_decide, Nat.not_le]

theorem Field.written_between (m k : Nat) : Field.written { lo := lo, len := len, bad := fun n => n < m || ovf k n } old new =
    Field.kept old new lo len fun n => decide (m ≤ n ∧ n ≤ k) :=
  Field.written_eq_kept old new lo len fun n => by
    rw [ovf, ← Bool.decide_or, ← decide_not, decide_eq_decide]
    omega

end

/-- The fields stand below bit `hi`, each below the one before it. -/
def Field.below : Nat → List Field → Bool
  | _, [] => true
  | hi, f :: fs => decide (f.lo + f.len ≤ hi) && Field.below f.lo fs

theorem Field.written_lt (f : Field) (old new : Word) : f.written old new < 2 ^ (f.lo + f.len) := by
  rw [Field.written, Nat.pow_add, Nat.mul_comm (2 ^ f.lo)]
  refine Nat.mul_lt_mul_of_pos_right ?_ (Nat.two_pow_pos _)
  split <;> exact Nat.mod_lt _ (Nat.two_pow_pos _)

theorem toNat_or_of_dvd {a : Word} {x hi : Nat} (ha : 2 ^ hi ∣ a.toNat) (hx : x < 2 ^ hi) (hhi : hi ≤ 32) :
    (a ||| BitVec.ofNat 32 x).toNat = a.toNat + x := by
  obtain ⟨b, hb⟩ := ha
  have hx' : x < 2 ^ 32 := Nat.lt_of_lt_of_le hx (Nat.pow_le_pow_right (by decide) hhi)
  rw [BitVec.toNat_or, BitVec.toNat_ofNat, Nat.mod_eq_of_lt hx', hb, Nat.two_pow_add_eq_or_of_lt hx]

theorem foldl_fields_toNat (old new : Word) : ∀ (fs : List Field) (hi : Nat) (w : Word), hi ≤ 32 → 2 ^ hi ∣ w.toNat → Field.below hi fs = true →
    (fs.foldl (fun w f => w ||| BitVec.ofNat 32 (f.written old new)) w).toNat = fs.foldl (fun n f => n + f.written old new) w.toNat
  | [], _, w, _, _, _ => rfl
  | f :: fs, hi, w, hhi, hw, hb => by
    obtain ⟨hf, hfs⟩ : f.lo + f.len ≤ hi ∧ Field.below f.lo fs = true := by simpa [Field.below] using hb
    have hlo : 2 ^ f.lo ∣ 2 ^ hi := Nat.pow_dvd_pow 2 (by omega)
    have hor := toNat_or_of_dvd hw (Nat.lt_of_lt_of_le (f.written_lt old new) (Nat.pow_le_pow_right (by decide) hf)) hhi
    have hdvd : 2 ^ f.lo ∣ (w ||| BitVec.ofNat 32 (f.written old new)).toNat := by
      rw [hor]
      exact Nat.dvd_add (Nat.dvd_trans hlo hw) (Nat.dvd_mul_left ..)
    have hrest := foldl_fields_toNat old new fs f.lo _ (by omega) hdvd hfs
    rw [List.foldl_cons, hrest, hor, List.foldl_cons]

/-- R10: a register's number after a write is the sum of its fields. -/
theorem setFields_toNat {f : Field} {fs : List Field} (h : Field.below 32 (f :: fs) = true) (old new : Word) :
    (setFields (f :: fs) old new).toNat = fs.foldl (fun n f => n + f.written old new) (f.written old new) := by
  have := foldl_fields_toNat old new (f :: fs) 32 0#32 (Nat.le_refl _) (Nat.dvd_zero _) h
  rwa [BitVec.toNat_ofNat, Nat.zero_mod, List.foldl_cons, List.foldl_cons, Nat.zero_add] at this

/-! ## Where a write leads (R9, R10, R380) -/

/-- A function's registers are there: those of a virtual function but after a failed start-up. -/
abbrev State.Present (s : State) (fn : Nat) : Prop := (fn < 96 ∧ s.bootErr = 0) ∨ fn = 127

section
variable {s : State} {fn off : Nat} {v : Word}

theorem exec_registerWrite_ignored {port bar : Nat} (hp : port ≠ 126)
    (h : (off % 4 ≠ 0 ∧ bar ≠ 5) ∨ ¬ s.Present port ∨ (bar = 2 ∧ port ≠ 127) ∨ bar = 1 ∨ bar = 3 ∨ bar = 4 ∨ 6 ≤ bar) :
    exec (.registerWrite port bar off v) s = .next s := by
  rw [exec_registerWrite]
  unfold execRegisterWrite
  rw [if_neg hp]
  by_cases hx : off % 4 ≠ 0 ∧ bar ≠ 5
  · rw [if_pos hx]
  by_cases hin : s.Present port
  · rw [if_neg hx, if_pos hin]
    rcases (h.resolve_left hx).resolve_left fun h => h hin with ⟨rfl, h127⟩ | rfl | rfl | rfl | h6
    · exact congrArg _ (if_neg h127)
    · rfl
    · rfl
    · rfl
    · obtain ⟨b, rfl⟩ := Nat.exists_eq_add_of_le' h6
      rfl
  · rw [if_neg hx, if_neg hin]

theorem exec_registerWrite_bar0 (h : s.Present fn) (ho : off % 4 = 0) :
    exec (.registerWrite fn 0 off v) s = .next (s.bar0Write fn off v) := by
  have hp : fn ≠ 126 := by rintro rfl; rcases h with h | h <;> omega
  rw [exec_registerWrite, execRegisterWrite, if_neg hp, if_neg (by omega), if_pos h]

theorem exec_registerWrite_bar2 (ho : off % 4 = 0) : exec (.registerWrite 127 2 off v) s = .next (s.bar2Write off v) := by
  rw [exec_registerWrite, execRegisterWrite, if_neg (by decide), if_neg (by omega), if_pos (.inr rfl)]
  rfl

theorem exec_registerWrite_msix (h : s.Present fn) (ho : off < 2) :
    exec (.registerWrite fn 5 off v) s = .next (s.maskMsix fn off (v.getLsbD 0)) := by
  have hp : fn ≠ 126 := by rintro rfl; rcases h with h | h <;> omega
  rw [exec_registerWrite, execRegisterWrite, if_neg hp, if_neg (by simp), if_pos h]
  exact congrArg _ (if_pos ho)

theorem exec_registerWrite_fw (bar off : Nat) (v : Word) (s : State) :
    exec (.registerWrite 126 bar off v) s = .next (s.fwRegWrite bar off v) := rfl

/-! ## BAR0 and BAR2 (R380 to R383) -/

theorem State.bar0Write_notify {q : Nat} (hq : q < 32) : .next (s.bar0Write fn (4 * q) v) = execNotify fn q v s := by
  rw [State.bar0Write, if_pos (by omega), Nat.mul_div_cancel_left _ (by decide)]
  rfl

theorem State.bar0Write_page {p r : Nat} (hp : s.partOfFn fn = some p) (hr : r < 4096) :
    s.bar0Write fn (0x1000 + r) v = s.pageWrite fn p r v := by
  rw [State.bar0Write, if_neg (by omega), if_pos (by omega), hp, Nat.add_mod_left, Nat.mod_eq_of_lt hr]

theorem State.bar0Write_queue {q r : Nat} (hq : q < 32) (hr : r < 32) :
    s.bar0Write fn (0x2000 + 32 * q + r) v = s.queueWrite fn q r v := by
  rw [State.bar0Write, if_neg (by omega), if_neg (by omega), if_pos (by omega),
    show (0x2000 + 32 * q + r) % 0x400 / 32 = q by omega, show (0x2000 + 32 * q + r) % 32 = r by omega]

theorem State.updQueue_congr {q : Nat} {f g : Queue → Queue} (h : f (s.queueOf fn q) = g (s.queueOf fn q)) :
    s.updQueue fn q f = s.updQueue fn q g :=
  congrArg (fun x : Queue => ({ s with vdevs := Sparse.upd {} s.vdevs fn fun v => { v with queues := Sparse.set {} v.queues q x } } : State)) h

end

/-- R382: the base of a queue that is enabled stays. -/
theorem State.queueWrite_base_en {s : State} {fn q : Nat} (h : (s.queueOf fn q).en = true) (v : Word) :
    ∀ r ∈ [0, 4], s.queueWrite fn q r v = s.updQueue fn q id := by
  have hen : ∀ f : Queue → Queue, s.updQueue fn q (fun x => if x.en then x else f x) = s.updQueue fn q id :=
    fun f => State.updQueue_congr (if_pos h)
  simp only [List.forall_mem_cons]
  exact ⟨hen _, hen _, by simp⟩

theorem State.queueWrite_base_off {s : State} {fn q : Nat} (h : (s.queueOf fn q).en = false) (v : Word) :
    s.queueWrite fn q 0 v = s.updQueue fn q (fun x => { x with base := setHalf x.base false (v &&& 0xFFFFF000) }) ∧
    s.queueWrite fn q 4 v = s.updQueue fn q
      (fun x => { x with base := setHalf x.base true (v &&& if fn = 127 then 0xFFFFF else 0xFFFF) }) := by
  have hoff : ∀ f : Queue → Queue, s.updQueue fn q (fun x => if x.en then x else f x) = s.updQueue fn q f :=
    fun f => State.updQueue_congr (if_neg (by rw [h]; exact Bool.false_ne_true))
  exact ⟨hoff _, hoff _⟩

/-- R383: what the page does not list is RO. -/
theorem State.pageWrite_readOnly (s : State) (fn p : Nat) (v : Word) {off : Nat}
    (h : off ∉ [0x000, 0x004, 0x008, 0x010, 0x014, 0x040, 0x044, 0x048, 0x050, 0x054, 0x080, 0x084])
    (hbp : ¬ (0x060 ≤ off ∧ off < 0x080)) (hbank : ¬ (0xB00 ≤ off ∧ off < 0xF00)) : s.pageWrite fn p off v = s := by
  unfold State.pageWrite
  split
  case h_13 => rw [if_neg hbp, if_neg hbank]
  all_goals exact absurd h (by decide)

/-- R473: the halves of breakpoint `k`'s address. -/
theorem State.pageWrite_bpAddr (s : State) (fn p : Nat) (v : Word) {k : Nat} (hk : k < 4) :
    s.pageWrite fn p (0x060 + 8 * k) v = s.updPart p (fun x => { x with
      bpAddr := Sparse.upd 0 x.bpAddr k fun a => setHalf a false v }) ∧
    s.pageWrite fn p (0x064 + 8 * k) v = s.updPart p (fun x => { x with
      bpAddr := Sparse.upd 0 x.bpAddr k fun a => setHalf a true v }) := by
  obtain rfl | rfl | rfl | rfl : k = 0 ∨ k = 1 ∨ k = 2 ∨ k = 3 := by omega
  all_goals exact ⟨rfl, rfl⟩

theorem State.bar2Write_page (s : State) {p r : Nat} (v : Word) (hp : p < 24) (hr : r < 4096) :
    s.bar2Write (p * 4096 + r) v = s.pageWrite 127 p r v := by
  rw [State.bar2Write, if_pos (by omega), show (p * 4096 + r) / 4096 = p by omega, show (p * 4096 + r) % 4096 = r by omega]

/-- R468: the registers of a die's injector. -/
theorem State.bar2Write_inj (s : State) {d r : Nat} (v : Word) (hd : d < 3) (hr : r < 16) :
    s.bar2Write (0x1F020 + 16 * d + r) v = s.updDie d fun x => x.injWrite r v := by
  rw [State.bar2Write, if_neg (by omega), if_neg (by omega), if_neg (by omega), if_neg (by omega), if_neg (by omega),
    if_pos (by omega), show (0x1F020 + 16 * d + r - 0x1F020) / 16 = d by omega, show (0x1F020 + 16 * d + r) % 16 = r by omega]

theorem State.bar2Write_fwCmd (s : State) (v : Word) : s.bar2Write 0x1E000 v = s.fwCmdWrite v := rfl

theorem State.bar2Write_fwArg (s : State) {k : Nat} (v : Word) (hk : k < 4) :
    s.bar2Write (0x1E004 + 4 * k) v = { s with fwArg := Sparse.set 0 s.fwArg k v } := by
  rw [State.bar2Write, if_neg (by omega), if_neg (by omega), if_pos (by omega), show (0x1E004 + 4 * k - 0x1E004) / 4 = k by omega]

theorem State.bar2Write_linj (s : State) {k : Nat} (v : Word) (hk : k < 13) :
    .next (s.bar2Write (0x1F100 + 4 * k) v) = execLinkInjectorArm k v s := by
  rw [State.bar2Write, if_neg (by omega), if_neg (by omega), if_neg (by omega), if_neg (by omega), if_neg (by omega),
    if_neg (by omega), if_pos (by omega), show (0x1F100 + 4 * k - 0x1F100) / 4 = k by omega]
  rfl

theorem State.bar2Write_pwrPeak (s : State) {k : Nat} (v : Word) (hk : k < 16) :
    .next (s.bar2Write (0x1F200 + 4 * k) v) = execPwrmonWrite k s := by
  rw [State.bar2Write, if_neg (by omega), if_neg (by omega), if_neg (by omega), if_neg (by omega), if_neg (by omega),
    if_neg (by omega), if_neg (by omega), if_pos (by omega), show (0x1F200 + 4 * k - 0x1F200) / 4 = k by omega]
  rfl

/-! ## Firmware's registers -/

theorem State.fwRegWrite_stack (s : State) {k r : Nat} (v : Word) (hk : k < 12) (hr : r < 16) :
    s.fwRegWrite 1 (16 * k + r) v = s.updStack k fun t => t.fwWrite r v := by
  rw [State.fwRegWrite, show (16 * k + r) / 16 = k by omega, show (16 * k + r) % 16 = r by omega]
  exact if_pos hk

theorem State.fwRegWrite_vdev (s : State) {d r : Nat} (v : Word) (hd : d < 96 ∨ d = 127) (hr : r < 16) :
    s.fwRegWrite 2 (16 * d + r) v = s.fwVdev d r v := by
  rw [State.fwRegWrite, show (16 * d + r) / 16 = d by omega, show (16 * d + r) % 16 = r by omega]
  exact if_pos hd

theorem State.updStack_congr (s : State) (k : Nat) {f g : Stack → Stack} (h : f (s.stackOf k) = g (s.stackOf k)) :
    s.updStack k f = s.updStack k g :=
  congrArg (fun x : Stack => ({ s with stks := Sparse.set {} s.stks k x } : State)) h

theorem State.updVdev_congr (s : State) (d : Nat) {f g : Vdev → Vdev} (h : f (s.vdevOf d) = g (s.vdevOf d)) :
    s.updVdev d f = s.updVdev d g :=
  congrArg (fun x : Vdev => ({ s with vdevs := Sparse.set {} s.vdevs d x } : State)) h

/-! ### Tokens (R100) -/

theorem State.refill_frame (s : State) : { s.refill with stks := s.stks, refillAt := s.refillAt } = s := by
  unfold State.refill
  dsimp only
  split <;> rfl

@[simp] theorem State.vdevOf_refill (s : State) (d : Nat) : s.refill.vdevOf d = s.vdevOf d := by
  have h := congrArg State.vdevs s.refill_frame
  exact congrArg (Sparse.get {} · d) h

/-- A table mapped by what keeps the default. -/
theorem get_map_of_default {α : Type} {d : α} {f : α → α} (hf : f d = d) (m : Sparse α) (k : Nat) :
    Sparse.get d (m.map fun x => (x.1, f x.2)) k = f (Sparse.get d m k) := by
  induction m with
  | nil => exact hf.symm
  | cons x m ih =>
    rw [List.map_cons, Sparse.get, Sparse.get, ih, apply_ite f]

/-- R100: the fields of QBCFG, DEPTH and RATE. -/
def qbFields : List Field := [{ lo := 20, len := 12 }, { lo := 0, len := 20, bad := ovf 96000 }]

/-- R100: a bucket of a stack holds no more than `m`. -/
def Stack.clamp (d m : Nat) (t : Stack) : Stack := { t with buckets := Sparse.upd 0 t.buckets d fun n => min n m }

theorem Stack.clamp_default (d m : Nat) : Stack.clamp d m {} = {} := by
  have h : Sparse.upd 0 [] d (fun n => min n m) = [] := by simp [Sparse.upd, Sparse.set, Sparse.erase]
  rw [Stack.clamp, h]

theorem Stack.get_clamp (d m : Nat) (t : Stack) :
    Sparse.get 0 (t.clamp d m).buckets d = min (Sparse.get 0 t.buckets d) m :=
  Sparse.get_upd_self 0 t.buckets d fun n => min n m

/-- R100: a QBCFG write stands in the device's table, and clamps every stack's bucket of the device at once. -/
theorem State.qbWrite_spec (s : State) (d : Nat) (v : Word) :
    { s.qbWrite d v with stks := s.stks, refillAt := s.refillAt, vdevs := s.vdevs } = s ∧
    ((s.qbWrite d v).vdevOf d).qbcfg = setFields qbFields (s.vdevOf d).qbcfg v ∧
    (s.qbWrite d v).vdevOf d = { s.vdevOf d with qbcfg := ((s.qbWrite d v).vdevOf d).qbcfg } ∧
    (∀ j, j ≠ d → (s.qbWrite d v).vdevOf j = s.vdevOf j) ∧
    ∀ k, Sparse.get 0 ((s.qbWrite d v).stackOf k).buckets d =
      min (Sparse.get 0 (s.refill.stackOf k).buckets d) (qbDepth ((s.qbWrite d v).vdevOf d).qbcfg * 6400) := by
  have hv : ∀ j, (s.qbWrite d v).vdevOf j = if j = d then { s.vdevOf d with
      qbcfg := setFields qbFields (s.vdevOf d).qbcfg v } else s.vdevOf j := fun j => by
    have h : (s.qbWrite d v).vdevOf j = (s.refill.updVdev d fun x => { x with qbcfg := setFields qbFields (s.refill.vdevOf d).qbcfg v }).vdevOf j := rfl
    rw [h, State.vdevOf_updVdev, State.vdevOf_refill, State.vdevOf_refill]
  have hd := hv d
  rw [if_pos rfl] at hd
  refine ⟨?_, by rw [hd], by rw [hd], fun j hj => by rw [hv, if_neg hj], fun k => ?_⟩
  · have h := congrArg (fun t : State => { t with vdevs := s.vdevs }) s.refill_frame
    exact h
  · have hstack : (s.qbWrite d v).stackOf k =
        (s.refill.stackOf k).clamp d (qbDepth (setFields qbFields (s.refill.vdevOf d).qbcfg v) * 6400) :=
      get_map_of_default (f := Stack.clamp d _) (Stack.clamp_default d _) s.refill.stks k
    rw [hstack, Stack.get_clamp, State.vdevOf_refill, hd]

/-! ## MSI-X vectors (R428) -/

theorem getLsbD_vector {j k : Nat} (hj : j < 2) (hk : k < 2) : (1#2 <<< j).getLsbD k = (k == j) := by
  obtain rfl | rfl : j = 0 ∨ j = 1 := by omega
  all_goals obtain rfl | rfl : k = 0 ∨ k = 1 := by omega
  all_goals rfl

theorem getLsbD_or_vector {j k : Nat} (hj : j < 2) (hk : k < 2) (x : BitVec 2) :
    (x ||| 1#2 <<< j).getLsbD k = if k = j then true else x.getLsbD k := by
  rw [BitVec.getLsbD_or, getLsbD_vector hj hk]
  by_cases h : k = j
  · rw [if_pos h, h, beq_self_eq_true, Bool.or_true]
  · rw [if_neg h, beq_false_of_ne h, Bool.or_false]

theorem getLsbD_and_not_vector {j k : Nat} (hj : j < 2) (hk : k < 2) (x : BitVec 2) :
    (x &&& ~~~(1#2 <<< j)).getLsbD k = (x.getLsbD k && k != j) := by
  rw [BitVec.getLsbD_and, BitVec.getLsbD_not, getLsbD_vector hj hk, decide_eq_true hk, Bool.true_and]
  rfl

theorem vector_and_ne_zero {j : Nat} (hj : j < 2) (x : BitVec 2) : (x &&& 1#2 <<< j != 0) = x.getLsbD j := by
  obtain rfl | rfl : j = 0 ∨ j = 1 := by omega
  all_goals revert x; decide

/-- R428: a vector is unmasked, and no longer pending. -/
def Vdev.unmask (j : Nat) (v : Vdev) : Vdev := { v with msixMask := v.msixMask &&& ~~~(1#2 <<< j), msix := v.msix &&& ~~~(1#2 <<< j) }

theorem State.maskMsix_false (s : State) (fn : Nat) {j : Nat} (hj : j < 2) :
    s.maskMsix fn j false = { s with
      vdevs := (s.updVdev fn (Vdev.unmask j)).vdevs
      out := if (s.vdevOf fn).msix.getLsbD j = true then s.out ++ [.msix fn j] else s.out } := by
  rw [State.maskMsix, vector_and_ne_zero hj, if_neg (by simp)]
  split <;> rfl

/-- R428: a vector's mask bit takes what is written; a pending vector that is unmasked fires, and is pending no more. -/
theorem State.maskMsix_spec (s : State) (fn : Nat) {j : Nat} (hj : j < 2) (mask : Bool) :
    let t := s.maskMsix fn j mask
    { t with vdevs := s.vdevs, out := s.out } = s ∧ (∀ k, k ≠ fn → t.vdevOf k = s.vdevOf k) ∧
    { t.vdevOf fn with msixMask := (s.vdevOf fn).msixMask, msix := (s.vdevOf fn).msix } = s.vdevOf fn ∧
    (∀ k, k < 2 → (t.vdevOf fn).msixMask.getLsbD k = if k = j then mask else (s.vdevOf fn).msixMask.getLsbD k) ∧
    (∀ k, k < 2 → (t.vdevOf fn).msix.getLsbD k = ((s.vdevOf fn).msix.getLsbD k && (k != j || mask))) ∧
    t.out = if mask = false ∧ (s.vdevOf fn).msix.getLsbD j = true then s.out ++ [.msix fn j] else s.out := by
  cases mask with
  | true =>
    have hfn : (s.maskMsix fn j true).vdevOf fn = _ := State.vdevOf_updVdev_self ..
    refine ⟨rfl, fun k hk => State.vdevOf_updVdev_ne _ _ hk, by rw [hfn], fun k hk => ?_, fun k hk => ?_, by rw [if_neg (by simp)]; rfl⟩
    · rw [hfn, getLsbD_or_vector hj hk]
    · rw [hfn, Bool.or_true, Bool.and_true]
  | false =>
    have hv : ∀ k, (s.maskMsix fn j false).vdevOf k = (s.updVdev fn (Vdev.unmask j)).vdevOf k :=
      fun k => by
      rw [s.maskMsix_false fn hj]
      rfl
    have hfn : (s.maskMsix fn j false).vdevOf fn = (s.vdevOf fn).unmask j := by rw [hv, State.vdevOf_updVdev_self]
    refine ⟨by rw [s.maskMsix_false fn hj], fun k hk => by rw [hv, State.vdevOf_updVdev_ne _ _ hk], by rw [hfn]; rfl,
      fun k hk => ?_, fun k hk => ?_, by rw [s.maskMsix_false fn hj]; simp⟩
    · rw [hfn, Vdev.unmask, getLsbD_and_not_vector hj hk]
      by_cases hkj : k = j
      · rw [if_pos hkj, hkj, bne_self_eq_false, Bool.and_false]
      · rw [if_neg hkj, bne_iff_ne.2 hkj, Bool.and_true]
    · rw [hfn, Vdev.unmask, getLsbD_and_not_vector hj hk, Bool.or_false]

/-! ## Registers of fields -/

section
variable (old v : Word)

/-- R470: TRCTL. -/
theorem trCtlWrite_toNat : (trCtlWrite old v).toNat =
    Field.kept old v 31 1 (fun _ => true) + Field.kept old v 26 5 (fun n => decide (6 ≤ n ∧ n ≤ 16)) +
      Field.kept old v 22 4 (fun _ => true) + Field.kept old v 8 8 fun _ => true := by
  rw [trCtlWrite, setFields_toNat (by decide), List.foldl_cons, List.foldl_cons, List.foldl_cons, List.foldl_nil, Field.written_any,
    Field.written_any, Field.written_any, Field.written_between]

/-- R108: PBCTL. -/
theorem pbctl_toNat : (setFields [{ lo := 31, len := 1 }, { lo := 0, len := 16, bad := zeroBad }] old v).toNat =
    Field.kept old v 31 1 (fun _ => true) + Field.kept old v 0 16 fun n => n != 0 := by
  rw [setFields_toNat (by decide), List.foldl_cons, List.foldl_nil, Field.written_any, Field.written_zeroBad]

/-- R136: MTCFG. -/
theorem mtcfg_toNat : (setFields [{ lo := 24, len := 8, bad := zeroBad }, { lo := 20, len := 4 }, { lo := 14, len := 6, bad := zeroBad },
      { lo := 9, len := 5, bad := zeroBad }, { lo := 4, len := 5, bad := zeroBad }] old v).toNat =
    Field.kept old v 24 8 (fun n => n != 0) + Field.kept old v 20 4 (fun _ => true) + Field.kept old v 14 6 (fun n => n != 0) +
      Field.kept old v 9 5 (fun n => n != 0) + Field.kept old v 4 5 fun n => n != 0 := by
  rw [setFields_toNat (by decide), List.foldl_cons, List.foldl_cons, List.foldl_cons, List.foldl_cons, List.foldl_nil, Field.written_any,
    Field.written_zeroBad, Field.written_zeroBad, Field.written_zeroBad, Field.written_zeroBad]

/-- R463: PIPECFG. -/
theorem pipecfg_toNat : (setFields [{ lo := 0, len := 5, bad := zeroBad }] old v).toNat = Field.kept old v 0 5 fun n => n != 0 := by
  rw [setFields_toNat (by decide), List.foldl_nil, Field.written_zeroBad]

/-- R465: IFTCTL. -/
theorem iftctl_toNat : (setFields [{ lo := 31, len := 1 }, { lo := 0, len := 16 }] old v).toNat =
    Field.kept old v 31 1 (fun _ => true) + Field.kept old v 0 16 fun _ => true := by
  rw [setFields_toNat (by decide), List.foldl_cons, List.foldl_nil, Field.written_any, Field.written_any]

/-- R104: HRCFG. -/
theorem hrcfg_toNat :
    (setFields [{ lo := 16, len := 16, bad := zeroBad }, { lo := 8, len := 8, bad := zeroBad }, { lo := 0, len := 1 }] old v).toNat =
    Field.kept old v 16 16 (fun n => n != 0) + Field.kept old v 8 8 (fun n => n != 0) + Field.kept old v 0 1 fun _ => true := by
  rw [setFields_toNat (by decide), List.foldl_cons, List.foldl_cons, List.foldl_nil, Field.written_any, Field.written_zeroBad,
    Field.written_zeroBad]

/-- R106: SRCFG. -/
theorem srcfg_toNat : (setFields [{ lo := 16, len := 16, bad := zeroBad }, { lo := 0, len := 1 }] old v).toNat =
    Field.kept old v 16 16 (fun n => n != 0) + Field.kept old v 0 1 fun _ => true := by
  rw [setFields_toNat (by decide), List.foldl_cons, List.foldl_nil, Field.written_any, Field.written_zeroBad]

/-- R135: L2POL. -/
theorem l2pol_toNat :
    (setFields [{ lo := 4, len := 2, bad := ovf 2 }, { lo := 2, len := 2, bad := ovf 2 }, { lo := 0, len := 2, bad := ovf 2 }] old v).toNat =
    Field.kept old v 4 2 (fun n => decide (n ≤ 2)) + Field.kept old v 2 2 (fun n => decide (n ≤ 2)) +
      Field.kept old v 0 2 fun n => decide (n ≤ 2) := by
  rw [setFields_toNat (by decide), List.foldl_cons, List.foldl_cons, List.foldl_nil, Field.written_ovf, Field.written_ovf,
    Field.written_ovf]

/-- R364: RESQ. -/
theorem resq_toNat : (setFields [{ lo := 17, len := 9, bad := ovf 256 }, { lo := 8, len := 9, bad := ovf 256 }] old v).toNat =
    Field.kept old v 17 9 (fun n => decide (n ≤ 256)) + Field.kept old v 8 9 fun n => decide (n ≤ 256) := by
  rw [setFields_toNat (by decide), List.foldl_cons, List.foldl_nil, Field.written_ovf, Field.written_ovf]

/-- R100: QBCFG. -/
theorem qbcfg_toNat : (setFields qbFields old v).toNat =
    Field.kept old v 20 12 (fun _ => true) + Field.kept old v 0 20 fun n => decide (n ≤ 96000) := by
  rw [qbFields, setFields_toNat (by decide), List.foldl_cons, List.foldl_nil, Field.written_any, Field.written_ovf]

/-- A step that puts a number in a register leaves the number there, and everything else. -/
theorem exists_written {o : Out1} {s : State} {w : Word} {n : Nat} (put : Word → State) (back : State → State) (reg : State → Word)
    (hw : w.toNat = n) (ho : o = .next (put w)) (hback : ∀ w, back (put w) = s) (hreg : ∀ w, reg (put w) = w) :
    ∃ t, o = .next t ∧ back t = s ∧ (reg t).toNat = n := ⟨put w, ho, hback w, by rw [hreg, hw]⟩

/-- A field whose reserved encodings lie above a bound. -/
theorem Field.kept_le (lo len m : Nat) : Field.kept old v lo len (fun n => decide (n ≤ m)) =
    (if v.toNat / 2 ^ lo % 2 ^ len ≤ m then v.toNat / 2 ^ lo % 2 ^ len else old.toNat / 2 ^ lo % 2 ^ len) * 2 ^ lo := by
  simp only [Field.kept, decide_eq_true_eq]

/-- R82: RSRATE. -/
theorem rsrate_toNat : (setFields [{ lo := 0, len := 16, bad := ovf 2000 }] old v).toNat =
    if v.toNat % 65536 ≤ 2000 then v.toNat % 65536 else old.toNat % 65536 := by
  rw [setFields_toNat (by decide), List.foldl_nil, Field.written_ovf]
  simp only [Field.kept_le, Nat.pow_zero, Nat.div_one, Nat.mul_one, Nat.reducePow]

/-- The field of the highest bits, of which no encoding is reserved. -/
theorem Field.kept_high {lo len : Nat} (h : lo + len = 32) : Field.kept old v lo len (fun _ => true) = v.toNat / 2 ^ lo * 2 ^ lo := by
  have hv : v.toNat < 2 ^ len * 2 ^ lo := by
    rw [← Nat.pow_add, Nat.add_comm, h]
    exact v.isLt
  rw [Field.kept, if_pos rfl, Nat.mod_eq_of_lt (Nat.div_lt_of_lt_mul (by rwa [Nat.mul_comm]))]

end

/-- Settles O55: each write is traced to the register it reaches, and a register of fields is the sum of them. -/
theorem registerWrites : Obligations.RegisterWrites := by
  unfold Obligations.RegisterWrites
  refine ⟨fun s port bar off v => ⟨_, rfl⟩, fun s port bar off v hp h => ?ignored, fun s fn v h => ?queues, fun s p r v hp hr => ?page2,
    fun s fn p r v hf hb hp hr => ?page0, fun s fn p v => ?page, fun old v => ?fields, fun s d v hd => ?vdev, fun s k v hk => ?stack,
    fun s d v hd => ?die, fun s fn j v h hj => ?msix, fun s v => ?device, fun s off v => ?owner, fun s k v hk => ?mailbox⟩
  case ignored =>
    refine exec_registerWrite_ignored hp ?_
    omega
  case queues =>
    refine ⟨fun q hq => ?_, fun q hq => ?_, fun q hq hen r hr => ?_, fun q hq hen => ⟨?_, ?_⟩⟩
    · rw [exec_registerWrite_bar0 h (by omega), State.bar0Write_notify hq, exec_notify]
    · rw [exec_registerWrite_bar0 h (by omega), State.bar0Write_queue hq (by decide)]
      rfl
    · have hr4 : r = 0 ∨ r = 4 := by simpa using hr
      rw [exec_registerWrite_bar0 h (by omega), State.bar0Write_queue hq (by omega), State.queueWrite_base_en hen v r hr]
    · have hq0 := State.bar0Write_queue (s := s) (fn := fn) (v := v) hq (r := 0) (by decide)
      rw [exec_registerWrite_bar0 h (by omega)]
      exact congrArg _ (hq0.trans (State.queueWrite_base_off hen v).1)
    · rw [exec_registerWrite_bar0 h (by omega), State.bar0Write_queue hq (by decide), (State.queueWrite_base_off hen v).2]
      rfl
  case page2 => rw [exec_registerWrite_bar2 (by omega), State.bar2Write_page _ _ hp (by omega)]
  case page0 => rw [exec_registerWrite_bar0 (.inl ⟨hf, hb⟩) (by omega), State.bar0Write_page hp (by omega)]
  case page =>
    refine ⟨rfl, rfl, rfl, rfl, rfl, rfl, rfl, rfl, rfl, rfl, rfl, fun k hk => State.pageWrite_bpAddr s fn p v hk, rfl, fun r hr => ?_⟩
    have hro : ∀ r ∈ [0x00C, 0x020, 0x024, 0x030, 0x04C, 0x100, 0x3FC, 0x400, 0x9FC, 0xA00, 0xA10, 0xA3C, 0xF00, 0xFFC],
        r ∉ [0x000, 0x004, 0x008, 0x010, 0x014, 0x040, 0x044, 0x048, 0x050, 0x054, 0x080, 0x084] ∧
        ¬ (0x060 ≤ r ∧ r < 0x080) ∧ ¬ (0xB00 ≤ r ∧ r < 0xF00) := by decide
    obtain ⟨hlist, hbp, hbank⟩ := hro r hr
    exact State.pageWrite_readOnly s fn p v hlist hbp hbank
  case fields =>
    refine ⟨trCtlWrite_toNat old v, ?_, ?_, ?_, ?_, ?_, ?_, ?_⟩
    · rintro s rfl
      exact exists_written (fun w => { s with pbctl := w }) (fun t => { t with pbctl := s.pbctl }) State.pbctl (pbctl_toNat s.pbctl v) rfl
        (fun _ => rfl) fun _ => rfl
    · rintro s rfl
      exact exists_written (fun w => { s with mtcfg := w }) (fun t => { t with mtcfg := s.mtcfg }) State.mtcfg (mtcfg_toNat s.mtcfg v) rfl
        (fun _ => rfl) fun _ => rfl
    · rintro s rfl
      exact exists_written (fun w => { s with pipecfg := w }) (fun t => { t with pipecfg := s.pipecfg }) State.pipecfg (pipecfg_toNat s.pipecfg v) rfl
        (fun _ => rfl) fun _ => rfl
    · rintro s rfl
      exact exists_written (fun w => { s with iftctl := w }) (fun t => { t with iftctl := s.iftctl }) State.iftctl (iftctl_toNat s.iftctl v) rfl
        (fun _ => rfl) fun _ => rfl
    · rintro s k hk rfl
      refine ⟨_, ?_, hrcfg_toNat (s.stackOf k).hrcfg v⟩
      rw [exec_registerWrite_fw]
      exact congrArg _ ((State.fwRegWrite_stack s (r := 0) v hk (by decide)).trans (State.updStack_congr s k rfl))
    · rintro s k hk rfl
      refine ⟨_, ?_, srcfg_toNat (s.stackOf k).srcfg v⟩
      rw [exec_registerWrite_fw, State.fwRegWrite_stack s v hk (by decide)]
      exact congrArg _ (State.updStack_congr s k rfl)
    · rintro s d hd rfl
      refine ⟨_, ?_, l2pol_toNat (s.vdevOf d).l2pol v⟩
      rw [exec_registerWrite_fw, State.fwRegWrite_vdev s v hd (by decide)]
      exact congrArg _ (State.updVdev_congr s d rfl)
  case vdev =>
    refine ⟨?_, ?_, ⟨setFields [{ lo := 17, len := 9, bad := ovf 256 }, { lo := 8, len := 9, bad := ovf 256 }] (s.vdevOf d).resq v, ?_, ?_⟩,
      s.qbWrite d v, ?_, ?_⟩
    · rw [exec_registerWrite_fw]
      exact congrArg _ (State.fwRegWrite_vdev s (r := 0) v hd (by decide))
    · rw [exec_registerWrite_fw, State.fwRegWrite_vdev s v hd (by decide)]
      rfl
    · rw [exec_registerWrite_fw, State.fwRegWrite_vdev s v hd (by decide)]
      exact congrArg _ (State.updVdev_congr s d rfl)
    · simp only [resq_toNat, Field.kept_le, Nat.reducePow]
    · rw [exec_registerWrite_fw, State.fwRegWrite_vdev s v hd (by decide)]
      rfl
    · obtain ⟨hframe, hnew, hdev, hothers, hbuckets⟩ := s.qbWrite_spec d v
      refine ⟨hframe, ?_, hdev, hothers, hbuckets⟩
      rw [hnew, qbcfg_toNat, Field.kept_high _ _ (by decide), Field.kept_le, Nat.pow_zero, Nat.div_one, Nat.div_one, Nat.mul_one]
  case stack =>
    refine ⟨?_, ?_, ?_⟩
    all_goals rw [exec_registerWrite_fw, State.fwRegWrite_stack s v hk (by decide)]; rfl
  case die =>
    have hinj : ∀ r, r < 16 → r % 4 = 0 → exec (.registerWrite 127 2 (0x1F020 + 16 * d + r) v) s =
        .next (s.updDie d fun x => x.injWrite r v) := fun r hr hr4 => by
      rw [exec_registerWrite_bar2 (by omega), State.bar2Write_inj s v hd hr]
    refine ⟨hinj 0 (by decide) rfl, ?_, ?_, ?_⟩
    · have := hinj 4 (by decide) rfl
      rwa [show 0x1F020 + 16 * d + 4 = 0x1F024 + 16 * d by omega] at this
    · have := hinj 8 (by decide) rfl
      rwa [show 0x1F020 + 16 * d + 8 = 0x1F028 + 16 * d by omega] at this
    · rw [exec_registerWrite_fw]
      exact congrArg _ (if_pos hd)
  case msix => exact ⟨_, exec_registerWrite_msix h hj, s.maskMsix_spec fn hj _⟩
  case device =>
    refine ⟨rfl, fun h => ?_, fun h hc => ?_, fun h h1 h13 => ?_, fun k hk => ?_, rfl, fun k hk => ?_, fun k hk => ?_⟩
    · rw [exec_registerWrite_bar2 (by decide), State.bar2Write_fwCmd, State.fwCmdWrite, if_pos h]
    · rw [exec_registerWrite_bar2 (by decide), State.bar2Write_fwCmd, State.fwCmdWrite, if_neg (by simp [h]), if_pos hc]
    · rw [exec_registerWrite_bar2 (by decide), State.bar2Write_fwCmd, State.fwCmdWrite, if_neg (by simp [h]), if_neg (by omega)]
    · rw [exec_registerWrite_bar2 (by omega), State.bar2Write_fwArg s v hk]
    · rw [exec_registerWrite_bar2 (by omega), State.bar2Write_linj s v hk, exec_linkInjectorArm]
    · rw [exec_registerWrite_bar2 (by omega), State.bar2Write_pwrPeak s v hk, exec_pwrmonWrite]
  case owner =>
    refine ⟨rfl, fun h => ?_, ?_⟩
    · rw [exec_registerWrite_fw]
      exact congrArg _ (if_pos h)
    · exact exists_written (fun w => { s with rsrate := w }) (fun t => { t with rsrate := s.rsrate }) State.rsrate
        (rsrate_toNat s.rsrate v) rfl (fun _ => rfl) fun _ => rfl
  case mailbox =>
    rw [exec_registerWrite_fw, State.fwRegWrite_stack s v hk (by decide)]
    rfl

end Sys2Proof.Machine
end

section
/-! SUPPORT. What `sysrd` gives of MHSTAT, and the machine on which O24 says otherwise (R84, R263, R299). -/

namespace Sys2Proof.Machine

/-- R263, R299: a read of a register other than CLOCKL gives every issuing slice its value, and nothing else changes. -/
theorem exec_sysrd_goes {s : State} (hon : s.run.on = true) (e : Bool) (d : BitVec 6) {r : BitVec 12} (hr : r.toNat ≠ 0x041)
    {v : Nat → Word} (hv : ∀ k, s.sysValue s.run.uid s.run.grp k r.toNat = some (v k)) :
    ∃ t, exec (.sysrd e d r) s = .next t ∧
      s.Goes t e ((s.curGroup.writeS s.run.slices d.toNat v).stepPast s.run.slices) := by
  have hread : ∀ g : Group, (g.writeS s.run.slices d.toNat fun k => (s.sysValue s.run.uid s.run.grp k r.toNat).getD 0) =
      g.writeS s.run.slices d.toNat v := fun g => by simp only [hv, Option.getD_some]
  refine ⟨(s.updCur fun g => g.writeS s.run.slices d.toNat v).retire e, ?_, State.goes_retire s _ e hon⟩
  rw [exec_sysrd, execSysrd, if_neg (by rw [hv]; exact Bool.false_ne_true)]
  simp only [if_neg hr, hread]

/-- R84: MHSTAT's RETIRED is what O24's count over 48 numbers comes to, in the field's bits and those above it, if O24 holds. -/
theorem retired_of_systemRegisters (h : Obligations.SystemRegisters) (s : State) (hon : s.run.on = true)
    (hsl : s.run.slices.getLsbD 0 = true) (hopen : s.curGroup.Open 1) :
    ((List.range 48).filter s.retired).length % 2 ^ 12 = ((List.range Config.nStacks).filter s.retired).length % 2 ^ 12 := by
  have hbank : s.curGroup.banked 1 = false := by simp [Group.banked]
  obtain ⟨t, g, hexec, hgoes, hwritten, -⟩ :=
    h.1 s false 1 0x048 hon _ (List.getElem_mem (by decide : 30 < 33)) rfl rfl
  obtain ⟨t', hexec', hgoes'⟩ := exec_sysrd_goes (r := 0x048) hon false 1 (by decide) (v := fun _ => s.mhstat) fun _ => rfl
  obtain rfl : t = t' := Host.Outcome.next.inj (hexec.symm.trans hexec')
  have hg : g = (s.curGroup.writeS s.run.slices 1 fun _ => s.mhstat).stepPast s.run.slices :=
    hgoes.only.group.symm.trans hgoes'.only.group
  have hclaim : g.copy 0 1 = _ := (hwritten.copies 0 1 (by decide) (by decide)).trans (if_pos ⟨hsl, rfl, hopen, hbank⟩)
  have hmodel : g.copy 0 1 = s.mhstat := by
    rw [hg]
    exact (Group.copy_writeS s.curGroup s.run.slices 1 (fun _ => s.mhstat) (by decide) (by decide) (by decide)).trans
      (if_pos ⟨hsl, rfl, hopen, hbank⟩)
  have heq : BitVec.ofNat 32 (bit (s.nospare || s.spent) 31 + bit s.awaits 30 + bit s.degraded 29 +
      ((List.range 48).filter s.retired).length * 2 ^ 20 + s.remaining % 2 ^ 20) = s.mhstat := hclaim.symm.trans hmodel
  rw [State.mhstat] at heq
  have hnum := congrArg BitVec.toNat heq
  rw [BitVec.toNat_ofNat, BitVec.toNat_ofNat] at hnum
  generalize bit (s.nospare || s.spent) 31 + bit s.awaits 30 + bit s.degraded 29 = flags at hnum
  generalize s.remaining % 2 ^ 20 = left at hnum
  omega

/-- A team runs, and a drop names stack 12, where the device has stacks 0 to 11. -/
def droppedStack12 : State := { runs := [(0, { on := true, slices := 1 })], drops := [{ level := 3, stack := 12 }] }

/-- Refutes O24: its MHSTAT counts the retired stacks among 48 numbers, the model among the twelve stacks. They differ on a
machine whose drops name a stack past the twelfth. -/
theorem not_systemRegisters : ¬ Obligations.SystemRegisters := fun h =>
  absurd (retired_of_systemRegisters h droppedStack12 rfl rfl ⟨by decide, rfl⟩) (by decide)

end Sys2Proof.Machine
end

section
/-! SUPPORT. What reset leaves in the registers; the training of the stacks, the cadastre of a sound module and the opening of
the device, each once (R55, R113, R481 to R483). -/

namespace Sys2Proof.Machine

/-! ## Reset (R380 to R383) -/

/-- R380: a queue's registers, read through BAR0 of a function that is there. -/
theorem State.bar0Read_queue {s : State} (h : s.bootErr = 0) (fn : Nat) {q r : Nat} (hq : q < 32) (hr : r < 32) :
    s.bar0Read fn (0x2000 + 32 * q + r) = (s.queueOf fn q).read r := by
  rw [State.bar0Read, if_neg (fun hx => hx.2 h), if_neg (by omega), if_neg (by omega), if_pos (by omega),
    show (0x2000 + 32 * q + r) % 0x400 / 32 = q by omega, show (0x2000 + 32 * q + r) % 32 = r by omega]

/-- R481: the turn that a device which has been reset takes first. -/
theorem nextTurn_reset : State.reset.tick.nextTurn = ({ State.reset with clock := 1 }, some (.own (.startUp 0 false))) := rfl

theorem step_reset : step State.reset = exec (.startUp 0 false) { State.reset with clock := 1 } := by
  rw [step, nextTurn_reset]
  rfl

/-! ## Training (R113, R481 step 2) -/

/-- R113: a drop before the cadastre is built, unless the element is dropped already, and what it implies. -/
theorem State.dropUp_succ (n : Nat) (s : State) (e : Elem) : State.dropUp (n + 1) s e = s ∧ e ∈ s.drops ∨
    ∃ s1 : State, s1.stks = s.stks ∧ s1.drops = s.drops ++ [e] ∧
      (State.dropUp (n + 1) s e = s1 ∨ ∃ x, State.dropUp (n + 1) s e = State.dropUp n s1 x) := by
  rw [State.dropUp]
  split
  next h => exact .inl ⟨rfl, List.contains_iff_mem.1 h⟩
  next =>
    refine .inr ⟨{ s with drops := s.drops ++ [e] }.postFault { elem := e.word, kind := 8 }, rfl, rfl, ?_⟩
    dsimp only
    split
    next x _ => exact .inr ⟨x, rfl⟩
    next => exact .inl rfl

@[simp] theorem State.dropUp_stks (n : Nat) (s : State) (e : Elem) : (State.dropUp n s e).stks = s.stks := by
  induction n generalizing s e with
  | zero => rfl
  | succ n ih =>
    obtain ⟨h, -⟩ | ⟨s1, hstks, -, h | ⟨x, h⟩⟩ := State.dropUp_succ n s e
    · rw [h]
    · rw [h, hstks]
    · rw [h, ih, hstks]

theorem State.mem_drops_dropUp {x : Elem} (n : Nat) (s : State) (e : Elem) (hx : x ∈ s.drops) : x ∈ (State.dropUp n s e).drops := by
  induction n generalizing s e with
  | zero => exact hx
  | succ n ih =>
    obtain ⟨h, -⟩ | ⟨s1, -, hdrops, h | ⟨y, h⟩⟩ := State.dropUp_succ n s e
    · rwa [h]
    · rw [h, hdrops]
      exact List.mem_append_left _ hx
    · rw [h]
      exact ih s1 y (by rw [hdrops]; exact List.mem_append_left _ hx)

theorem State.mem_drops_dropUp_self (n : Nat) (s : State) (e : Elem) : e ∈ (State.dropUp (n + 1) s e).drops := by
  obtain ⟨h, he⟩ | ⟨s1, -, hdrops, h⟩ := State.dropUp_succ n s e
  · rwa [h]
  · have he : e ∈ s1.drops := by simp [hdrops]
    obtain h | ⟨x, h⟩ := h
    · rwa [h]
    · rw [h]
      exact State.mem_drops_dropUp n s1 x he

theorem State.foldl_dropUp_stks (es : List Elem) (s : State) : (es.foldl (State.dropUp 4) s).stks = s.stks := by
  induction es generalizing s with
  | nil => rfl
  | cons e es ih => rw [List.foldl_cons, ih, State.dropUp_stks]

theorem State.mem_drops_foldl_dropUp {x : Elem} (es : List Elem) (s : State) (h : x ∈ s.drops ∨ x ∈ es) :
    x ∈ (es.foldl (State.dropUp 4) s).drops := by
  induction es generalizing s with
  | nil => simpa using h
  | cons e es ih =>
    refine ih _ ?_
    obtain h | h := h
    · exact .inl (State.mem_drops_dropUp 4 s e h)
    · obtain rfl | h := List.mem_cons.1 h
      · exact .inl (State.mem_drops_dropUp_self 3 s x)
      · exact .inr h

/-- R481 step 2: stack `k` with what its training has told of it. -/
def State.linkTrained (failed : Word) (k : Nat) (s : State) : State :=
  if (s.stackOf k).trDone then s
  else s.updStack k fun t => { t with trDone := true, trLinkErr := failed.getLsbD k, linkDown := failed.getLsbD k }

/-- R113: the failed channels of stack `k`, and the stack where its link is down. -/
def State.failedElems (s : State) (k : Nat) : List Elem :=
  ((List.range 32).filter fun c => (s.stackOf k).trFail.getLsbD c).map (fun c => { level := 2, stack := k, chan := c })
    ++ (if (s.stackOf k).linkDown then [{ level := 3, stack := k }] else [])

/-- R481 step 2, for one stack. -/
def State.trainOne (failed : Word) (s : State) (k : Nat) : State :=
  ((s.linkTrained failed k).failedElems k).foldl (State.dropUp 4) (s.linkTrained failed k)

theorem State.trainStacks_eq (s : State) (failed : Word) : s.trainStacks failed = (List.range 12).foldl (State.trainOne failed) s := rfl

theorem State.stackOf_trainOne (s : State) (failed : Word) (k j : Nat) :
    (s.trainOne failed k).stackOf j = (s.linkTrained failed k).stackOf j := by
  rw [State.stackOf, State.trainOne, State.foldl_dropUp_stks]
  rfl

theorem State.stackOf_trainOne_ne (s : State) (failed : Word) {k j : Nat} (h : j ≠ k) : (s.trainOne failed k).stackOf j = s.stackOf j := by
  rw [State.stackOf_trainOne, State.linkTrained]
  split
  · rfl
  · exact State.stackOf_updStack_ne s _ h

theorem State.mem_drops_trainOne {x : Elem} {s : State} (failed : Word) (k : Nat) (hx : x ∈ s.drops) : x ∈ (s.trainOne failed k).drops := by
  refine State.mem_drops_foldl_dropUp _ _ (.inl ?_)
  rw [State.linkTrained]
  split <;> exact hx

/-- R481: stack `k` is trained as `failed` says; where its link failed, it is dropped. -/
def State.TrainedAs (s : State) (failed : Word) (k : Nat) : Prop :=
  (s.stackOf k).trDone = true ∧ (s.stackOf k).linkDown = failed.getLsbD k ∧
    (failed.getLsbD k = true → ({ level := 3, stack := k } : Elem) ∈ s.drops)

theorem State.trainedAs_trainOne {s : State} {k : Nat} (h : (s.stackOf k).trDone = false) (failed : Word) :
    (s.trainOne failed k).TrainedAs failed k := by
  have hstack : (s.linkTrained failed k).stackOf k =
      { s.stackOf k with trDone := true, trLinkErr := failed.getLsbD k, linkDown := failed.getLsbD k } := by
    rw [State.linkTrained, h]
    exact State.stackOf_updStack_self ..
  rw [State.TrainedAs, State.stackOf_trainOne, hstack]
  refine ⟨rfl, rfl, fun hf => State.mem_drops_foldl_dropUp _ _ (.inr ?_)⟩
  simp [State.failedElems, hstack, hf]

theorem State.TrainedAs.trainOne {s : State} {failed : Word} {k j : Nat} (h : s.TrainedAs failed k) (hj : k ≠ j) :
    (s.trainOne failed j).TrainedAs failed k := by
  obtain ⟨hdone, hdown, hdrop⟩ := h
  rw [State.TrainedAs, State.stackOf_trainOne_ne s failed hj]
  exact ⟨hdone, hdown, fun hf => State.mem_drops_trainOne failed j (hdrop hf)⟩

theorem State.TrainedAs.foldl_other {s : State} {failed : Word} {k : Nat} (h : s.TrainedAs failed k) {ks : List Nat} (hk : k ∉ ks) :
    (ks.foldl (State.trainOne failed) s).TrainedAs failed k := by
  induction ks generalizing s with
  | nil => exact h
  | cons j ks ih =>
    obtain ⟨hj, hks⟩ : k ≠ j ∧ k ∉ ks := by simpa using hk
    exact ih (h.trainOne hj) hks

theorem State.trainedAs_foldl {s : State} {k : Nat} (h : (s.stackOf k).trDone = false) (failed : Word) {ks : List Nat}
    (hks : ks.Nodup) (hk : k ∈ ks) : (ks.foldl (State.trainOne failed) s).TrainedAs failed k := by
  induction ks generalizing s with
  | nil => simp at hk
  | cons j ks ih =>
    obtain ⟨hj, hks⟩ := List.nodup_cons.1 hks
    obtain rfl | hk := List.mem_cons.1 hk
    · exact (State.trainedAs_trainOne h failed).foldl_other hj
    · have hkj : k ≠ j := fun e => hj (e ▸ hk)
      exact ih (by rw [State.stackOf_trainOne_ne s failed hkj, h]) hks hk

/-! ## The cadastre and the opening (R55, R430, R481 steps 3 to 5) -/

/-- R55: with nothing dropped and no frame recorded as unusable, every stack is there and the layout stands as it is. -/
theorem State.buildCadastre_sound {s : State} (hd : s.drops = []) (hu : s.unusable = []) :
    s.buildCadastre = some { s with bootGone := none, nospare := false } := by
  have hgone : s.goneStacks = [] := by simp [State.goneStacks, State.retired, hd]
  simp [State.buildCadastre, hgone, State.badFrames, hd, hu]

theorem State.coreOf_foldl_updCore (f : Core → Core) {cs : List Nat} (hcs : cs.Nodup) (s : State) (c : Nat) :
    (cs.foldl (fun s c => s.updCore c f) s).coreOf c = if c ∈ cs then f (s.coreOf c) else s.coreOf c := by
  induction cs generalizing s with
  | nil => simp
  | cons d cs ih =>
    obtain ⟨hd, hcs⟩ := List.nodup_cons.1 hcs
    rw [List.foldl_cons, ih hcs, State.coreOf_updCore]
    by_cases hc : c = d
    · subst hc
      simp [hd]
    · simp [hc]

theorem State.foldl_updCore_frame (f : Core → Core) (cs : List Nat) (s : State) :
    ∃ cores, cs.foldl (fun s c => s.updCore c f) s = { s with cores := cores } := by
  induction cs generalizing s with
  | nil => exact ⟨s.cores, rfl⟩
  | cons c cs ih => exact ih (s.updCore c f)

/-- R152, R430, R481: start-up is done, every core has been scrubbed, and the stored identifier, where there is one, is loaded. -/
theorem State.openDevice_spec (s : State) : ∃ cores accid accNone,
    s.openDevice = { s with cores := cores, accid := accid, accNone := accNone, bootStep := 5, bootErr := 0, bootDone := true } ∧
    (∀ c, Sparse.get {} cores c = if c < 192 then { s.coreOf c with scrubDone := true, scrubVdev := 127 } else s.coreOf c) ∧
    (accid, accNone) = (match s.storedAcc with | some a => (a, false) | none => (s.accid, s.accNone)) := by
  have hcore := State.coreOf_foldl_updCore (fun x => { x with scrubDone := true, scrubVdev := 127 }) (List.nodup_range (n := Config.nCores)) s
  obtain ⟨cores, hframe⟩ := State.foldl_updCore_frame (fun x => { x with scrubDone := true, scrubVdev := 127 }) (List.range Config.nCores) s
  simp only [hframe, List.mem_range] at hcore
  simp only [State.openDevice, hframe]
  cases s.storedAcc with
  | some a => exact ⟨cores, a, false, rfl, hcore, rfl⟩
  | none => exact ⟨cores, s.accid, s.accNone, rfl, hcore, rfl⟩

/-! ## What start-up answers (R481) -/

/-- R481: the device from which start-up begins. -/
def State.beforeStart (s : State) : State := if s.bootDone || s.bootErr != 0 then s.coldReset else s

section
variable {s t : State} {failed : Word}

theorem exec_startUp_rom : exec (.startUp failed true) s = .next { s.beforeStart with bootStep := 0, bootErr := 1, bootDone := false } := rfl

theorem exec_startUp_lost (h : 2 ≤ (s.beforeStart.trainStacks failed).goneStacks.length) :
    exec (.startUp failed false) s = .next { s.beforeStart.trainStacks failed with bootStep := 2, bootErr := 2, bootDone := false } :=
  congrArg _ (if_pos h)

theorem exec_startUp_build (h : (s.beforeStart.trainStacks failed).goneStacks.length < 2) : exec (.startUp failed false) s =
    .next (match (s.beforeStart.trainStacks failed).buildCadastre with
      | none => { s.beforeStart.trainStacks failed with bootStep := 2, bootErr := 3, bootDone := false }
      | some t => t.openDevice) :=
  congrArg _ (if_neg (Nat.not_le.2 h))

theorem exec_startUp_unbuilt (h : (s.beforeStart.trainStacks failed).goneStacks.length < 2)
    (hb : (s.beforeStart.trainStacks failed).buildCadastre = none) :
    exec (.startUp failed false) s = .next { s.beforeStart.trainStacks failed with bootStep := 2, bootErr := 3, bootDone := false } := by
  rw [exec_startUp_build h, hb]

theorem exec_startUp_opened (h : (s.beforeStart.trainStacks failed).goneStacks.length < 2)
    (hb : (s.beforeStart.trainStacks failed).buildCadastre = some t) : exec (.startUp failed false) s = .next t.openDevice := by
  rw [exec_startUp_build h, hb]

end

/-! ## Temperature (R113, R483) -/

theorem exec_thermalLimit_die {i : Nat} (h : i < 3) (s : State) :
    exec (.thermalLimit false i) s = .next (s.updDie i fun d => { d with thermSlots := min (d.thermSlots + 1) (2 ^ 24 - 1) }) :=
  congrArg _ (if_pos h)

theorem exec_thermalLimit_noDie {i : Nat} (h : 3 ≤ i) (s : State) : exec (.thermalLimit false i) s = .next s :=
  congrArg _ (if_neg (Nat.not_lt.2 h))

/-- R113: a stack at its limit is dropped, unless it is dropped already or there is no such stack. -/
theorem exec_thermalLimit_stack (i : Nat) (s : State) : exec (.thermalLimit true i) s =
    .next (if i < 12 ∧ ({ level := 3, stack := i } : Elem) ∉ s.drops then s.drop { level := 3, stack := i } else s) := by
  rw [exec_thermalLimit, execThermalLimit, if_pos rfl]
  congr 2
  rw [Bool.and_eq_true, decide_eq_true_eq, Bool.not_eq_true', ← Bool.not_eq_true, List.contains_iff_mem]
  rfl

/-- Settles O54: training folds over the stacks, the opening over the cores, and the registers of reset are read off. -/
theorem resetAndStartUp : Obligations.ResetAndStartUp := by
  unfold Obligations.ResetAndStartUp
  refine ⟨⟨?bar2, fun p _ => ⟨rfl, rfl, rfl, rfl, rfl, rfl, rfl⟩, fun fn q hq => ?queue, rfl, rfl, rfl, rfl, fun _ => rfl,
      fun _ => ⟨rfl, rfl, rfl, rfl⟩, rfl, rfl, rfl, step_reset⟩,
    fun s failed => ⟨exec_startUp_rom, exec_startUp_lost, exec_startUp_unbuilt, fun s2 h hb => ?opened⟩,
    fun s k hk h failed => ?trained, fun s => State.buildCadastre_sound, fun s i avg => ?power, fun s i => ?thermal⟩
  case bar2 => decide +kernel
  case queue =>
    have hread : ({} : Queue).read 0x08 = 0x04000000 ∧ ({} : Queue).read 0x10 = 0 := by decide
    exact ⟨(State.bar0Read_queue rfl fn hq (by decide)).trans hread.1, (State.bar0Read_queue rfl fn hq (by decide)).trans hread.2⟩
  case opened =>
    obtain ⟨cores, accid, accNone, hopen, hcores, hacc⟩ := s2.openDevice_spec
    exact ⟨_, (exec_startUp_opened h hb).trans (congrArg _ hopen), rfl, rfl, rfl, rfl, hcores, hacc⟩
  case trained =>
    rw [State.trainStacks_eq]
    exact State.trainedAs_foldl h failed List.nodup_range (List.mem_range.2 hk)
  case power => exact ⟨fun h => congrArg _ (if_pos h), fun h => congrArg _ (if_neg (Nat.not_le.2 h)), rfl⟩
  case thermal =>
    refine ⟨fun h => exec_thermalLimit_die h s, fun h => exec_thermalLimit_noDie h s, fun hi hd => ?_, fun h => ?_⟩
    · rw [exec_thermalLimit_stack, if_pos ⟨hi, hd⟩]
    · rw [exec_thermalLimit_stack, if_neg]
      rintro ⟨hi, hd⟩
      exact h.elim (Nat.not_le.2 hi) hd

end Sys2Proof.Machine
end

section
/-! SUPPORT. Drops, the resurvey and the perambulator: what each step answers, by its cases (R67 to R76, R107 to R113). -/

namespace Sys2Proof.Machine

/-! ## Tables of the dies and of the cadastre -/

theorem State.cadOf_setCad (s : State) (p q : Nat) (c : Cad) : (s.setCad p c).cadOf q = if q = p then c else s.cadOf q := by
  rw [State.cadOf, State.setCad, Sparse.get_set]
  split <;> rfl

theorem State.setDies_frame (s : State) (f : Die → Die) : ∃ dies, setDies s f = { s with dies := dies } := by
  simp only [setDies, List.foldl_cons, List.foldl_nil, State.updDie]
  exact ⟨_, rfl⟩

theorem State.dieOf_setDies (s : State) (f : Die → Die) (d : Nat) :
    (setDies s f).dieOf d = if d < 3 then f (s.dieOf d) else s.dieOf d := by
  simp only [setDies, List.foldl_cons, List.foldl_nil, State.dieOf_updDie]
  obtain rfl | rfl | rfl | h : d = 0 ∨ d = 1 ∨ d = 2 ∨ 3 ≤ d := by omega
  · rfl
  · rfl
  · rfl
  · rw [if_neg (by omega), if_neg (by omega), if_neg (by omega), if_neg (by omega)]

theorem State.updDie_congr (s : State) (d : Nat) {f g : Die → Die} (h : f (s.dieOf d) = g (s.dieOf d)) : s.updDie d f = s.updDie d g :=
  congrArg (fun x : Die => ({ s with dies := Sparse.set {} s.dies d x } : State)) h

/-- What a change of a die keeps, it keeps of every die. -/
theorem State.dieOf_updDie_kept {α : Type} (g : Die → α) {f : Die → Die} (hf : ∀ x, g (f x) = g x) (s : State) (d k : Nat) :
    g ((s.updDie d f).dieOf k) = g (s.dieOf k) := by
  rw [State.dieOf_updDie]
  split
  next h => rw [hf, h]
  next => rfl

/-- The first number from `p` up is `p` where it is taken. -/
theorem firstFrom_self {f : Nat → Bool} {n p : Nat} (hn : 0 < n) (h : f p = true) : firstFrom f n p = some p := by
  obtain ⟨m, rfl⟩ := Nat.exists_eq_succ_of_ne_zero (Nat.pos_iff_ne_zero.1 hn)
  exact if_pos h

/-! ## Drops (R67, R68, R72) -/

theorem exec_rsdrop_bad {v : Word} (h : Elem.ofWord v = none) (s : State) :
    exec (.rsdrop v) s = .next (setDies s fun d => { d with rsBadDesc := true }) := by
  rw [exec_rsdrop, execRsdrop, h]

theorem exec_rsdrop_elem {v : Word} {e : Elem} (h : Elem.ofWord v = some e) (s : State) : exec (.rsdrop v) s = .next (s.drop e) := by
  rw [exec_rsdrop, execRsdrop, h]

/-- R72: what one die's engine does with its parcel when an element is dropped. -/
def State.giveBack (e : Elem) (s : State) (d : Nat) : State :=
  let x := s.dieOf d
  let cd := s.cadOf x.rsParcel
  match cd.t with
  | some t =>
    if x.rsBusy && cd.state == 1 && e.hits t == some x.rsPos then
      (s.setCad x.rsParcel { cd with state := 0, cursor := 0, t := none }).updDie d fun x => { x with rsBusy := false }
    else s
  | none => s

theorem State.discardOn_eq (s : State) (e : Elem) : s.discardOn e = [0, 1, 2].foldl (State.giveBack e) s := rfl

theorem State.giveBack_idle {s : State} {d : Nat} (h : (s.dieOf d).rsBusy = false) (e : Elem) : s.giveBack e d = s := by
  simp only [State.giveBack, h, Bool.false_and]
  split <;> rfl

theorem State.discardOn_idle {s : State} (h : ∀ d, d < 3 → (s.dieOf d).rsBusy = false) (e : Elem) : s.discardOn e = s := by
  rw [State.discardOn_eq, List.foldl_cons, List.foldl_cons, List.foldl_cons, List.foldl_nil,
    State.giveBack_idle (h 0 (by decide)), State.giveBack_idle (h 1 (by decide)), State.giveBack_idle (h 2 (by decide))]

/-- R113: what follows from a drop goes by the drops and by MTCFG. -/
theorem State.escalates_postFault (s : State) (r : FaultRec) (e : Elem) : (s.postFault r).escalates e = s.escalates e := rfl

/-- R67, R68, R115: with no engine at work, a drop gives up no move. -/
theorem State.drop_idle {s : State} (h : ∀ d, d < 3 → (s.dieOf d).rsBusy = false) (e : Elem) : s.drop e = { s with
    drops := s.drops ++ [e]
    faults := s.faults ++ [{ elem := e.word, kind := 8, time := s.clock.toNat }]
    plan := s.plan ++ (match ({ s with drops := s.drops ++ [e] } : State).escalates e with
      | some x => [.own (.rsdrop x.word)]
      | none => []) } := by
  have hgiven := State.discardOn_idle (s := { s with drops := s.drops ++ [e] }) h e
  simp only [State.drop, hgiven, State.escalates_postFault]
  cases ({ s with drops := s.drops ++ [e] } : State).escalates e with
  | none => simp [State.postFault]
  | some x => rfl

/-! ## The resurvey (R71 to R75) -/

section
variable {s : State} {die frame parcel pos k : Nat} {by_ : Option (Nat × Elem)}

theorem exec_resurveyTakeParcel_idle (h : (s.dieOf die).rsBusy = true ∨ s.nextMove die = none) :
    exec (.resurveyTakeParcel die frame) s = .next s := by
  rw [exec_resurveyTakeParcel, execResurveyTakeParcel]
  by_cases hbusy : (s.dieOf die).rsBusy = true
  · rw [if_pos hbusy]
  · rw [if_neg hbusy, h.resolve_left hbusy]

/-- R69: whether a move keeps its position on its stack: a bank's does, and one that firmware asked for where the stack is
not retired. -/
def State.staysOn (s : State) (a : Layout) (pos : Nat) (by_ : Option (Nat × Elem)) : Bool :=
  match by_ with | some (_, e) => e.level == 0 | none => !s.retired (a.stk.getD pos 0)

/-- R69: the banks in which a move's new frame may not lie. -/
def movedBankx (bankx : Word) (by_ : Option (Nat × Elem)) : Word :=
  match by_ with | some (_, e) => if e.level = 0 then bankx ||| (1#32 <<< e.bank) else bankx | none => bankx

/-- R70: no stack takes the new position. -/
theorem exec_resurveyTakeParcel_noStack (hbusy : (s.dieOf die).rsBusy = false) (hmove : s.nextMove die = some (parcel, pos, by_))
    (hstack : s.newStack (s.cadOf parcel).a pos (s.staysOn (s.cadOf parcel).a pos by_) = none) :
    exec (.resurveyTakeParcel die frame) s = .next { s.skipMove parcel pos by_ with nospare := true } := by
  rw [exec_resurveyTakeParcel, execResurveyTakeParcel, if_neg (by rw [hbusy]; exact Bool.false_ne_true), hmove]
  cases by_ with
  | none => simp only [State.staysOn] at hstack; simp only [hstack]
  | some x => simp only [State.staysOn] at hstack; simp only [hstack]

/-- R72: the frame named makes a well-formed target. -/
theorem exec_resurveyTakeParcel_named (hbusy : (s.dieOf die).rsBusy = false) (hmove : s.nextMove die = some (parcel, pos, by_))
    (hstack : s.newStack (s.cadOf parcel).a pos (s.staysOn (s.cadOf parcel).a pos by_) = some k)
    (hok : s.targetOk (s.target (s.cadOf parcel).a pos k frame) pos (movedBankx (s.cadOf parcel).bankx by_) = true) :
    exec (.resurveyTakeParcel die frame) s = .next ((s.setCad parcel { s.cadOf parcel with
      state := 1, cursor := 0, bankx := movedBankx (s.cadOf parcel).bankx by_, t := some (s.target (s.cadOf parcel).a pos k frame) }).updDie die
        fun d => { d with rsBusy := true, rsParcel := parcel, rsPos := pos, rsSingle := by_.isNone, rsStop := false }) := by
  rw [exec_resurveyTakeParcel, execResurveyTakeParcel, if_neg (by rw [hbusy]; exact Bool.false_ne_true), hmove]
  cases by_ with
  | none => simp only [State.staysOn, movedBankx] at hstack hok; simp only [hstack, hok, if_true, movedBankx]
  | some x => simp only [State.staysOn, movedBankx] at hstack hok; simp only [hstack, hok, if_true, movedBankx]

/-- R73, R82: the engine is not in COPYING, or paused, or the line's columns find no tag. -/
theorem exec_resurveyLineCopy_waits (h : (s.dieOf die).rsBusy = false ∨ (s.cadOf (s.dieOf die).rsParcel).state ≠ 1 ∨
    s.rsrate.toNat % 65536 = 0 ∨ s.unready ((s.dieOf die).rsParcel * 16384 + (s.cadOf (s.dieOf die).rsParcel).cursor) = true) :
    exec (.resurveyLineCopy die) s = .next s := by
  rw [exec_resurveyLineCopy, execResurveyLineCopy]
  dsimp only
  split
  next =>
    rw [if_pos]
    simpa [or_assoc] using h
  next => rfl

/-- R73: the copy of line CURSOR: its column decoded and written, poisoned where the line is. -/
def State.lineCopied (s : State) (die : Nat) (t : Layout) : State :=
  let d := s.dieOf die
  let p := d.rsParcel
  let cd := s.cadOf p
  let c := t.col d.rsPos cd.cursor
  let r := s.stripeRead (p * 2 ^ 21 + cd.cursor * 128) 126
  (match r.2 with
    | .data v => r.1.colWrite c (colOfLine cd.cursor v d.rsPos) false 126 p cd.version
    | .poison => r.1.colWrite c 0 true 126 p cd.version).setCad p { cd with cursor := cd.cursor + 1 }

/-- R73: a line is copied; after the parcel's last the home's dirty lines are written and the parcel is in COPIED. -/
theorem exec_resurveyLineCopy_copies {t : Layout} (ht : (s.cadOf (s.dieOf die).rsParcel).t = some t) (hbusy : (s.dieOf die).rsBusy = true)
    (hstate : (s.cadOf (s.dieOf die).rsParcel).state = 1) (hrate : s.rsrate.toNat % 65536 ≠ 0)
    (hready : s.unready ((s.dieOf die).rsParcel * 16384 + (s.cadOf (s.dieOf die).rsParcel).cursor) = false) :
    exec (.resurveyLineCopy die) s = .next (
      let p := (s.dieOf die).rsParcel
      let s1 := s.lineCopied die t
      if (s.cadOf p).cursor + 1 < 16384 then s1
      else (s1.cleanParcel p).setCad p { (s1.cleanParcel p).cadOf p with state := 2 }) := by
  rw [exec_resurveyLineCopy, execResurveyLineCopy]
  simp only [ht, hbusy, hstate, hready, State.lineCopied]
  rw [if_neg (by simpa using hrate)]
  generalize s.stripeRead ((s.dieOf die).rsParcel * 2 ^ 21 + (s.cadOf (s.dieOf die).rsParcel).cursor * 128) 126 = r
  obtain ⟨s1, v | v⟩ := r <;> rfl

theorem exec_parcelSwitch_stops (h : (s.dieOf die).rsBusy = true) (hstate : (s.cadOf (s.dieOf die).rsParcel).state = 2) :
    exec (.parcelSwitch die) s = .next (s.updDie die fun x => { x with rsStop := true }) :=
  congrArg _ (if_pos (by simp [h, hstate]))

theorem exec_parcelSwitch_none (h : (s.dieOf die).rsBusy = false ∨ (s.cadOf (s.dieOf die).rsParcel).state ≠ 2) :
    exec (.parcelSwitch die) s = .next s := by
  refine congrArg _ (if_neg ?_)
  obtain h | h := h <;> simp [h]

/-- R75: a commit holds a lock on a line of the parcel. -/
def State.parcelHeld (s : State) (p : Nat) : Bool :=
  s.wlocks.any fun w => match w.key with | .mem m => parcelOf (m * 128) == p | _ => false

theorem exec_switchDrainComplete_waits
    (h : (s.dieOf die).rsBusy = false ∨ (s.dieOf die).rsStop = false ∨ s.parcelHeld (s.dieOf die).rsParcel = true) :
    exec (.switchDrainComplete die) s = .next s := by
  refine congrArg _ (if_pos ?_)
  obtain h | h | h := h
  · simp [h]
  · simp [h]
  · exact Bool.or_eq_true_iff.2 (.inr h)

theorem State.cleanParcel_none {p : Nat} (h : s.sliceLines (s.cadOf p).a.home p = []) : s.cleanParcel p = s := by
  rw [State.cleanParcel, h]
  rfl

/-- R75: an engine has done with its parcel. -/
def Die.atRest (d : Die) : Die := { d with rsBusy := false, rsStop := false, rsSingle := false }

/-- R58, R75, R76: the entry of a parcel after its switch to layout `l`, on its way to the dies' caches. -/
def State.switched (s : State) (die : Nat) (l : Layout) : State :=
  let p := (s.dieOf die).rsParcel
  let cd := s.cadOf p
  ((s.setCad p { cd with state := 0, version := (cd.version + 1) % 65536, cursor := 0, a := l, t := none }).updDie die Die.atRest).broadcast p cd.a.home cd.version

/-- R75: the home stays and holds no line of the parcel: the entry changes, and nothing else. -/
theorem exec_switchDrainComplete_switches {l : Layout} (hbusy : (s.dieOf die).rsBusy = true) (hstop : (s.dieOf die).rsStop = true)
    (hheld : s.parcelHeld (s.dieOf die).rsParcel = false) (hl : (s.cadOf (s.dieOf die).rsParcel).t = some l)
    (hhome : l.home = (s.cadOf (s.dieOf die).rsParcel).a.home)
    (hlines : s.sliceLines (s.cadOf (s.dieOf die).rsParcel).a.home (s.dieOf die).rsParcel = []) (hsingle : (s.dieOf die).rsSingle = false) :
    exec (.switchDrainComplete die) s = .next (s.switched die l) := by
  rw [State.parcelHeld] at hheld
  rw [exec_switchDrainComplete, execSwitchDrainComplete]
  simp only [hbusy, hstop, Bool.and_self, Bool.not_true, Bool.false_or]
  rw [if_neg (by exact Bool.eq_false_iff.1 hheld), hl]
  simp only [State.cleanParcel_none hlines, hlines, List.foldl_nil, hhome, if_true, hsingle]
  rfl

theorem State.broadcast_frame (s : State) (p home version : Nat) : ∃ dies, s.broadcast p home version = { s with dies := dies } :=
  s.setDies_frame _

/-- R76: each die's cache has the entry, but that of a die which has taken it with a MOVED. -/
theorem State.cadCache_broadcast (s : State) (p home version : Nat) {k : Nat} (hk : k < 3) :
    Sparse.get (0, 0) ((s.broadcast p home version).dieOf k).cadCache p =
      if (s.dieOf k).replays.any (fun r => r.parcel == p && r.sent) then Sparse.get (0, 0) (s.dieOf k).cadCache p else (home, version) := by
  rw [State.broadcast, State.dieOf_setDies, if_pos hk]
  split
  · rfl
  · exact Sparse.get_insert_self ..

theorem State.rsBusy_broadcast (s : State) (p home version k : Nat) : ((s.broadcast p home version).dieOf k).rsBusy = (s.dieOf k).rsBusy := by
  rw [State.broadcast, State.dieOf_setDies]
  split
  · split <;> rfl
  · rfl

section
variable (s : State) (die : Nat) (l : Layout)

theorem State.switched_frame : { s.switched die l with cad := s.cad, dies := s.dies } = s := by
  obtain ⟨dies, h⟩ := State.broadcast_frame _ _ _ _
  rw [State.switched, h]
  rfl

theorem State.cadOf_switched (q : Nat) : (s.switched die l).cadOf q = if q = (s.dieOf die).rsParcel
    then { s.cadOf (s.dieOf die).rsParcel with
      state := 0, version := ((s.cadOf (s.dieOf die).rsParcel).version + 1) % 65536, cursor := 0, a := l, t := none }
    else s.cadOf q := by
  obtain ⟨dies, h⟩ := State.broadcast_frame _ _ _ _
  rw [State.switched, h]
  exact State.cadOf_setCad ..

theorem State.rsBusy_switched (k : Nat) : ((s.switched die l).dieOf k).rsBusy = if k = die then false else (s.dieOf k).rsBusy := by
  rw [State.switched, State.rsBusy_broadcast, State.dieOf_updDie]
  split <;> rfl

theorem State.cadCache_switched {k : Nat} (hk : k < 3) : Sparse.get (0, 0) ((s.switched die l).dieOf k).cadCache (s.dieOf die).rsParcel =
    if (s.dieOf k).replays.any (fun r => r.parcel == (s.dieOf die).rsParcel && r.sent)
    then Sparse.get (0, 0) (s.dieOf k).cadCache (s.dieOf die).rsParcel
    else ((s.cadOf (s.dieOf die).rsParcel).a.home, (s.cadOf (s.dieOf die).rsParcel).version) := by
  rw [State.switched, State.cadCache_broadcast _ _ _ _ hk, State.dieOf_updDie_kept Die.replays (f := Die.atRest) fun _ => rfl,
    State.dieOf_updDie_kept Die.cadCache (f := Die.atRest) fun _ => rfl]
  rfl

end

/-! ## Replays and single moves (R58, R76, R112) -/

/-- R58, R76: the changed entry has come to a die, which sends what was answered MOVED again. -/
def State.entryIn (s : State) (die p : Nat) (u : State) : State :=
  u.updDie die fun d => { d with
    cadCache := Sparse.erase d.cadCache p
    replays := (d.replays.filter s.replayLive).map fun r => if r.parcel = p then { r with sent := true } else r }

/-- R474: each request that is sent again counts once. -/
theorem exec_moved_eq (p : Nat) : exec (.moved die p) s = .next (s.entryIn die p
    (if (s.dieOf die).replays.filter (fun r => r.parcel == p && !r.sent && s.replayLive r) = [] then s
     else s.count (s.ownerOf p) 0x14 ((s.dieOf die).replays.filter fun r => r.parcel == p && !r.sent && s.replayLive r).length)) := by
  rw [exec_moved, execMoved]
  simp only [List.isEmpty_iff]
  rfl

theorem exec_singleParcelMove_eq (p j : Nat) : exec (.singleParcelMove p j) s =
    .next (if p < 288358 ∧ j < 5 ∧ (p, j) ∉ s.rsSingles then { s with rsSingles := s.rsSingles ++ [(p, j)] } else s) := by
  rw [exec_singleParcelMove, execSingleParcelMove]
  congr 2
  rw [List.contains_iff_mem]
  rfl

/-! ## The perambulator (R107 to R109) -/

/-- R107: a line is read, unless it is dirty at home. -/
def State.walked (s : State) (p i : Nat) : State :=
  let h := (s.cadOf p).a.home
  let line := p * 16384 + i
  match s.l2Find h line with
  | some w => if (s.l2Line h line w).dirty = 0 then (s.stripeRead (line * 128) 125).1 else s
  | none => (s.stripeRead (line * 128) 125).1

/-- R109: the walk goes on from line `i` of parcel `p`; or it leaves the parcel for the end of the pass. -/
def Die.past (p i : Nat) (d : Die) : Die :=
  if i + 1 < 16384 then { d with pbParcel := p, pbLine := i + 1 } else { d with pbParcel := p + 1, pbLine := 0 }
def Die.leaves (p : Nat) (d : Die) : Die := { d with pbParcel := p + 1, pbLine := 0, pbSkipped := d.pbSkipped ++ [p] }

theorem exec_perambulatorLineRead_off (h : s.pbctl.getLsbD 31 = false) : exec (.perambulatorLineRead die) s = .next s :=
  congrArg _ (if_pos (by rw [h]; rfl))

/-- R107: the walk stands in a parcel that is homed on its die. -/
theorem exec_perambulatorLineRead_here (hon : s.pbctl.getLsbD 31 = true) (hp : (s.dieOf die).pbParcel < 288358)
    (hmine : (s.cadOf (s.dieOf die).pbParcel).a.home / 128 = die) :
    exec (.perambulatorLineRead die) s = .next (
      let p := (s.dieOf die).pbParcel
      let i := (s.dieOf die).pbLine
      if (s.cadOf p).state ≠ 0 then s.updDie die (Die.leaves p)
      else if s.unready (p * 16384 + i) = true then s
      else (s.walked p i).updDie die (Die.past p i)) := by
  have hfirst : firstFrom (fun p => (s.cadOf p).a.home / 128 == die) (walkEnd - (s.dieOf die).pbParcel) (s.dieOf die).pbParcel =
      some (s.dieOf die).pbParcel := firstFrom_self (Nat.sub_pos_of_lt hp) (beq_iff_eq.2 hmine)
  rw [exec_perambulatorLineRead, execPerambulatorLineRead]
  simp only [hon, Bool.not_true]
  rw [if_neg Bool.false_ne_true, if_pos (by exact hp)]
  simp only [hfirst, if_true, bne_iff_ne]
  rfl

theorem State.walked_absent {p i : Nat} (h : s.l2Find (s.cadOf p).a.home (p * 16384 + i) = none) :
    s.walked p i = (s.stripeRead ((p * 16384 + i) * 128) 125).1 := by
  simp only [State.walked, h]

end

/-! ## The obligation -/

/-- Settles O46: each step goes by the cases of its lemma above. -/
theorem resurvey : Obligations.Resurvey := by
  unfold Obligations.Resurvey
  refine ⟨fun s v => ⟨fun h => ?bad, fun e he hidle => ?drop⟩, fun s die frame => ⟨exec_resurveyTakeParcel_idle, ?take⟩,
    fun s die => ⟨exec_resurveyLineCopy_waits, ?copy⟩, fun s die => ⟨exec_parcelSwitch_stops, exec_parcelSwitch_none⟩,
    fun s die l => ⟨exec_switchDrainComplete_waits, ?switch⟩, fun s die p => ⟨fun h => ?idle, fun h => ?again⟩,
    fun _ => exec_singleParcelMove_eq, fun _ _ => exec_perambulatorLineRead_off, fun s die hon hp hmine => ?walk, fun s k => rfl⟩
  case bad =>
    obtain ⟨dies, hframe⟩ := s.setDies_frame fun d => { d with rsBadDesc := true }
    exact ⟨_, exec_rsdrop_bad h s, by rw [hframe], s.dieOf_setDies _⟩
  case drop => exact (exec_rsdrop_elem he s).trans (congrArg _ (State.drop_idle hidle e))
  case take =>
    intro parcel pos by_ hbusy hmove
    exact ⟨exec_resurveyTakeParcel_noStack hbusy hmove, fun k => exec_resurveyTakeParcel_named hbusy hmove⟩
  case copy =>
    intro t ht hbusy hstate hrate hready
    have hcopy := exec_resurveyLineCopy_copies ht hbusy hstate hrate hready
    exact ⟨fun h => hcopy.trans (congrArg _ (if_pos h)), fun h => hcopy.trans (congrArg _ (if_neg (Nat.not_lt.2 h)))⟩
  case switch =>
    intro hbusy hstop hheld hl hhome hlines hsingle
    exact ⟨s.switched die l, exec_switchDrainComplete_switches hbusy hstop hheld hl hhome hlines hsingle, s.switched_frame die l,
      s.cadOf_switched die l, fun k hk => ⟨s.rsBusy_switched die l k, s.cadCache_switched die l hk⟩⟩
  case idle => rw [exec_moved_eq, if_pos h]; rfl
  case again => rw [exec_moved_eq, if_neg h]; rfl
  case walk =>
    have hwalk := exec_perambulatorLineRead_here hon hp hmine
    refine ⟨fun hstate => ?_, fun hstate hready => ?_, fun hstate hready habsent hline => ?_⟩
    · rw [hwalk]
      exact congrArg _ ((if_pos hstate).trans (s.updDie_congr die rfl))
    · rw [hwalk]
      exact congrArg _ ((if_neg (fun hne => hne hstate)).trans (if_pos hready))
    · rw [hwalk]
      refine congrArg _ ((if_neg (fun hne => hne hstate)).trans ((if_neg (Bool.eq_false_iff.1 hready)).trans ?_))
      rw [State.walked_absent habsent]
      exact State.updDie_congr _ die (if_pos hline)

end Sys2Proof.Machine
end

section
/-! SUPPORT. Home slices: what a look-up finds, what it serves, fetches or merges, each case once; the bytes of a merged line
(R65, R66, R132 to R134). -/

namespace Sys2Proof.Machine

/-! ## The bytes of a merged line -/

theorem spread_lt (mask : Nat) : ∀ n, spread n mask < 2 ^ (8 * n)
  | 0 => by simp [spread]
  | n + 1 => by
    have hpow : 2 ^ (8 * (n + 1)) = 2 ^ (8 * n) * 256 := Nat.pow_add 2 (8 * n) 8
    have ih := spread_lt mask n
    rw [spread, Nat.shiftLeft_eq]
    split <;> omega

/-- A byte mask as a bit mask: bit `i` is that of the byte in which it lies. -/
theorem testBit_spread (mask i : Nat) : ∀ n, (spread n mask).testBit i = (decide (i < 8 * n) && mask.testBit (i / 8))
  | 0 => by simp [spread]
  | n + 1 => by
    have hbyte : (if mask.testBit n then 255 <<< (8 * n) else 0) = 2 ^ (8 * n) * (if mask.testBit n then 255 else 0) := by
      split
      · rw [Nat.shiftLeft_eq, Nat.mul_comm]
      · rfl
    rw [spread, hbyte, Nat.add_comm, Nat.testBit_two_pow_mul_add _ (spread_lt mask n)]
    split
    next h => rw [testBit_spread mask i n, decide_eq_true h, decide_eq_true (Nat.lt_trans h (by omega))]
    next h =>
      by_cases hi : i < 8 * (n + 1)
      · obtain ⟨j, hj, rfl⟩ : ∃ j, j < 8 ∧ i = 8 * n + j := ⟨i - 8 * n, by omega, by omega⟩
        rw [decide_eq_true hi, show (8 * n + j) / 8 = n by omega, Nat.add_sub_cancel_left]
        cases mask.testBit n
        · simp
        · simpa using (by decide : ∀ j < 8, Nat.testBit 255 j = true) j hj
      · rw [decide_eq_false hi, Bool.false_and]
        split
        · exact Nat.testBit_lt_two_pow (Nat.lt_of_lt_of_le (by decide) (Nat.pow_le_pow_right (by decide) (by omega : 8 ≤ i - 8 * n)))
        · exact Nat.zero_testBit _

theorem getLsbD_mergeLine (l v : BitVec 1024) (mask : BitVec 128) {i : Nat} (hi : i < 1024) :
    (mergeLine l v mask).getLsbD i = if mask.getLsbD (i / 8) then v.getLsbD i else l.getLsbD i := by
  have hm : (BitVec.ofNat 1024 (spread 128 mask.toNat)).getLsbD i = mask.getLsbD (i / 8) := by
    rw [BitVec.getLsbD_ofNat, testBit_spread, decide_eq_true hi, Bool.true_and, Bool.true_and, BitVec.testBit_toNat]
  rw [mergeLine]
  simp only [BitVec.getLsbD_or, BitVec.getLsbD_and, BitVec.getLsbD_not, hm, decide_eq_true hi, Bool.true_and]
  cases mask.getLsbD (i / 8) <;> simp

theorem getLsbD_maskAt (o n : Nat) {k : Nat} (hk : k < 128) : (maskAt o n).getLsbD k = decide (o ≤ k ∧ k < o + n) := by
  rw [maskAt, BitVec.getLsbD_ofNat, Nat.testBit_mul_two_pow, Nat.testBit_two_pow_sub_one, decide_eq_true hk, Bool.true_and, ← Bool.decide_and,
    decide_eq_decide]
  omega

theorem testBit_bytesAt (l : BitVec 1024) (k n j : Nat) : (bytesAt l k n).testBit j = (decide (j < 8 * n) && l.getLsbD (8 * k + j)) := by
  rw [bytesAt, Nat.testBit_mod_two_pow, Nat.testBit_div_two_pow, BitVec.testBit_toNat, Nat.add_comm j]

/-- A byte of a merged line is the new one where the mask has it. -/
theorem bytesAt_mergeLine (l v : BitVec 1024) (o n : Nat) {k : Nat} (hk : k < 128) :
    bytesAt (mergeLine l v (maskAt o n)) k 1 = if o ≤ k ∧ k < o + n then bytesAt v k 1 else bytesAt l k 1 := by
  refine Nat.eq_of_testBit_eq fun j => ?_
  rw [apply_ite (Nat.testBit · j), testBit_bytesAt, testBit_bytesAt, testBit_bytesAt]
  by_cases hj : j < 8 * 1
  · rw [getLsbD_mergeLine l v _ (by omega), show (8 * k + j) / 8 = k by omega, getLsbD_maskAt o n hk]
    by_cases hin : o ≤ k ∧ k < o + n
    · rw [if_pos hin, if_pos (decide_eq_true hin)]
    · rw [if_neg hin, if_neg (by rw [decide_eq_false hin]; exact Bool.false_ne_true)]
  · rw [decide_eq_false hj, Bool.false_and, Bool.false_and, Bool.false_and, ite_self]

/-! ## A slice's lines -/

theorem State.l2Line_congr (s : State) {h h' line line' w w' : Nat} (hkey : l2Key h' line' w' = l2Key h line w) :
    s.l2Line h' line' w' = s.l2Line h line w := by rw [State.l2Line, State.l2Line, hkey]

theorem State.l2Line_setL2 (s : State) (h line w : Nat) (l : L2Line) (h' line' w' : Nat) :
    (s.setL2 h line w l).l2Line h' line' w' = if l2Key h' line' w' = l2Key h line w then l else s.l2Line h' line' w' := Sparse.get_set ..

/-- What a look-up finds is a way of the slice in which the line stands. -/
theorem State.l2Find_spec {s : State} {h line w : Nat} (hf : s.l2Find h line = some w) :
    w < 16 ∧ (s.l2Line h line w).on = true ∧ (s.l2Line h line w).line = line := by
  have hline := List.find?_some hf
  simp only [Bool.and_eq_true, beq_iff_eq] at hline
  exact ⟨List.mem_range.1 (List.mem_of_find?_eq_some hf), hline.1, hline.2⟩

section
variable {s : State} {h line w : Nat} {l : L2Line}

/-- Two look-ups that agree on a list's members find the same. -/
theorem find?_congr_of_mem {α : Type} {p q : α → Bool} {xs : List α} (h : ∀ x ∈ xs, p x = q x) : xs.find? p = xs.find? q := by
  induction xs with
  | nil => rfl
  | cons x xs ih =>
    rw [List.find?_cons, List.find?_cons, h x List.mem_cons_self, ih fun y hy => h y (List.mem_cons_of_mem x hy)]

/-- A change of a line where it stands moves no line. -/
theorem State.l2Find_setL2 (hf : s.l2Find h line = some w) (hon : l.on = true) (hl : l.line = line) (h' m : Nat) :
    (s.setL2 h line w l).l2Find h' m = s.l2Find h' m := by
  obtain ⟨-, hson, hsl⟩ := State.l2Find_spec hf
  refine find?_congr_of_mem fun w' hw' => ?_
  rw [State.l2Line_setL2]
  split
  next hkey => simp only [s.l2Line_congr hkey, hon, hl, hson, hsl]
  next => rfl

/-- A change of a line where it stands is seen at no other line. -/
theorem State.l2Line_setL2_found (hf : s.l2Find h line = some w) {h' m w' : Nat} (hf' : s.l2Find h' m = some w') (hm : m ≠ line) :
    (s.setL2 h line w l).l2Line h' m w' = s.l2Line h' m w' := by
  rw [State.l2Line_setL2, if_neg]
  intro hkey
  exact hm ((State.l2Find_spec hf').2.2.symm.trans ((congrArg L2Line.line (s.l2Line_congr hkey)).trans (State.l2Find_spec hf).2.2))

end

/-! ## What a line reads as at its home (R133) -/

/-- R133: a line of a stripe completes a line of a slice, whose sectors prevail. -/
def LineVal.completes (x : LineVal) (l : L2Line) : LineVal :=
  match x with
  | .poison => .poison
  | .data v => .data (mergeLine v l.data (sectorMask l.valid))

theorem State.homeView_none {s : State} {line : Nat} (h : s.l2Find (s.homeOf line) line = none) : s.homeView line = (s.decode line).1 := by
  simp only [State.homeView, h]

theorem State.homeView_some {s : State} {line w : Nat} (h : s.l2Find (s.homeOf line) line = some w) :
    s.homeView line = if (s.l2Line (s.homeOf line) line w).valid = 3 then .data (s.l2Line (s.homeOf line) line w).data
      else (s.decode line).1.completes (s.l2Line (s.homeOf line) line w) := by
  simp only [State.homeView, h]
  rfl

/-- R65: after a line of a slice has been replaced by one that is whole, it reads as that, and every other line as before. -/
theorem State.homeView_replaced {s : State} {line w : Nat} {l : L2Line} (hf : s.l2Find (s.homeOf line) line = some w) (hon : l.on = true)
    (hl : l.line = line) (hv : l.valid = 3) (m : Nat) :
    ((s.setL2 (s.homeOf line) line w l).l2Touch (s.homeOf line) line w true).homeView m = if m = line then .data l.data else s.homeView m := by
  have hfind : ((s.setL2 (s.homeOf line) line w l).l2Touch (s.homeOf line) line w true).l2Find (s.homeOf m) m = s.l2Find (s.homeOf m) m :=
    State.l2Find_setL2 hf hon hl _ m
  by_cases hm : m = line
  · subst hm
    have hline : ((s.setL2 (s.homeOf m) m w l).l2Touch (s.homeOf m) m w true).l2Line (s.homeOf m) m w = l := Sparse.get_set_self ..
    rw [if_pos rfl, State.homeView_some (hfind.trans hf)]
    exact (if_pos (congrArg L2Line.valid hline |>.trans hv)).trans (congrArg (LineVal.data ∘ L2Line.data) hline)
  · rw [if_neg hm]
    cases hfm : s.l2Find (s.homeOf m) m with
    | none => exact (State.homeView_none (hfind.trans hfm)).trans (State.homeView_none hfm).symm
    | some w' =>
      have hline : ((s.setL2 (s.homeOf line) line w l).l2Touch (s.homeOf line) line w true).l2Line (s.homeOf m) m w' = s.l2Line (s.homeOf m) m w' :=
        State.l2Line_setL2_found hf hfm hm
      have hold := State.homeView_some hfm
      rw [← hline] at hold
      exact (State.homeView_some (hfind.trans hfm)).trans hold.symm

/-! ## What a home slice serves (R132, R133) -/

theorem State.onBanks_frame (s : State) (p : Nat) (f : Bank → Bank) : ∃ parts, s.onBanks p f = { s with parts := parts } := by
  rw [State.onBanks]
  split
  · exact ⟨s.parts, rfl⟩
  · exact ⟨_, rfl⟩

/-- R474: the count of a look-up touches the counters alone. -/
theorem State.countHome_frame (s : State) (v : Nat) (hit : Bool) : ∃ parts draw, s.countHome v hit = { s with parts := parts, draw := draw } := by
  rw [State.countHome]
  split
  · exact ⟨s.parts, s.draw, rfl⟩
  split
  · exact ⟨s.parts, s.draw, rfl⟩
  split
  · obtain ⟨parts, h⟩ := s.onBanks_frame _ _
    exact ⟨parts, s.draw, h⟩
  · obtain ⟨parts, h⟩ := s.onBanks_frame _ _
    obtain ⟨parts', h'⟩ := State.onBanks_frame { s with parts := parts } _ _
    exact ⟨parts', s.draw + 1, by rw [State.count, h, State.capture, h']⟩

section
variable {s s1 : State} {d line vdev cls kind w : Nat} {v : BitVec 1024}

@[simp] theorem State.l2_countHome (hit : Bool) : (s.countHome vdev hit).l2 = s.l2 := by
  obtain ⟨parts, draw, h⟩ := s.countHome_frame vdev hit
  rw [h]

@[simp] theorem State.l2Line_countHome (hit : Bool) (h m w : Nat) : (s.countHome vdev hit).l2Line h m w = s.l2Line h m w := by
  rw [State.l2Line, State.l2_countHome]
  rfl

@[simp] theorem State.l2Find_countHome (hit : Bool) (h m : Nat) : (s.countHome vdev hit).l2Find h m = s.l2Find h m := by
  simp only [State.l2Find, State.l2Line_countHome]

@[simp] theorem State.homeOf_countHome (hit : Bool) (m : Nat) : (s.countHome vdev hit).homeOf m = s.homeOf m := by
  obtain ⟨parts, draw, h⟩ := s.countHome_frame vdev hit
  rw [h]
  rfl

@[simp] theorem State.homeLacks_countHome (hit : Bool) : (s.countHome vdev hit).homeLacks line = s.homeLacks line := by
  simp only [State.homeLacks, State.homeOf_countHome, State.l2Find_countHome, State.l2Line_countHome]

theorem State.homeLacks_none (h : s.l2Find (s.homeOf line) line = none) : s.homeLacks line = true := by
  simp only [State.homeLacks, h]

theorem State.homeLacks_some (h : s.l2Find (s.homeOf line) line = some w) :
    s.homeLacks line = ((s.l2Line (s.homeOf line) line w).valid != 3) := by
  simp only [State.homeLacks, h]

/-- R474: a line that stands whole in its slice is a hit, any other a miss. -/
theorem State.homeServe_eq : s.homeServe line vdev cls kind = (s.countHome vdev (!s.homeLacks line)).homeFill line vdev cls kind := by
  rw [State.homeServe]
  cases h : s.l2Find (s.homeOf line) line with
  | none => rw [State.homeLacks_none h]; rfl
  | some w => simp only [State.homeLacks_some h, bne, Bool.not_not]

theorem State.homeServe_hit (h : s.homeLacks line = false) :
    s.homeServe line vdev cls kind = (s.countHome vdev true).homeFill line vdev cls kind := by rw [State.homeServe_eq, h]; rfl

theorem State.homeServe_miss (h : s.homeLacks line = true) :
    s.homeServe line vdev cls kind = (s.countHome vdev false).homeFill line vdev cls kind := by rw [State.homeServe_eq, h]; rfl

theorem State.homeFill_whole (h : s.l2Find (s.homeOf line) line = some w) (hv : (s.l2Line (s.homeOf line) line w).valid = 3) :
    s.homeFill line vdev cls kind = (s.l2Touch (s.homeOf line) line w true, .data (s.l2Line (s.homeOf line) line w).data) := by
  simp only [State.homeFill, h, hv, if_true]

theorem State.homeFill_poison (h : s.homeLacks line = true) (hr : s.stripeRead (line * 128) vdev = (s1, .poison)) :
    s.homeFill line vdev cls kind = (s1, .poison) := by
  cases hf : s.l2Find (s.homeOf line) line with
  | none => simp only [State.homeFill, hf, hr]
  | some w =>
    have hv : (s.l2Line (s.homeOf line) line w).valid ≠ 3 := by simpa [State.homeLacks_some hf] using h
    simp only [State.homeFill, hf, if_neg hv, hr]

theorem State.homeFill_part (h : s.l2Find (s.homeOf line) line = some w) (hv : (s.l2Line (s.homeOf line) line w).valid ≠ 3)
    (hr : s.stripeRead (line * 128) vdev = (s1, .data v)) : s.homeFill line vdev cls kind =
      let l := s.l2Line (s.homeOf line) line w
      let m := mergeLine v l.data (sectorMask l.valid)
      ((s1.setL2 (s.homeOf line) line w { l with valid := 3, data := m }).l2Touch (s.homeOf line) line w true, .data m) := by
  simp only [State.homeFill, h, if_neg hv, hr]

theorem State.homeFill_bypassed (h : s.l2Find (s.homeOf line) line = none) (hp : (s.l2Ways vdev cls kind).2 = 2)
    (hr : s.stripeRead (line * 128) vdev = (s1, .data v)) : s.homeFill line vdev cls kind = (s1, .data v) := by
  simp only [State.homeFill, h, hr, hp, if_true]

theorem State.homeFill_placed (h : s.l2Find (s.homeOf line) line = none) (hp : (s.l2Ways vdev cls kind).2 ≠ 2)
    (hr : s.stripeRead (line * 128) vdev = (s1, .data v)) : s.homeFill line vdev cls kind =
      (s1.l2Place (s.homeOf line) line (s.l2Ways vdev cls kind).1 ((s.l2Ways vdev cls kind).2 == 0)
        { on := true, line := line, valid := 3, data := v, vdev := vdev }, .data v) := by
  simp only [State.homeFill, h, hr, if_neg hp]

/-- R132: on the home's own die a line is read from its home. -/
theorem State.readLine_home (h : s.homeOf line / 128 = d) : s.readLine d line vdev cls = s.homeServe line vdev cls 0 := if_pos h

section
variable (h : s.homeOf line / 128 ≠ d)
include h

theorem State.readLine_proxy (hf : s.l2Find (proxyOf (s.homeOf line) d) line = some w) : s.readLine d line vdev cls =
    (s.l2Touch (proxyOf (s.homeOf line) d) line w true, .data (s.l2Line (proxyOf (s.homeOf line) d) line w).data) := by
  simp only [State.readLine, if_neg h, hf]

theorem State.readLine_poison (hf : s.l2Find (proxyOf (s.homeOf line) d) line = none)
    (hr : s.homeServe line vdev cls 0 = (s1, .poison)) : s.readLine d line vdev cls = (s1, .poison) := by
  simp only [State.readLine, if_neg h, hf, hr]

theorem State.readLine_unkept (hf : s.l2Find (proxyOf (s.homeOf line) d) line = none)
    (hr : s.homeServe line vdev cls 0 = (s1, .data v)) (hk : s1.l2Find (s.homeOf line) line = none ∨ (s1.l2Ways vdev cls 0).2 = 2) :
    s.readLine d line vdev cls = (s1, .data v) := by
  simp only [State.readLine, if_neg h, hf, hr]
  cases hf1 : s1.l2Find (s.homeOf line) line with
  | none => rfl
  | some w => exact if_pos (hk.resolve_left (by rw [hf1]; exact Option.some_ne_none w))

/-- R133: a proxy keeps a copy, and the home's line says which. -/
theorem State.readLine_kept (hf : s.l2Find (proxyOf (s.homeOf line) d) line = none)
    (hr : s.homeServe line vdev cls 0 = (s1, .data v)) (hf1 : s1.l2Find (s.homeOf line) line = some w) (hp : (s1.l2Ways vdev cls 0).2 ≠ 2) :
    s.readLine d line vdev cls =
      let l := s1.l2Line (s.homeOf line) line w
      ((s1.setL2 (s.homeOf line) line w { l with prx := l.prx ||| (1#2 <<< prxBit (s.homeOf line) d) }).l2Place (proxyOf (s.homeOf line) d) line
        (s1.l2Ways vdev cls 0).1 ((s1.l2Ways vdev cls 0).2 == 0)
        { on := true, line := line, home := false, valid := 3, data := v, vdev := vdev }, .data v) := by
  simp only [State.readLine, if_neg h, hf, hr, hf1, if_neg hp]

end

/-! ## What a home slice merges (R65, R66) -/

theorem State.homeWrite_discarded (s : State) (line vdev cls kind u g : Nat) (v : BitVec 1024) (h : s.homeLacks line = true)
    (hu : s.unwritable line = true) : s.homeWrite line (BitVec.allOnes 128) v vdev cls kind u g = s :=
  if_pos (by simp [h, hu])

/-- R133, R177: a write has been counted and noted, and its line's proxies are gone. -/
def State.writeNoted (s : State) (line vdev u g : Nat) : State :=
  ((s.countHome vdev (s.l2Find (s.homeOf line) line).isSome).dropProxies (s.homeOf line) line).noteWrite line u g

/-- R65: a line in way `w` of slice `h` with the bytes of a write. -/
def State.lineMerged (s : State) (h line w vdev : Nat) (m : BitVec 128) (v : BitVec 1024) : State :=
  let l := s.l2Line h line w
  (s.setL2 h line w { l with
    data := mergeLine l.data v m, valid := l.valid ||| sectorsFull m, dirty := l.dirty ||| sectorsOf m, vdev := vdev, prx := 0 }).l2Touch h line w true

/-- R65, R133: a line that stands whole in its slice, before and after the write has been noted, takes the bytes of the write. -/
theorem State.homeWrite_merged {u g : Nat} (m : BitVec 128) (h : s.homeLacks line = false)
    (hf : (s.writeNoted line vdev u g).l2Find (s.homeOf line) line = some w)
    (hv : ((s.writeNoted line vdev u g).l2Line (s.homeOf line) line w).valid = 3) :
    s.homeWrite line m v vdev cls 1 u g = (s.writeNoted line vdev u g).lineMerged (s.homeOf line) line w vdev m v := by
  have hall : ∀ x y : BitVec 2, y &&& ~~~(3#2 ||| x) = 0 := by decide
  have hnoted : ((if 1 = 2 then s else s.countHome vdev (s.l2Find (s.homeOf line) line).isSome).dropProxies (s.homeOf line) line).noteWrite line u g =
      s.writeNoted line vdev u g := rfl
  rw [State.homeWrite]
  simp only [hnoted, h, Bool.and_false, Bool.false_and, hf]
  rw [if_neg Bool.false_ne_true, if_pos (by rw [hv]; exact hall _ _)]
  rfl

end

/-- Settles O45: a look-up, a proxy's look-up and a write go by the cases of their lemmas above. -/
theorem homeSlices : Obligations.HomeSlices := by
  unfold Obligations.HomeSlices
  refine ⟨fun s die dpa vdev cls n v op x y => ⟨?read, ?write, ?atomic⟩, fun s die dpa vdev cls h => ?served,
    fun s line vdev cls kind w hf hv => ?hit, fun s s1 line vdev cls kind => ⟨fun h hr => ?poison, fun v hr => ⟨fun hf hp => ?bypassed,
      fun hf hp => ?placed, fun w hf hv => ?part⟩⟩,
    fun s s1 d line vdev cls => ⟨State.readLine_home, fun h => ⟨fun w => State.readLine_proxy h, State.readLine_poison h,
      fun v hf hr => ⟨State.readLine_unkept h hf hr, fun w => State.readLine_kept h hf hr⟩⟩⟩,
    State.homeWrite_discarded, fun s die dpa vdev cls n v hadm w hf hv hf0 hv0 => ?merged,
    fun s line w l => State.homeView_replaced, fun l v o n k _ hk => bytesAt_mergeLine l v o n hk,
    fun s s1 die dpa vdev op x y hadm => ⟨fun h => ?lost, fun old h => ?old⟩⟩
  case read => exact fun h => congrArg _ (if_neg (Bool.eq_false_iff.1 h))
  case write => exact fun h => congrArg _ (if_neg (Bool.eq_false_iff.1 h))
  case atomic => exact fun h => congrArg _ (if_neg (Bool.eq_false_iff.1 h))
  case served => exact congrArg _ (if_pos h)
  case hit =>
    rw [State.homeServe_hit (by rw [State.homeLacks_some hf, hv]; rfl),
      State.homeFill_whole (w := w) (by simpa using hf) (by simpa using hv)]
    simp
  case poison => exact (State.homeServe_miss h).trans (State.homeFill_poison (by simpa using h) hr)
  case bypassed => exact (State.homeServe_miss (State.homeLacks_none hf)).trans (State.homeFill_bypassed (by simpa using hf) hp hr)
  case placed =>
    rw [State.homeServe_miss (State.homeLacks_none hf), State.homeFill_placed (by simpa using hf) hp hr]
    simp
  case part =>
    rw [State.homeServe_miss (by simpa [State.homeLacks_some hf] using hv),
      State.homeFill_part (w := w) (by simpa using hf) (by simpa using hv) hr]
    simp
  case merged =>
    have hlacks : s.homeLacks (dpa / 128) = false := by rw [State.homeLacks_some hf, hv]; rfl
    exact congrArg _ ((if_pos hadm).trans (State.homeWrite_merged (maskAt (dpa % 128) n) hlacks hf0 hv0))
  case lost =>
    refine congrArg _ ((if_pos hadm).trans ?_)
    simp only [State.atomicAt, h]
  case old =>
    refine congrArg _ ((if_pos hadm).trans ?_)
    simp only [State.atomicAt, h]

end Sys2Proof.Machine
end

section
/-! SUPPORT. Packets at a base die: arrival, the scheduler's choice, what serving a packet leaves of the columns, the receipt of
replies and the time-out of a tag, each by its cases (R90 to R98, R105, R484). -/

namespace Sys2Proof.Machine

/-! ## Arrival (R92, R93, R98, R105) -/

/-- R105: what the arrival of a request makes of its pseudo-channel's self-refresh. -/
def SelfRef.called (now : Nat) (y : SelfRef) : SelfRef :=
  match y.state with
  | .selfref => { y with state := .exiting, timer := now }
  | .idle => { y with state := .active }
  | _ => y

/-- R93, R98: a stack that accepts a packet. -/
def Stack.accept (x : Packet) (now : Nat) (t : Stack) : Stack := { t with
  tags := Sparse.set none t.tags (tagKey x.hdr) (some x)
  waiting := t.waiting ++ [x]
  sr := Sparse.upd {} t.sr (hdrP x.hdr) (SelfRef.called now) }

section
variable {s : State} {k : Nat} {x : Packet}

theorem State.arrive1_untrained (h : (s.stackOf k).trDone = false ∨ (s.stackOf k).linkDown = true) : s.arrive1 k x = s :=
  if_pos (by simpa using h)

variable (hdone : (s.stackOf k).trDone = true) (hlink : (s.stackOf k).linkDown = false)
include hdone hlink

theorem State.arrive1_trained : s.arrive1 k x =
    if hdrDie x.hdr != 3 && (Sparse.get none (s.stackOf k).tags (tagKey x.hdr)).isSome then
      s.updStack k fun t => { t with tagdup := min (t.tagdup + 1) 0xFFFF }
    else if hdrBad x.hdr then
      s.updStack k fun t => { t.reply { hdr := replyHdr x.hdr 3 false false } with refused := min (t.refused + 1) 0xFFFF }
    else s.updStack k (Stack.accept x s.clock.toNat) :=
  if_neg (by simp [hdone, hlink])

theorem State.arrive1_discarded (hdie : hdrDie x.hdr ≠ 3)
    (hheld : (Sparse.get none (s.stackOf k).tags (tagKey x.hdr)).isSome = true) :
    s.arrive1 k x = s.updStack k fun t => { t with tagdup := min (t.tagdup + 1) 0xFFFF } := by
  rw [State.arrive1_trained hdone hlink, if_pos (by simp [hdie, hheld])]

variable (hfree : hdrDie x.hdr = 3 ∨ Sparse.get none (s.stackOf k).tags (tagKey x.hdr) = none)
include hfree

theorem State.arrive1_free : s.arrive1 k x =
    if hdrBad x.hdr then
      s.updStack k fun t => { t.reply { hdr := replyHdr x.hdr 3 false false } with refused := min (t.refused + 1) 0xFFFF }
    else s.updStack k (Stack.accept x s.clock.toNat) := by
  rw [State.arrive1_trained hdone hlink, if_neg]
  obtain h | h := hfree <;> simp [h]

theorem State.arrive1_refused (hbad : hdrBad x.hdr = true) : s.arrive1 k x = s.updStack k fun t => { t with
    replies := t.replies ++ [{ hdr := replyHdr x.hdr 3 false false }], refused := min (t.refused + 1) 0xFFFF } := by
  rw [State.arrive1_free hdone hlink hfree, if_pos hbad]
  rfl

theorem State.arrive1_accepted (hok : hdrBad x.hdr = false) : s.arrive1 k x = s.updStack k (Stack.accept x s.clock.toNat) := by
  rw [State.arrive1_free hdone hlink hfree, if_neg (by simp [hok])]

end

/-! ## The scheduler (R98) -/

/-- From a first choice `y` on, `leastBy` keeps one of the least numbers. -/
theorem leastBy_from {α : Type} (f : α → Nat) {xs : List α} {y z : α}
    (h : xs.foldl (fun m x => match m with | some y => if f x < f y then some x else some y | none => some x) (some y) = some z) :
    (z = y ∨ z ∈ xs) ∧ f z ≤ f y ∧ ∀ x ∈ xs, f z ≤ f x := by
  induction xs generalizing y with
  | nil =>
    obtain rfl : y = z := by simpa using h
    exact ⟨.inl rfl, Nat.le_refl _, fun x hx => absurd hx List.not_mem_nil⟩
  | cons w xs ih =>
    rw [List.foldl_cons] at h
    dsimp only at h
    split at h
    next hlt =>
      obtain ⟨hz, hw, hxs⟩ := ih h
      refine ⟨.inr (List.mem_cons.2 hz), by omega, fun x hx => ?_⟩
      obtain rfl | hx := List.mem_cons.1 hx
      · exact hw
      · exact hxs x hx
    next hge =>
      obtain ⟨hz, hy, hxs⟩ := ih h
      refine ⟨hz.imp_right (List.mem_cons_of_mem w), hy, fun x hx => ?_⟩
      obtain rfl | hx := List.mem_cons.1 hx
      · omega
      · exact hxs x hx

/-- What `leastBy` gives is one of the list, and none has a smaller number. -/
theorem leastBy_spec {α : Type} {f : α → Nat} {xs : List α} {z : α} (h : leastBy f xs = some z) :
    z ∈ xs ∧ ∀ x ∈ xs, f z ≤ f x := by
  cases xs with
  | nil => exact absurd h (by simp [leastBy])
  | cons w xs =>
    obtain ⟨hz, hw, hxs⟩ := leastBy_from f (xs := xs) (y := w) h
    refine ⟨List.mem_cons.2 hz, fun x hx => ?_⟩
    obtain rfl | hx := List.mem_cons.1 hx
    · exact hw
    · exact hxs x hx

/-- R98: the number that orders packets: the class, in class 4 row hits first, the age, the virtual device. -/
def Stack.rank (t : Stack) (k : Packet) : Nat :=
  let c := hdrCol 0 k.hdr
  let hit := t.classOf k == 4 && Sparse.get none t.openRow (c.p * 32 + c.bank) == some c.row
  ((t.classOf k * 2 + (if hit then 0 else 1)) * 2 ^ 64 + k.time) * 128 + hdrVdev k.hdr

/-- R94, R98, R103: a packet of those that wait in `mine` may be served now. -/
def Stack.eligible (t : Stack) (mine : List Packet) (now : Nat) (all : Bool) (k : Packet) : Bool :=
  (all || !t.throttles k now) && t.mayServe k (mine.takeWhile fun x => x != k) now

theorem Stack.eligible_iff {t : Stack} {mine : List Packet} {now : Nat} {all : Bool} {k : Packet} :
    t.eligible mine now all k = true ↔
      (all = true ∨ t.throttles k now = false) ∧ t.mayServe k (mine.takeWhile fun x => x != k) now = true := by
  simp [Stack.eligible]

theorem Stack.next_eq (t : Stack) (p now : Nat) (all : Bool) : t.next p now all =
    leastBy t.rank ((t.waiting.filter fun k => hdrP k.hdr == p).filter
      (t.eligible (t.waiting.filter fun k => hdrP k.hdr == p) now all)) := rfl

/-- R98: of two packets, that of the smaller number is of no higher class, and in a class without row hits no younger. -/
theorem Stack.le_of_rank_le {t : Stack} {k x : Packet} (hk : k.time < 2 ^ 64) (hx : x.time < 2 ^ 64) (h : t.rank k ≤ t.rank x) :
    t.classOf k ≤ t.classOf x ∧ (t.classOf k = t.classOf x → t.classOf k ≠ 4 → k.time ≤ x.time) := by
  have hvdev : ∀ w : Packet, hdrVdev w.hdr < 128 := fun w => Nat.mod_lt _ (by decide)
  have hvk := hvdev k
  have hvx := hvdev x
  have hrank : ∀ w : Packet, ∃ b, b ≤ 1 ∧ (t.classOf w ≠ 4 → b = 1) ∧
      t.rank w = ((t.classOf w * 2 + b) * 2 ^ 64 + w.time) * 128 + hdrVdev w.hdr := fun w =>
    ⟨_, by split <;> decide, fun hc => by simp [hc], rfl⟩
  obtain ⟨bk, hbk, hmissk, hrk⟩ := hrank k
  obtain ⟨bx, hbx, hmissx, hrx⟩ := hrank x
  rw [hrk, hrx] at h
  refine ⟨by omega, fun hc h4 => ?_⟩
  rw [hmissk h4, hmissx (hc ▸ h4), hc] at h
  omega

/-! ## What serving leaves of the columns (R98, R99, R102, R103) -/

/-- The state without what the serving of requests changes: stacks, counters of the virtual devices, the time of the refill. -/
def State.unserved (s : State) : State := { s with stks := [], vdevs := [], refillAt := 0 }

@[simp] theorem State.unserved_updStack (s : State) (k : Nat) (f : Stack → Stack) : (s.updStack k f).unserved = s.unserved := rfl
@[simp] theorem State.unserved_updVdev (s : State) (v : Nat) (f : Vdev → Vdev) : (s.updVdev v f).unserved = s.unserved := rfl
@[simp] theorem State.unserved_setStks (s : State) (m : Sparse Stack) : ({ s with stks := m } : State).unserved = s.unserved := rfl

@[simp] theorem State.unserved_refill (s : State) : s.refill.unserved = s.unserved :=
  (congrArg State.unserved s.refill_frame :)

@[simp] theorem State.unserved_spend (s : State) (k v n : Nat) : (s.spend k v n).unserved = s.unserved := by
  rw [State.spend]
  split
  · exact s.unserved_refill
  · split <;> simp

@[simp] theorem State.unserved_heat (s : State) (k v : Nat) : (s.heat k v).unserved = s.unserved := by
  rw [State.heat]
  split <;> rfl

/-- Serving a request changes no column: of the state, only what stacks and virtual devices hold. -/
@[simp] theorem State.unserved_colServe (s : State) (c : Col) (v n : Nat) : (s.colServe c v n).unserved = s.unserved := by
  rw [State.colServe]
  dsimp only
  split
  · simp
  · split <;> simp

@[simp] theorem State.broken_colServe (s : State) (c : Col) (v n : Nat) : (s.colServe c v n).broken = s.broken :=
  (congrArg State.broken (s.unserved_colServe c v n) :)

@[simp] theorem State.colData_colServe (s : State) (c d : Col) (v n : Nat) : (s.colServe c v n).colData d = s.colData d :=
  (congrArg (State.colData · d) (s.unserved_colServe c v n) :)

@[simp] theorem State.colStatus_colServe (s : State) (c d : Col) (v n : Nat) : (s.colServe c v n).colStatus d = s.colStatus d :=
  (congrArg (State.colStatus · d) (s.unserved_colServe c v n) :)

@[simp] theorem State.colData_updStack (s : State) (d : Col) (k : Nat) (f : Stack → Stack) :
    (s.updStack k f).colData d = s.colData d := rfl

theorem Mem.readNat_congr {m m' : Mem} {n a : Nat} (h : ∀ b, a ≤ b → b < a + n → Mem.get m b = Mem.get m' b) :
    Mem.readNat m a n = Mem.readNat m' a n := by
  induction n generalizing a with
  | zero => rfl
  | succ n ih =>
    rw [Mem.readNat, Mem.readNat, h a (Nat.le_refl a) (by omega), ih fun b hlo hhi => h b (by omega) (by omega)]

theorem State.colData_colStore_ne {c d : Col} (h : d.index ≠ c.index) (s : State) (v : BitVec 256) (psn : Bool) :
    (s.colStore c v psn).colData d = s.colData d := by
  cases hb : Sparse.get false s.broken c.index with
  | true => rw [State.colStore_broken hb]
  | false =>
    rw [State.colStore_whole hb]
    refine congrArg (BitVec.ofNat 256) (Mem.readNat_congr fun b hlo hhi => ?_)
    rw [Mem.get_writeNat, if_neg (by omega)]

theorem State.broken_colStore (s : State) (c : Col) (v : BitVec 256) (psn : Bool) : (s.colStore c v psn).broken = s.broken := by
  rw [State.colStore]
  split <;> rfl

theorem State.colStatus_cases (s : State) (c : Col) : s.colStatus c = 0 ∨ s.colStatus c = 1 ∨ s.colStatus c = 2 := by
  rw [State.colStatus]
  split
  · simp
  · split <;> simp

theorem State.not_broken_of_colStatus {s : State} {c : Col} (h : s.colStatus c = 0) : Sparse.get false s.broken c.index = false := by
  rw [← Bool.not_eq_true]
  intro hb
  rw [State.colStatus, if_pos hb] at h
  exact absurd h (by decide)

/-! ## A packet performed (R91, R94 to R96, R484) -/

section
variable {s : State} {k : Nat} {x : Packet}

theorem State.perform_read (h : hdrKind x.hdr = 0) :
    let c := hdrCol k x.hdr
    let s1 := s.colServe c (hdrVdev x.hdr) 1
    s.perform k x none = s1.updStack k fun t => { t with replies := t.replies ++ [{
      hdr := replyHdr x.hdr (s1.colStatus c) (s1.colStatus c != 2 && s1.colPsn c) false
      data := if s1.colStatus c = 2 then 0 else s1.colData c }] } := by
  simp only [State.perform, h]
  rfl

theorem State.perform_read_forwarded (h : hdrKind x.hdr = 0) (w : Packet) :
    s.perform k x (some w) = (s.colServe (hdrCol k x.hdr) (hdrVdev x.hdr) 1).updStack k fun t =>
      { t with replies := t.replies ++ [{ hdr := replyHdr x.hdr 0 (w.hdr.getLsbD 18) true, data := w.data }] } := by
  simp only [State.perform, h]
  rfl

theorem State.perform_write (h : hdrKind x.hdr = 1) :
    s.perform k x none = ((s.colServe (hdrCol k x.hdr) (hdrVdev x.hdr) 1).colStore (hdrCol k x.hdr) x.data
      (x.hdr.getLsbD 18)).updStack k fun t => { t with replies := t.replies ++ [{
        hdr := replyHdr x.hdr (if Sparse.get false s.broken (hdrCol k x.hdr).index then 2 else 0) false false }] } := by
  simp only [State.perform, h, State.broken_colStore, State.broken_colServe]
  rfl

/-- R95: a masked write of a sound column stores the merged bytes, with the column's own poison. -/
theorem State.perform_masked_stores (h : hdrKind x.hdr = 2) (hok : s.colStatus (hdrCol k x.hdr) = 0) (hbe : x.be ≠ 0) :
    let c := hdrCol k x.hdr
    let s1 := s.colServe c (hdrVdev x.hdr) 2
    s.perform k x none = (s1.colStore c (mergeCol (s.colData c) x.data x.be.toNat) (s1.colPsn c)).updStack k
      fun t => t.reply { hdr := replyHdr x.hdr 0 (s1.colPsn c) false, data := s.colData c } := by
  simp only [State.perform, h, State.colStatus_colServe, State.colData_colServe, hok]
  rw [if_neg (by decide), if_neg (by simpa using hbe)]
  rfl

/-- R95, R484: a masked write of a column that fails, or of no byte, only replies. -/
theorem State.perform_masked_replies (h : hdrKind x.hdr = 2) (hno : s.colStatus (hdrCol k x.hdr) ≠ 0 ∨ x.be = 0) :
    ∃ r : Reply, s.perform k x none = (s.colServe (hdrCol k x.hdr) (hdrVdev x.hdr) 2).updStack k fun t => t.reply r := by
  simp only [State.perform, h, State.colStatus_colServe]
  split
  · exact ⟨_, rfl⟩
  next hread =>
    have hstatus := s.colStatus_cases (hdrCol k x.hdr)
    exact ⟨_, if_pos (hno.imp_left fun h0 => by omega)⟩

theorem State.perform_refreshRate (h : hdrKind x.hdr = 3) (hop : hdrOp x.hdr = 0) : s.perform k x none =
    (s.updStack k fun t => { t with sr := Sparse.upd {} t.sr (hdrP x.hdr) fun y => { y with mult := hdrArg x.hdr } }).updStack k
      fun t => t.reply { hdr := replyHdr x.hdr 0 false false } := by
  simp only [State.perform, h, hop]
  rfl

/-- R96, R105: an entry request is answered on reaching SELFREF. -/
theorem State.perform_entryRequest (h : hdrKind x.hdr = 3) (hop : hdrOp x.hdr = 1) : s.perform k x none =
    s.updStack k fun t => { t with sr := Sparse.upd {} t.sr (hdrP x.hdr) fun y => { y with pending := true } } := by
  simp only [State.perform, h, hop]
  rfl

theorem State.perform_exitRequest (h : hdrKind x.hdr = 3) (hop : hdrOp x.hdr = 2) : s.perform k x none =
    s.updStack k fun t => t.reply { hdr := replyHdr x.hdr 0 false false } := by
  simp only [State.perform, h, hop]
  rfl

/-- R96: a neighbour refresh leaves the bank closed. -/
theorem State.perform_neighbourRefresh (h : hdrKind x.hdr = 3) (hop : 3 ≤ hdrOp x.hdr) : s.perform k x none =
    (s.updStack k fun t => { t with openRow := Sparse.erase t.openRow (hdrP x.hdr * 32 + (hdrCol k x.hdr).bank) }).updStack k
      fun t => t.reply { hdr := replyHdr x.hdr 0 false false } := by
  obtain ⟨n, hn⟩ := Nat.exists_eq_add_of_le' hop
  simp only [State.perform, h, hn]
  rfl

end

/-! ## Replies and their columns (R63, R91, R93, R97, R115) -/

section
variable {s : State} {k j : Nat} {r : Reply} {x : Packet}

theorem exec_baseDieReply_none (h : (s.stackOf k).replies[j]? = none) : exec (.baseDieReply k j) s = .next s := by
  rw [exec_baseDieReply, execBaseDieReply, h]

/-- A reply is taken off the way. -/
def State.unreply (s : State) (k j : Nat) : State := s.updStack k fun t => { t with replies := t.replies.eraseIdx j }

/-- R93: a tag is free. -/
def State.freeTag (s : State) (k g : Nat) : State := s.updStack k fun t => { t with tags := Sparse.erase t.tags g }

variable (hr : (s.stackOf k).replies[j]? = some r)
include hr

theorem exec_baseDieReply_refused (h : r.hdr.toNat / 2 ^ 49 % 4 = 3) : exec (.baseDieReply k j) s =
    .next ((s.unreply k j).updDie (hdrDie r.hdr) fun d => { d with linkFaults := d.linkFaults + 1 }) := by
  rw [exec_baseDieReply, execBaseDieReply, hr]
  exact congrArg _ (if_pos h)

variable (h3 : r.hdr.toNat / 2 ^ 49 % 4 ≠ 3)
include h3

theorem exec_baseDieReply_stray (ht : Sparse.get none (s.stackOf k).tags (tagKey r.hdr) = none) :
    exec (.baseDieReply k j) s = .next (s.unreply k j) := by
  rw [exec_baseDieReply, execBaseDieReply, hr]
  simp only [if_neg h3, ht]
  rfl

variable (ht : Sparse.get none (s.stackOf k).tags (tagKey r.hdr) = some x)
include ht

theorem exec_baseDieReply_dead (hx : x.dead = true) : exec (.baseDieReply k j) s = .next (s.unreply k j) := by
  rw [exec_baseDieReply, execBaseDieReply, hr]
  simp only [if_neg h3, ht, if_pos hx]
  rfl

theorem exec_baseDieReply_live (hx : x.dead = false) : exec (.baseDieReply k j) s =
    .next (if hdrKind r.hdr = 0 then
        (((s.unreply k j).freeTag k (tagKey r.hdr)).replyReport (hdrCol k x.hdr) true (r.hdr.toNat / 2 ^ 49 % 4)).columnIn
          (hdrDie r.hdr) (hdrCol k x.hdr) (hdrVdev x.hdr)
      else ((s.unreply k j).freeTag k (tagKey r.hdr)).replyReport (hdrCol k x.hdr) false (r.hdr.toNat / 2 ^ 49 % 4)) := by
  rw [exec_baseDieReply, execBaseDieReply, hr]
  simp only [if_neg h3, ht, hx, Bool.false_eq_true, if_false]
  by_cases hread : hdrKind r.hdr = 0
  · simp only [hread, BEq.rfl, if_true]
    rfl
  · simp only [hread, beq_false_of_ne hread, if_false]
    rfl

end

section
variable {s : State} {c : Col} {line j : Nat}

theorem State.replyReport_ok (s : State) (c : Col) (read : Bool) : s.replyReport c read 0 = s := by
  rw [State.replyReport]
  exact if_pos rfl

theorem State.replyReport_failed (h : s.lineAtCol c = some (line, j)) {status : Nat} (hst : status ≠ 0) (read : Bool) :
    s.replyReport c read status =
      let s1 := s.postCol c status (line / 16384) (s.cadOf (line / 16384)).version
      if read && status == 2 then s1.failedRead c else s1 := by
  rw [State.replyReport, h]
  exact if_neg hst

theorem State.columnIn_stray (h : s.lineAtCol c = none) (d v : Nat) : s.columnIn d c v = s := by
  rw [State.columnIn, h]

/-- R63: the other columns of a line that have come to a die. -/
def State.gathered (s : State) (d line j : Nat) : List ColIn := (s.dieOf d).colsIn.filter fun y => y.line == line && y.pos != j

theorem State.columnIn_gathers (h : s.lineAtCol c = some (line, j)) {d : Nat} (hn : (s.gathered d line j).length < 4) (v : Nat) :
    s.columnIn d c v = s.updDie d fun y => { y with
      colsIn := ((s.dieOf d).colsIn.filter fun y => y.line != line) ++ { line := line, pos := j } :: s.gathered d line j } := by
  rw [State.columnIn, h]
  exact if_pos (Nat.succ_lt_succ hn)

theorem State.columnIn_decodes (h : s.lineAtCol c = some (line, j)) {d : Nat} (hn : 4 ≤ (s.gathered d line j).length) (v : Nat) :
    s.columnIn d c v = ((s.updDie d fun y => { y with
      colsIn := (s.dieOf d).colsIn.filter fun y => y.line != line }).decoded line v (s.decode line)).1 := by
  rw [State.columnIn, h]
  exact if_neg (Nat.not_lt.2 (Nat.succ_le_succ hn))

end

/-! ## The time-out of a tag (R97) -/

section
variable {s : State} {k d p g : Nat} {x : Packet} (hx : Sparse.get none (s.stackOf k).tags (d * 512 + p * 8 + g) = some x)
include hx

theorem exec_tagTimeout_held (h : x.dead = true ∨ s.clock.toNat < x.time + 40000) : exec (.tagTimeout k d p g) s = .next s := by
  rw [exec_tagTimeout, execTagTimeout, hx]
  exact congrArg _ (if_pos (by rwa [Bool.or_eq_true, decide_eq_true_eq]))

theorem exec_tagTimeout_due (hlive : x.dead = false) (h : x.time + 40000 ≤ s.clock.toNat) :
    let e : Elem := { level := 1, stack := k, chan := p / 2, pch := p % 2 }
    let s1 := s.updStack k fun t => { t with
      tags := Sparse.set none t.tags (d * 512 + p * 8 + g) (some { x with dead := true }), waiting := t.waiting.erase x }
    let s2 := (s1.postFault { elem := e.word, kind := 4 }).drop e
    exec (.tagTimeout k d p g) s = .next (if hdrKind x.hdr = 0 then s2.columnIn d (hdrCol k x.hdr) (hdrVdev x.hdr) else s2) := by
  rw [exec_tagTimeout, execTagTimeout, hx]
  refine congrArg _ (if_neg ?_)
  rw [hlive, Bool.false_or, decide_eq_true_eq]
  exact Nat.not_lt.2 h

end

/-! ## The obligation -/

/-- R93, R98, R105: what an accepted packet makes of its stack, and what it leaves. -/
theorem State.accepted_spec (s : State) (k : Nat) (x : Packet) :
    let t := s.stackOf k
    let u := s.updStack k (Stack.accept x s.clock.toNat)
    { u with stks := s.stks } = s ∧ (∀ j, j ≠ k → u.stackOf j = s.stackOf j) ∧
      { u.stackOf k with tags := t.tags, sr := t.sr } = { t with waiting := t.waiting ++ [x] } ∧
      (∀ g, Sparse.get none (u.stackOf k).tags g = if g = tagKey x.hdr then some x else Sparse.get none t.tags g) ∧
      ∀ p, Sparse.get {} (u.stackOf k).sr p =
        if p = hdrP x.hdr then SelfRef.called s.clock.toNat (Sparse.get {} t.sr p) else Sparse.get {} t.sr p := by
  refine ⟨rfl, fun j hj => State.stackOf_updStack_ne s _ hj, ?_⟩
  dsimp only
  rw [State.stackOf_updStack_self]
  refine ⟨rfl, fun g => Sparse.get_set none (s.stackOf k).tags (tagKey x.hdr) g (some x), fun p => (Sparse.get_upd ..).trans ?_⟩
  split
  next h => rw [h]
  next => rfl

/-- Settles O47: each kind of packet arrives as one, is chosen by its number, and is performed, answered or timed out by the
cases of the lemmas above. -/
theorem baseDiePackets : Obligations.BaseDiePackets := by
  unfold Obligations.BaseDiePackets
  refine ⟨fun s k hdr be data i hi => ?arrival, fun t p now all k htime hnext => ?scheduler,
    fun s k x h => ⟨State.perform_read h, State.perform_read_forwarded h⟩, fun s k x h => ?write, fun s k x h => ?masked,
    fun s k x h => ?refreshControl, fun s k j => ⟨exec_baseDieReply_none, fun r hr => ⟨exec_baseDieReply_refused hr,
      exec_baseDieReply_stray hr, fun x h3 ht => ⟨exec_baseDieReply_dead hr h3 ht, fun hx hkind => ?answered, fun hx hkind => ?column⟩⟩⟩,
    fun s c read status line j h => ⟨State.replyReport_ok s c read, fun hst hno => ?recorded, fun h2 => ?failed⟩,
    fun s d v c => ⟨fun h => State.columnIn_stray h d v, fun line j h => ⟨fun hn => State.columnIn_gathers h hn v,
      fun hn => State.columnIn_decodes h hn v⟩⟩,
    fun s k d p g x hx => ⟨exec_tagTimeout_held hx, exec_tagTimeout_due hx⟩⟩
  case arrival =>
    have harrive : exec i.1 s = .next (s.arrive1 k i.2) := by
      simp only [List.mem_cons, List.not_mem_nil, or_false] at hi
      rcases hi with rfl | rfl | rfl | rfl | rfl | rfl | rfl <;> rfl
    rw [harrive]
    refine ⟨fun h => congrArg _ (State.arrive1_untrained h), fun hdone hlink => ⟨fun hdie hheld =>
      congrArg _ (State.arrive1_discarded hdone hlink hdie hheld), fun hfree => ⟨fun hbad =>
      congrArg _ (State.arrive1_refused hdone hlink hfree hbad), fun hok => ?_⟩⟩⟩
    obtain ⟨hstate, hother, hstack, htags, hsr⟩ := s.accepted_spec k i.2
    refine ⟨_, congrArg _ (State.arrive1_accepted hdone hlink hfree hok), hstate, hother, hstack, htags, fun p => ?_⟩
    rw [hsr, ite_not]
    rfl
  case scheduler =>
    rw [Stack.next_eq] at hnext
    obtain ⟨hmem, hleast⟩ := leastBy_spec hnext
    obtain ⟨hmine, hok⟩ := List.mem_filter.1 hmem
    refine ⟨hmine, (Stack.eligible_iff.1 hok).1, fun x hx hthr hmay => ?_⟩
    have hrank := hleast x (List.mem_filter.2 ⟨hx, Stack.eligible_iff.2 ⟨hthr, hmay⟩⟩)
    exact Stack.le_of_rank_le (htime k (List.mem_filter.1 hmine).1) (htime x (List.mem_filter.1 hx).1) hrank
  case write =>
    dsimp only
    rw [State.perform_write h]
    refine ⟨by simp, fun hok => ?_, fun c hc => ?_⟩
    · have hs : Sparse.get false (s.colServe (hdrCol k x.hdr) (hdrVdev x.hdr) 1).broken (hdrCol k x.hdr).index = false := by simpa using hok
      obtain ⟨hdata, hpsn, hstatus⟩ := State.colStore_reads hs x.data (x.hdr.getLsbD 18)
      exact ⟨hdata, hstatus, hpsn⟩
    · rw [State.colData_updStack]
      obtain hbad | hne := hc
      · rw [State.colStore_broken (by simpa using hbad), State.colData_colServe]
      · rw [State.colData_colStore_ne hne, State.colData_colServe]
  case masked =>
    refine ⟨fun hok hbe => ?_, fun hno => ?_⟩
    · have hs := State.not_broken_of_colStatus hok
      rw [State.perform_masked_stores h hok hbe, State.colData_updStack, (State.colStore_reads (by simpa using hs) ..).1]
    · obtain ⟨r, hr⟩ := State.perform_masked_replies h hno
      rw [hr, State.colData_updStack, State.colData_colServe]
  case refreshControl =>
    refine ⟨fun hop => ?_, fun hop => ?_, fun hop => ?_, fun hop => ?_, fun hop => ?_⟩
    · rw [State.perform_refreshRate h hop]
      simp [Stack.reply]
    · rw [State.perform_entryRequest h hop]
      simp
    · rw [State.perform_exitRequest h hop]
      simp [Stack.reply]
    · rw [State.perform_neighbourRefresh h hop]
      simp [Stack.reply, Sparse.get_erase_self]
    · obtain hop | hop | hop : hdrOp x.hdr = 0 ∨ hdrOp x.hdr = 2 ∨ 3 ≤ hdrOp x.hdr := by omega
      · rw [State.perform_refreshRate h hop]
        simp [Stack.reply]
      · rw [State.perform_exitRequest h hop]
        simp [Stack.reply]
      · rw [State.perform_neighbourRefresh h hop]
        simp [Stack.reply]
  case answered =>
    rw [exec_baseDieReply_live hr h3 ht hx, if_neg hkind]
    rfl
  case column =>
    rw [exec_baseDieReply_live hr h3 ht hx, if_pos hkind]
    rfl
  case recorded =>
    rw [State.replyReport_failed h hst]
    exact if_neg (by simpa using fun hr => hno.resolve_left (by simp [hr]))
  case failed =>
    subst h2
    rw [State.replyReport_failed h (by decide)]
    rfl

end Sys2Proof.Machine
end

section
/-! SUPPORT. The upkeep of a base die: tokens, refresh, windows and self-refresh, the row log and the commands of the mailbox, each
by its cases (R98, R99, R102, R105, R106, R111 to R118). -/

namespace Sys2Proof.Machine

/-! ## Tables -/

/-- A choice goes by the truth of its condition. -/
theorem ite_of_iff {α : Type} {b c : Prop} [Decidable b] [Decidable c] (h : b ↔ c) {x y : α} :
    (if b then x else y) = if c then x else y := by
  by_cases hb : b
  · rw [if_pos hb, if_pos (h.1 hb)]
  · rw [if_neg hb, if_neg fun hc => hb (h.2 hc)]

/-- The entries of a range that has been taken out read as the default, every other as before. -/
theorem Sparse.get_without {α : Type} (d : α) (m : Sparse α) (lo n k : Nat) :
    Sparse.get d (Sparse.without m lo n) k = if lo ≤ k ∧ k < lo + n then d else Sparse.get d m k := by
  induction m with
  | nil => simp [Sparse.without]
  | cons x m ih =>
    rw [Sparse.without, List.filter_cons, ← Sparse.without]
    by_cases hx : x.1 = k
    · subst hx
      split
      next hout =>
        have hk : x.1 < lo ∨ lo + n ≤ x.1 := by simpa using hout
        rw [Sparse.get, if_pos rfl, if_neg (by omega), Sparse.get, if_pos rfl]
      next hin =>
        have hk : lo ≤ x.1 ∧ x.1 < lo + n := by simpa using hin
        rw [ih, if_pos hk, if_pos hk]
    · have hskip : ∀ m', Sparse.get d (x :: m') k = Sparse.get d m' k := fun m' => if_neg hx
      rw [apply_ite (Sparse.get d · k), hskip, hskip, ite_self, ih]

/-- One change of the entries at several keys, read at a key. -/
theorem Sparse.get_foldl_upd {α : Type} [DecidableEq α] (d : α) (f : α → α) {ks : List Nat} (hks : ks.Nodup) (m : Sparse α) (j : Nat) :
    Sparse.get d (ks.foldl (fun m k => Sparse.upd d m k f) m) j = if j ∈ ks then f (Sparse.get d m j) else Sparse.get d m j := by
  induction ks generalizing m with
  | nil => simp
  | cons k ks ih =>
    obtain ⟨hk, hks⟩ := List.nodup_cons.1 hks
    rw [List.foldl_cons, ih hks, Sparse.get_upd]
    by_cases hj : j = k
    · subst hj
      simp [hk]
    · simp [hj]

/-! ## Tokens (R99) -/

section
variable {s : State}

/-- R99: what a bucket with a QBCFG holds after the refill. -/
def State.filled (s : State) (cfg : Word) (n : Nat) : Nat :=
  min (n + qbRate cfg * (s.clock.toNat / 20 - s.refillAt)) (qbDepth cfg * 6400)

theorem State.refill_early (h : s.clock.toNat / 20 ≤ s.refillAt) : s.refill = s := if_pos h

variable (hdue : s.refillAt < s.clock.toNat / 20)
include hdue

theorem State.refill_unmetered (hrate : ∀ x ∈ s.vdevs, qbRate x.2.qbcfg = 0) :
    s.refill = { s with refillAt := s.clock.toNat / 20 } := by
  have hnone : (s.vdevs.filter fun x => qbRate x.2.qbcfg != 0 && (decide (x.1 < 96) || x.1 == 127)) = [] :=
    List.filter_eq_nil_iff.2 fun x hx => by simp [hrate x hx]
  rw [State.refill]
  simp only [if_neg (Nat.not_le.2 hdue), hnone]
  rfl

/-- R99, R100: where one virtual device has a rate, its bucket is filled in each of the twelve stacks. -/
theorem State.refill_single {v : Nat} {q : Vdev} (hv : s.vdevs = [(v, q)]) (hrate : qbRate q.qbcfg ≠ 0) (hid : v < 96 ∨ v = 127) :
    s.refill.refillAt = s.clock.toNat / 20 ∧
    ∀ k, s.refill.stackOf k = if k < 12 then
      { s.stackOf k with buckets := Sparse.upd 0 (s.stackOf k).buckets v (s.filled q.qbcfg) } else s.stackOf k := by
  have hone : ([(v, q)].filter fun x : Nat × Vdev => qbRate x.2.qbcfg != 0 && (decide (x.1 < 96) || x.1 == 127)) = [(v, q)] :=
    List.filter_eq_self.2 fun x hx => by
      obtain rfl := List.mem_singleton.1 hx
      simpa [hrate] using hid
  rw [State.refill]
  simp only [if_neg (Nat.not_le.2 hdue), hv, hone, List.isEmpty_cons, Bool.false_eq_true, if_false, List.foldl_cons, List.foldl_nil]
  refine ⟨trivial, fun k => ?_⟩
  rw [State.stackOf, Sparse.get_foldl_upd _ _ List.nodup_range]
  exact ite_of_iff List.mem_range

end

/-! ## Refresh, windows and self-refresh (R98, R102, R105, R106) -/

/-- A request of the pseudo-channel waits. -/
theorem Stack.any_waiting_iff (t : Stack) (p : Nat) :
    (t.waiting.any fun x => hdrP x.hdr == p) = true ↔ ∃ x ∈ t.waiting, hdrP x.hdr = p := by
  simp

theorem Stack.get_sr_rest (t : Stack) (p now : Nat) :
    let y : SelfRef := Sparse.get {} t.sr p
    Sparse.get {} (t.rest p now).sr p =
      if ∃ x ∈ t.waiting, hdrP x.hdr = p then { y with state := .active }
      else if y.pending = true then { y with state := .entering, timer := now, pending := false }
      else { y with state := .idle, timer := now } :=
  (Sparse.get_set_self ..).trans (ite_of_iff (t.any_waiting_iff p))

section
variable {s : State} {k p : Nat} {y : SelfRef} (hy : Sparse.get {} (s.stackOf k).sr p = y)
include hy

theorem exec_refreshDue_early (h : s.clock.toNat < y.refresh + 64000000 / 2 ^ y.mult) : exec (.refreshDue k p) s = .next s := by
  subst hy
  exact congrArg _ (if_pos h)

theorem exec_refreshDue_due (h : y.refresh + 64000000 / 2 ^ y.mult ≤ s.clock.toNat) :
    exec (.refreshDue k p) s = .next (s.updStack k fun t => { t with
      openRow := t.openRow.filter fun x => x.1 / 32 != p
      sr := Sparse.set {} t.sr p { y with refresh := s.clock.toNat } }) := by
  subst hy
  exact congrArg _ (if_neg (Nat.not_lt.2 h))

theorem exec_selfRefreshTimerExpiry_eq : exec (.selfRefreshTimerExpiry k p) s =
    .next (if y.state = .idle ∧ (s.stackOf k).srcfg.getLsbD 0 = true ∧ y.timer + (s.stackOf k).srcfg.toNat / 65536 * 32 ≤ s.clock.toNat
      then s.updStack k fun t => { t with sr := Sparse.set {} t.sr p { y with state := .entering, timer := s.clock.toNat } } else s) := by
  subst hy
  exact congrArg _ (ite_of_iff (by simp [and_assoc]))

theorem exec_selfRefreshEntryComplete_eq : exec (.selfRefreshEntryComplete k p) s =
    .next (if y.state = .entering ∧ y.timer + 40 ≤ s.clock.toNat then s.updStack k fun t => { t.entered p with
      sr := Sparse.set {} (t.entered p).sr p { y with
        state := if (s.stackOf k).waiting.any fun x => hdrP x.hdr == p then .exiting else .selfref, timer := s.clock.toNat } } else s) := by
  subst hy
  exact congrArg _ (ite_of_iff (by rw [Bool.and_eq_true, decide_eq_true_eq, decide_eq_true_eq]; rfl))

theorem exec_selfRefreshExitComplete_eq : exec (.selfRefreshExitComplete k p) s =
    .next (if y.state = .exiting ∧ y.timer + 500 ≤ s.clock.toNat then s.updStack k fun t =>
      { t with sr := Sparse.set {} t.sr p { y with state := .active } }.rest p s.clock.toNat else s) := by
  subst hy
  exact congrArg _ (ite_of_iff (by rw [Bool.and_eq_true, decide_eq_true_eq, decide_eq_true_eq]; rfl))

end

theorem exec_hotRowWindowEnd_within {s : State} {k : Nat} (h : s.clock.toNat / 64000000 ≤ (s.stackOf k).hotWin) :
    exec (.hotRowWindowEnd k) s = .next s := congrArg _ (if_pos h)

theorem exec_hotRowWindowEnd_over {s : State} {k : Nat} (h : (s.stackOf k).hotWin < s.clock.toNat / 64000000) :
    exec (.hotRowWindowEnd k) s = .next (s.updStack k fun t => { t with hot := [], hotWin := s.clock.toNat / 64000000 }) :=
  congrArg _ (if_neg (Nat.not_le.2 h))

/-! ## The mailbox (R116, R117) -/

/-- A command is taken up. -/
def State.commanded (s : State) (k n : Nat) : State := s.updStack k fun t => { t with mbxCmd := n }

@[simp] theorem State.stackOf_commanded_self (s : State) (k n : Nat) : (s.commanded k n).stackOf k = { s.stackOf k with mbxCmd := n } :=
  State.stackOf_updStack_self ..

theorem State.stackOf_commanded_ne (s : State) {k j : Nat} (n : Nat) (h : j ≠ k) : (s.commanded k n).stackOf j = s.stackOf j :=
  State.stackOf_updStack_ne s _ h

@[simp] theorem State.dropped_commanded (s : State) (k n : Nat) (c : Col) : (s.commanded k n).dropped c = s.dropped c := rfl

theorem State.logged_commanded (s : State) (k n : Nat) (c : Col) : (s.commanded k n).logged c = s.logged c := by
  rw [State.logged, State.logged]
  by_cases hk : c.stack = k
  · rw [hk, State.stackOf_commanded_self]
  · rw [State.stackOf_commanded_ne s n hk]

/-- R117: a command written while another is in progress is ignored. -/
theorem State.mbxDo_busy {s : State} {k n : Nat} (hbusy : (s.stackOf k).mbxBusy = true) (hcmd : (s.stackOf k).mbxCmd ≠ n)
    (f : State → State) : s.mbxDo k n f = s.updStack k fun t => { t with mbxDropped := true } :=
  if_pos (by simp [hbusy, hcmd])

theorem State.mbxDo_taken {s : State} {k n : Nat} (h : (s.stackOf k).mbxBusy = false ∨ (s.stackOf k).mbxCmd = n)
    (f : State → State) : s.mbxDo k n f = f (s.commanded k n) :=
  if_neg (by obtain h | h := h <;> simp [h])

@[simp] theorem State.stackOf_mbxEnd_self (s : State) (k err : Nat) :
    (s.mbxEnd k err).stackOf k = { s.stackOf k with mbxBusy := false, mbxErr := err } := State.stackOf_updStack_self ..

theorem State.stackOf_mbxEnd_ne (s : State) {k j : Nat} (err : Nat) (h : j ≠ k) : (s.mbxEnd k err).stackOf j = s.stackOf j :=
  State.stackOf_updStack_ne s _ h

/-- The state without its stacks. -/
def State.unstacked (s : State) : State := { s with stks := [] }

@[simp] theorem State.unstacked_updStack (s : State) (k : Nat) (f : Stack → Stack) : (s.updStack k f).unstacked = s.unstacked := rfl
@[simp] theorem State.unstacked_mbxEnd (s : State) (k err : Nat) : (s.mbxEnd k err).unstacked = s.unstacked := rfl
@[simp] theorem State.unstacked_commanded (s : State) (k n : Nat) : (s.commanded k n).unstacked = s.unstacked := rfl

theorem State.frame_of_unstacked {s t : State} (h : t.unstacked = s.unstacked) : { t with stks := s.stks } = s :=
  (congrArg (fun u : State => { u with stks := s.stks }) h :)

/-! ## Training (R113, R118) -/

theorem Mem.readNat_nil (a n : Nat) : Mem.readNat [] a n = 0 := by
  induction n generalizing a with
  | zero => rfl
  | succ n ih => rw [Mem.readNat, ih]; rfl

/-- Columns per stack. -/
def unitsPerStack : Nat := 64 * 32 * 16384 * 64

/-- The columns of a stack are numbered in one range. -/
theorem Col.index_range {c : Col} (hp : c.p < 64) (hb : c.bank < 32) (hr : c.row < 16384) (hu : c.unit < 64) :
    c.stack * unitsPerStack ≤ c.index ∧ c.index < c.stack * unitsPerStack + unitsPerStack := by
  rw [Col.index, unitsPerStack]
  omega

/-- R118: every column of a stack is zero, not poisoned and with a check that agrees. -/
def State.wiped (s : State) (k : Nat) : State := { s with
  raw := Sparse.without s.raw (k * unitsPerStack * 32) (unitsPerStack * 32)
  psn := Sparse.without s.psn (k * unitsPerStack) unitsPerStack
  chk := Sparse.without s.chk (k * unitsPerStack) unitsPerStack }

section
variable {s : State} {k : Nat} {c : Col}

theorem State.wiped_inside (hlo : k * unitsPerStack ≤ c.index) (hhi : c.index < k * unitsPerStack + unitsPerStack) :
    (s.wiped k).colData c = 0 ∧ (s.wiped k).colPsn c = false ∧ Sparse.get 0 (s.wiped k).chk c.index = 0 := by
  have hzero : Mem.readNat (s.wiped k).raw (c.index * 32) 32 = 0 :=
    (Mem.readNat_congr fun b hb1 hb2 => (Sparse.get_without ..).trans (if_pos (by omega))).trans (Mem.readNat_nil (c.index * 32) 32)
  exact ⟨by rw [State.colData, hzero]; rfl, (Sparse.get_without ..).trans (if_pos ⟨hlo, hhi⟩),
    (Sparse.get_without ..).trans (if_pos ⟨hlo, hhi⟩)⟩

theorem State.wiped_outside (h : c.index < k * unitsPerStack ∨ k * unitsPerStack + unitsPerStack ≤ c.index) :
    (s.wiped k).colData c = s.colData c :=
  congrArg (BitVec.ofNat 256) (Mem.readNat_congr fun b hb1 hb2 => (Sparse.get_without ..).trans (if_neg (by omega)))

end

theorem State.foldl_postFault {ι : Type} (f : ι → FaultRec) (xs : List ι) (s : State) :
    xs.foldl (fun s i => s.postFault (f i)) s =
      { s with faults := s.faults ++ xs.map fun i => { f i with time := s.clock.toNat } } := by
  induction xs generalizing s with
  | nil => simp
  | cons x xs ih =>
    rw [List.foldl_cons, ih]
    simp [State.postFault]

/-- R118: the channels that training has marked as failing. -/
def failedChans (fail : Word) : List Nat := (List.range 32).filter fun c => fail.getLsbD c

/-- R113, R118: what training makes of the state, the drops that follow from it among the turns to come. -/
theorem State.train_eq (s : State) (k : Nat) (fail : Word) (bad : Bool) : s.train k fail bad =
    { (((s.wiped k).updStack k fun t => { t with
        trDone := true, trLinkErr := bad, linkDown := bad, trFail := fail, openRow := [] }).mbxEnd k 0) with
      faults := s.faults ++ (failedChans fail).map fun c =>
        { elem := Elem.word { level := 2, stack := k, chan := c }, kind := 5, time := s.clock.toNat }
      plan := if s.bootDone then s.plan ++ ((failedChans fail).map (fun c =>
          Turn.own (.rsdrop (Elem.word { level := 2, stack := k, chan := c })))
        ++ if bad then [.own (.rsdrop (Elem.word { level := 3, stack := k }))] else []) else s.plan } := by
  rw [State.train]
  simp only [State.foldl_postFault, List.map_append, List.map_map]
  by_cases hb : s.bootDone = true
  · simp only [if_pos hb]
    cases bad <;> rfl
  · simp only [if_neg hb]
    rfl

/-- R118: what training makes of its stack, and that it leaves every other. -/
theorem State.stackOf_train (s : State) (k : Nat) (fail : Word) (bad : Bool) :
    (s.train k fail bad).stackOf k = { s.stackOf k with
      trDone := true, trLinkErr := bad, linkDown := bad, trFail := fail, openRow := [], mbxBusy := false, mbxErr := 0 } ∧
    ∀ j, j ≠ k → (s.train k fail bad).stackOf j = s.stackOf j := by
  have hstks : ∀ j, (s.train k fail bad).stackOf j = (((s.wiped k).updStack k fun t => { t with
      trDone := true, trLinkErr := bad, linkDown := bad, trFail := fail, openRow := [] }).mbxEnd k 0).stackOf j := fun j => by
    rw [State.train_eq]
    rfl
  refine ⟨?_, fun j hj => ?_⟩
  · rw [hstks, State.stackOf_mbxEnd_self, State.stackOf_updStack_self]
    rfl
  · rw [hstks, State.stackOf_mbxEnd_ne _ _ hj, State.stackOf_updStack_ne _ _ hj]
    rfl

/-- R118: the columns of the trained stack, and those of every other. -/
theorem State.colData_train (s : State) (k : Nat) (fail : Word) (bad : Bool) {c : Col} (hp : c.p < 64) (hb : c.bank < 32)
    (hr : c.row < 16384) (hu : c.unit < 64) :
    (c.stack = k → (s.train k fail bad).colData c = 0 ∧ (s.train k fail bad).colPsn c = false ∧
      Sparse.get 0 (s.train k fail bad).chk c.index = 0) ∧
    (c.stack ≠ k → (s.train k fail bad).colData c = s.colData c) := by
  obtain ⟨hlo, hhi⟩ := Col.index_range hp hb hr hu
  rw [State.train_eq]
  refine ⟨fun hk => ?_, fun hk => State.wiped_outside (s := s) ?_⟩
  · rw [hk] at hlo hhi
    exact State.wiped_inside hlo hhi
  · rw [unitsPerStack] at hlo hhi ⊢
    omega

/-! ## Row repair (R112) -/

section
variable {s : State} {k p bank row : Nat}

theorem State.rowRepair_noPlace (h : mbxPlace (s.stackOf k).mbxArg0 = none) : s.rowRepair k = s.mbxEnd k 2 := by
  rw [State.rowRepair]
  simp only [h]

variable (h : mbxPlace (s.stackOf k).mbxArg0 = some (p, bank, row))
include h

theorem State.rowRepair_dropped (hd : s.dropped { stack := k, p := p, bank := bank, row := row, unit := 0 } = true) :
    s.rowRepair k = s.mbxEnd k 4 := by
  rw [State.rowRepair]
  simp only [h, if_pos hd]

variable (hd : s.dropped { stack := k, p := p, bank := bank, row := row, unit := 0 } = false)
include hd

theorem State.rowRepair_full (hn : 4 ≤ Sparse.get 0 (s.stackOf k).repairs (p * 32 + bank)) : s.rowRepair k = s.mbxEnd k 3 := by
  rw [State.rowRepair]
  simp only [h, if_neg (Bool.eq_false_iff.1 hd), if_pos hn]

/-- R112, R484: the checks after the repair of the row whose first column has the number `i`. -/
def State.repairedChk (s : State) (i : Nat) : Sparse (BitVec 16) :=
  ((List.range 64).filter fun u => Sparse.get false s.broken (i + u)).foldl (fun m u => Sparse.set 0 m (i + u) 1) s.chk

theorem State.rowRepair_done (hn : Sparse.get 0 (s.stackOf k).repairs (p * 32 + bank) < 4) :
    let c : Col := { stack := k, p := p, bank := bank, row := row, unit := 0 }
    s.rowRepair k = ((({ s with broken := Sparse.without s.broken c.index 64, chk := s.repairedChk c.index } : State).updStack k
      fun t => { t with
        repairs := Sparse.upd 0 (s.stackOf k).repairs (p * 32 + bank) (· + 1)
        rowLog := t.rowLog.filter fun r => !(r.p == p && r.bank == bank && r.row == row) }).postFault
        { elem := (rowElem k p bank).word, kind := 6, rowid := row, count := s.logged c }).mbxEnd k 0 := by
  rw [State.rowRepair]
  simp only [h, if_neg (Bool.eq_false_iff.1 hd), if_neg (Nat.not_le.2 hn)]
  rfl

end

/-- R484: a unit of the row that returned no data fails its check, every other keeps its check. -/
theorem State.get_repairedChk (s : State) (i : Nat) {u : Nat} (hu : u < 64) :
    Sparse.get 0 (s.repairedChk i) (i + u) = if Sparse.get false s.broken (i + u) = true then 1 else Sparse.get 0 s.chk (i + u) := by
  split
  next hb =>
    exact Sparse.get_foldl_set 0 (i + ·) (fun _ => 1) _ (fun _ _ _ _ _ => rfl) u
      (List.mem_filter.2 ⟨List.mem_range.2 hu, hb⟩) s.chk
  next hb =>
    refine Sparse.get_foldl_set_ne 0 (i + ·) (fun _ => 1) _ (i + u) (fun w hw e => hb ?_) s.chk
    rw [← e]
    exact (List.mem_filter.1 hw).2

/-- The state without what a repair may change: stacks, checks, failed arrays, records. -/
def State.unrepaired (s : State) : State := { s.unstacked with broken := [], chk := [], faults := [] }

@[simp] theorem State.unrepaired_updStack (s : State) (k : Nat) (f : Stack → Stack) : (s.updStack k f).unrepaired = s.unrepaired := rfl
@[simp] theorem State.unrepaired_mbxEnd (s : State) (k err : Nat) : (s.mbxEnd k err).unrepaired = s.unrepaired := rfl
@[simp] theorem State.unrepaired_commanded (s : State) (k n : Nat) : (s.commanded k n).unrepaired = s.unrepaired := rfl
@[simp] theorem State.unrepaired_postFault (s : State) (r : FaultRec) : (s.postFault r).unrepaired = s.unrepaired := rfl
@[simp] theorem State.unrepaired_setColumns (s : State) (b : Sparse Bool) (c : Sparse (BitVec 16)) :
    ({ s with broken := b, chk := c } : State).unrepaired = s.unrepaired := rfl

theorem State.frame_of_unrepaired {s t : State} (h : t.unrepaired = s.unrepaired) :
    { t with broken := s.broken, chk := s.chk, stks := s.stks, faults := s.faults } = s :=
  (congrArg (fun u : State => { u with broken := s.broken, chk := s.chk, stks := s.stks, faults := s.faults }) h :)

@[simp] theorem State.stackOf_postFault (s : State) (k : Nat) (r : FaultRec) : (s.postFault r).stackOf k = s.stackOf k := rfl

/-- R112, R115, R484: what a repair makes of the row's columns, of its stack and of the records, and that it leaves the rest. -/
theorem State.rowRepair_spec {s : State} {k p bank row : Nat} (h : mbxPlace (s.stackOf k).mbxArg0 = some (p, bank, row))
    (hd : s.dropped { stack := k, p := p, bank := bank, row := row, unit := 0 } = false)
    (hn : Sparse.get 0 (s.stackOf k).repairs (p * 32 + bank) < 4) :
    let c : Col := { stack := k, p := p, bank := bank, row := row, unit := 0 }
    let t := s.rowRepair k
    t.unrepaired = s.unrepaired ∧
    (∀ u, u < 64 → Sparse.get false t.broken (c.index + u) = false) ∧
    (∀ u, u < 64 → Sparse.get 0 t.chk (c.index + u) =
      if Sparse.get false s.broken (c.index + u) = true then 1 else Sparse.get 0 s.chk (c.index + u)) ∧
    t.stackOf k = { s.stackOf k with
      repairs := Sparse.upd 0 (s.stackOf k).repairs (p * 32 + bank) (· + 1), mbxBusy := false, mbxErr := 0
      rowLog := (s.stackOf k).rowLog.filter fun r => !(r.p == p && r.bank == bank && r.row == row) } ∧
    (∀ j, j ≠ k → t.stackOf j = s.stackOf j) ∧
    t.faults = s.faults ++ [{ elem := (rowElem k p bank).word, kind := 6, rowid := row, count := s.logged c, time := s.clock.toNat }] := by
  dsimp only
  rw [State.rowRepair_done h hd hn]
  refine ⟨by simp, fun u hu => (Sparse.get_without ..).trans (if_pos ⟨Nat.le_add_right .., Nat.add_lt_add_left hu _⟩),
    fun u hu => s.get_repairedChk _ hu, ?_, fun j hj => ?_, rfl⟩
  · rw [State.stackOf_mbxEnd_self, State.stackOf_postFault, State.stackOf_updStack_self]
    rfl
  · rw [State.stackOf_mbxEnd_ne _ _ hj, State.stackOf_postFault, State.stackOf_updStack_ne _ _ hj]
    rfl

/-! ## The multiple of refresh (R116) -/

/-- R116: the pseudo-channels that command 0x03 names. -/
def setRefreshPs (p : Nat) : List Nat := if p = 255 then List.range 64 else [p]

theorem nodup_setRefreshPs (p : Nat) : (setRefreshPs p).Nodup := by
  rw [setRefreshPs]
  split
  · exact List.nodup_range
  · exact List.pairwise_singleton _ p

theorem mem_setRefreshPs {p q : Nat} (hp : p ≤ 63 ∨ p = 255) : q ∈ setRefreshPs p ↔ (q = p ∧ p ≤ 63) ∨ (p = 255 ∧ q < 64) := by
  rw [setRefreshPs]
  split
  · rw [List.mem_range]
    omega
  · rw [List.mem_singleton]
    omega

/-- R116: the multiple of refresh of the pseudo-channels named is set. -/
def Stack.setMult (p m : Nat) (t : Stack) : Stack := { t with
  sr := (setRefreshPs p).foldl (fun r p => Sparse.upd {} r p fun (y : SelfRef) => { y with mult := m }) t.sr }

theorem Stack.get_sr_setMult {p : Nat} (hp : p ≤ 63 ∨ p = 255) (m : Nat) (t : Stack) (q : Nat) :
    let y : SelfRef := Sparse.get {} t.sr q
    Sparse.get {} (t.setMult p m).sr q = if (q = p ∧ p ≤ 63) ∨ (p = 255 ∧ q < 64) then { y with mult := m } else y :=
  (Sparse.get_foldl_upd {} _ (nodup_setRefreshPs p) t.sr q).trans (ite_of_iff (mem_setRefreshPs hp))

/-! ## What each command answers (R116) -/

section
variable {s : State} {k : Nat}

theorem exec_mbxTrain_taken (h : (s.stackOf k).mbxBusy = false ∨ (s.stackOf k).mbxCmd = 1) (fail : Word) (bad : Bool) :
    exec (.mbxTrain k fail bad) s = .next ((s.commanded k 1).train k fail bad) := by
  rw [exec_mbxTrain, execMbxTrain, State.mbxDo_taken h]

theorem exec_mbxRowRepair_taken (h : (s.stackOf k).mbxBusy = false ∨ (s.stackOf k).mbxCmd = 2) :
    exec (.mbxRowRepair k) s = .next ((s.commanded k 2).rowRepair k) := by
  rw [exec_mbxRowRepair, execMbxRowRepair, State.mbxDo_taken h]

theorem exec_mbxSetRefresh_taken (h : (s.stackOf k).mbxBusy = false ∨ (s.stackOf k).mbxCmd = 3) : exec (.mbxSetRefresh k) s =
    .next (if 2 < (s.stackOf k).mbxArg1.toNat ∨ (63 < (s.stackOf k).mbxArg0.toNat ∧ (s.stackOf k).mbxArg0.toNat ≠ 255) then
        (s.commanded k 3).mbxEnd k 2
      else ((s.commanded k 3).updStack k (Stack.setMult (s.stackOf k).mbxArg0.toNat (s.stackOf k).mbxArg1.toNat)).mbxEnd k 0) := by
  rw [exec_mbxSetRefresh, execMbxSetRefresh, State.mbxDo_taken h]
  rfl

theorem exec_mbxReadRowLog_none (h : (s.stackOf k).mbxBusy = false ∨ (s.stackOf k).mbxCmd = 4)
    (hlen : (s.stackOf k).rowLog.length ≤ (s.stackOf k).mbxArg0.toNat) :
    exec (.mbxReadRowLog k) s = .next ((s.commanded k 4).mbxEnd k 2) := by
  rw [exec_mbxReadRowLog, execMbxReadRowLog, State.mbxDo_taken h, State.stackOf_commanded_self]
  simp only [List.getElem?_eq_none hlen]

theorem exec_mbxReadRowLog_some (h : (s.stackOf k).mbxBusy = false ∨ (s.stackOf k).mbxCmd = 4) {r : RowLog}
    (hr : (s.stackOf k).rowLog[(s.stackOf k).mbxArg0.toNat]? = some r) :
    exec (.mbxReadRowLog k) s = .next (((s.commanded k 4).updStack k fun t => { t with
      mbxArg0 := BitVec.ofNat 32 (r.p * 2 ^ 25 + r.bank * 2 ^ 20 + r.row * 64), mbxArg1 := BitVec.ofNat 32 r.count }).mbxEnd k 0) := by
  rw [exec_mbxReadRowLog, execMbxReadRowLog, State.mbxDo_taken h, State.stackOf_commanded_self]
  simp only [hr]

theorem exec_mbxRepairRowsLeft_noPlace (h : (s.stackOf k).mbxBusy = false ∨ (s.stackOf k).mbxCmd = 5)
    (hplace : mbxPlace (s.stackOf k).mbxArg0 = none) :
    exec (.mbxRepairRowsLeft k) s = .next ((s.commanded k 5).mbxEnd k 2) := by
  rw [exec_mbxRepairRowsLeft, execMbxRepairRowsLeft, State.mbxDo_taken h, State.stackOf_commanded_self]
  simp only [hplace]

theorem exec_mbxRepairRowsLeft_place (h : (s.stackOf k).mbxBusy = false ∨ (s.stackOf k).mbxCmd = 5) {p bank row : Nat}
    (hplace : mbxPlace (s.stackOf k).mbxArg0 = some (p, bank, row)) :
    exec (.mbxRepairRowsLeft k) s = .next (((s.commanded k 5).updStack k fun t => { t with
      mbxArg0 := BitVec.ofNat 32 (4 - Sparse.get 0 t.repairs (p * 32 + bank)) }).mbxEnd k 0) := by
  rw [exec_mbxRepairRowsLeft, execMbxRepairRowsLeft, State.mbxDo_taken h, State.stackOf_commanded_self]
  simp only [hplace]

end

/-! ## The obligation -/

/-- Settles O48: the refill folds over the stacks, training takes a stack's range out of the columns' tables, and every other
step goes by the cases of its lemmas above. -/
theorem baseDieUpkeep : Obligations.BaseDieUpkeep := by
  unfold Obligations.BaseDieUpkeep
  refine ⟨fun s => ⟨fun h => ?early, fun h hrate => ?unmetered, fun v q h hv hrate hid => ?tokens⟩,
    fun s k p => ⟨exec_refreshDue_early rfl, exec_refreshDue_due rfl, exec_hotRowWindowEnd_within, exec_hotRowWindowEnd_over,
      fun hidle hen ht => ?expires, fun hno => ?notExpired, fun hno => ?notEntered, fun hst ht => ?entered, fun hno => ?notLeft,
      fun hst ht => ?left⟩,
    fun s k => ?expiry, fun s k n fail bad hbusy hcmd i hi hn => ?busy, fun s k fail bad h => ?train,
    fun s k h => ⟨fun hnone => ?noPlace, fun p bank row hplace => ⟨fun hd => ?dropped, fun hd hn => ?full, fun hd hn => ?repaired⟩⟩,
    fun s k h => ⟨fun hbad => ?badMultiple, fun hm hp => ?multiple⟩,
    fun s k h => ⟨exec_mbxReadRowLog_none h, fun r => exec_mbxReadRowLog_some h⟩,
    fun s k h => ⟨exec_mbxRepairRowsLeft_noPlace h, fun p bank row => exec_mbxRepairRowsLeft_place h⟩,
    fun s k => rfl⟩
  case early => rw [exec_tokenRefill, execTokenRefill, State.refill_early h]
  case unmetered => rw [exec_tokenRefill, execTokenRefill, State.refill_unmetered h hrate]
  case tokens =>
    obtain ⟨hat, hstack⟩ := State.refill_single h hv hrate hid
    exact ⟨s.refill, by rw [exec_tokenRefill, execTokenRefill], s.refill_frame, hat, hstack⟩
  case expires =>
    rw [exec_selfRefreshTimerExpiry_eq rfl, if_pos ⟨hidle, hen, ht⟩]
  case notExpired =>
    rw [exec_selfRefreshTimerExpiry_eq rfl, if_neg]
    rintro ⟨hidle, hen, ht⟩
    obtain h | h | h := hno
    · exact h hidle
    · exact Bool.false_ne_true (h.symm.trans hen)
    · exact Nat.not_le.2 h ht
  case notEntered =>
    rw [exec_selfRefreshEntryComplete_eq rfl, if_neg]
    rintro ⟨hst, ht⟩
    exact hno.elim (· hst) (Nat.not_lt.2 ht)
  case entered =>
    rw [exec_selfRefreshEntryComplete_eq rfl, if_pos ⟨hst, ht⟩]
    refine ⟨_, rfl, ?_, ?_, rfl, fun j hj => State.stackOf_updStack_ne s _ hj⟩
    · rw [State.stackOf_updStack_self, Sparse.get_set_self]
      simp only [Stack.any_waiting_iff]
    · rw [State.stackOf_updStack_self]
      rfl
  case notLeft =>
    rw [exec_selfRefreshExitComplete_eq rfl, if_neg]
    rintro ⟨hst, ht⟩
    exact hno.elim (· hst) (Nat.not_lt.2 ht)
  case left =>
    rw [exec_selfRefreshExitComplete_eq rfl, if_pos ⟨hst, ht⟩]
    refine ⟨_, rfl, rfl, fun j hj => State.stackOf_updStack_ne s _ hj, ?_, ?_⟩
    · rw [State.stackOf_updStack_self]
      rfl
    · rw [State.stackOf_updStack_self, Stack.get_sr_rest, Sparse.get_set_self]
  case expiry =>
    rw [exec_rowLogExpiry, execRowLogExpiry]
    simp only [Nat.mul_assoc]
    rfl
  case busy =>
    subst hn
    simp only [List.mem_cons, List.not_mem_nil, or_false] at hi
    have hdrop := State.mbxDo_busy hbusy hcmd
    rcases hi with rfl | rfl | rfl | rfl | rfl <;> exact congrArg Host.Outcome.next (hdrop _)
  case train =>
    obtain ⟨hself, hother⟩ := (s.commanded k 1).stackOf_train k fail bad
    have hcol := fun (c : Col) => State.colData_train (c := c) (s.commanded k 1) k fail bad
    rw [exec_mbxTrain_taken h]
    refine ⟨_, rfl, fun p bank row unit hp hb hr hu => (hcol { stack := k, p, bank, row, unit } hp hb hr hu).1 rfl,
      fun j p bank row unit hj hp hb hr hu => (hcol { stack := j, p, bank, row, unit } hp hb hr hu).2 hj,
      ?_, fun j hj => ?_, ?_, ?_⟩
    · rw [hself, State.stackOf_commanded_self]
    · rw [hother j hj, State.stackOf_commanded_ne s 1 hj]
    · rw [State.train_eq]
      rfl
    · rw [State.train_eq]
      rfl
  case noPlace =>
    rw [exec_mbxRowRepair_taken h, State.rowRepair_noPlace (by simpa using hnone)]
    rfl
  case dropped =>
    rw [exec_mbxRowRepair_taken h, State.rowRepair_dropped (by simpa using hplace) (by simpa using hd)]
    rfl
  case full =>
    rw [exec_mbxRowRepair_taken h, State.rowRepair_full (by simpa using hplace) (by simpa using hd) (by simpa using hn)]
    rfl
  case repaired =>
    obtain ⟨hframe, hbroken, hchk, hself, hother, hfaults⟩ :=
      State.rowRepair_spec (s := s.commanded k 2) (k := k) (by simpa using hplace) (by simpa using hd) (by simpa using hn)
    rw [exec_mbxRowRepair_taken h]
    refine ⟨_, rfl, State.frame_of_unrepaired (by simpa using hframe), fun j hj => ?_,
      fun u hu => ⟨hbroken u hu, hchk u hu⟩, ?_, ?_⟩
    · rw [hother j hj, State.stackOf_commanded_ne s 2 hj]
    · rw [hself, State.stackOf_commanded_self]
    · rw [hfaults, State.logged_commanded]
      rfl
  case badMultiple =>
    rw [exec_mbxSetRefresh_taken h, if_pos hbad]
    rfl
  case multiple =>
    rw [exec_mbxSetRefresh_taken h, if_neg (by omega)]
    refine ⟨_, rfl, State.frame_of_unstacked (by simp), fun j hj => ?_, ?_, fun q => ?_⟩
    · rw [State.stackOf_mbxEnd_ne _ _ hj, State.stackOf_updStack_ne _ _ hj, State.stackOf_commanded_ne s 3 hj]
    · rw [State.stackOf_mbxEnd_self, State.stackOf_updStack_self, State.stackOf_commanded_self]
      rfl
    · rw [State.stackOf_mbxEnd_self, State.stackOf_updStack_self, State.stackOf_commanded_self]
      exact Stack.get_sr_setMult hp _ _ q

end Sys2Proof.Machine
end

section
/-! SUPPORT. The release action of a core with nothing to write back, a node's count of contributions, and `trig` (R123, R184,
R295). -/

namespace Sys2Proof

/-! ## Keys that a table does not list -/

section
variable {α : Type} {m : Sparse α} {k : Nat}

theorem Sparse.get_of_forall_ne (d : α) (h : ∀ x ∈ m, x.1 ≠ k) : Sparse.get d m k = d := by
  induction m with
  | nil => rfl
  | cons x m ih =>
    rw [List.forall_mem_cons] at h
    rw [Sparse.get, if_neg h.1, ih h.2]

theorem Sparse.erase_of_forall_ne (h : ∀ x ∈ m, x.1 ≠ k) : Sparse.erase m k = m := by
  induction m with
  | nil => rfl
  | cons x m ih =>
    rw [List.forall_mem_cons] at h
    rw [Sparse.erase, if_neg h.1, ih h.2]

end

end Sys2Proof

namespace Sys2Proof.Machine

/-! ## The plain end of an instruction -/

theorem State.OnlyGroup.site {s t : State} {h : Group} (ht : s.OnlyGroup t h) : t.site = s.site := by
  have h := congrArg State.site ht.rest
  exact h

/-- Where the runs are as they were, so is the run that issues. -/
theorem State.OnlyGroup.run {s t : State} {h : Group} (ht : s.OnlyGroup t h) (hr : t.runs = s.runs) : t.run = s.run := by
  rw [State.run, hr, ht.site, State.run]

/-- What changes nothing but the running group ends plainly with the run's count. -/
theorem State.OnlyGroup.goes_tally {s t : State} {h : Group} (ht : s.OnlyGroup t h) (hr : t.runs = s.runs) (e : Bool)
    (hon : s.run.on = true) : s.Goes (t.tally e) e h := by
  have hrun := ht.run hr
  obtain ⟨hrest, hruns⟩ := State.tally_only t e
  refine ⟨⟨?_, fun u hu => ?_, ?_, fun g hg => ?_, ?_, fun k hk => ?_⟩, ?_⟩
  · exact (congrArg (fun x : State => { x with teams := s.teams, runs := s.runs }) hrest).trans ht.rest
  · simpa [State.teamOf] using ht.teams u hu
  · simpa [State.teamOf] using ht.team
  · simpa [State.groupOf, State.teamOf] using ht.groups g hg
  · simpa [State.groupOf, State.teamOf] using ht.group
  · rw [hruns k (ht.site.symm ▸ hk), hr]
  · rw [State.Counted, State.tally_run t e (hrun.symm ▸ hon), hrun]

/-- Its issuing paths go on at the next word. -/
theorem State.OnlyGroup.goes_retire {s t : State} {h : Group} (ht : s.OnlyGroup t h) (hr : t.runs = s.runs) (e : Bool)
    (hon : s.run.on = true) : s.Goes (t.retire e) e (h.stepPast s.run.slices) := by
  rw [State.retire, ht.run hr]
  exact (ht.upd (ht.run hr) _).goes_tally hr e hon

/-! ## Release (R123) -/

section
variable {s : State} {c : Nat} (h : s.Clean c)
include h

theorem State.releaseCore_of_clean : s.releaseCore c = s := by
  have hnone : ((s.coreOf c).l1.filter fun x => x.2.dirty != 0) = [] :=
    List.filter_eq_nil_iff.2 fun x hx => by simp [h x hx]
  rw [State.releaseCore, hnone]
  rfl

theorem State.releaseStuck_of_clean : s.releaseStuck c = false := by
  rw [State.releaseStuck, List.any_eq_false]
  intro x hx
  simp [h x hx]

end

/-! ## Contributions (R184, R391) -/

section
variable {s : State} {id k : Nat}

theorem State.updLaunch_of_unknown (h : ∀ x ∈ s.launches, x.1 ≠ id) (f : Launch → Launch) : s.updLaunch id f = s := by
  rw [State.updLaunch, Sparse.upd, Sparse.get_of_forall_ne none h]
  exact congrArg (fun x => { s with launches := x }) (Sparse.erase_of_forall_ne h)

@[simp] theorem State.launchOf_updLaunch (s : State) (id : Nat) (f : Launch → Launch) :
    (s.updLaunch id f).launchOf id = (s.launchOf id).map f := Sparse.get_upd_self ..

/-- A contribution to a launch that is over tells nobody. -/
theorem State.nodeContrib_of_unknown (h : ∀ x ∈ s.launches, x.1 ≠ id) : s.nodeContrib id k = s := by
  rw [State.nodeContrib, State.startNodes, State.updLaunch_of_unknown h, State.updLaunch_of_unknown h, State.launchOf,
    Sparse.get_of_forall_ne none h]
  rfl

theorem Launch.getD_nodes {l : Launch} {k : Nat} (hk : k < l.nodes.length) : l.nodes.getD k {} = l.nodes[k] := by
  rw [List.getD_eq_getElem?_getD, List.getElem?_eq_getElem hk, Option.getD_some]

theorem mapIdx_same {α : Type} (xs : List α) : xs.mapIdx (fun _ x => x) = xs :=
  List.ext_getElem List.length_mapIdx fun _ _ _ => List.getElem_mapIdx

/-- A launch of which no node is ready to start stays as it is. -/
theorem Launch.start_of_settled {l : Launch} (h : ∀ x ∈ l.nodes, x.started = true ∨ x.c ≠ 0) : l.start = l := by
  have hnew : ((List.range l.nodes.length).filter fun k =>
      !l.abandoned && !(l.nodes.getD k {}).started && (l.nodes.getD k {}).c == 0) = [] := by
    rw [List.filter_eq_nil_iff]
    intro k hk
    rw [List.mem_range] at hk
    rw [Launch.getD_nodes hk]
    rcases h _ (List.getElem_mem hk) with hx | hx <;> simp [hx]
  rw [Launch.start, hnew]
  simp only [List.contains_nil, Bool.false_eq_true, if_false, List.append_nil, mapIdx_same]

/-- Starting the nodes of a launch whose nodes have started or wait for others, their arguments read, changes nothing of it. -/
theorem State.startNodes_of_settled {l : Launch} (hl : s.launchOf id = some l)
    (h : ∀ x ∈ l.nodes, (x.started = true ∨ x.c ≠ 0) ∧ x.reading = false) :
    ∃ m, s.startNodes id = { s with launches := m } ∧ Sparse.get none m id = some l := by
  have hl' : (s.updLaunch id Launch.start).launchOf id = some l := by
    rw [State.launchOf_updLaunch, hl, Option.map_some, Launch.start_of_settled fun x hx => (h x hx).1]
  have hread : ((List.range l.nodes.length).filter fun k => (l.nodes.getD k {}).reading) = [] := by
    rw [List.filter_eq_nil_iff]
    intro k hk
    rw [List.mem_range] at hk
    rw [Launch.getD_nodes hk, (h _ (List.getElem_mem hk)).2]
    exact Bool.false_ne_true
  have hstart : s.startNodes id = s.updLaunch id Launch.start := by
    rw [State.startNodes, hl']
    exact congrArg (List.foldl _ _) hread
  exact ⟨_, hstart, hl'⟩

/-- One more group of the node has contributed. -/
def Launch.counted (l : Launch) (k : Nat) : Launch := l.updNode k fun n => { n with contrib := n.contrib + 1 }

/-- A contribution that is not its node's last is counted, and nothing else happens. -/
theorem State.nodeContrib_of_more {l : Launch} (hl : s.launchOf id = some l) (hk : k < l.nodes.length)
    (hmore : (l.nodes.getD k {}).contrib + 1 ≠ (l.nodes.getD k {}).teams * (l.nodes.getD k {}).groups)
    (h : ∀ x ∈ l.nodes, (x.started = true ∨ x.c ≠ 0) ∧ x.reading = false) :
    ∃ m, s.nodeContrib id k = { s with launches := m } ∧ Sparse.get none m id = some (l.counted k) := by
  have hn : (l.counted k).nodes.getD k {} = { l.nodes.getD k {} with contrib := (l.nodes.getD k {}).contrib + 1 } := by
    simp [Launch.counted, Launch.updNode, hk]
  have hset : ∀ x ∈ (l.counted k).nodes, (x.started = true ∨ x.c ≠ 0) ∧ x.reading = false := by
    intro x hx
    obtain ⟨j, hj, rfl⟩ := List.mem_mapIdx.1 hx
    split
    · exact h l.nodes[j] (List.getElem_mem hj)
    · exact h _ (List.getElem_mem hj)
  rw [State.nodeContrib]
  refine State.startNodes_of_settled ?_ hset
  rw [State.launchOf_updLaunch, hl, Option.map_some]
  refine congrArg some (if_neg fun hlast => ?_)
  rw [← Launch.counted, hn, Bool.and_eq_true, decide_eq_true_eq] at hlast
  exact hmore hlast.1

end

/-! ## `trig` (R295) -/

/-- R184: the group has executed `trig` in the slices, and with the last one it has contributed. -/
def Group.trig (g : Group) (sl : BitVec 8) : Group := { g with trigged := g.trigged ||| sl }
def Group.gave (g : Group) : Group := { g with contributed := true }

theorem Group.trig_frame (g : Group) (sl : BitVec 8) :
    { (g.trig sl).stepPast sl with trigged := g.trigged, paths := g.paths } = g := by
  cases g; rfl

theorem Group.gave_frame (g : Group) (sl : BitVec 8) :
    { (g.trig sl).gave.stepPast sl with trigged := g.trigged, contributed := g.contributed, paths := g.paths } = g := by
  cases g; rfl

/-- While a slice of the group has neither triggered nor exited, or once the group has contributed, it contributes nothing. -/
theorem State.contribute_none {s : State} (h : s.curGroup.live &&& ~~~s.curGroup.trigged ≠ 0 ∨ s.curGroup.contributed = true) :
    s.contribute s.run.uid s.run.grp = s := by
  refine if_neg fun hc => ?_
  rw [Bool.and_eq_true, Group.allTrigged, beq_iff_eq, Bool.not_eq_true'] at hc
  rcases h with h | h
  · exact h hc.1
  · exact Bool.false_ne_true (hc.2.symm.trans h)

/-- With the last slice the group contributes to its team's node. -/
theorem State.contribute_last {s : State} (hall : s.curGroup.live &&& ~~~s.curGroup.trigged = 0)
    (hnot : s.curGroup.contributed = false) :
    s.contribute s.run.uid s.run.grp = (s.updCur Group.gave).nodeContrib s.curTeam.launch s.curTeam.node := by
  refine if_pos ?_
  rw [Bool.and_eq_true, Group.allTrigged, beq_iff_eq, Bool.not_eq_true']
  exact ⟨hall, hnot⟩

theorem State.curTeam_updCur (s : State) (f : Group → Group) :
    { (s.updCur f).curTeam with groups := s.curTeam.groups } = s.curTeam := (State.OnlyGroup.refl_upd s f).team

section
variable {s : State} {e : Bool}

theorem exec_trig_tx (htx : s.curGroup.inTx = true) : exec (.trig e) s = .next (s.txFail s.run.uid s.run.grp 7 0) := by
  rw [exec_trig, execTrig, State.unsup, if_pos htx]

/-- R184: the slices that issue are marked. -/
def State.trig (s : State) : State := s.updCur fun g => g.trig s.run.slices

theorem State.curGroup_trig (s : State) : s.trig.curGroup = s.curGroup.trig s.run.slices := State.curGroup_updCur ..

variable (htx : s.curGroup.inTx = false) (h : s.Clean s.curCore)
include htx h

/-- From a core with nothing to write back, `trig` marks its slices at once. -/
theorem exec_trig_clean : exec (.trig e) s = .next ((s.trig.contribute s.run.uid s.run.grp).retire e) := by
  have hstuck : s.stuckAt 3 = false := by rw [State.stuckAt, State.releaseStuck_of_clean h, Bool.and_false]
  have hrel : s.releaseAt 3 = s := by rw [State.releaseAt, State.releaseCore_of_clean h]; rfl
  rw [exec_trig, execTrig, State.unsup, if_neg (by simp [htx]), if_neg (by simp [hstuck]), hrel]
  rfl

theorem exec_trig_none (hnone : s.curGroup.live &&& ~~~(s.curGroup.trigged ||| s.run.slices) ≠ 0 ∨ s.curGroup.contributed = true) :
    exec (.trig e) s = .next (s.trig.retire e) := by
  have hc : s.trig.contribute s.run.uid s.run.grp = s.trig := State.contribute_none (by rw [State.curGroup_trig]; exact hnone)
  rw [exec_trig_clean htx h, hc]

theorem exec_trig_last (hall : s.curGroup.live &&& ~~~(s.curGroup.trigged ||| s.run.slices) = 0)
    (hnot : s.curGroup.contributed = false) :
    exec (.trig e) s = .next (((s.trig.updCur Group.gave).nodeContrib s.curTeam.launch s.curTeam.node).retire e) := by
  have hteam := State.curTeam_updCur s fun g => g.trig s.run.slices
  have hlaunch : s.trig.curTeam.launch = s.curTeam.launch := by
    have h := congrArg Team.launch hteam
    exact h
  have hnode : s.trig.curTeam.node = s.curTeam.node := by
    have h := congrArg Team.node hteam
    exact h
  have hc : s.trig.contribute s.run.uid s.run.grp = (s.trig.updCur Group.gave).nodeContrib s.curTeam.launch s.curTeam.node := by
    rw [← hlaunch, ← hnode]
    exact State.contribute_last (by rw [State.curGroup_trig]; exact hall) (by rw [State.curGroup_trig]; exact hnot)
  rw [exec_trig_clean htx h, hc]

end

/-- The group marked, and its contribution made, are changes of the running group alone. -/
theorem State.onlyGroup_gave (s : State) : s.OnlyGroup (s.trig.updCur Group.gave) (s.curGroup.trig s.run.slices).gave :=
  (State.OnlyGroup.refl_upd s _).upd rfl _

/-- What ends plainly beside new launches: they stand, and the rest of the machine with them. -/
theorem State.Goes.launches {s t : State} {m : Sparse (Option Launch)} {e : Bool} {g : Group}
    (h : ({ s with launches := m } : State).Goes t e g) :
    (∀ id, t.launchOf id = Sparse.get none m id) ∧ { t with teams := s.teams, runs := s.runs, launches := s.launches } = s := by
  refine ⟨fun id => ?_, ?_⟩
  · have hlaunch := congrArg (fun x : State => x.launchOf id) h.only.rest
    exact hlaunch
  · have hrest := congrArg (fun x : State => { x with launches := s.launches }) h.only.rest
    exact hrest

/-- Settles O33: the group marked alone, marked and given, and the same beside the launch's new count, each by the equation of
`trig` for its case. -/
theorem triggers : Obligations.Triggers := by
  unfold Obligations.Triggers
  intro s e
  refine ⟨exec_trig_tx, fun hon htx hclean => ⟨fun hnone => ?none, fun hall hnot hunknown => ?unknown,
    fun l hall hnot hl hk hmore hset => ?counted⟩⟩
  case none =>
    exact ⟨_, _, exec_trig_none htx hclean hnone, State.goes_retire s _ e hon, Group.moved_stepPast _ rfl, rfl,
      Group.trig_frame _ _⟩
  case unknown =>
    have hexec := exec_trig_last (e := e) htx hclean hall hnot
    rw [State.nodeContrib_of_unknown (s := s.trig.updCur Group.gave) hunknown] at hexec
    exact ⟨_, _, hexec, s.onlyGroup_gave.goes_retire rfl e hon, Group.moved_stepPast _ rfl, rfl, rfl,
      Group.gave_frame _ _⟩
  case counted =>
    obtain ⟨m, hcontrib, hget⟩ := State.nodeContrib_of_more (s := s.trig.updCur Group.gave) hl hk hmore hset
    have hswap : ({ s.trig.updCur Group.gave with launches := m } : State) =
      ({ s with launches := m } : State).trig.updCur Group.gave := rfl
    have hexec := exec_trig_last (e := e) htx hclean hall hnot
    rw [hcontrib, hswap] at hexec
    have hgoes := (State.onlyGroup_gave { s with launches := m }).goes_retire rfl e hon
    obtain ⟨hlaunch, hrest⟩ := hgoes.launches
    exact ⟨_, l.counted s.curTeam.node, hexec, (hlaunch _).trans hget, rfl, congrArg Group.contributed hgoes.only.group, hrest⟩

end Sys2Proof.Machine
end

section
/-! SUPPORT. The machine on which O26 and O27 say otherwise: a lane's access to local memory goes through the L1 of its team's
core, the statements name that of the core whose quarter issues, and no hypothesis of theirs makes the two one (R120, R122). -/

namespace Sys2Proof.Machine

/-- The plain end of an instruction leaves every core. -/
theorem State.Goes.coreOf {s t : State} {e : Bool} {h : Group} (ht : s.Goes t e h) (c : Nat) : t.coreOf c = s.coreOf c := by
  have h := congrArg (fun x : State => x.coreOf c) ht.only.rest
  exact h

/-- A quarter of core 0 issues for a team that stands on core 1. The L1 of both cores holds line 0, nothing of it dirty; core 1
translates address 0 to it. -/
def strayed : State where
  runs := [(0, { on := true, slices := 1 })]
  teams := [(0, { place := .resident, core := 1
                  groups := [(0, { live := 1, lanes := 1, paths := [{ slices := 1, pc := 0 }] })] })]
  cores := [(0, { l1 := [(0, { on := true, valid := BitVec.allOnes 128 })] }),
    (1, { l1 := [(0, { on := true, valid := BitVec.allOnes 128 })]
          tlb := [{ part := 0, asid := 0, va := 0, log2 := 16, dpa := 0, r1 := true, w1 := true, x1 := true, r2 := true, w2 := true
                    x2 := true, d := true }] })]

/-- What of line 0 is dirty in the L1 of core 0, whose quarter issues. -/
def State.siteDirt (s : State) : BitVec 128 := ((s.coreOf 0).l1Line 0 0).dirty

/-- An outcome leaves line 0 clean in the L1 of core 0. -/
def siteClean : Out1 → Bool
  | .next t => t.siteDirt == 0
  | _ => false

theorem free_strayed (k : OpClass) : strayed.Free k where
  calm := ⟨by decide, by decide, by decide⟩
  place := by decide
  fresh _ h := nomatch h
  alone := ⟨by decide, by decide⟩
  tx := by decide
  queue := by decide
  count := by cases k <;> decide

/-- Lane 0, alone under m0, names address 0 by the registers that an instruction of all zeros names. -/
theorem finds_strayed {acc : Acc} (hacc : acc ∈ [.write, .atomic]) {addr : Nat → DWord} (haddr : (addr 0).toNat = 0) :
    strayed.Finds acc 4 (strayed.curGroup.act strayed.run.slices 0) addr 0 0 where
  lane := by decide
  only := by decide +kernel
  aligned := by rw [haddr]; decide
  found := by
    rw [haddr]
    simp only [List.mem_cons, List.not_mem_nil, or_false] at hacc
    rcases hacc with rfl | rfl <;> exact ⟨0, _, by decide +kernel, rfl, by decide, by decide⟩
  here := by decide

/-- Where an instruction's run leaves core 0 clean, so does every state of which a statement says that it ends there plainly. -/
theorem siteDirt_of_goes {i : Instr} (hclean : siteClean (exec i strayed) = true) {s t : State} {e : Bool} {h : Group}
    (hexec : exec i strayed = .next t) (hgoes : s.Goes t e h) : s.siteDirt = 0 := by
  rw [hexec] at hclean
  rw [State.siteDirt, ← hgoes.coreOf 0]
  exact eq_of_beq hclean

/-- Refutes O26: a store of lane 0 puts its bytes into the L1 of the team's core, and O26 into that of the issuing quarter's; they
differ on a machine where a quarter of core 0 issues for a team of core 1. -/
theorem not_laneStores : ¬ Obligations.LaneStores := fun h => by
  have hmem := (h strayed false 0 0 0 0 4 0 (free_strayed _) _ List.mem_cons_self (by decide) (.inl rfl)).2.2 0 0
    (finds_strayed (by decide) (by decide))
  obtain ⟨t, g, hexec, hgoes, -⟩ := (hmem.1 (.inl rfl)).1 0 (by decide)
  exact absurd (siteDirt_of_goes (by decide +kernel) hexec hgoes) (by decide +kernel)

/-- Refutes O27: an atomic of group scope is performed in the L1 of the team's core, and by O27 in that of the issuing quarter's; they
differ on the same machine. -/
theorem not_laneAtomics : ¬ Obligations.LaneAtomics := fun h => by
  have hmem := (h.2 strayed false 0 0 0 0 0).1 0 0 (finds_strayed (by decide) (by decide))
  obtain ⟨t, g, hexec, hgoes, -⟩ := (hmem.1 0 (by decide) (by decide) (by decide +kernel)).1 (free_strayed _) (by decide)
  exact absurd (siteDirt_of_goes (by decide +kernel) hexec hgoes) (by decide +kernel)

end Sys2Proof.Machine
end
